-- ==== Sys2Proof/Word.lean ====
section
/-! DEFINITION. The word types of the machine (R3, R27, R29, R32 of spec/00_scope.md and spec/02_encoding.md). -/

namespace Sys2Proof

/-- One byte of memory or scratchpad. -/
abbrev Byte := BitVec 8
/-- A 32-bit register element. -/
abbrev Word := BitVec 32
/-- A 64-bit value or virtual address. -/
abbrev DWord := BitVec 64
/-- A 128-bit value: the widest operand (b128, R32). -/
abbrev QWord := BitVec 128
/-- One bit per lane of a wave (R6: lanes 0 to 63). -/
abbrev Lanes := BitVec 64

/-- Sparse storage: pairs of key and value, keys rising, no value equal to what an unlisted key reads as. -/
abbrev Cells (n : Nat) := List (Nat × BitVec n)

/-- All 64 lanes set. -/
def allLanes : Lanes := BitVec.allOnes 64

end Sys2Proof
end

