-- ==== Sys2Proof/Machine/Fp.lean ====
section
/-! DEFINITION. IEEE formats, exact values and the one rounding of R53 to R58 (spec/03_numbers.md). -/

namespace Sys2Proof.Machine

/-- The IEEE formats of R53. -/
inductive Fmt where
  | f64 | f32 | f16 | bf16
deriving DecidableEq, Repr

/-- Width in bits (R53). -/
def Fmt.width : Fmt → Nat
  | .f64 => 64 | .f32 => 32 | .f16 => 16 | .bf16 => 16

/-- Fraction bits (R53). -/
def Fmt.frac : Fmt → Nat
  | .f64 => 52 | .f32 => 23 | .f16 => 10 | .bf16 => 7

/-- Exponent bits (R53). -/
def Fmt.expo : Fmt → Nat
  | .f64 => 11 | .f32 => 8 | .f16 => 5 | .bf16 => 8

/-- Exponent bias (R53). -/
def Fmt.bias (f : Fmt) : Nat := 2 ^ (f.expo - 1) - 1

/-- The pattern of +infinity, which is also the first magnitude pattern past the largest finite one. -/
def Fmt.infBits (f : Fmt) : Nat := (2 ^ f.expo - 1) * 2 ^ f.frac

/-- The sign bit alone. -/
def Fmt.signBit (f : Fmt) : Nat := 2 ^ (f.width - 1)

/-- The canonical NaN (R53, R54). -/
def Fmt.nanBits (f : Fmt) : Nat := f.infBits + 2 ^ (f.frac - 1)

/-- The exponent of one unit in the last place of a subnormal. -/
def Fmt.qmin (f : Fmt) : Int := 1 - (f.bias : Int) - (f.frac : Int)

/-- The rounding modes of R55. -/
inductive RMode where
  | rne | rtz | ru | rd
deriving DecidableEq, Repr

/-- MOD[1:0] as a rounding mode (R34). -/
def RMode.ofMod (m : BitVec 4) : RMode :=
  match m.toNat % 4 with
  | 0 => .rne | 1 => .rtz | 2 => .ru | _ => .rd

/-- What a value of a format is: NaN, a signed infinity, or plus or minus m times 2 to the e (m = 0: a signed zero). -/
inductive FVal where
  | nan
  | inf (neg : Bool)
  | fin (neg : Bool) (m : Nat) (e : Int)
deriving DecidableEq, Repr

/-- The status flags of R58, as one operation sets them. -/
structure FFlags where
  inv : Bool := false
  dz  : Bool := false
  ofl : Bool := false
  ufl : Bool := false
  inx : Bool := false
deriving DecidableEq, Repr

/-- Flags accumulate by OR (R58). -/
def FFlags.or (a b : FFlags) : FFlags :=
  ⟨a.inv || b.inv, a.dz || b.dz, a.ofl || b.ofl, a.ufl || b.ufl, a.inx || b.inx⟩

/-- NSTAT[4:0] of a set of flags (R169). -/
def FFlags.bits (f : FFlags) : BitVec 32 :=
  (if f.inv then 1#32 else 0) ||| (if f.dz then 2#32 else 0) ||| (if f.ofl then 4#32 else 0) |||
  (if f.ufl then 8#32 else 0) ||| (if f.inx then 16#32 else 0)

/-- No flag. -/
def FFlags.none : FFlags := {}

/-- How an operation rounds: its mode, saturation (R56) and flushing (R57). -/
structure RCtl where
  mode : RMode := .rne
  sat  : Bool := false
  fz   : Bool := false
deriving DecidableEq, Repr

/-- The value of a bit pattern (R53). With `fz` a subnormal reads as a zero of its sign (R57). -/
def Fmt.decode (f : Fmt) (fz : Bool) (bits : Nat) : FVal :=
  let neg := bits / f.signBit % 2 == 1
  let mag := bits % f.signBit
  let ex := mag / 2 ^ f.frac
  let fr := mag % 2 ^ f.frac
  if mag > f.infBits then .nan
  else if mag = f.infBits then .inf neg
  else if ex = 0 then (if fz then .fin neg 0 f.qmin else .fin neg fr f.qmin)
  else .fin neg (fr + 2 ^ f.frac) (f.qmin + (ex : Int) - 1)

/-- Put the sign on a magnitude pattern. -/
def Fmt.withSign (f : Fmt) (neg : Bool) (mag : Nat) : Nat := (if neg then f.signBit else 0) + mag

/-- Number of bits of a natural number: 0 for 0. -/
def bitLen (n : Nat) : Nat := if n = 0 then 0 else Nat.log2 n + 1

/-- Whether rounding takes the magnitude up from `lo`, given where the discarded part stands: its twice compared
with one unit, and whether it is non-zero (R55). -/
def roundsUp (mode : RMode) (neg : Bool) (lo : Nat) (cmp : Ordering) (nonzero : Bool) : Bool :=
  match mode with
  | .rne => match cmp with | .gt => true | .eq => lo % 2 == 1 | .lt => false
  | .rtz => false
  | .ru => nonzero && !neg
  | .rd => nonzero && neg

/-- Drop `sh` low bits of a magnitude of which a non-zero part below its last bit may already be dropped (`st`):
the kept part and whether anything was lost, rounded in the mode. -/
def roundShift (mode : RMode) (neg : Bool) (m : Nat) (sh : Int) (st : Bool) : Nat × Bool :=
  if sh ≤ 0 then
    let lo := m * 2 ^ (-sh).toNat
    (if roundsUp mode neg lo .lt st then lo + 1 else lo, st)
  else if sh.toNat > bitLen m + 1 then
    let nz := m != 0 || st
    (if roundsUp mode neg 0 .lt nz then 1 else 0, nz)
  else
    let u := 2 ^ sh.toNat
    let lo := m / u
    let rem := m % u
    let nz := rem != 0 || st
    let cmp := if 2 * rem > u then Ordering.gt else if 2 * rem < u then .lt else if st then .gt else .eq
    (if roundsUp mode neg lo cmp nz then lo + 1 else lo, nz)

/-- What an overflow gives (R56). -/
def overflowBits (f : Fmt) (c : RCtl) (neg : Bool) : Nat :=
  let toInf := match c.mode with
    | .rne => true | .rtz => false | .ru => !neg | .rd => neg
  f.withSign neg (if toInf && !c.sat then f.infBits else f.infBits - 1)

/-- RND of R55 to R57: plus or minus m times 2 to the e, m not 0, where `st` says the exact magnitude lies strictly
between m and m + 1 units. With `st` the caller gives more bits than the format holds. -/
def rnd (f : Fmt) (c : RCtl) (neg : Bool) (m : Nat) (e : Int) (st : Bool := false) : Nat × FFlags :=
  let top : Int := e + (bitLen m : Int) - 1
  let q : Int := max (top - (f.frac : Int)) f.qmin
  let (r, lost) := roundShift c.mode neg m (q - e) st
  let mag := (q - f.qmin).toNat * 2 ^ f.frac + r
  if mag ≥ f.infBits then (overflowBits f c neg, { ofl := true, inx := true })
  else
    let tiny := top < f.qmin + (f.frac : Int)
    if c.fz && mag < 2 ^ f.frac then (f.withSign neg 0, { ufl := true, inx := true })
    else (f.withSign neg mag, { ufl := tiny && lost, inx := lost })

/-- An exact result before rounding: NaN (with whether it is invalid), an exact infinity (with whether it divides by
zero), a signed zero, or a non-zero magnitude as `rnd` takes it. -/
inductive Exact where
  | nan (inv : Bool)
  | inf (neg dz : Bool)
  | zero (neg : Bool)
  | mag (neg : Bool) (m : Nat) (e : Int) (st : Bool)
deriving DecidableEq, Repr

/-- The result pattern and flags of an exact result (R54 to R58, R179). -/
def Exact.round (f : Fmt) (c : RCtl) : Exact → Nat × FFlags
  | .nan inv => (f.nanBits, { inv := inv })
  | .inf neg dz => (f.withSign neg f.infBits, { dz := dz })
  | .zero neg => (f.withSign neg 0, {})
  | .mag neg m e st => if m = 0 ∧ st = false then (f.withSign neg 0, {}) else rnd f c neg m e st

/-- The exact result that is a value itself. -/
def FVal.exact : FVal → Exact
  | .nan => .nan false
  | .inf n => .inf n false
  | .fin n m e => if m = 0 then .zero n else .mag n m e false

/-- A single-precision value with a subnormal flushed to zero (R57). -/
def FVal.flush32 : FVal → FVal
  | .fin n m e => if (bitLen m : Int) + e < -125 then .fin n 0 0 else .fin n m e
  | x => x

/-- Negation of a value. -/
def FVal.neg : FVal → FVal
  | .nan => .nan
  | .inf n => .inf (!n)
  | .fin n m e => .fin (!n) m e

/-- A signed magnitude as an integer. -/
def sgn (neg : Bool) (m : Nat) : Int := if neg then -(m : Int) else m

/-- The exact sum of two finite values; the sign of an exact zero follows R55. -/
def exactAddFin (mode : RMode) (na : Bool) (ma : Nat) (ea : Int) (nb : Bool) (mb : Nat) (eb : Int) : Exact :=
  if ma = 0 ∧ mb = 0 then
    .zero (if na == nb then na else mode == .rd)
  else if ma = 0 then .mag nb mb eb false
  else if mb = 0 then .mag na ma ea false
  else
    let e := min ea eb
    let s := sgn na (ma * 2 ^ (ea - e).toNat) + sgn nb (mb * 2 ^ (eb - e).toNat)
    if s = 0 then .zero (mode == .rd) else .mag (s < 0) s.natAbs e false

/-- a + b (R55, R179). -/
def exactAdd (mode : RMode) (a b : FVal) : Exact :=
  match a, b with
  | .nan, _ => .nan false
  | _, .nan => .nan false
  | .inf na, .inf nb => if na == nb then .inf na false else .nan true
  | .inf na, .fin .. => .inf na false
  | .fin .., .inf nb => .inf nb false
  | .fin na ma ea, .fin nb mb eb => exactAddFin mode na ma ea nb mb eb

/-- a times b (R55, R179). -/
def exactMul (a b : FVal) : Exact :=
  match a, b with
  | .nan, _ => .nan false
  | _, .nan => .nan false
  | .inf na, .inf nb => .inf (na != nb) false
  | .inf na, .fin nb mb _ => if mb = 0 then .nan true else .inf (na != nb) false
  | .fin na ma _, .inf nb => if ma = 0 then .nan true else .inf (na != nb) false
  | .fin na ma ea, .fin nb mb eb =>
    if ma = 0 ∨ mb = 0 then .zero (na != nb) else .mag (na != nb) (ma * mb) (ea + eb) false

/-- a times b plus c, exactly (R179): zero times infinity is invalid even when c is a NaN. -/
def exactFma (mode : RMode) (a b c : FVal) : Exact :=
  match a, b with
  | .inf _, .fin _ 0 _ => .nan true
  | .fin _ 0 _, .inf _ => .nan true
  | .fin na ma ea, .fin nb mb eb =>
    match c with
    | .nan => .nan false
    | .inf nc => .inf nc false
    | .fin nc mc ec => exactAddFin mode (na != nb) (ma * mb) (ea + eb) nc mc ec
  | a, b =>
    match exactMul a b with
    | .inf n _ => exactAdd mode (.inf n) c
    | x => x

/-- a / b (R54, R179). -/
def exactDiv (a b : FVal) : Exact :=
  match a, b with
  | .nan, _ => .nan false
  | _, .nan => .nan false
  | .inf _, .inf _ => .nan true
  | .inf na, .fin nb _ _ => .inf (na != nb) false
  | .fin na _ _, .inf nb => .zero (na != nb)
  | .fin na ma ea, .fin nb mb eb =>
    if mb = 0 then (if ma = 0 then .nan true else .inf (na != nb) true)
    else if ma = 0 then .zero (na != nb)
    else
      let k := bitLen mb + 130
      let n := ma * 2 ^ k
      .mag (na != nb) (n / mb) (ea - eb - (k : Int)) (n % mb != 0)

/-- Integer square root by bits: `fuel` bits from the top are still to be decided. -/
def isqrtLoop (n : Nat) : Nat → Nat → Nat
  | 0, r => r
  | fuel + 1, r =>
    let t := r + 2 ^ fuel
    isqrtLoop n fuel (if t * t ≤ n then t else r)

/-- The greatest r with r * r at most n. -/
def isqrt (n : Nat) : Nat := isqrtLoop n (bitLen n / 2 + 1) 0

/-- The square root of a value (R54, R59). -/
def exactSqrt (a : FVal) : Exact :=
  match a with
  | .nan => .nan false
  | .inf n => if n then .nan true else .inf false false
  | .fin n m e =>
    if m = 0 then .zero n
    else if n then .nan true
    else
      let k : Nat := 132 + (if e % 2 = 0 then 0 else 1)
      let w := m * 2 ^ k
      let r := isqrt w
      .mag false r ((e - (k : Int)) / 2) (r * r != w)

/-- 1 / a (R59). -/
def exactRcp (a : FVal) : Exact :=
  match a with
  | .fin n 0 _ => .inf n true
  | a => exactDiv (.fin false 1 0) a

/-- 1 / sqrt a (R59). -/
def exactRsq (a : FVal) : Exact :=
  match a with
  | .nan => .nan false
  | .inf n => if n then .nan true else .zero false
  | .fin n m e =>
    if m = 0 then .inf n true
    else if n then .nan true
    else
      -- 1/(m 2^e) = (2^k / m) 2^-(e+k), k chosen so that e + k is even
      let k0 := bitLen m + 140
      let k : Nat := if (e + (k0 : Int)) % 2 = 0 then k0 else k0 + 1
      let r := isqrt (2 ^ k / m)
      .mag false r (-(e + (k : Int)) / 2) (r * r * m != 2 ^ k)

/-- a times 2 to the n (R183). -/
def exactScale (a : FVal) (n : Int) : Exact :=
  match a with
  | .fin neg m e => if m = 0 then .zero neg else .mag neg m (e + n) false
  | a => a.exact

/-- A finite value rounded to an integer in a mode: the integer and whether it differs (R61, R180). -/
def roundInt (mode : RMode) (neg : Bool) (m : Nat) (e : Int) : Int × Bool :=
  let (r, lost) := roundShift mode neg m (-e) false
  (sgn neg r, lost)

/-- -1, 0 or 1 as a is below, equal to or above b, both magnitudes m times 2 to the e. -/
def cmpMag (ma : Nat) (ea : Int) (mb : Nat) (eb : Int) : Ordering :=
  let e := min ea eb
  compare (ma * 2 ^ (ea - e).toNat) (mb * 2 ^ (eb - e).toNat)

/-- Order of two values that are not NaN, with the two zeros equal (R180). -/
def FVal.cmp (a b : FVal) : Ordering :=
  match a, b with
  | .nan, _ => .eq
  | _, .nan => .eq
  | .inf na, .inf nb => if na == nb then .eq else if na then .lt else .gt
  | .inf na, .fin .. => if na then .lt else .gt
  | .fin .., .inf nb => if nb then .gt else .lt
  | .fin na ma ea, .fin nb mb eb =>
    if ma = 0 ∧ mb = 0 then .eq
    else if ma = 0 then (if nb then .gt else .lt)
    else if mb = 0 then (if na then .lt else .gt)
    else if na != nb then (if na then .lt else .gt)
    else if na then cmpMag mb eb ma ea else cmpMag ma ea mb eb

/-- The sign of a value. -/
def FVal.isNeg : FVal → Bool
  | .nan => false
  | .inf n => n
  | .fin n _ _ => n

/-- Lesser of two values that are not NaN, -0 below +0 (R68, R180). -/
def FVal.le (a b : FVal) : Bool :=
  match a.cmp b with
  | .lt => true
  | .gt => false
  | .eq => a.isNeg || !b.isNeg

/-- COMBINE for min and max, and fmin and fmax (R68, R180): NaN if either is NaN. -/
def minMaxBits (f : Fmt) (isMax fz : Bool) (x y : Nat) : Nat :=
  let a := f.decode fz x
  let b := f.decode fz y
  match a, b with
  | .nan, _ => f.nanBits
  | _, .nan => f.nanBits
  | a, b =>
    let first := if isMax then b.le a else a.le b
    ((if first then a else b).exact.round f {}).1

/-- COMBINE for add (R68): left plus right, rounded to nearest even. -/
def combineAdd (f : Fmt) (sat fz : Bool) (x y : Nat) : Nat × FFlags :=
  let c : RCtl := { mode := .rne, sat := sat, fz := fz }
  (exactAdd .rne (f.decode fz x) (f.decode fz y)).round f c

/-- The nine class bits of `fclass` (R180), taken without flushing. -/
def classMask (f : Fmt) (bits : Nat) : Nat :=
  let neg := bits / f.signBit % 2 == 1
  let mag := bits % f.signBit
  if mag > f.infBits then 0x100
  else if mag = f.infBits then (if neg then 0x001 else 0x080)
  else if mag ≥ 2 ^ f.frac then (if neg then 0x002 else 0x040)
  else if mag > 0 then (if neg then 0x004 else 0x020)
  else (if neg then 0x008 else 0x010)

end Sys2Proof.Machine
end

