-- ==== Sys2Proof/Machine/Store.lean ====
section
/-! DEFINITION. Sparse storage in one canonical form: keys strictly rising, no value listed that an unlisted key reads as. -/

namespace Sys2Proof.Machine

/-- The value at a key, `d` where the key is not listed. -/
def cget {n : Nat} (d : BitVec n) : Cells n → Nat → BitVec n
  | [], _ => d
  | (k, v) :: cs, a => if k = a then v else cget d cs a

/-- Remove a key. -/
def cdel {n : Nat} : Cells n → Nat → Cells n
  | [], _ => []
  | (k, v) :: cs, a => if k = a then cs else (k, v) :: cdel cs a

/-- Put a value at a key, keeping the keys rising. -/
def cput {n : Nat} (v : BitVec n) : Cells n → Nat → Cells n
  | [], a => [(a, v)]
  | (k, x) :: cs, a => if a < k then (a, v) :: (k, x) :: cs else if a = k then (a, v) :: cs else (k, x) :: cput v cs a

/-- Write a value: a value an unlisted key reads as is not listed. -/
def cset {n : Nat} (d v : BitVec n) (c : Cells n) (a : Nat) : Cells n := if v = d then cdel c a else cput v c a

/-- Write a run of values at successive keys. -/
def csetMany {n : Nat} (d : BitVec n) (c : Cells n) (a : Nat) : List (BitVec n) → Cells n
  | [] => c
  | v :: vs => csetMany d (cset d v c a) (a + 1) vs

/-- Read a run of values at successive keys. -/
def cgetMany {n : Nat} (d : BitVec n) (c : Cells n) (a n' : Nat) : List (BitVec n) :=
  (List.range n').map fun i => cget d c (a + i)

/-- Keys are strictly rising and no value is the default. -/
def cwf {n : Nat} (d : BitVec n) : Cells n → Bool
  | [] => true
  | (k, v) :: cs => v != d && (match cs with | [] => true | (k', _) :: _ => decide (k < k')) && cwf d cs

/-- The first entry with a key, in a list of pairs. -/
def lookup {α : Type} : List (Nat × α) → Nat → Option α
  | [], _ => none
  | (k, v) :: cs, a => if k = a then some v else lookup cs a

/-- Replace or add an entry of a list of pairs. -/
def assign {α : Type} (a : Nat) (v : α) : List (Nat × α) → List (Nat × α)
  | [] => [(a, v)]
  | (k, x) :: cs => if k = a then (a, v) :: cs else (k, x) :: assign a v cs

/-- The first element a test accepts, changed; the others kept. -/
def updateFirst {α : Type} (p : α → Bool) (f : α → α) : List α → List α
  | [] => []
  | x :: xs => if p x then f x :: xs else x :: updateFirst p f xs

/-- A list with only the first n of the elements a test accepts. -/
def keepFirst {α : Type} (p : α → Bool) : Nat → List α → List α
  | _, [] => []
  | n, x :: xs =>
    if p x then match n with | 0 => keepFirst p 0 xs | m + 1 => x :: keepFirst p m xs
    else x :: keepFirst p n xs

/-- The element at a place of a list, or a default. -/
def nth {α : Type} (d : α) : List α → Nat → α
  | [], _ => d
  | x :: _, 0 => x
  | _ :: xs, n + 1 => nth d xs n

/-- Change the element at a place of a list. -/
def setNth {α : Type} (v : α) : List α → Nat → List α
  | [], _ => []
  | _ :: xs, 0 => v :: xs
  | x :: xs, n + 1 => x :: setNth v xs n

/-- Bit i of a number. -/
def natBit (n i : Nat) : Bool := n / 2 ^ i % 2 == 1

/-- Bits [lo + w - 1 : lo] of a number. -/
def field (n lo w : Nat) : Nat := n / 2 ^ lo % 2 ^ w

/-- A number of `n` bits read as two's complement. -/
def sext (n v : Nat) : Int := if v % 2 ^ n ≥ 2 ^ (n - 1) then (v % 2 ^ n : Nat) - (2 ^ n : Nat) else (v % 2 ^ n : Nat)

/-- An integer modulo 2^n. -/
def wrap (n : Nat) (x : Int) : Nat := (x % (2 ^ n : Nat)).toNat

/-- The lanes of a mask, in ascending order. -/
def lanesOf (m : Lanes) : List Nat := (List.range 64).filter fun l => m.getLsbD l

/-- A mask from a test on lanes. -/
def maskOf (p : Nat → Bool) : Lanes :=
  (List.range 64).foldl (fun acc l => if p l then acc ||| (1#64 <<< l) else acc) 0

/-- Number of set bits. -/
def popCount (n w : Nat) : Nat := ((List.range w).filter fun i => natBit n i).length

/-- ceil(log2 n) (R67). -/
def clog2 (n : Nat) : Nat := if n ≤ 1 then 0 else Nat.log2 (n - 1) + 1

end Sys2Proof.Machine
end

