-- ==== Sys2Proof/Machine/Tree.lean ====
section
/-! DEFINITION. The canonical tree (R67 to R69, R71 of spec/03_numbers.md). -/

namespace Sys2Proof.Machine

/-- COMBINE or its absence: a lone child is passed up unchanged (R67). -/
def combineOpt (comb : Nat → Nat → Nat × FFlags) (l r : Option Nat) : Option Nat × FFlags :=
  match l, r with
  | none, r => (r, {})
  | l, none => (l, {})
  | some x, some y => let (v, fl) := comb x y; (some v, fl)

/-- The parents of a level's nodes, in ascending index; a node beyond the list is absent. -/
def treeUp (comb : Nat → Nat → Nat × FFlags) : List (Option Nat) → List (Option Nat) × FFlags
  | [] => ([], {})
  | [x] => ([x], {})
  | l :: r :: rest =>
    let (v, f1) := combineOpt comb l r
    let (vs, f2) := treeUp comb rest
    (v :: vs, f1.or f2)

/-- The root of a tree of the given number of levels over its leaves, and every flag (R67). -/
def treeRoot (comb : Nat → Nat → Nat × FFlags) : Nat → List (Option Nat) → Option Nat × FFlags
  | 0, ls => (ls.headD none, {})
  | n + 1, ls =>
    let (up, f1) := treeUp comb ls
    let (v, f2) := treeRoot comb n up
    (v, f1.or f2)

/-- A floating-point leaf: every NaN is canonical, and a subnormal is flushed where flushing is in force (R54, R186). -/
def fpLeaf (f : Fmt) (fz : Bool) (bits : Nat) : Nat := ((f.decode fz bits).exact.round f {}).1

/-- COMBINE in a format: add, min or max (R68). -/
def combineFp (f : Fmt) (opr : Nat) (sat fz : Bool) (x y : Nat) : Nat × FFlags :=
  if opr = 0 then combineAdd f sat fz x y else (minMaxBits f (opr == 2) fz x y, {})

/-- COMBINE of integers of w bits: wrapped sum, or the lesser or greater (R62, R186). -/
def combineInt (w : Nat) (signed : Bool) (opr : Nat) (x y : Nat) : Nat × FFlags :=
  if opr = 0 then ((x + y) % 2 ^ w, {})
  else
    let a : Int := if signed then sext w x else x
    let b : Int := if signed then sext w y else y
    (if opr = 1 then (if a ≤ b then x else y) else (if b ≤ a then x else y), {})

/-- The identity of an operation in a format (R68). -/
def identFp (f : Fmt) (opr : Nat) : Nat := if opr = 0 then 0 else f.withSign (opr == 2) f.infBits

/-- The identity of an integer operation (R186). -/
def identInt (w : Nat) (signed : Bool) (opr : Nat) : Nat :=
  if opr = 0 then 0
  else if opr = 1 then (if signed then 2 ^ (w - 1) - 1 else 2 ^ w - 1)
  else (if signed then 2 ^ (w - 1) else 0)

end Sys2Proof.Machine
end

