-- ==== Sys2Proof/Config.lean ====
section
/-! DEFINITION. What an implementation fixes, and the free values of the values the spec leaves open (R8). -/

namespace Sys2Proof.Config

/-- An undefined 32-bit value (R8). Applied to the counter `State.free`; nothing constrains it (log 6). -/
opaque freeWord : Nat → BitVec 32
/-- An undefined 64-bit value (R8), applied as `freeWord` (log 6). -/
opaque freeDWord : Nat → BitVec 64
/-- An undefined byte (R8): left-over scratchpad bytes (R142), bytes under another key (R79) (log 6). -/
opaque freeByte : Nat → BitVec 8
/-- A word of an error record that the spec does not state (R361): even numbers for ADDRESS, odd ones for DETAIL (log 14). -/
opaque freeRecord : Nat → BitVec 64
/-- The SHA-256 measurement of R382 of an image of the part that no update has replaced: 1 boot ROM, 2 firmware, 3 save and restore
microcode. The images are not in the spec (log 7). -/
opaque measurement : Nat → BitVec 256
/-- The RSASSA-3072 signature of the device identity key over a SHA-256 digest (R382); the key lies inside the part (log 7). -/
opaque identitySignature : BitVec 256 → BitVec 3072
/-- Byte n of the device's certificate chain (R382); its contents are not in the spec (log 7). -/
opaque certificateByte : Nat → BitVec 8
/-- The length of that chain in bytes (log 7). -/
opaque certificateLength : Nat
/-- A temperature or power reading of R384, by register number and reading number (log 7). -/
opaque sensor : Nat → Nat → BitVec 32
/-- Whether the bytes of a firmware image pass the signature check of R381; the fused key and the image's layout are not in the spec
(log 7). -/
opaque signatureOk : List (BitVec 8) → Bool
/-- The security version that the bytes of a firmware image carry (R381) (log 7). -/
opaque imageVersion : List (BitVec 8) → BitVec 6
/-- Where the dump region of R372 begins in HBM, in units of 4096 bytes; the spec names no address (log 13). -/
opaque dumpBase : Nat
/-- The revision of the save and restore microcode (R365); the spec names no number (log 12). -/
opaque microcodeRevision : BitVec 32

end Sys2Proof.Config
end

