-- ==== Sys2Proof/Syntax.lean ====
section
/-! DEFINITION. The instructions and events of spec/opcode_table.json: one constructor per row.
A row with an encoding carries `Fields`, the header and operand fields of R20 as the decoder read them.
A row without one is an event; its constructor carries the data the event needs. -/

namespace Sys2Proof

/-- The three lengths of R17. LEN = 3 is no instruction and decodes to `Instr.reservedOp`. -/
inductive Len where
  | l64 | l96 | l128
deriving DecidableEq, Repr

/-- The fields of R20. A form without a field holds its implied value (R33): `ty` the implied type, the others 0. -/
structure Fields where
  len  : Len
  uni  : Bool
  dist : BitVec 3
  pred : BitVec 4
  setf : BitVec 4
  d    : BitVec 10
  wait : BitVec 12
  a    : BitVec 10
  b    : BitVec 10
  c    : BitVec 10
  ty   : BitVec 6
  mod  : BitVec 4
  x    : BitVec 12
  imm  : BitVec 32
deriving DecidableEq, Repr

/-- OFFSET of R25: [29:10] in bits [63:44], where other instructions hold B and A, [9:0] in bits [31:22]. -/
def Fields.off (f : Fields) : BitVec 30 := f.b ++ f.a ++ f.d

/-- The identity of a launch: the chip that consumed its packet, the queue and slot, and the graph node if any. -/
structure LKey where
  chip : Nat
  queue : Nat
  slot : Nat
  node : Option Nat
deriving DecidableEq, Repr

/-- A member of a membership set (R319): a wave, by its chip and the chip's serial number of it. -/
structure Member where
  chip : Nat
  uid  : Nat
deriving DecidableEq, Repr

/-- A membership set (R318): the context, the set number, and for set 0 its launch. -/
structure SetRef where
  ctx : Nat
  set : Nat
  key : Option LKey
deriving DecidableEq, Repr

/-- A partial of R109 with what R242 adds: the sender's OSEQ, kind, operation, format, modes and N; the job chip number
of its home, as its flit's header names it (R259); and the launch it was contributed by, for its records (R359, R395). -/
structure Partial where
  ctx   : Nat
  idx   : Nat
  elem  : Nat
  level : Nat
  index : Nat
  val   : DWord
  oseq  : Nat
  kind  : Nat
  opr   : Nat
  fmt   : Nat
  ftz   : Bool
  sat   : Bool
  n     : Nat
  dst   : Nat
  launch : LKey
  dup   : Bool
deriving DecidableEq, Repr

/-- A pairing buffer that is not a home (R109): a core's or a Fedeux port's. -/
inductive BufRef where
  | core (n : Nat)
  | port (n : Nat)
deriving DecidableEq, Repr

/-- A vote of R321: function, threshold and value. -/
structure Vote where
  func  : Nat
  thr   : Word
  value : Nat
deriving DecidableEq, Repr

/-- An access in the peer window (R74): a read, a write or an atomic at the peer's local address, for a context and page class.
An atomic is an operation, a type and, lane by lane, the operand and compare value (R98). `acq` says that it is an acquire whose
scope covers other packages (R336). -/
structure PeerReq where
  id    : Nat
  src   : Nat
  ctx   : Nat
  cls   : Nat
  addr  : Nat
  size  : Nat
  write : Option QWord
  atomic : Option (Nat × Nat × List (QWord × QWord))
  acq   : Bool
  hint  : Nat := 0
deriving DecidableEq, Repr

/-- What a rank's start message carries (R265, R269): the digest of its communicator entry and of the descriptor. -/
structure CollDigest where
  comm : List Nat
  desc : List Nat
deriving DecidableEq, Repr

/-- What travels between chips in flits (R259), by content. -/
inductive Msg where
  | part (p : Partial)                                  -- S1, R242
  | close (ctx idx oseq src op : Nat) (key : LKey)      -- S1, R244
  | closeAck (op : Nat)                                 -- S1, R254: every slice has received it
  | abortObj (ctx idx code elem : Nat) (key : LKey)     -- S1, R242
  | peerReq (r : PeerReq)                               -- S2, R74
  | peerResp (id : Nat) (data : List QWord) (code : Nat)   -- S3, R74; code 0: performed
  | vote (r : SetRef) (inst : Word) (m : Member) (v : Option Vote)   -- S0, R319; none: exclusion
  | join (r : SetRef) (m : Member)                      -- S0, R320
  | joinReply (r : SetRef) (m : Member) (cur : Word)    -- S0, R320
  | leave (r : SetRef) (m : Member)                     -- S0, R320
  | leaveAck (r : SetRef) (m : Member)                  -- S0, R320
  | outcome (r : SetRef) (inst : Word) (taken : Bool) (err : Bool)   -- S0, R319
  | launch (key : LKey) (ctx : Nat) (words : List DWord) (gen : Word) -- S0, R263
  | arrive (key : LKey) (chip : Nat) (stamp : Word)     -- S0, R263
  | barrierDone (key : LKey) (seqNo : Word)             -- S0, R263
  | launchFail (key : LKey) (code : Nat) (finder : Nat) -- S0, R264
  | retire (key : LKey) (chip : Nat)                    -- S0, R279
  | scFence (id src : Nat)                              -- S0, R342
  | scOrder (id : Nat)                                  -- S0, R342
  | promote (id core relSeq src : Nat)                  -- S2, R336 across chips
  | promoted (id : Nat)                                 -- S3, R336
  | jobCmd (cmd : Nat) (args : List DWord)              -- S0, R412
  | jobReport (ctx chip : Nat)                          -- S0, R286
  | jobEnds (ctx chip : Nat)                            -- S0, R286
  | restoreArrive (ctx chip : Nat) (stamp : Word)       -- S0, R364
  | collStart (ctx comm : Nat) (inst : Word) (src : Nat) (g : CollDigest)   -- S0, R265
  | collData (ctx comm : Nat) (inst : Word) (src : Nat) (vals : List (Nat × DWord))   -- V0 to V15, R270
  | collAbort (ctx comm : Nat) (inst : Word) (code : Nat)   -- S0, R271
deriving DecidableEq, Repr

/-- The one list of instructions and events, in the order of spec/opcode_table.json. -/
inductive Instr where
  | nop (f : Fields)   -- NOP, R41
  | endWave (f : Fields)   -- END, R312
  | br (f : Fields)   -- BR, R304
  | bc (f : Fields)   -- BC, R307
  | bu (f : Fields)   -- BU, R304
  | call (f : Fields)   -- CALL, R305
  | ret (f : Fields)   -- RET, R305
  | jtab (f : Fields)   -- JTAB, R306
  | loop (f : Fields)   -- LOOP, R314
  | loopEndAction (w : Nat) (addr : DWord)   -- LOOP_END_ACTION, R315
  | brk (f : Fields)   -- BRK, R316
  | full (f : Fields)   -- FULL, R313
  | endfull (f : Fields)   -- ENDFULL, R313
  | armJoin (w : Nat)   -- ARM_JOIN, R310
  | divergencePop (w : Nat)   -- DIVERGENCE_POP, R311
  | yield (f : Fields)   -- YIELD, R299
  | yieldExpiry (w : Nat)   -- YIELD_EXPIRY, R299
  | cbr (f : Fields)   -- CBR, R321
  | cmjoin (f : Fields)   -- CMJOIN, R320
  | cmleave (f : Fields)   -- CMLEAVE, R320
  | trap (f : Fields)   -- TRAP, R367
  | trapRd (f : Fields)   -- TRAP_RD, R367
  | rteRetry (f : Fields)   -- RTE_RETRY, R367
  | rteSkip (f : Fields)   -- RTE_SKIP, R367
  | rteEnd (f : Fields)   -- RTE_END, R367
  | rteTo (f : Fields)   -- RTE_TO, R367
  | bkpt (f : Fields)   -- BKPT, R367
  | halt (f : Fields)   -- HALT, R367
  | sget (f : Fields)   -- SGET, R164
  | sset (f : Fields)   -- SSET, R164
  | waitFlag (f : Fields)   -- WAIT, R298
  | add (f : Fields)   -- ADD, R173
  | sub (f : Fields)   -- SUB, R173
  | mul (f : Fields)   -- MUL, R173
  | mulhi (f : Fields)   -- MULHI, R173
  | mad (f : Fields)   -- MAD, R173
  | min (f : Fields)   -- MIN, R173
  | max (f : Fields)   -- MAX, R173
  | abs (f : Fields)   -- ABS, R173
  | andB (f : Fields)   -- AND, R173
  | orB (f : Fields)   -- OR, R173
  | xorB (f : Fields)   -- XOR, R173
  | notB (f : Fields)   -- NOT, R173
  | shl (f : Fields)   -- SHL, R173
  | shr (f : Fields)   -- SHR, R173
  | sra (f : Fields)   -- SRA, R173
  | rot (f : Fields)   -- ROT, R173
  | clz (f : Fields)   -- CLZ, R173
  | popc (f : Fields)   -- POPC, R173
  | brev (f : Fields)   -- BREV, R173
  | bfe (f : Fields)   -- BFE, R175
  | bfi (f : Fields)   -- BFI, R175
  | sel (f : Fields)   -- SEL, R176
  | cmp (f : Fields)   -- CMP, R176
  | mov (f : Fields)   -- MOV, R160
  | movi (f : Fields)   -- MOVI, R161
  | lea (f : Fields)   -- LEA, R162
  | addw (f : Fields)   -- ADDW, R163
  | fadd (f : Fields)   -- FADD, R179
  | fsub (f : Fields)   -- FSUB, R179
  | fmul (f : Fields)   -- FMUL, R179
  | ffma (f : Fields)   -- FFMA, R179
  | fmin (f : Fields)   -- FMIN, R180
  | fmax (f : Fields)   -- FMAX, R180
  | fcmp (f : Fields)   -- FCMP, R180
  | fclass (f : Fields)   -- FCLASS, R180
  | frnd (f : Fields)   -- FRND, R180
  | fdiv (f : Fields)   -- FDIV, R179
  | fsqrt (f : Fields)   -- FSQRT, R59
  | frcp (f : Fields)   -- FRCP, R59
  | frsq (f : Fields)   -- FRSQ, R59
  | fexp2 (f : Fields)   -- FEXP2, R59
  | flog2 (f : Fields)   -- FLOG2, R59
  | fsin (f : Fields)   -- FSIN, R59
  | fcos (f : Fields)   -- FCOS, R59
  | cvt (f : Fields)   -- CVT, R182
  | fscl (f : Fields)   -- FSCL, R183
  | vopt (f : Fields)   -- VOPT, R192
  | rngDraw (f : Fields)   -- RNG_DRAW, R190
  | rngSetc (f : Fields)   -- RNG_SETC, R189
  | rngGetc (f : Fields)   -- RNG_GETC, R189
  | vote (f : Fields)   -- VOTE, R184
  | shfl (f : Fields)   -- SHFL, R185
  | wred (f : Fields)   -- WRED, R186
  | pset (f : Fields)   -- PSET, R187
  | pop (f : Fields)   -- POP, R187
  | lsclStep (f : Fields)   -- LSCL_STEP, R195
  | lsclGet (f : Fields)   -- LSCL_GET, R194
  | lsclSet (f : Fields)   -- LSCL_SET, R194
  | lsclRdst (f : Fields)   -- LSCL_RDST, R194
  | lsclClrst (f : Fields)   -- LSCL_CLRST, R194
  | lsclMode (f : Fields)   -- LSCL_MODE, R194
  | ld (f : Fields)   -- LD, R154
  | st (f : Fields)   -- ST, R154
  | ldsp (f : Fields)   -- LDSP, R154
  | stsp (f : Fields)   -- STSP, R154
  | ldlit (f : Fields)   -- LDLIT, R159
  | atom (f : Fields)   -- ATOM, R98
  | atomr (f : Fields)   -- ATOMR, R98
  | red (f : Fields)   -- RED, R98
  | spatom (f : Fields)   -- SPATOM, R158
  | pf (f : Fields)   -- PF, R120
  | cinv (f : Fields)   -- CINV, R120
  | cinvSector (f : Fields)   -- CINV_SECTOR, R120
  | cwb (f : Fields)   -- CWB, R120
  | cwbInv (f : Fields)   -- CWB_INV, R120
  | cwbCtx (f : Fields)   -- CWB_CTX, R120
  | fence (f : Fields)   -- FENCE, R342
  | bar (f : Fields)   -- BAR, R345
  | bara (f : Fields)   -- BARA, R345
  | barw (f : Fields)   -- BARW, R345
  | barrierWordReread (w : Nat)   -- BARRIER_WORD_REREAD, R346
  | cinit (f : Fields)   -- CINIT, R138
  | carr (f : Fields)   -- CARR, R138
  | cexp (f : Fields)   -- CEXP, R138
  | cwait (f : Fields)   -- CWAIT, R138
  | ctest (f : Fields)   -- CTEST, R138
  | cpy (f : Fields)   -- CPY, R133
  | cpys (f : Fields)   -- CPYS, R133
  | cpym (f : Fields)   -- CPYM, R133
  | copyProgress (id : Nat)   -- COPY_PROGRESS, R133
  | qclaim (f : Fields)   -- QCLAIM, R137
  | qpost (f : Fields)   -- QPOST, R137
  | accld (f : Fields)   -- ACCLD, R218
  | accst (f : Fields)   -- ACCST, R218
  | aread (f : Fields)   -- AREAD, R218
  | awrite (f : Fields)   -- AWRITE, R218
  | mzero (f : Fields)   -- MZERO, R210
  | claimGrant (core : Nat)   -- CLAIM_GRANT, R210
  | mfmt (f : Fields)   -- MFMT, R211
  | mrdy (f : Fields)   -- MRDY, R212
  | mbank (f : Fields)   -- MBANK, R213
  | mloop (f : Fields)   -- MLOOP, R214
  | mloopStep (core : Nat)   -- MLOOP_STEP, R214
  | mdrn (f : Fields)   -- MDRN, R215
  | mdrnn (f : Fields)   -- MDRNN, R216
  | mstat (f : Fields)   -- MSTAT, R217
  | gbind (f : Fields)   -- GBIND, R232
  | gbindUnbind (f : Fields)   -- GBIND_UNBIND, R232
  | gld (f : Fields)   -- GLD, R233
  | gsc (f : Fields)   -- GSC, R234
  | ghash (f : Fields)   -- GHASH, R235
  | latticeGroupLevel (id : Nat)   -- LATTICE_GROUP_LEVEL, R237
  | ctb (f : Fields)   -- CTB, R253
  | ctbn (f : Fields)   -- CTBN, R253
  | ropen (f : Fields)   -- ROPEN, R255
  | rclose (f : Fields)   -- RCLOSE, R254
  | rstat (f : Fields)   -- RSTAT, R256
  | coll (f : Fields)   -- COLL, R273
  | collx (f : Fields)   -- COLLX, R273
  | csave (f : Fields)   -- CSAVE, R366
  | crest (f : Fields)   -- CREST, R366
  | tlbiVa (f : Fields)   -- TLBI_VA, R95
  | tlbiCtx (f : Fields)   -- TLBI_CTX, R95
  | tlbiAll (f : Fields)   -- TLBI_ALL, R95
  | invalidationComplete (id : Nat)   -- INVALIDATION_COMPLETE, R94
  | pmsetBudget (f : Fields)   -- PMSET_BUDGET, R369
  | pmsetRead (f : Fields)   -- PMSET_READ, R369
  | esig (f : Fields)   -- ESIG, R368
  | allZeroWord   -- ALL_ZERO_WORD, R24
  | reservedOp (word : DWord)   -- RESERVED_OP, R36
  | operationRetire (w flag : Nat)   -- OPERATION_RETIRE, R297
  | pageWalk (id : Nat)   -- PAGE_WALK, R91
  | homeSliceAccess (id : Nat)   -- HOME_SLICE_ACCESS, R81
  | l2SectorFill (id : Nat)   -- L2_SECTOR_FILL, R102
  | kettleAccess (id : Nat) (uncorrectable : Bool)   -- KETTLE_ACCESS, R77
  | watchSignal (queue : Nat)   -- WATCH_SIGNAL, R126
  | scratchpadArrayAccess (id : Nat)   -- SCRATCHPAD_ARRAY_ACCESS, R147
  | peerRequestArrival (r : PeerReq)   -- PEER_REQUEST_ARRIVAL, R74
  | promotionRequest (id : Nat)   -- PROMOTION_REQUEST, R336
  | promotionReply (id : Nat)   -- PROMOTION_REPLY, R336
  | scFenceMessage (id src : Nat)   -- SC_FENCE_MESSAGE, R342
  | cxlMemAccess (decoder addr size : Nat) (write : Option DWord)   -- CXL_MEM_ACCESS, R375
  | backInvalidateResponse (id : Nat)   -- BACK_INVALIDATE_RESPONSE, R375
  | hostSnoop (addr : Nat) (write : Option DWord)   -- HOST_SNOOP, R376
  | hostOwnershipGranted (id : Nat)   -- HOST_OWNERSHIP_GRANTED, R102
  | nonhomeArrival (buf : BufRef) (p : Partial)   -- NONHOME_ARRIVAL, R112
  | holdTimeExpiry (buf : BufRef) (p : Partial)   -- HOLD_TIME_EXPIRY, R112
  | homePartialArrival (slice : Nat) (p : Partial)   -- HOME_PARTIAL_ARRIVAL, R113
  | closeArrival (slice ctx idx oseq : Nat)   -- CLOSE_ARRIVAL, R245
  | flitReceive (port lane : Nat) (crcOk : Bool) (dst : Nat) (m : Msg)   -- FLIT_RECEIVE, R259
  | laneRetrain (port : Nat)   -- LANE_RETRAIN, R260
  | portDown (port : Nat)   -- PORT_DOWN, R260
  | collStartMessage (ctx comm : Nat) (inst : Word) (src : Nat) (g : CollDigest)   -- COLL_START_MESSAGE, R265
  | nimbusChunk (ctx comm : Nat) (inst : Word)   -- NIMBUS_CHUNK, R270
  | collAbort (ctx comm : Nat) (inst : Word) (code : Nat)   -- COLL_ABORT, R271
  | voteArrival (r : SetRef) (inst : Word) (m : Member) (v : Option Vote)   -- VOTE_ARRIVAL, R319
  | joinArrival (r : SetRef) (m : Member)   -- JOIN_ARRIVAL, R320
  | leaveArrival (r : SetRef) (m : Member)   -- LEAVE_ARRIVAL, R319
  | outcomeArrival (w : Nat)   -- OUTCOME_ARRIVAL, R324
  | setHomeUnreachable (r : SetRef)   -- SET_HOME_UNREACHABLE, R326
  | slotTake (queue : Nat)   -- SLOT_TAKE, R126
  | slotReread (queue : Nat)   -- SLOT_REREAD, R126
  | queueAccessRetry (queue : Nat)   -- QUEUE_ACCESS_RETRY, R414
  | nopPacket (queue slot : Nat)   -- NOP_PACKET, R128
  | launchPacket (queue slot : Nat)   -- LAUNCH_PACKET, R277
  | launchAdmit (key : LKey)   -- LAUNCH_ADMIT, R263
  | startBarrierArrival (key : LKey) (chip : Nat) (stamp : Word)   -- START_BARRIER_ARRIVAL, R263
  | barrierTimeout (key : LKey)   -- BARRIER_TIMEOUT, R264
  | copyPacket (queue slot : Nat)   -- COPY_PACKET, R128
  | graphPacket (queue slot : Nat)   -- GRAPH_PACKET, R280
  | waitPacket (queue slot : Nat)   -- WAIT_PACKET, R128
  | waitPacketReread (queue slot : Nat)   -- WAIT_PACKET_REREAD, R128
  | signalPacket (queue slot : Nat)   -- SIGNAL_PACKET, R128
  | collPacket (queue slot : Nat)   -- COLL_PACKET, R269
  | packetComplete (queue slot : Nat)   -- PACKET_COMPLETE, R124
  | teamAdmission (key : LKey) (core : Nat)   -- TEAM_ADMISSION, R291
  | coresidentAdmission (key : LKey)   -- COREASIDENT_ADMISSION, R283
  | admissionWaitExpiry (key : LKey)   -- ADMISSION_WAIT_EXPIRY, R292
  | teamRelease (team : Nat)   -- TEAM_RELEASE, R279
  | launchRetire (key : LKey)   -- LAUNCH_RETIRE, R279
  | retireReport (key : LKey) (chip : Nat)   -- RETIRE_REPORT, R279
  | graphNodeStart (graph node : Nat)   -- GRAPH_NODE_START, R281
  | trapTake (w : Nat) (code : BitVec 16) (addr detail : DWord)   -- TRAP_TAKE, R351
  | saveMicrocode (ctx : Nat)   -- SAVE_MICROCODE, R363
  | restoreBarrier (ctx chip : Nat) (stamp : Word)   -- RESTORE_BARRIER, R364
  | budgetLower (core : Nat) (budget : BitVec 8)   -- BUDGET_LOWER, R370
  | budgetRaise (core : Nat) (budget : BitVec 8)   -- BUDGET_RAISE, R370
  | thermalTrip   -- THERMAL_TRIP, R370
  | powerStageFault   -- POWER_STAGE_FAULT, R362
  | powerOnReset   -- POWER_ON_RESET, R371
  | hotReset   -- HOT_RESET, R371
  | flr   -- FLR, R371
  | watchdog   -- WATCHDOG, R371
  | mmioWrite (addr size : Nat) (val : DWord)   -- MMIO_WRITE, R377
  | l2tenmaskWrite (slice : Nat) (mask1 mask0 : BitVec 16)   -- L2TENMASK_WRITE, R106
  | pairlimWrite (slice : Nat) (lim : BitVec 7)   -- PAIRLIM_WRITE, R108
  | cpairctlBypassWrite (core : Nat) (bypass : Bool)   -- CPAIRCTL_BYPASS_WRITE, R114
  | portBypassWrite (port : Nat) (bypass : Bool)   -- PORT_BYPASS_WRITE, R261
  | portEnableWrite (port : Nat) (enable : Bool)   -- PORT_ENABLE_WRITE, R261
  | cpwrctlBudgetWrite (core : Nat) (budget : BitVec 8)   -- CPWRCTL_BUDGET_WRITE, R290
  | resetcauseClear (mask : Word)   -- RESETCAUSE_CLEAR, R371
  | errpendClear   -- ERRPEND_CLEAR, R379
  | ctxCreate   -- CTX_CREATE, R276
  | ctxDestroy   -- CTX_DESTROY, R286
  | queueReg   -- QUEUE_REG, R123
  | queueUnreg   -- QUEUE_UNREG, R380
  | queueUnregComplete (queue : Nat)   -- QUEUE_UNREG_COMPLETE, R380
  | keyLoad   -- KEY_LOAD, R380
  | keyRetire   -- KEY_RETIRE, R79
  | hdmBind   -- HDM_BIND, R375
  | preempt   -- PREEMPT, R363
  | restore   -- RESTORE, R364
  | cancel   -- CANCEL, R286
  | resume   -- RESUME, R354
  | routeSet   -- ROUTE_SET, R260
  | commSet   -- COMM_SET, R265
  | bartmoSet   -- BARTMO_SET, R264
  | ringPlace   -- RING_PLACE, R356
  | dumpRead   -- DUMP_READ, R372
  | fwUpdate   -- FW_UPDATE, R381
  | manifestSelect   -- MANIFEST_SELECT, R380
  | jobCommandForward (cmd : Nat) (args : List DWord)   -- JOB_COMMAND_FORWARD, R412
  | getVersion   -- GET_VERSION, R382
  | getCapabilities   -- GET_CAPABILITIES, R382
  | negotiateAlgorithms   -- NEGOTIATE_ALGORITHMS, R382
  | getDigests   -- GET_DIGESTS, R382
  | getCertificate (offset size : Nat)   -- GET_CERTIFICATE, R382
  | challenge (nonce : BitVec 256)   -- CHALLENGE, R382
  | getMeasurements (index : Nat) (nonce : BitVec 256)   -- GET_MEASUREMENTS, R382
  | spdmUnsupportedRequest (code : Byte)   -- SPDM_UNSUPPORTED_REQUEST, R382
  | i3cAccess (reg : Nat) (write : Option Word)   -- I3C_ACCESS, R384
  | managementReset   -- MANAGEMENT_RESET, R384
  | hostTlbInvalidation (ctx : Option Nat) (va : Option DWord)   -- HOST_TLB_INVALIDATION, R94
  | hostLinkTraining (lanes rate : Nat)   -- HOST_LINK_TRAINING, R374
  | hostLinkDown   -- HOST_LINK_DOWN, R384
  | fedeuxPortUp (port lanes peer : Nat)   -- FEDEUX_PORT_UP, R261
  | jobCommandReport (ctx chip : Nat)   -- JOB_COMMAND_REPORT, R286
deriving DecidableEq, Repr

end Sys2Proof
end

