-- ==== Sys2Proof/WellFormed.lean ====
section
/-! DEFINITION. When an instruction is well formed: its fields are the ones its words can hold (R17, R20, R26, R33)
and its sub-operation bits of X are those of its constructor. An event has no words and is not well formed. -/

namespace Sys2Proof

/-- OP of an instruction (R36); none for an event, an all-zero word and a reserved word. -/
def Instr.opcode : Instr → Option (BitVec 8)
  | .nop _ => some 0x00
  | .endWave _ => some 0x01
  | .br _ => some 0x02
  | .bc _ => some 0x03
  | .bu _ => some 0x04
  | .call _ => some 0x05
  | .ret _ => some 0x06
  | .jtab _ => some 0x07
  | .loop _ => some 0x08
  | .loopEndAction _ _ => none
  | .brk _ => some 0x09
  | .full _ => some 0x0A
  | .endfull _ => some 0x0B
  | .armJoin _ => none
  | .divergencePop _ => none
  | .yield _ => some 0x0C
  | .yieldExpiry _ => none
  | .cbr _ => some 0x0D
  | .cmjoin _ => some 0x0E
  | .cmleave _ => some 0x0F
  | .trap _ => some 0x10
  | .trapRd _ => some 0x10
  | .rteRetry _ => some 0x11
  | .rteSkip _ => some 0x11
  | .rteEnd _ => some 0x11
  | .rteTo _ => some 0x11
  | .bkpt _ => some 0x14
  | .halt _ => some 0xC4
  | .sget _ => some 0x12
  | .sset _ => some 0x13
  | .waitFlag _ => some 0x15
  | .add _ => some 0x20
  | .sub _ => some 0x21
  | .mul _ => some 0x22
  | .mulhi _ => some 0x23
  | .mad _ => some 0x24
  | .min _ => some 0x25
  | .max _ => some 0x26
  | .abs _ => some 0x27
  | .andB _ => some 0x28
  | .orB _ => some 0x29
  | .xorB _ => some 0x2A
  | .notB _ => some 0x2B
  | .shl _ => some 0x2C
  | .shr _ => some 0x2D
  | .sra _ => some 0x2E
  | .rot _ => some 0x2F
  | .clz _ => some 0x30
  | .popc _ => some 0x31
  | .brev _ => some 0x32
  | .bfe _ => some 0x33
  | .bfi _ => some 0x34
  | .sel _ => some 0x35
  | .cmp _ => some 0x36
  | .mov _ => some 0x37
  | .movi _ => some 0x38
  | .lea _ => some 0x39
  | .addw _ => some 0x3A
  | .fadd _ => some 0x40
  | .fsub _ => some 0x41
  | .fmul _ => some 0x42
  | .ffma _ => some 0x43
  | .fmin _ => some 0x44
  | .fmax _ => some 0x45
  | .fcmp _ => some 0x46
  | .fclass _ => some 0x47
  | .frnd _ => some 0x48
  | .fdiv _ => some 0x49
  | .fsqrt _ => some 0x4A
  | .frcp _ => some 0x4B
  | .frsq _ => some 0x4C
  | .fexp2 _ => some 0x4D
  | .flog2 _ => some 0x4E
  | .fsin _ => some 0x4F
  | .fcos _ => some 0x50
  | .cvt _ => some 0x51
  | .fscl _ => some 0x52
  | .vopt _ => some 0x53
  | .rngDraw _ => some 0x54
  | .rngSetc _ => some 0x54
  | .rngGetc _ => some 0x54
  | .vote _ => some 0x55
  | .shfl _ => some 0x56
  | .wred _ => some 0x57
  | .pset _ => some 0x58
  | .pop _ => some 0x59
  | .lsclStep _ => some 0x16
  | .lsclGet _ => some 0x16
  | .lsclSet _ => some 0x16
  | .lsclRdst _ => some 0x16
  | .lsclClrst _ => some 0x16
  | .lsclMode _ => some 0x16
  | .ld _ => some 0x60
  | .st _ => some 0x61
  | .ldsp _ => some 0x62
  | .stsp _ => some 0x63
  | .ldlit _ => some 0x64
  | .atom _ => some 0x65
  | .atomr _ => some 0x66
  | .red _ => some 0x67
  | .spatom _ => some 0x6F
  | .pf _ => some 0x68
  | .cinv _ => some 0x69
  | .cinvSector _ => some 0x69
  | .cwb _ => some 0x6A
  | .cwbInv _ => some 0x6A
  | .cwbCtx _ => some 0x6A
  | .fence _ => some 0x6B
  | .bar _ => some 0x6C
  | .bara _ => some 0x6D
  | .barw _ => some 0x6E
  | .barrierWordReread _ => none
  | .cinit _ => some 0x74
  | .carr _ => some 0x70
  | .cexp _ => some 0x71
  | .cwait _ => some 0x72
  | .ctest _ => some 0x73
  | .cpy _ => some 0x80
  | .cpys _ => some 0x81
  | .cpym _ => some 0x82
  | .copyProgress _ => none
  | .qclaim _ => some 0x83
  | .qpost _ => some 0x84
  | .accld _ => some 0x85
  | .accst _ => some 0x86
  | .aread _ => some 0x87
  | .awrite _ => some 0x88
  | .mzero _ => some 0x92
  | .claimGrant _ => none
  | .mfmt _ => some 0x96
  | .mrdy _ => some 0x91
  | .mbank _ => some 0x95
  | .mloop _ => some 0x90
  | .mloopStep _ => none
  | .mdrn _ => some 0x93
  | .mdrnn _ => some 0x94
  | .mstat _ => some 0x97
  | .gbind _ => some 0xA0
  | .gbindUnbind _ => some 0xA0
  | .gld _ => some 0xA1
  | .gsc _ => some 0xA2
  | .ghash _ => some 0xA3
  | .latticeGroupLevel _ => none
  | .ctb _ => some 0xB0
  | .ctbn _ => some 0xB1
  | .ropen _ => some 0xB2
  | .rclose _ => some 0xB3
  | .rstat _ => some 0xB4
  | .coll _ => some 0xB5
  | .collx _ => some 0xB6
  | .csave _ => some 0xC0
  | .crest _ => some 0xC1
  | .tlbiVa _ => some 0xC2
  | .tlbiCtx _ => some 0xC2
  | .tlbiAll _ => some 0xC2
  | .invalidationComplete _ => none
  | .pmsetBudget _ => some 0xC3
  | .pmsetRead _ => some 0xC3
  | .esig _ => some 0xC5
  | .allZeroWord => none
  | .reservedOp _ => none
  | .operationRetire _ _ => none
  | .pageWalk _ => none
  | .homeSliceAccess _ => none
  | .l2SectorFill _ => none
  | .kettleAccess _ _ => none
  | .watchSignal _ => none
  | .scratchpadArrayAccess _ => none
  | .peerRequestArrival _ => none
  | .promotionRequest _ => none
  | .promotionReply _ => none
  | .scFenceMessage _ _ => none
  | .cxlMemAccess _ _ _ _ => none
  | .backInvalidateResponse _ => none
  | .hostSnoop _ _ => none
  | .hostOwnershipGranted _ => none
  | .nonhomeArrival _ _ => none
  | .holdTimeExpiry _ _ => none
  | .homePartialArrival _ _ => none
  | .closeArrival _ _ _ _ => none
  | .flitReceive _ _ _ _ _ => none
  | .laneRetrain _ => none
  | .portDown _ => none
  | .collStartMessage _ _ _ _ _ => none
  | .nimbusChunk _ _ _ => none
  | .collAbort _ _ _ _ => none
  | .voteArrival _ _ _ _ => none
  | .joinArrival _ _ => none
  | .leaveArrival _ _ => none
  | .outcomeArrival _ => none
  | .setHomeUnreachable _ => none
  | .slotTake _ => none
  | .slotReread _ => none
  | .queueAccessRetry _ => none
  | .nopPacket _ _ => none
  | .launchPacket _ _ => none
  | .launchAdmit _ => none
  | .startBarrierArrival _ _ _ => none
  | .barrierTimeout _ => none
  | .copyPacket _ _ => none
  | .graphPacket _ _ => none
  | .waitPacket _ _ => none
  | .waitPacketReread _ _ => none
  | .signalPacket _ _ => none
  | .collPacket _ _ => none
  | .packetComplete _ _ => none
  | .teamAdmission _ _ => none
  | .coresidentAdmission _ => none
  | .admissionWaitExpiry _ => none
  | .teamRelease _ => none
  | .launchRetire _ => none
  | .retireReport _ _ => none
  | .graphNodeStart _ _ => none
  | .trapTake _ _ _ _ => none
  | .saveMicrocode _ => none
  | .restoreBarrier _ _ _ => none
  | .budgetLower _ _ => none
  | .budgetRaise _ _ => none
  | .thermalTrip => none
  | .powerStageFault => none
  | .powerOnReset => none
  | .hotReset => none
  | .flr => none
  | .watchdog => none
  | .mmioWrite _ _ _ => none
  | .l2tenmaskWrite _ _ _ => none
  | .pairlimWrite _ _ => none
  | .cpairctlBypassWrite _ _ => none
  | .portBypassWrite _ _ => none
  | .portEnableWrite _ _ => none
  | .cpwrctlBudgetWrite _ _ => none
  | .resetcauseClear _ => none
  | .errpendClear => none
  | .ctxCreate => none
  | .ctxDestroy => none
  | .queueReg => none
  | .queueUnreg => none
  | .queueUnregComplete _ => none
  | .keyLoad => none
  | .keyRetire => none
  | .hdmBind => none
  | .preempt => none
  | .restore => none
  | .cancel => none
  | .resume => none
  | .routeSet => none
  | .commSet => none
  | .bartmoSet => none
  | .ringPlace => none
  | .dumpRead => none
  | .fwUpdate => none
  | .manifestSelect => none
  | .jobCommandForward _ _ => none
  | .getVersion => none
  | .getCapabilities => none
  | .negotiateAlgorithms => none
  | .getDigests => none
  | .getCertificate _ _ => none
  | .challenge _ => none
  | .getMeasurements _ _ => none
  | .spdmUnsupportedRequest _ => none
  | .i3cAccess _ _ => none
  | .managementReset => none
  | .hostTlbInvalidation _ _ => none
  | .hostLinkTraining _ _ => none
  | .hostLinkDown => none
  | .fedeuxPortUp _ _ _ => none
  | .jobCommandReport _ _ => none

/-- The fields of an encoded instruction; none for an event, an all-zero word and a reserved word. -/
def Instr.fields : Instr → Option Fields
  | .nop f => some f
  | .endWave f => some f
  | .br f => some f
  | .bc f => some f
  | .bu f => some f
  | .call f => some f
  | .ret f => some f
  | .jtab f => some f
  | .loop f => some f
  | .loopEndAction _ _ => none
  | .brk f => some f
  | .full f => some f
  | .endfull f => some f
  | .armJoin _ => none
  | .divergencePop _ => none
  | .yield f => some f
  | .yieldExpiry _ => none
  | .cbr f => some f
  | .cmjoin f => some f
  | .cmleave f => some f
  | .trap f => some f
  | .trapRd f => some f
  | .rteRetry f => some f
  | .rteSkip f => some f
  | .rteEnd f => some f
  | .rteTo f => some f
  | .bkpt f => some f
  | .halt f => some f
  | .sget f => some f
  | .sset f => some f
  | .waitFlag f => some f
  | .add f => some f
  | .sub f => some f
  | .mul f => some f
  | .mulhi f => some f
  | .mad f => some f
  | .min f => some f
  | .max f => some f
  | .abs f => some f
  | .andB f => some f
  | .orB f => some f
  | .xorB f => some f
  | .notB f => some f
  | .shl f => some f
  | .shr f => some f
  | .sra f => some f
  | .rot f => some f
  | .clz f => some f
  | .popc f => some f
  | .brev f => some f
  | .bfe f => some f
  | .bfi f => some f
  | .sel f => some f
  | .cmp f => some f
  | .mov f => some f
  | .movi f => some f
  | .lea f => some f
  | .addw f => some f
  | .fadd f => some f
  | .fsub f => some f
  | .fmul f => some f
  | .ffma f => some f
  | .fmin f => some f
  | .fmax f => some f
  | .fcmp f => some f
  | .fclass f => some f
  | .frnd f => some f
  | .fdiv f => some f
  | .fsqrt f => some f
  | .frcp f => some f
  | .frsq f => some f
  | .fexp2 f => some f
  | .flog2 f => some f
  | .fsin f => some f
  | .fcos f => some f
  | .cvt f => some f
  | .fscl f => some f
  | .vopt f => some f
  | .rngDraw f => some f
  | .rngSetc f => some f
  | .rngGetc f => some f
  | .vote f => some f
  | .shfl f => some f
  | .wred f => some f
  | .pset f => some f
  | .pop f => some f
  | .lsclStep f => some f
  | .lsclGet f => some f
  | .lsclSet f => some f
  | .lsclRdst f => some f
  | .lsclClrst f => some f
  | .lsclMode f => some f
  | .ld f => some f
  | .st f => some f
  | .ldsp f => some f
  | .stsp f => some f
  | .ldlit f => some f
  | .atom f => some f
  | .atomr f => some f
  | .red f => some f
  | .spatom f => some f
  | .pf f => some f
  | .cinv f => some f
  | .cinvSector f => some f
  | .cwb f => some f
  | .cwbInv f => some f
  | .cwbCtx f => some f
  | .fence f => some f
  | .bar f => some f
  | .bara f => some f
  | .barw f => some f
  | .barrierWordReread _ => none
  | .cinit f => some f
  | .carr f => some f
  | .cexp f => some f
  | .cwait f => some f
  | .ctest f => some f
  | .cpy f => some f
  | .cpys f => some f
  | .cpym f => some f
  | .copyProgress _ => none
  | .qclaim f => some f
  | .qpost f => some f
  | .accld f => some f
  | .accst f => some f
  | .aread f => some f
  | .awrite f => some f
  | .mzero f => some f
  | .claimGrant _ => none
  | .mfmt f => some f
  | .mrdy f => some f
  | .mbank f => some f
  | .mloop f => some f
  | .mloopStep _ => none
  | .mdrn f => some f
  | .mdrnn f => some f
  | .mstat f => some f
  | .gbind f => some f
  | .gbindUnbind f => some f
  | .gld f => some f
  | .gsc f => some f
  | .ghash f => some f
  | .latticeGroupLevel _ => none
  | .ctb f => some f
  | .ctbn f => some f
  | .ropen f => some f
  | .rclose f => some f
  | .rstat f => some f
  | .coll f => some f
  | .collx f => some f
  | .csave f => some f
  | .crest f => some f
  | .tlbiVa f => some f
  | .tlbiCtx f => some f
  | .tlbiAll f => some f
  | .invalidationComplete _ => none
  | .pmsetBudget f => some f
  | .pmsetRead f => some f
  | .esig f => some f
  | .allZeroWord => none
  | .reservedOp _ => none
  | .operationRetire _ _ => none
  | .pageWalk _ => none
  | .homeSliceAccess _ => none
  | .l2SectorFill _ => none
  | .kettleAccess _ _ => none
  | .watchSignal _ => none
  | .scratchpadArrayAccess _ => none
  | .peerRequestArrival _ => none
  | .promotionRequest _ => none
  | .promotionReply _ => none
  | .scFenceMessage _ _ => none
  | .cxlMemAccess _ _ _ _ => none
  | .backInvalidateResponse _ => none
  | .hostSnoop _ _ => none
  | .hostOwnershipGranted _ => none
  | .nonhomeArrival _ _ => none
  | .holdTimeExpiry _ _ => none
  | .homePartialArrival _ _ => none
  | .closeArrival _ _ _ _ => none
  | .flitReceive _ _ _ _ _ => none
  | .laneRetrain _ => none
  | .portDown _ => none
  | .collStartMessage _ _ _ _ _ => none
  | .nimbusChunk _ _ _ => none
  | .collAbort _ _ _ _ => none
  | .voteArrival _ _ _ _ => none
  | .joinArrival _ _ => none
  | .leaveArrival _ _ => none
  | .outcomeArrival _ => none
  | .setHomeUnreachable _ => none
  | .slotTake _ => none
  | .slotReread _ => none
  | .queueAccessRetry _ => none
  | .nopPacket _ _ => none
  | .launchPacket _ _ => none
  | .launchAdmit _ => none
  | .startBarrierArrival _ _ _ => none
  | .barrierTimeout _ => none
  | .copyPacket _ _ => none
  | .graphPacket _ _ => none
  | .waitPacket _ _ => none
  | .waitPacketReread _ _ => none
  | .signalPacket _ _ => none
  | .collPacket _ _ => none
  | .packetComplete _ _ => none
  | .teamAdmission _ _ => none
  | .coresidentAdmission _ => none
  | .admissionWaitExpiry _ => none
  | .teamRelease _ => none
  | .launchRetire _ => none
  | .retireReport _ _ => none
  | .graphNodeStart _ _ => none
  | .trapTake _ _ _ _ => none
  | .saveMicrocode _ => none
  | .restoreBarrier _ _ _ => none
  | .budgetLower _ _ => none
  | .budgetRaise _ _ => none
  | .thermalTrip => none
  | .powerStageFault => none
  | .powerOnReset => none
  | .hotReset => none
  | .flr => none
  | .watchdog => none
  | .mmioWrite _ _ _ => none
  | .l2tenmaskWrite _ _ _ => none
  | .pairlimWrite _ _ => none
  | .cpairctlBypassWrite _ _ => none
  | .portBypassWrite _ _ => none
  | .portEnableWrite _ _ => none
  | .cpwrctlBudgetWrite _ _ => none
  | .resetcauseClear _ => none
  | .errpendClear => none
  | .ctxCreate => none
  | .ctxDestroy => none
  | .queueReg => none
  | .queueUnreg => none
  | .queueUnregComplete _ => none
  | .keyLoad => none
  | .keyRetire => none
  | .hdmBind => none
  | .preempt => none
  | .restore => none
  | .cancel => none
  | .resume => none
  | .routeSet => none
  | .commSet => none
  | .bartmoSet => none
  | .ringPlace => none
  | .dumpRead => none
  | .fwUpdate => none
  | .manifestSelect => none
  | .jobCommandForward _ _ => none
  | .getVersion => none
  | .getCapabilities => none
  | .negotiateAlgorithms => none
  | .getDigests => none
  | .getCertificate _ _ => none
  | .challenge _ => none
  | .getMeasurements _ _ => none
  | .spdmUnsupportedRequest _ => none
  | .i3cAccess _ _ => none
  | .managementReset => none
  | .hostTlbInvalidation _ _ => none
  | .hostLinkTraining _ _ => none
  | .hostLinkDown => none
  | .fedeuxPortUp _ _ _ => none
  | .jobCommandReport _ _ => none

/-- The type a 64-bit form implies (R33 and the instructions' own descriptions): f32 for 0x40 to 0x59 and `gld`,
b32 for loads, stores and accumulator moves, u32 for `spatom`, otherwise TY = 0. -/
def impliedTy (op : BitVec 8) : BitVec 6 :=
  if 0x40 ≤ op.toNat ∧ op.toNat ≤ 0x59 then 8
  else if 0x60 ≤ op.toNat ∧ op.toNat ≤ 0x63 then 18
  else if op = 0x87 ∨ op = 0x88 then 18
  else if op = 0x6F then 1
  else if op = 0xA1 then 8
  else 0

/-- A reserved OP (R36). -/
def reservedOpcode (op : BitVec 8) : Bool :=
  let hi := op.toNat / 16
  let lo := op.toNat % 16
  match hi with
  | 0x0 => false
  | 0x1 => decide (lo > 6)
  | 0x2 => false
  | 0x3 => decide (lo > 0xA)
  | 0x4 => false
  | 0x5 => decide (lo > 9)
  | 0x6 => false
  | 0x7 => decide (lo > 4)
  | 0x8 => decide (lo > 8)
  | 0x9 => decide (lo > 7)
  | 0xA => decide (lo > 3)
  | 0xB => decide (lo > 6)
  | 0xC => decide (lo > 5)
  | _ => true

/-- The fields a form does not carry hold their implied values (R26, R33). -/
def Fields.fitsForm (op : BitVec 8) (f : Fields) : Bool :=
  match f.len with
  | .l64 => f.c == 0 && f.ty == impliedTy op && f.mod == 0 && f.x == 0 && f.imm == 0
  | .l96 => f.imm == 0
  | .l128 => true

/-- The bits of X that choose among the constructors of one OP choose this one; a value that no
sub-operation has stands with the first constructor, whose check of X refuses it (R40, check 9). -/
def Instr.subOk : Instr → Bool
  | .trap f => f.x.extractLsb' 10 2 != 1
  | .trapRd f => f.x.extractLsb' 10 2 == 1
  | .rteRetry f => f.x.extractLsb' 0 2 != 1 && f.x.extractLsb' 0 2 != 2 && f.x.extractLsb' 0 2 != 3
  | .rteSkip f => f.x.extractLsb' 0 2 == 1
  | .rteEnd f => f.x.extractLsb' 0 2 == 2
  | .rteTo f => f.x.extractLsb' 0 2 == 3
  | .rngDraw f => f.x.extractLsb' 0 2 != 1 && f.x.extractLsb' 0 2 != 2
  | .rngSetc f => f.x.extractLsb' 0 2 == 1
  | .rngGetc f => f.x.extractLsb' 0 2 == 2
  | .lsclStep f => f.x.extractLsb' 0 3 != 1 && f.x.extractLsb' 0 3 != 2 && f.x.extractLsb' 0 3 != 3 && f.x.extractLsb' 0 3 != 4 && f.x.extractLsb' 0 3 != 5
  | .lsclGet f => f.x.extractLsb' 0 3 == 1
  | .lsclSet f => f.x.extractLsb' 0 3 == 2
  | .lsclRdst f => f.x.extractLsb' 0 3 == 3
  | .lsclClrst f => f.x.extractLsb' 0 3 == 4
  | .lsclMode f => f.x.extractLsb' 0 3 == 5
  | .cinv f => f.x.extractLsb' 0 2 != 1
  | .cinvSector f => f.x.extractLsb' 0 2 == 1
  | .cwb f => f.x.extractLsb' 0 2 != 1 && f.x.extractLsb' 0 2 != 2
  | .cwbInv f => f.x.extractLsb' 0 2 == 1
  | .cwbCtx f => f.x.extractLsb' 0 2 == 2
  | .gbind f => f.x.extractLsb' 3 1 != 1
  | .gbindUnbind f => f.x.extractLsb' 3 1 == 1
  | .tlbiVa f => f.x.extractLsb' 0 2 != 1 && f.x.extractLsb' 0 2 != 2
  | .tlbiCtx f => f.x.extractLsb' 0 2 == 1
  | .tlbiAll f => f.x.extractLsb' 0 2 == 2
  | .pmsetBudget f => f.x.extractLsb' 0 1 != 1
  | .pmsetRead f => f.x.extractLsb' 0 1 == 1
  | _ => true

/-- A word that R36 or R17 refuses: LEN = 3 with the 32-bit word alone, or a reserved OP. -/
def reservedWord (w : DWord) : Bool :=
  if w.extractLsb' 0 2 = 3 then w.extractLsb' 32 32 == 0
  else reservedOpcode (w.extractLsb' 3 8)

/-- A 64-bit `nop` whose every field is 0 is the all-zero word (R24, R41). -/
def allZeroNop (f : Fields) : Bool :=
  f == { len := .l64, uni := false, dist := 0, pred := 0, setf := 0, d := 0, wait := 0,
         a := 0, b := 0, c := 0, ty := 0, mod := 0, x := 0, imm := 0 }

/-- Well formed: the encoder has words for it and the decoder reads it back from them. -/
def Instr.wf : Instr → Bool
  | .allZeroWord => true
  | .reservedOp w => reservedWord w
  | .nop f => f.fitsForm 0x00 && !allZeroNop f
  | i =>
    match i.opcode, i.fields with
    | some op, some f => f.fitsForm op && i.subOk
    | _, _ => false

end Sys2Proof
end

