-- ==== Sys2Proof/Decode.lean ====
section
/-! DEFINITION. From bytes to instructions and back (R17 to R36, spec/02_encoding.md). Decoding is total:
a word that is no instruction becomes `allZeroWord` or `reservedOp`, whose meanings are the traps of R39. -/

namespace Sys2Proof

/-- The little-endian bytes of a number, lowest first (R3). -/
def bytesOf (n : Nat) (w : BitVec 128) : List Byte :=
  (List.range n).map fun i => w.extractLsb' (8 * i) 8

/-- The number whose little-endian bytes are these (R3). -/
def ofBytes : List Byte → Nat
  | [] => 0
  | b :: bs => b.toNat + 256 * ofBytes bs

/-- The length in bytes (R17). -/
def Len.bytes : Len → Nat
  | .l64 => 8
  | .l96 => 12
  | .l128 => 16

/-- LEN (R17). -/
def Len.code : Len → BitVec 2
  | .l64 => 0
  | .l96 => 1
  | .l128 => 2

/-- The length a LEN gives (R17). -/
def Len.ofCode (c : BitVec 2) : Option Len :=
  match c.toNat with
  | 0 => some .l64
  | 1 => some .l96
  | 2 => some .l128
  | _ => none

/-- The fields of R20 in a word of a given length; fields the form does not carry are implied (R26, R33). -/
def Fields.ofBits (l : Len) (w : BitVec 128) : Fields where
  len  := l
  uni  := w.extractLsb' 2 1 == 1
  dist := w.extractLsb' 11 3
  pred := w.extractLsb' 14 4
  setf := w.extractLsb' 18 4
  d    := w.extractLsb' 22 10
  wait := w.extractLsb' 32 12
  a    := w.extractLsb' 44 10
  b    := w.extractLsb' 54 10
  c    := match l with | .l64 => 0 | _ => w.extractLsb' 64 10
  ty   := match l with | .l64 => impliedTy (w.extractLsb' 3 8) | _ => w.extractLsb' 74 6
  mod  := match l with | .l64 => 0 | _ => w.extractLsb' 80 4
  x    := match l with | .l64 => 0 | _ => w.extractLsb' 84 12
  imm  := match l with | .l128 => w.extractLsb' 96 32 | _ => 0

/-- The instruction of an OP with its fields (R36); X chooses among the sub-operations of one OP. -/
def ofOpcode (op : Nat) (f : Fields) : Option Instr :=
  match op with
  | 0x00 => some (.nop f)
  | 0x01 => some (.endWave f)
  | 0x02 => some (.br f)
  | 0x03 => some (.bc f)
  | 0x04 => some (.bu f)
  | 0x05 => some (.call f)
  | 0x06 => some (.ret f)
  | 0x07 => some (.jtab f)
  | 0x08 => some (.loop f)
  | 0x09 => some (.brk f)
  | 0x0A => some (.full f)
  | 0x0B => some (.endfull f)
  | 0x0C => some (.yield f)
  | 0x0D => some (.cbr f)
  | 0x0E => some (.cmjoin f)
  | 0x0F => some (.cmleave f)
  | 0x10 =>
    match (f.x.extractLsb' 10 2).toNat with
    | 1 => some (.trapRd f)
    | _ => some (.trap f)
  | 0x11 =>
    match (f.x.extractLsb' 0 2).toNat with
    | 1 => some (.rteSkip f)
    | 2 => some (.rteEnd f)
    | 3 => some (.rteTo f)
    | _ => some (.rteRetry f)
  | 0x12 => some (.sget f)
  | 0x13 => some (.sset f)
  | 0x14 => some (.bkpt f)
  | 0x15 => some (.waitFlag f)
  | 0x16 =>
    match (f.x.extractLsb' 0 3).toNat with
    | 1 => some (.lsclGet f)
    | 2 => some (.lsclSet f)
    | 3 => some (.lsclRdst f)
    | 4 => some (.lsclClrst f)
    | 5 => some (.lsclMode f)
    | _ => some (.lsclStep f)
  | 0x20 => some (.add f)
  | 0x21 => some (.sub f)
  | 0x22 => some (.mul f)
  | 0x23 => some (.mulhi f)
  | 0x24 => some (.mad f)
  | 0x25 => some (.min f)
  | 0x26 => some (.max f)
  | 0x27 => some (.abs f)
  | 0x28 => some (.andB f)
  | 0x29 => some (.orB f)
  | 0x2A => some (.xorB f)
  | 0x2B => some (.notB f)
  | 0x2C => some (.shl f)
  | 0x2D => some (.shr f)
  | 0x2E => some (.sra f)
  | 0x2F => some (.rot f)
  | 0x30 => some (.clz f)
  | 0x31 => some (.popc f)
  | 0x32 => some (.brev f)
  | 0x33 => some (.bfe f)
  | 0x34 => some (.bfi f)
  | 0x35 => some (.sel f)
  | 0x36 => some (.cmp f)
  | 0x37 => some (.mov f)
  | 0x38 => some (.movi f)
  | 0x39 => some (.lea f)
  | 0x3A => some (.addw f)
  | 0x40 => some (.fadd f)
  | 0x41 => some (.fsub f)
  | 0x42 => some (.fmul f)
  | 0x43 => some (.ffma f)
  | 0x44 => some (.fmin f)
  | 0x45 => some (.fmax f)
  | 0x46 => some (.fcmp f)
  | 0x47 => some (.fclass f)
  | 0x48 => some (.frnd f)
  | 0x49 => some (.fdiv f)
  | 0x4A => some (.fsqrt f)
  | 0x4B => some (.frcp f)
  | 0x4C => some (.frsq f)
  | 0x4D => some (.fexp2 f)
  | 0x4E => some (.flog2 f)
  | 0x4F => some (.fsin f)
  | 0x50 => some (.fcos f)
  | 0x51 => some (.cvt f)
  | 0x52 => some (.fscl f)
  | 0x53 => some (.vopt f)
  | 0x54 =>
    match (f.x.extractLsb' 0 2).toNat with
    | 1 => some (.rngSetc f)
    | 2 => some (.rngGetc f)
    | _ => some (.rngDraw f)
  | 0x55 => some (.vote f)
  | 0x56 => some (.shfl f)
  | 0x57 => some (.wred f)
  | 0x58 => some (.pset f)
  | 0x59 => some (.pop f)
  | 0x60 => some (.ld f)
  | 0x61 => some (.st f)
  | 0x62 => some (.ldsp f)
  | 0x63 => some (.stsp f)
  | 0x64 => some (.ldlit f)
  | 0x65 => some (.atom f)
  | 0x66 => some (.atomr f)
  | 0x67 => some (.red f)
  | 0x68 => some (.pf f)
  | 0x69 =>
    match (f.x.extractLsb' 0 2).toNat with
    | 1 => some (.cinvSector f)
    | _ => some (.cinv f)
  | 0x6A =>
    match (f.x.extractLsb' 0 2).toNat with
    | 1 => some (.cwbInv f)
    | 2 => some (.cwbCtx f)
    | _ => some (.cwb f)
  | 0x6B => some (.fence f)
  | 0x6C => some (.bar f)
  | 0x6D => some (.bara f)
  | 0x6E => some (.barw f)
  | 0x6F => some (.spatom f)
  | 0x70 => some (.carr f)
  | 0x71 => some (.cexp f)
  | 0x72 => some (.cwait f)
  | 0x73 => some (.ctest f)
  | 0x74 => some (.cinit f)
  | 0x80 => some (.cpy f)
  | 0x81 => some (.cpys f)
  | 0x82 => some (.cpym f)
  | 0x83 => some (.qclaim f)
  | 0x84 => some (.qpost f)
  | 0x85 => some (.accld f)
  | 0x86 => some (.accst f)
  | 0x87 => some (.aread f)
  | 0x88 => some (.awrite f)
  | 0x90 => some (.mloop f)
  | 0x91 => some (.mrdy f)
  | 0x92 => some (.mzero f)
  | 0x93 => some (.mdrn f)
  | 0x94 => some (.mdrnn f)
  | 0x95 => some (.mbank f)
  | 0x96 => some (.mfmt f)
  | 0x97 => some (.mstat f)
  | 0xA0 =>
    match (f.x.extractLsb' 3 1).toNat with
    | 1 => some (.gbindUnbind f)
    | _ => some (.gbind f)
  | 0xA1 => some (.gld f)
  | 0xA2 => some (.gsc f)
  | 0xA3 => some (.ghash f)
  | 0xB0 => some (.ctb f)
  | 0xB1 => some (.ctbn f)
  | 0xB2 => some (.ropen f)
  | 0xB3 => some (.rclose f)
  | 0xB4 => some (.rstat f)
  | 0xB5 => some (.coll f)
  | 0xB6 => some (.collx f)
  | 0xC0 => some (.csave f)
  | 0xC1 => some (.crest f)
  | 0xC2 =>
    match (f.x.extractLsb' 0 2).toNat with
    | 1 => some (.tlbiCtx f)
    | 2 => some (.tlbiAll f)
    | _ => some (.tlbiVa f)
  | 0xC3 =>
    match (f.x.extractLsb' 0 1).toNat with
    | 1 => some (.pmsetRead f)
    | _ => some (.pmsetBudget f)
  | 0xC4 => some (.halt f)
  | 0xC5 => some (.esig f)
  | _ => none

/-- The instruction of a word whose LEN is not 3; its bits above the length are not looked at. -/
def decodeWord (l : Len) (w : BitVec 128) : Instr :=
  if l = .l64 ∧ w.extractLsb' 0 64 = 0 then .allZeroWord
  else (ofOpcode (w.extractLsb' 3 8).toNat (Fields.ofBits l w)).getD (.reservedOp (w.extractLsb' 0 64))

/-- LEN of the first byte (R17). -/
def lenCode (bs : List Byte) : BitVec 2 := (bs.headD 0).extractLsb' 0 2

/-- The instruction at the head of a run of bytes, and the bytes after it; none where the bytes end before it does.
A word with LEN = 3 is read as 4 bytes and nothing after it is examined (R40). -/
def decode (bs : List Byte) : Option (Instr × List Byte) :=
  match Len.ofCode (lenCode bs) with
  | none => if bs.length < 4 then none
            else some (.reservedOp (BitVec.ofNat 64 (ofBytes (bs.take 4))), bs.drop 4)
  | some l => if bs.length < l.bytes then none
              else some (decodeWord l (BitVec.ofNat 128 (ofBytes (bs.take l.bytes))), bs.drop l.bytes)

/-- The length in bytes of an instruction as it lies in memory; an event has none. -/
def Instr.size : Instr → Nat
  | .allZeroWord => 8
  | .reservedOp w => match Len.ofCode (w.extractLsb' 0 2) with | none => 4 | some l => l.bytes
  | i => match i.fields with | some f => f.len.bytes | none => 0

/-- All 128 bits of an instruction with OP `op` (R20); the bits above its length are dropped by `encode`. -/
def Fields.toBits (op : BitVec 8) (f : Fields) : BitVec 128 :=
  f.imm ++ f.x ++ f.mod ++ f.ty ++ f.c ++ f.b ++ f.a ++ f.wait ++ f.d ++ f.setf ++ f.pred ++ f.dist ++ op ++
    (if f.uni then 1#1 else 0#1) ++ f.len.code

/-- The 128 bits an instruction's words are cut from; none for an event. -/
def Instr.bits : Instr → Option (BitVec 128)
  | .allZeroWord => some 0
  | .reservedOp w => some (w.setWidth 128)
  | i =>
    match i.opcode, i.fields with
    | some op, some f => some (f.toBits op)
    | _, _ => none

/-- The bytes of an instruction as they lie in memory, lowest first; none for an event. -/
def encode (i : Instr) : Option (List Byte) := i.bits.map (bytesOf i.size)

/-- What the decoder reads from a word of `nbits` bits, bit 0 the least significant bit of the first byte;
the bits above `nbits` are 0. -/
def decodeTableWord (nbits w : Nat) : Option Instr :=
  (decode (bytesOf 16 (BitVec.ofNat 128 (w % 2 ^ nbits)))).map (·.1)

end Sys2Proof
end

