-- ==== Sys2Proof/Machine/Dx8.lean ====
section
/-! DEFINITION. DX8, the eight-bit decade format (R63 to R66 of spec/03_numbers.md). -/

namespace Sys2Proof.Machine

/-- Tier z of a body, by its leading zeros from bit 6 (R63); 7 for the body 0. -/
def dx8Tier (body : Nat) : Nat := 7 - bitLen body

/-- The decade E and the fraction f with its width w of a finite non-zero body (R63). -/
def dx8Parts (body : Nat) : Int × Nat × Nat :=
  match dx8Tier body with
  | 0 => ((if body / 32 % 2 = 0 then -1 else 0), body % 32, 5)
  | 1 => ((match body / 8 % 4 with | 0 => -3 | 1 => -2 | 2 => 1 | _ => 2), body % 8, 3)
  | 2 => ((match body / 4 % 4 with | 0 => -5 | 1 => -4 | 2 => 3 | _ => 4), body % 4, 2)
  | 3 => ((match body / 2 % 4 with | 0 => -7 | 1 => -6 | 2 => 5 | _ => 6), body % 2, 1)
  | 4 => ((match body % 4 with | 0 => -9 | 1 => -8 | 2 => 7 | _ => 8), 0, 0)
  | _ => ((if body % 2 = 0 then -10 else 9), 0, 0)

/-- n / d rounded to nearest even at 12 significant bits, as (m, e) with value m times 2 to the e (R64). -/
def rne12 (n d : Nat) : Nat × Int :=
  let k := bitLen d + 20
  let q := n * 2 ^ k / d
  let st := n * 2 ^ k % d != 0
  let sh := bitLen q - 12
  let (r, _) := roundShift .rne false q (sh : Int) st
  (r, (sh : Int) - (k : Int))

/-- The decoded magnitude of a finite non-zero body (R64). -/
def dx8Mag (body : Nat) : Nat × Int :=
  let (ex, f, w) := dx8Parts body
  let num := 2 ^ w + 9 * f
  if ex ≥ 0 then rne12 (num * 10 ^ ex.toNat) (2 ^ w) else rne12 num (2 ^ w * 10 ^ (-ex).toNat)

/-- DX8D (R64): the exact value of a code. -/
def dx8Decode (code : Nat) : FVal :=
  let body := code % 128
  let neg := code / 128 % 2 == 1
  if body = 0 then (if neg then .nan else .fin false 0 0)
  else if body = 1 then .inf neg
  else let (m, e) := dx8Mag body; .fin neg m e

/-- Where a magnitude stands among the decoded ones: the nearest body under the tie rule of R65; 0 is the body of 0. -/
def dx8Nearest (m : Nat) (e : Int) : Nat :=
  let bodies := (List.range 126).map (· + 2)
  let val (b : Nat) : Nat × Int := if b = 0 then (0, 0) else dx8Mag b
  let le (x y : Nat × Int) : Bool := cmpMag x.1 x.2 y.1 y.2 != .gt
  let lo := bodies.foldl (fun acc b => if le (dx8Mag b) (m, e) && le (val acc) (dx8Mag b) then b else acc) 0
  let hi := bodies.foldl (fun acc b =>
    if le (m, e) (dx8Mag b) && (match acc with | none => true | some a => le (dx8Mag b) (dx8Mag a)) then some b else acc) none
  match hi with
  | none => lo
  | some h =>
    if cmpMag (val lo).1 (val lo).2 m e == .eq then lo
    else
      -- compare m - lo with hi - m, that is 2m with lo + hi, on one exponent
      let base := min e (min (val lo).2 (dx8Mag h).2)
      let at_ (x : Nat × Int) : Nat := x.1 * 2 ^ (x.2 - base).toNat
      let a := 2 * at_ (m, e)
      let b := at_ (val lo) + at_ (dx8Mag h)
      if a < b then lo
      else if b < a then h
      else if lo % 2 = 0 ∧ h % 2 = 1 then lo
      else if h % 2 = 0 ∧ lo % 2 = 1 then h
      else lo

/-- DX8E (R65): the code of an exact value and the flags it sets. -/
def dx8Encode (x : FVal) (sat : Bool) : Nat × FFlags :=
  match x with
  | .nan => (0x80, {})
  | .inf n => ((if n then 0x80 else 0) + 1, {})
  | .fin n m e =>
    if m = 0 then (0, {})
    else
      let s := if n then 0x80 else 0
      let top := dx8Mag 0x03
      if cmpMag m e top.1 top.2 == .gt then (s + (if sat then 3 else 1), { ofl := true, inx := true })
      else if bitLen m + e < -60 then (0, { ufl := true, inx := true })
      else
        let b := dx8Nearest m e
        if b = 0 then (0, { ufl := true, inx := true })
        else
          let v := dx8Mag b
          (s + b, { inx := cmpMag v.1 v.2 m e != .eq })

end Sys2Proof.Machine
end

