-- ==== Sys2Proof/Machine/State.lean ====
section
/-! DEFINITION. The state of one package: everything the spec gives the machine, as plain data. -/

namespace Sys2Proof.Machine

/-- A write to one register element of a wave, as a result carries it. -/
inductive Wr where
  | v (reg lane : Nat) (val : Word)   -- one lane of a vector register
  | s (reg : Nat) (val : Word)        -- a scalar register
  | p (reg : Nat) (mask bits : Lanes) -- the masked bits of a predicate
  | em (val : Lanes)                  -- the execution mask of the issuing arm
deriving DecidableEq, Repr

/-- A short result not yet available: the issue slot from which it is read (R295). -/
structure Pend where
  due : Nat
  wrs : List Wr
deriving DecidableEq, Repr

/-- The error state of a flag (R297): the first code, later failures, and the address of the first record. -/
structure FErr where
  code  : BitVec 16
  later : Nat
  addr  : DWord
deriving DecidableEq, Repr

/-- A hardware loop record (R301). -/
structure LoopRec where
  active : Bool
  cnt    : Word
  start  : DWord
  stop   : DWord
deriving DecidableEq, Repr

/-- An entry of a divergence stack (R311). -/
structure DivEntry where
  j     : DWord
  fpc   : DWord
  fmask : Lanes
  rmask : Lanes
  la0   : Bool
  la1   : Bool
  fdone : Bool
deriving DecidableEq, Repr

/-- An entry of the full stack (R301, R313) and the arm that pushed it. -/
structure FullEntry where
  em    : Lanes
  depth : Nat
  taken : Bool
deriving DecidableEq, Repr

/-- One arm's control state (R301): the convergent wave has one, with `taken` false.
`last` is the issue slot of its latest instruction, `free` says that DIST counts as satisfied (R294), `done` is the
address of an instruction just completed without a transfer (R315), `parked` is R310, `atFull` a wait at `full` (R313): 1, or 2 once the
other arm's region went first; `stalled` a wait at issue since the last event. -/
structure Arm where
  taken  : Bool
  pc     : DWord
  em     : Lanes
  errs   : List (Nat × FErr)
  lp0    : LoopRec
  lp1    : LoopRec
  stack  : List DivEntry
  last   : Nat
  free   : Bool
  done   : Option DWord
  parked : Bool
  atFull : Nat
  stalled : Bool
deriving DecidableEq, Repr

/-- The control state of R301; `other` is the arm that is not issuing (dual-path), `la0` and `la1` the loop records
active when the arms were made (R317). -/
structure Ctl where
  live  : Lanes
  arm   : Arm
  other : Option Arm
  join  : DWord
  la0   : Bool
  la1   : Bool
  full  : List FullEntry
deriving DecidableEq, Repr

/-- The registers of a wave that a checkpoint holds (R141, R301, R322). Vector element (reg, lane) has key 64 reg + lane.
`bad` are the elements with a double-bit error (R152), a scalar register n as 2^20 + n. -/
structure Regs where
  v     : Cells 32
  s     : Cells 32
  p     : Cells 64
  rng   : Cells 32
  nstat : Word
  lsa   : Word
  lsb   : Word
  ctl   : Ctl
  cmm   : BitVec 16
  next  : Cells 32
  pend  : List Pend
  bad   : List Nat
deriving DecidableEq, Repr

/-- An operation outstanding on a flag (R297). `inT` and `inF` say which banks count it (R309); `fin` that it has
finished and awaits retirement; `acq` that later memory instructions wait for it (R334); `memb` the set of a
`cmjoin` (true) or `cmleave` awaiting its home (R320); `eng` an engine instruction's (R208); `dst` the registers a load will
write (R156), a scalar register n as 1024 + n; `outer` the banks that count it in the control state frozen by a trap (R351). -/
structure Op where
  id    : Nat
  flag  : Nat
  inT   : Bool
  inF   : Bool
  fin   : Bool
  wrs   : List Wr
  nstat : Word
  err   : Option FErr
  acq   : Bool
  load  : Bool
  memb  : Option (Nat × Bool)
  eng   : Bool
  dst   : List Nat
  outer : Option (Bool × Bool)
deriving DecidableEq, Repr

/-- The copy of a kernel header a launch runs with (R51, R52). -/
structure Kernel where
  hdr     : DWord
  flags   : Nat
  vregs   : Nat
  sregs   : Nat
  scratch : Nat
  waves   : Nat
  energy  : Nat
  quads   : Nat
  gridMask : Nat
  msetMask : Nat
  robjMask : Nat
  fpmode  : Nat
  trapOff : Nat
  codeSize : Nat
deriving DecidableEq, Repr

/-- An error record (R359) before SEQ is known and each ring's OVF; `wave` is SLOT, CORE, WAVE and TEAM when WVALID, `ovf` the OVF of the
context ring's copy as a trap frame shows it. -/
structure Record where
  chip   : Nat
  ctx    : Nat
  engine : Nat
  precise : Bool
  action : Nat
  code   : BitVec 16
  launch : Nat
  wave   : Option (Nat × Nat × Nat × Nat)
  addr   : DWord
  detail : DWord
  pc     : DWord
  gen    : Word
  ovf    : Bool
deriving DecidableEq, Repr

/-- The trap frame (R351, R352): the record's fields and the frozen control state. -/
structure Frame where
  word0  : Word
  code   : BitVec 16
  addr   : DWord
  detail : DWord
  xpc    : DWord
  em     : Lanes
  seqNo  : Word
  ctl    : Ctl
deriving DecidableEq, Repr

/-- A lane's part of a memory access: what is written or compared, and the lane. -/
structure Part where
  lane : Nat
  data : QWord
  cmp  : QWord
deriving DecidableEq, Repr

/-- What an access does at its point. -/
inductive AKind where
  | load
  | store
  | atomic (opx ty : Nat) (ret : Nat)   -- ret: 0 nothing, 1 the old value, 2 the new value
  | barrier (n : Nat) (waits : Bool)    -- an arrival at a barrier word (R346)
  | obj (opn b : Nat)                   -- a completion object (R138): 0 cinit, 1 carr, 2 cexp, 3 ctest, 4 cwait
  | clean (mode : Nat)                  -- `cwb` (R120): 0 a sector, 1 a line, 2 a context's lines
deriving DecidableEq, Repr

/-- Where an access stands: in its core's port, forwarded past its home slice (R81), or waiting there for a sector fill
(R102), a promotion (R336), a back-invalidate response (R375) or the host's ownership (R102). -/
inductive AStage where
  | port | fwd | fill | promo | inval | host
deriving DecidableEq, Repr

/-- An access of a wave on its way to its point (R154, R331, R333). `pa` is local when `peer` is none. A load's part holds
the bytes of held stores in `data` and their byte mask in `cmp` (R323). `sub` counts 32-bit registers from the
destination's first. An atomic carries every lane that names its word. `fenced` says that a core-scope `fence.rel` of the wave came
before it (R342). -/
structure Acc where
  id     : Nat
  op     : Nat
  wave   : Nat
  core   : Nat
  ctx    : Nat
  kind   : AKind
  sp     : Bool
  pa     : Nat
  va     : DWord
  size   : Nat
  parts  : List Part
  dst    : Option Nat
  sub    : Nat
  cls    : Nat
  slot   : Nat
  tenant : Bool
  hint   : Nat
  acq    : Bool
  rel    : Bool
  scope  : Nat
  l1     : Bool
  stage  : AStage
  peer   : Option Nat
  launch : LKey
  fenced : Bool
deriving DecidableEq, Repr

/-- A run-ahead under an unresolved collective branch (R301, R322). `fails` are the records of its operations' failures, which are
written if the prediction holds (R324). -/
structure Ahead where
  set    : Nat
  inst   : Word
  pred   : Bool
  takenPc : DWord
  fallPc : DWord
  ckpt   : Regs
  count  : Nat
  stores : List (List Acc)
  fault  : Option (BitVec 16 × DWord × DWord)
  fails  : List Record
  op     : Nat
  voted  : Bool
deriving DecidableEq, Repr

/-- What a wave is doing. -/
inductive Status where
  | run
  | parked (code : BitVec 16)                    -- R354: parked by a trap with this code
  | halted                                       -- R367: parked by halt
  | stopped                                      -- R354: waits for the cancel its trap brings
  | sleepBar (bar op : Nat)                      -- R345
  | sleepWord (va : DWord) (scope op : Nat) (tok : Bool) -- R346
  | ended
deriving DecidableEq, Repr

/-- A wave (R141, R275, R301). `notBefore` is the issue slot a yield holds it to (R299); `relFence` says that it has issued a
`fence.rel` at core scope, after which its relaxed writes count as releases (R342); `seen` are the core-scope releases whose locations its
relaxed reads have met (core and release sequence number), `peersRead` the other packages they have read at (R342). -/
structure Wave where
  uid    : Nat
  core   : Nat
  slot   : Nat
  team   : Nat
  idx    : Nat
  lteam  : Nat
  lwave  : Nat
  chip   : Nat
  ctx    : Nat
  key    : LKey
  k      : Kernel
  r      : Regs
  ops    : List Op
  status : Status
  preempted : Bool
  ahead  : Option Ahead
  frame  : Option Frame
  cancel : Option (Record × Word)
  excl   : List (Nat × Word)
  notBefore : Nat
  last   : Option Nat
  relFence : Bool
  seen   : List (Nat × Nat)
  peersRead : List Nat
deriving DecidableEq, Repr

/-- A team barrier (R343). -/
structure Bar where
  phase   : Bool
  arrived : Nat
  expect  : Nat
  waiters : BitVec 16
deriving DecidableEq, Repr

/-- A translation held by a TLB: `unit` is a core, or 256 + die for a die TLB (R88). -/
structure TlbEnt where
  unit : Nat
  ctx  : Nat
  va   : Nat
  size : Nat
  pa   : Nat
  cls  : Nat
  u    : Bool
  x    : Bool
  w    : Bool
deriving DecidableEq, Repr

/-- A table pointer held by a die's page-walk cache (R88): the table for `level` below the address bits `va`. -/
structure PwcEnt where
  die   : Nat
  ctx   : Nat
  level : Nat
  va    : Nat
  table : Nat
deriving DecidableEq, Repr

/-- A walk in flight in a die's miss-merge buffer, with the waves that joined it (R88, R91). -/
structure Walk where
  id   : Nat
  die  : Nat
  ctx  : Nat
  page : Nat
  waiters : List Nat
deriving DecidableEq, Repr

/-- A failed walk, kept until the waiting wave's instruction meets it (R91): the level and the code. -/
structure WalkFault where
  wave  : Nat
  page  : Nat
  level : Nat
  code  : BitVec 16
deriving DecidableEq, Repr

/-- An invalidation in progress (R94, R95): what it covers, the stores that come before it, whether it has begun, the
accesses it waits for, the operations whose stores a run-ahead holds that it waits for, and the operation it completes. -/
structure Inv where
  id   : Nat
  ctx  : Option Nat
  va   : Option DWord
  pre  : List Nat
  began : Bool
  accs : List Nat
  held : List Nat
  op   : Option (Nat × Nat)
deriving DecidableEq, Repr

/-- A translation pin of an engine transfer (R93). -/
structure Pin where
  owner : Nat
  ctx   : Nat
  va    : Nat
  size  : Nat
  pa    : Nat
  cls   : Nat
deriving DecidableEq, Repr

/-- An L1 line with its valid sectors and their copies (R149); `used` is its place in the replacement order. -/
structure L1Line where
  core    : Nat
  line    : Nat
  slot    : Nat
  sectors : List (Nat × List Byte)
  used    : Nat
deriving DecidableEq, Repr

/-- A 32-byte block held by a core's instruction cache (R19). -/
structure IBlock where
  core  : Nat
  block : Nat
  slot  : Nat
  bytes : List Byte
deriving DecidableEq, Repr

/-- An L2 line's tag (R78, R100): valid and dirty are by 256-byte sector. -/
structure L2Line where
  line   : Nat
  way    : Nat
  slot   : Nat
  tenant : Bool
  keep   : Bool
  valid  : BitVec 4
  dirty  : BitVec 4
  used   : Nat
deriving DecidableEq, Repr

/-- A promotion record (R336, R337): its point, the location, the releasing core and its release sequence number.
A record displaced by another is promoted before it goes. `loc` and `size` are the location's address and bytes (R331), `kettle` says
that the point is a Kettle. -/
structure Promo where
  sp   : Bool
  kettle : Bool
  loc  : Nat
  size : Nat
  core : Nat
  seqNo : Nat
  out  : Bool
deriving DecidableEq, Repr

/-- A promotion under way (R336): the access it holds up, the record's core and release sequence number, the accesses that core
must complete. -/
structure PromoReq where
  id    : Nat
  seqNo : Nat
  acc   : Option Nat
  sp    : Bool
  loc   : Nat
  size  : Nat
  core  : Nat
  need  : List Nat
  asked : Bool
  remote : Option (Nat × Nat)
deriving DecidableEq, Repr

/-- A `fence` that has issued (R342): its serial number stands between those of the accesses before and after it. `asked`
says that a job-scope fence has gone to launch chip 0. -/
structure Fence where
  id    : Nat
  wave  : Nat
  op    : Nat
  core  : Nat
  ctx   : Nat
  rel   : Bool
  acq   : Bool
  sc    : Bool
  scope : Nat
  asked : Bool
deriving DecidableEq, Repr

/-- Where a piece of a collective's input lies while the collective is under way, with the runs of its bytes that have been written
since: byte offset in the input and length (R268). -/
structure InWatch where
  ctx  : Nat
  comm : Nat
  inst : Word
  off  : Nat
  pa   : Nat
  n    : Nat
  hits : List (Nat × Nat)
deriving DecidableEq, Repr

/-- Whose request at another package awaits its answer (R74, R134, R338, R342, R413): a copy's, a device's counter, a collective's output,
a fence's, or a `pf`'s fill of an L1 (R120). -/
inductive PeerFor where
  | copy (id : Nat)
  | device (ctx engine : Nat) (key : Option LKey) (va : DWord)
  | coll (ctx comm : Nat) (inst : Word)
  | fence (id : Nat)
  | fill (a : Acc)
deriving DecidableEq, Repr

/-- A write of an engine that another package has not yet answered: the request's number, and whose it is. -/
structure PeerOut where
  id   : Nat
  whose : PeerFor
deriving DecidableEq, Repr

/-- An engine's write to a line the host may hold, which waits for the host's response (R375): its number, its key slot, class, address
and bytes, whether it adds to the word there, whether it keeps the location's promotion records, and the write that comes before it. -/
structure HostWrite where
  id     : Nat
  slot   : Nat
  cls    : Nat
  pa     : Nat
  bytes  : List Byte
  add    : Bool
  atomic : Bool
  tenant : Bool
  hint   : Nat
  prior  : Option Nat
deriving DecidableEq, Repr

/-- Memory, caches, translation and scratchpad. An unlisted byte of `mem` reads 0 (log 2); an entry of `secKey` is one
more than the key slot a sector was last written under, 0 where it never was. `peerHeld` are other packages' acquires that wait
for a promotion (R336), `spoilt` the sectors written back with an error, and their key slots, whose record of 0x0511 is
yet to be written (R104), `peerOuts` engine writes that wait for another package, `hostWrites` those that wait for the host, `inWatch` the inputs of collectives under way,
`shown` the releases whose locations other packages have read since (R342): package, core, release sequence number. -/
structure MemSys where
  mem     : Cells 8
  secKey  : Cells 16
  poison  : List Nat
  spoilt  : List (Nat × Nat)
  l2      : List L2Line
  l1      : List L1Line
  icache  : List IBlock
  tlb     : List TlbEnt
  pwc     : List PwcEnt
  walks   : List Walk
  faults  : List WalkFault
  invs    : List Inv
  pins    : List Pin
  port    : List Acc
  promos  : List Promo
  promoReqs : List PromoReq
  peerHeld : List PeerReq
  peerOuts : List PeerOut
  inWatch : List InWatch
  hostWrites : List HostWrite
  shown   : List (Nat × Nat × Nat)
  sp      : Cells 8
  spPoison : List Nat
  acc     : Cells 32
  useStamp : Nat
deriving DecidableEq, Repr

/-- What a copy moves from or to (R132). -/
inductive CEnd where
  | mem (va : DWord)
  | sp (core off : Nat)
  | acc (core row : Nat)
deriving DecidableEq, Repr

/-- A copy in flight (R133 to R136): `off` bytes are done, `total` in all; a queue packet's copy names its packet. -/
structure Copy where
  id     : Nat
  core   : Nat
  wave   : Option (Nat × Nat)      -- the issuing wave and its operation
  packet : Option (Nat × Nat)      -- queue and slot of a COPY packet
  ctx    : Nat
  priv   : Bool
  src    : CEnd
  dst    : CEnd
  pitch  : Nat                     -- accld, accst: bytes between rows; else 0
  multi  : List Nat                -- cpym: where the destination begins in each core served, core * 2^19 + offset
  skipped : Bool                   -- cpym: a core of the set was skipped (0x0622)
  pat    : Option (Nat × Nat × List Nat × List Int)   -- pattern number, element size, counts, strides
  total  : Nat
  off    : Nat
  obj    : Option Nat              -- completion object, core * 2^19 + offset
  hint   : Nat
  launch : LKey
  after  : Nat                     -- accesses of the wave older than this come first (R134)
  suspended : Bool
  moving : Nat                     -- bytes sent to another package and not yet answered (R134)
  peerFail : Option (BitVec 16)    -- the code another package answered
deriving DecidableEq, Repr

/-- A wait on a completion object (R138). -/
structure CWait where
  core : Nat
  off  : Nat
  parity : Bool
  wave : Nat
  op   : Nat
deriving DecidableEq, Repr

/-- A membership-set table entry (R318). -/
structure MSet where
  home    : Nat
  expect  : Nat
  exclude : Bool
deriving DecidableEq, Repr

/-- The live state of a membership set at its home (R319). `votes` are those of CUR, none meaning an exclusion;
`gone` the contributions of members that have left since, `early` what came for a later instance. -/
structure SetHome where
  ref    : SetRef
  njoin  : Nat
  formed : Bool
  cur    : Word
  votes  : List (Member × Option Vote)
  gone   : List (Option Vote)
  early  : List (Word × Member × Option Vote)
  chips  : List Nat
deriving DecidableEq, Repr

/-- An outcome a chip keeps (R319): taken or not, with the error of a disagreement. -/
structure Outc where
  ref   : SetRef
  inst  : Word
  taken : Bool
  err   : Bool
deriving DecidableEq, Repr

/-- A launch in progress on this chip (R263, R277, R279). `chips` are job chip numbers in list order. -/
structure Launch where
  key     : LKey
  ctx     : Nat
  prio    : Nat
  k       : Option Kernel
  karg    : DWord
  gx : Nat
  gy : Nat
  gz : Nat
  chips   : List Nat
  index   : Nat                    -- this chip's index in the list
  gen     : Word                   -- the stamp (R263)
  stage   : Nat                    -- 0 at its start barrier, 1 running, 2 retired here, 3 failed
  arrived : List Nat               -- chips that arrived at the start barrier (at the consuming chip)
  seqNo   : Word                   -- the start barrier's sequence number
  next    : Nat                    -- the next team index to admit
  live    : Nat                    -- teams admitted and not ended
  retired : List Nat               -- chips that reported retirement (at the consuming chip)
  scope   : Nat
  compl   : DWord
  since   : Nat                    -- clock from which its next team has waited (R292)
  order   : Nat                    -- order in which launches started (R292)
  overWeight : Bool                -- 0x0616 has been written (R292)
  firstAdmitted : List Nat         -- cores that have admitted a team (R19)
  overdue : Bool                   -- its next team has waited 65,536 clocks (R292)
  hdr     : DWord                  -- the kernel header's address
  slotVa  : DWord                  -- the packet's slot address
  phase   : Option Nat             -- the phase of the graph whose node it is (R282, R286)
  cancelled : Bool                 -- a cancel covers it: it retires without its COMPL (R286)
deriving DecidableEq, Repr

/-- A graph node (R280). -/
structure GNode where
  words : List DWord
  preds : List Nat
  stage : Nat                      -- 0 waiting, 1 started, 2 retired
deriving DecidableEq, Repr

/-- A graph in progress (R280, R281). -/
structure Graph where
  id    : Nat
  ctx   : Nat
  queue : Nat
  slot  : Nat
  phase : Nat
  last  : Bool
  scope : Nat
  compl : DWord
  nodes : List GNode
  failed : Bool
deriving DecidableEq, Repr

/-- A packet taken and not yet complete (R126, R128). `stage` 0 waits to begin, 1 has begun. -/
structure Packet where
  queue : Nat
  slot  : Nat
  words : List DWord
  stage : Nat
  table : Option (Sum (BitVec 16 × DWord) (List Byte))   -- GRAPH: what reading its node table gave (R280)
  dropped : List Nat               -- GRAPH: nodes cancelled before it began (R286)
deriving DecidableEq, Repr

/-- A registered queue (R123, R126, R127, R414). -/
structure Queue where
  num   : Nat
  ring  : DWord
  widx  : DWord
  ridx  : DWord
  log2  : Nat
  prio  : Nat
  ctx   : Nat
  widxPa : Nat
  next  : Nat
  signalled : Bool
  stopped : Bool
  fault : Option Nat               -- slot index whose access failed and was recorded (R414)
  packets : List Packet
  unreg : Bool
  looking : Bool
  reread : Option Nat
  served : Nat                     -- round robin among queues of one level
deriving DecidableEq, Repr

/-- An L2 slice's registers (R108). -/
structure Slice where
  mask1   : BitVec 16
  mask0   : BitVec 16
  pairlim : Nat
deriving DecidableEq, Repr

/-- The part's fixed capabilities (R13, R378). -/
structure Cap where
  part    : BitVec 16
  coreMap : BitVec 256
  hbmMap  : BitVec 12
  portMap : BitVec 16
  fp64    : Bool
  sgather : Bool
deriving DecidableEq, Repr

/-- A node of the canonical tree with a value for each of the 4096 cells (R199): every cell's stack has the same tags,
so one list of nodes, top first, holds all the stacks. Cell (i, c) is value 64 i + c. -/
structure MNode where
  level : Nat
  index : Nat
  vals  : List Word
deriving DecidableEq, Repr

/-- A bank of 16 x 64 elements and the format it latched (R200); element (kk, column) has key 64 kk + column. -/
structure Bank where
  fmt  : Nat
  vals : Cells 16
deriving DecidableEq, Repr

/-- What an engine instruction does (R209). -/
inductive MCmd where
  | zero (int : Bool) (k f : Nat)
  | fmt (ty : Nat)
  | bank (base : Nat)
  | loop (base addr steps l0 : Nat) (ainc binc : Int) (afmt done : Nat)
  | drn (ty : Nat) (mode : BitVec 4) (ftz addc rel : Bool) (drow crow : Nat)
  | drnn (ebase : DWord) (stride : Int) (robj : Nat) (rel : Bool)
deriving DecidableEq, Repr

/-- An engine instruction queued for a quad (R200, R205), with its operation in each member's wave (R208). -/
structure MEntry where
  cmd  : MCmd
  ops  : List (Nat × Nat)
deriving DecidableEq, Repr

/-- What the engine, or the issue checks, hold for one quad that has or awaits the claim (R200, R205). The fields
named `i` are as of the latest instruction issued: kind, K, first leaf, next leaf, start, B format, format of a preloaded
bank, loads, and whether it was one that releases the claim. `early` are the registers a member wrote while it had handed over a block
that no load named yet: wave, blocks handed over, register (R207). -/
structure QuadSt where
  team  : Nat
  quad  : Nat
  queue : List MEntry
  ikind : Bool
  ik    : Nat
  iF    : Nat
  inext : Nat
  istart : Nat
  ibfmt : Nat
  ibpre : Option Nat
  rdy   : List Nat
  loads : Nat
  iloads : Nat
  irel  : Bool
  early : List (Nat × Nat × Nat)
deriving DecidableEq, Repr

/-- The register block of a bank load (R207): its number since the claim, its first register and how many, the operation of
the `mloop` or `mbank` in each member, the registers written while held, and how many queued `mzero`s come before it (R210). One that is
`old` was handed over before RDY last went to 0 or the claim was given up. -/
structure HeldBlock where
  team : Nat
  quad : Nat
  num  : Nat
  reg  : Nat
  n    : Nat
  ops  : List (Nat × Nat)
  hit  : List (Nat × Nat)
  zeros : Nat
  old  : Bool
deriving DecidableEq, Repr

/-- A matrix engine (R200). `plan` are the blocks of the loads issued, `taint` that a held register was written (R207). -/
structure Engine where
  claim   : Option QuadSt
  pending : List QuadSt
  lastQuad : Option (Nat × Nat)
  kind    : Bool
  k       : Nat
  f       : Nat
  next    : Nat
  start   : Nat
  bfmt    : Nat
  bank0   : Bank
  bank1   : Bank
  nb      : Bool
  bpre    : Bool
  poison  : Bool
  taint   : Bool
  plan    : List HeldBlock
  stack   : List MNode
deriving DecidableEq, Repr

/-- A team (R142, R206, R226, R343). `wins` are the accumulator windows of its quads, `saved` the matrix
state it was restored with until its claim is granted again (R220). -/
structure Team where
  uid   : Nat
  core  : Nat
  ctx   : Nat
  key   : LKey
  idx   : Nat
  k     : Kernel
  base  : Nat
  slot0 : Nat
  wins  : List Nat
  bars  : List (Nat × Bar)
  saved : Option Engine
deriving DecidableEq, Repr

/-- A grid descriptor as a handle holds it (R224, R226). -/
structure Grid where
  robj  : Nat
  log2t : Nat
  efmt  : Nat
  log2f : Nat
  levels : Nat
  dims  : Nat
  base  : DWord
  res   : List Nat
  mults : List Word
deriving DecidableEq, Repr

/-- A lattice instruction in progress (R233, R234, R237): `gsc` when `grads` is present, a `gbind` when `bindTo` is.
Sources are read at issue (R167), register i of a group in lane l under key 64 i + l. Within the group and level in progress `lane`
lanes are done and `got` holds the entries a `gld` has read for the next lane, none for one that cannot be read (R236). -/
structure Lattice where
  id     : Nat
  core   : Nat
  wave   : Nat
  op     : Nat
  team   : Nat
  ctx    : Nat
  priv   : Bool
  grid   : Option Grid
  bindTo : Option (Nat × DWord)
  lanes  : Lanes
  dst    : Nat
  coords : Cells 32
  grads  : Option (Cells 32)
  samples : Cells 32
  group  : Nat
  level  : Nat
  after  : Nat
  suspended : Bool
  lane   : Nat
  got    : List (Option (List Byte))
deriving DecidableEq, Repr

/-- A reduction object's descriptor (R239). -/
structure RDesc where
  rbase  : DWord
  m      : Nat
  n      : Nat
  closes : Nat
  cscope : Nat
  accum  : Bool
  sat    : Bool
  ftz    : Bool
  fmt    : Nat
  opr    : Nat
  sparse : Bool
  ccount : DWord
  spbase : DWord
  log2s  : Nat
deriving DecidableEq, Repr

/-- An entry of a reduction-object table (R241). `closes` are those received by each slice; `finished` the slices that
have done R245; `doneElems` the elements completed, poisoned ones among them; `phase` the phase of the launch that opened it (R286). -/
structure RObj where
  idx    : Nat
  state  : Nat
  home   : Bool
  chip   : Nat
  oseq   : Nat
  bind   : Nat
  launch : LKey
  desc   : RDesc
  closes : List (Nat × Nat)
  finished : List Nat
  doneElems : List Nat
  poisoned : List Nat
  lateClose : List (Nat × Nat)
  phase  : Option Nat
deriving DecidableEq, Repr

/-- A partial waiting in a core or port buffer and the clock at which it came (R112). -/
structure Waiting where
  part : Partial
  since : Nat
deriving DecidableEq, Repr

/-- A presence filter of a slice (R116). -/
structure Filter where
  ctx  : Nat
  idx  : Nat
  bits : BitVec 512
deriving DecidableEq, Repr

/-- A home slice's pairing state (R109, R113, R116). `loose` are the objects that spilled while no filter was free. -/
structure HomeBuf where
  slice   : Nat
  entries : List Partial
  filters : List Filter
  loose   : List (Nat × Nat)
deriving DecidableEq, Repr

/-- What is still on its way through a core's pairing path or the mesh, in order (R112, R244). `sent` is the core whose port a partial entered,
and its place among the accesses there (R390). -/
inductive Mesh where
  | part (slice : Nat) (p : Partial) (sent : Option (Nat × Nat))
  | closeOut (dst ctx idx oseq op : Nat) (key : LKey)               -- on its way to another chip
  | close (slice ctx idx oseq : Nat) (src : Option Nat) (op : Nat) (key : LKey)  -- src: the chip to acknowledge, if another
deriving DecidableEq, Repr

/-- A communicator entry (R265). -/
structure Comm where
  prio  : Nat
  sizes : List Nat
  bufKib : Nat
  ranks : List Nat
deriving DecidableEq, Repr

/-- A collective descriptor (R266). -/
structure CDesc where
  src : DWord
  dst : DWord
  ndim : Nat
  log2lpr : Nat
  cscope : Nat
  sat : Bool
  ftz : Bool
  fmt : Nat
  opr : Nat
  ccount : DWord
  extents : List Nat
  part : Nat
  outmap : Nat
  inmap : Nat
deriving DecidableEq, Repr

/-- A collective instance on this chip (R269 to R272). `starts` are the chips whose start has come, with their digests;
`inputs` the elements received: chip, global index, value; `sent` the input bytes sent and `written` the output bytes written. One that has not `started` here
may hold what came early, or be marked. `stage` is 0 in flight, 1 complete, 2 aborted, with the abort's code. -/
structure Coll where
  comm   : Nat
  inst   : Word
  started : Bool
  desc   : Option CDesc
  wave   : Option (Nat × Nat)
  packet : Option (Nat × Nat)
  launch : Option LKey
  starts : List (Nat × CollDigest)
  inputs : List (Nat × Nat × DWord)
  sent   : Nat
  written : Nat
  stage  : Nat
  code   : Nat
  after  : Nat
deriving DecidableEq, Repr

/-- A context (R276) and what the chip keeps for it. -/
structure Ctx where
  ctx    : Nat
  tenant : Bool
  keySlot : Nat
  system : Bool
  transRev : Word
  ptRoot : DWord
  patBase : DWord
  commTab : Nat
  errRing : DWord
  saveArea : DWord
  phaseCtr : DWord
  jobCtr : DWord
  gen    : Word
  seed   : DWord
  scopes : List (Nat × BitVec 256)
  msets  : List (Nat × MSet)
  comms  : List (Nat × Comm)
  cur    : Nat
  closing : Bool
  broken : List Nat
  robjs  : List RObj
  setHomes : List SetHome
  outcomes : List Outc
  colls  : List Coll
  collNext : List (Nat × Word)
  collServed : List (Nat × Nat)    -- when each communicator was last served (R270)
  modes  : BitVec 128
  ringOvf : Bool
  stopped : Bool
  saved  : Bool
  restoring : Option (List (Nat × Word))
  ending : Bool
  chipsOver : List Nat             -- chips where its end has been carried out (R286)
deriving DecidableEq, Repr

/-- A Fedeux port (R260 to R262). -/
structure Port where
  peer    : Nat
  width   : Nat
  bypass  : Bool
  enable  : Bool
  fails   : List (Nat × Nat)
  resends : Nat
  buf     : List Waiting
deriving DecidableEq, Repr

/-- A team image as its bytes hold it (R365): `id` is its number, `top` is above every number that names a wave, a team, an operation, a copy
or an access in it. `held` says that the save freed the team and nothing has restored it since; `addr` and `size` are the place of an image in a
save area. -/
structure Image where
  id    : Nat
  top   : Nat
  addr  : Nat
  size  : Nat
  ctx   : Nat
  held  : Bool
  team  : Team
  waves : List Wave
  engine : Option Engine
  copies : List Copy
  cwaits : List CWait
  lattices : List Lattice
  inSaveArea : Bool
deriving DecidableEq, Repr

/-- A row of a host access, a link message or a response that leaves the package. -/
inductive Out where
  | flit (dst : Nat) (m : Msg)
  | msix (vector : Nat)
  | bus (data : List Word) (ok : Bool)            -- a completion of a CXL.io or CXL.mem access
  | backInv (line : Nat)                          -- R375
  | snoop (addr : Nat) (data : Option (List Byte)) -- R376: the answer, with a dirty copy's 64 bytes
  | spdm (code : Nat) (words : List (BitVec 256)) (sig : Option (BitVec 3072))
  | i3c (data : Word) (ok : Bool)
deriving DecidableEq, Repr

/-- A job-wide command being carried out on this chip (R286, R363, R364, R412): the command, its context, the launches it covers
(all of the context's when there is no list), whether the context ends with it, and the chip that waits for its end. -/
structure JobWait where
  cmd    : Nat
  ctx    : Nat
  keys   : Option (List LKey)
  ends   : Bool
  origin : Option Nat
deriving DecidableEq, Repr

/-- The errors each unit's code has corrected, and the parity errors the caches met (R76, R104, R148, R151, R152). -/
structure EccCounts where
  hbm    : Nat
  l2     : Nat
  l1     : Nat
  icache : Nat
  sp     : Nat
  regs   : Nat
deriving DecidableEq, Repr

/-- A section of a fatal dump before it is written: kind, whether a source word was uncorrectable, index and bytes (R373). -/
structure Section where
  kind  : Nat
  bad   : Bool
  index : Nat
  bytes : List Byte
deriving DecidableEq, Repr

/-- A fatal dump being written (R372, R373): the fatal record and its SEQ, %clock at the start, the sections, how many are written, and
whether a second failure has stopped it. -/
structure Dump where
  words   : List DWord
  seqNo   : Word
  time    : Nat
  sections : List Section
  written : Nat
  halted  : Bool
deriving DecidableEq, Repr

/-- The power, reset, mailbox, security and management state of the package (R371 to R384). -/
structure Pkg where
  cap       : Cap
  resetCause : Word
  errPend   : Bool
  mbBusy    : Bool
  mbCmd     : BitVec 16
  mbStat    : BitVec 16
  mbData    : Cells 64
  keys      : List (Nat × BitVec 512)
  keyLost   : List (Nat × BitVec 512)
  hdm       : List (Nat × Nat × Bool)
  hostHeld  : List Nat
  hostOwned : List Nat
  routes    : List (Nat × Nat)
  barTmo    : Nat
  chipNo    : Nat
  manifest  : Option Nat
  secVersion : Nat
  fwImage   : Option (BitVec 256)
  link      : Option (Nat × Nat)
  seqNo     : Word
  pkgRing   : Option Nat
  pkgBuf    : List (List DWord)
  pkgDropped : Nat
  pkgOvf    : Bool
  dump      : Nat
  dumping   : Option Dump
  readings  : Nat
  launchSeq : Word
  mbWaits   : List Nat
  jobs      : List JobWait
  fatal     : Option (List DWord × Word)
  ecc       : EccCounts
deriving DecidableEq, Repr

/-- The storage whose code corrects a single error (R76, R104, R148, R152). -/
inductive EccUnit where
  | hbm | l2 | sp | regs
deriving DecidableEq, Repr

/-- A soft error that strikes storage. Its code detects it and cannot correct it (R104, R148, R152, R362): an 8-byte scratchpad
word, a register element of a wave, an L2 sector, an entry of a slice's pairing buffer, the dispatch or arbiter storage. Or a parity
error in a sector of a core's L1 or a line of its instruction cache (R151), or an error that is corrected. -/
inductive Upset where
  | l1Sector (core pa : Nat)
  | icacheLine (core block : Nat)
  | corrected (unit : EccUnit)
  | spWord (core word : Nat)
  | register (wave key : Nat)
  | l2Sector (sector : Nat)
  | pairing (slice entry : Nat)
  | storage
deriving DecidableEq, Repr

/-- The state of one package. `w` is the wave on the issue port and `others` are the rest; `agenda`, `polled`,
`free`, `nextId` are the model's own (logs 5 and 6), `out`, `inbox` and `upsets` its boundary (log 1). -/
structure State where
  clock   : Nat
  polled  : Nat
  free    : Nat
  nextId  : Nat
  agenda  : List Instr
  inbox   : List Msg
  upsets  : List Upset
  out     : List Out
  w       : Wave
  others  : List Wave
  teams   : List Team
  grids   : List (Nat × Grid)
  pipes   : List (Nat × Nat)
  m       : MemSys
  slices  : List (Nat × Slice)
  homes   : List HomeBuf
  coreBuf : List (Nat × List Waiting)
  bypass  : List Nat
  budgets : List (Nat × Nat)
  mesh    : List Mesh
  ports   : List (Nat × Port)
  copies  : List Copy
  cwaits  : List CWait
  engines : List (Nat × Engine)
  lattices : List Lattice
  ctxs    : List Ctx
  queues  : List Queue
  launches : List Launch
  graphs  : List Graph
  images  : List Image
  fences  : List Fence
  pkg     : Pkg
deriving DecidableEq, Repr

/-- What stops the machine with a fault. -/
inductive Fault where
  /-- Raised by no meaning: every failure the spec describes is a record and a next state. Safe. -/
  | stuck
deriving DecidableEq, Repr

/-- What the machine refuses. -/
inductive Refusal where
  /-- Raised by an arm of `exec` whose meaning is not written, by the mnemonic. Safe. -/
  | notModelled (mnemonic : String)
deriving DecidableEq, Repr

/-- The kernel of no wave. -/
def Kernel.none : Kernel :=
  { hdr := 0, flags := 0, vregs := 256, sregs := 384, scratch := 0, waves := 1, energy := 0, quads := 0, gridMask := 0,
    msetMask := 0, robjMask := 0, fpmode := 0, trapOff := 0, codeSize := 0 }

/-- No launch. -/
def LKey.none : LKey := { chip := 0, queue := 0, slot := 0, node := Option.none }

/-- An inactive loop record reads CNT = START = END = 0 (R301). -/
def LoopRec.none : LoopRec := { active := false, cnt := 0, start := 0, stop := 0 }

/-- An arm at an address with every lane active (R143, R301). -/
def Arm.start (pc : DWord) (em : Lanes) : Arm :=
  { taken := false, pc := pc, em := em, errs := [], lp0 := LoopRec.none, lp1 := LoopRec.none, stack := [], last := 0,
    free := true, done := Option.none, parked := false, atFull := 0, stalled := false }

/-- The registers of a wave that starts at an address, all zero but em and LIVE (R143, R301). -/
def Regs.start (pc : DWord) : Regs :=
  { v := [], s := [], p := [], rng := [], nstat := 0, lsa := 0, lsb := 0,
    ctl := { live := allLanes, arm := Arm.start pc allLanes, other := Option.none, join := 0, la0 := false, la1 := false,
             full := [] },
    cmm := 0, next := [], pend := [], bad := [] }

/-- The issue port's wave when no wave is resident: ended, with every register 0 (log 4). -/
def Wave.idle : Wave :=
  { uid := 0, core := 0, slot := 0, team := 0, idx := 0, lteam := 0, lwave := 0, chip := 0, ctx := 0, key := LKey.none,
    k := Kernel.none, r := Regs.start 0, ops := [], status := .ended, preempted := false,
    ahead := Option.none, frame := Option.none, cancel := Option.none, excl := [], notBefore := 0, last := Option.none,
    relFence := false, seen := [], peersRead := [] }

/-- Memory, caches and translation after power-on: nothing cached, nothing listed (R371). -/
def MemSys.reset : MemSys :=
  { mem := [], secKey := [], poison := [], spoilt := [], l2 := [], l1 := [], icache := [], tlb := [], pwc := [], walks := [],
    faults := [], invs := [], pins := [], port := [], promos := [], promoReqs := [], peerHeld := [], peerOuts := [], inWatch := [], hostWrites := [], shown := [], sp := [], spPoison := [],
    acc := [], useStamp := 0 }

/-- A JX-96 with every unit populated (R13; log 3). -/
def Cap.jx96 : Cap :=
  { part := 0x0096, coreMap := BitVec.allOnes 256, hbmMap := 0xFFF, portMap := 0xFFFF, fp64 := true, sgather := true }

/-- The package's own registers after power-on (R371, R378 to R384). -/
def Pkg.reset : Pkg :=
  { cap := Cap.jx96, resetCause := 0x00000001, errPend := false, mbBusy := false, mbCmd := 0, mbStat := 0, mbData := [],
    keys := [], keyLost := [], hdm := [], hostHeld := [], hostOwned := [], routes := [], barTmo := 100,
    chipNo := 0, manifest := Option.none, secVersion := 0, fwImage := Option.none, link := Option.none, seqNo := 0,
    pkgRing := Option.none, pkgBuf := [], pkgDropped := 0, pkgOvf := false, dump := 0, dumping := Option.none, readings := 0, launchSeq := 0, mbWaits := [], jobs := [],
    fatal := Option.none, ecc := { hbm := 0, l2 := 0, l1 := 0, icache := 0, sp := 0, regs := 0 } }

/-- The machine after power-on reset (R371): no context, queue, ring or key slot; every register at its reset value.
A slice, a port, a core's BUDGET and an engine not listed stand at their reset values (R108, R261, R290, R210). -/
def State.reset : State :=
  { clock := 0, polled := 0, free := 0, nextId := 1, agenda := [], inbox := [], upsets := [], out := [], w := Wave.idle, others := [], teams := [],
    grids := [], pipes := [], m := MemSys.reset, slices := [], homes := [], coreBuf := [], bypass := [], budgets := [],
    mesh := [], ports := [], copies := [], cwaits := [], engines := [], lattices := [], ctxs := [], queues := [],
    launches := [], graphs := [], images := [], fences := [], pkg := Pkg.reset }

end Sys2Proof.Machine
end

