-- ==== Sys2Proof/Machine/Operands.lean ====
section
/-! DEFINITION. Types and operand forms (R27 to R33 of spec/02_encoding.md): what a specifier names, what a source reads
and what a destination writes. -/

namespace Sys2Proof.Machine

/-- Width in bits of one element of a type code (R32). -/
def tyElem (t : Nat) : Nat :=
  match t with
  | 0 => 32 | 1 => 32 | 2 => 64 | 3 => 64 | 4 => 16 | 5 => 16 | 6 => 8 | 7 => 8 | 8 => 32 | 9 => 64 | 10 => 16
  | 11 => 16 | 12 => 16 | 13 => 16 | 14 => 8 | 15 => 8 | 16 => 8 | 17 => 16 | 18 => 32 | 19 => 64 | _ => 128

/-- Number of elements of a type code (R32). -/
def tyCount (t : Nat) : Nat :=
  match t with
  | 4 => 2 | 5 => 2 | 6 => 4 | 7 => 4 | 12 => 2 | 13 => 2 | 15 => 4 | _ => 1

/-- Width in bits of a whole value (R32). -/
def tyBits (t : Nat) : Nat := tyElem t * tyCount t

/-- Number of consecutive registers a value takes (R29). -/
def tyRegs (t : Nat) : Nat := max 1 (tyBits t / 32)

/-- The format of a floating-point type code (R32). -/
def tyFmt (t : Nat) : Option Fmt :=
  match t with
  | 8 => some .f32 | 9 => some .f64 | 10 => some .f16 | 11 => some .bf16 | 12 => some .f16 | 13 => some .bf16
  | _ => none

/-- Signed integer type codes: the i types (R174). -/
def tySigned (t : Nat) : Bool := t == 0 || t == 2 || t == 4 || t == 6

/-- What an operand specifier names (R27). -/
inductive Opd where
  | v (n : Nat)
  | s (n : Nat)
  | int (x : Int)        -- 640 to 703
  | fp (n : Nat)         -- 704 to 719: its place in the table
  | p (n : Nat)
  | em
  | imm
  | lane
  | sink
  | bad
deriving DecidableEq, Repr

/-- The operand of a specifier (R27). -/
def Opd.of (spec : BitVec 10) : Opd :=
  let n := spec.toNat
  if n ≤ 255 then .v n
  else if n ≤ 639 then .s (n - 256)
  else if n ≤ 703 then .int ((n : Int) - 656)
  else if n ≤ 719 then .fp (n - 704)
  else if n ≤ 727 then .p (n - 720)
  else if n = 728 then .em
  else if n = 729 then .imm
  else if n = 730 then .lane
  else if n = 731 then .sink
  else .bad

/-- The FP32 patterns of specifiers 704 to 719 (R27). -/
def fpConst (n : Nat) : Nat :=
  match n with
  | 0 => 0x3F000000 | 1 => 0xBF000000 | 2 => 0x3F800000 | 3 => 0xBF800000 | 4 => 0x40000000 | 5 => 0xC0000000
  | 6 => 0x40800000 | 7 => 0xC0800000 | 8 => 0x3E800000 | 9 => 0xBE800000 | 10 => 0x41200000 | 11 => 0x3DCCCCCD
  | 12 => 0x7F800000 | 13 => 0xFF800000 | 14 => 0x7FC00000 | _ => 0x80000000

/-- Put an element value in every element of a type. -/
def splat (t v : Nat) : Nat :=
  (List.range (tyCount t)).foldl (fun acc i => acc + v % 2 ^ tyElem t * 2 ^ (tyElem t * i)) 0

/-- An integer as an FVal, exactly. -/
def intVal (x : Int) : FVal := .fin (decide (x < 0)) x.natAbs 0

/-- The value of an integer constant for a type (R30). -/
def intConst (t : Nat) (x : Int) : Nat :=
  match tyFmt t with
  | some f => splat t ((intVal x).exact.round f {}).1
  | none =>
    if t = 14 ∨ t = 15 then splat t (dx8Encode (intVal x) false).1
    else splat t (wrap (tyElem t) x)

/-- The value of a floating-point constant for a type (R30); refused types are a decode check (`constOk`). -/
def fpConstVal (t n : Nat) : Nat :=
  let b := fpConst n
  match tyFmt t with
  | some .f32 => b
  | some f => splat t ((Fmt.f32.decode false b).exact.round f {}).1
  | none => if t = 14 ∨ t = 15 then splat t (dx8Encode (Fmt.f32.decode false b) false).1 else b

/-- Floating-point constants are refused for these types (R30). -/
def fpConstOk (t : Nat) : Bool := !(t == 4 || t == 5 || t == 6 || t == 7 || t == 16 || t == 17 || t == 20)

/-- The value IMM32 gives a type (R31). -/
def immVal (t : Nat) (imm : Word) : Nat :=
  match t with
  | 2 => (imm.signExtend 64).toNat
  | 3 => (imm.signExtend 64).toNat
  | 19 => (imm.signExtend 64).toNat
  | 9 => ((Fmt.f32.decode false imm.toNat).exact.round .f64 {}).1
  | _ => imm.toNat % 2 ^ tyBits t

/-- IMM32 is accepted for a type: not for b128, and with clear upper bits for 8- and 16-bit scalars (R31). -/
def immOk (t : Nat) (imm : Word) : Bool :=
  if t = 20 then false
  else if tyCount t = 1 ∧ tyBits t < 32 then imm.toNat < 2 ^ tyBits t
  else true

/-- One lane of a vector register. -/
def Regs.vget (r : Regs) (n lane : Nat) : Word := cget 0 r.v (64 * n + lane)

/-- A scalar register. -/
def Regs.sget (r : Regs) (n : Nat) : Word := cget 0 r.s n

/-- A predicate; p7 reads as all ones (R141). -/
def Regs.pget (r : Regs) (n : Nat) : Lanes := if n = 7 then allLanes else cget 0 r.p n

/-- The execution mask of the issuing arm. -/
def Regs.em (r : Regs) : Lanes := r.ctl.arm.em

/-- The lane generator counter of a lane. -/
def Regs.rget (r : Regs) (lane : Nat) : Word := cget 0 r.rng lane

/-- Perform one register write; a write to p7 is discarded (R28), and a written element is no longer poisoned (R152). -/
def Regs.put (r : Regs) : Wr → Regs
  | .v n lane x => { r with v := cset 0 x r.v (64 * n + lane), bad := r.bad.filter (· != 64 * n + lane) }
  | .s n x => { r with s := cset 0 x r.s n, bad := r.bad.filter (· != 2 ^ 20 + n) }
  | .p n mask bits =>
    if n = 7 then r else { r with p := cset 0 ((r.pget n &&& ~~~ mask) ||| (bits &&& mask)) r.p n }
  | .em x => { r with ctl := { r.ctl with arm := { r.ctl.arm with em := x } } }

/-- Perform a list of register writes in order. -/
def Regs.puts (r : Regs) (ws : List Wr) : Regs := ws.foldl Regs.put r

/-- A short result put among later ones, before those due no sooner (R295). -/
def Pend.insert (q : Pend) : List Pend → List Pend
  | [] => [q]
  | x :: xs => if q.due ≤ x.due then q :: x :: xs else x :: Pend.insert q xs

/-- The short results whose time has come, in the order of the slots from which they are read; those of one slot in the order of
issue (R295). -/
def Regs.ripe (r : Regs) (slot : Nat) : List Pend := (r.pend.filter fun q => q.due ≤ slot).foldr Pend.insert []

/-- Make available every short result whose time has come (R295). -/
def Regs.settle (r : Regs) (slot : Nat) : Regs :=
  { (r.ripe slot).foldl (fun r q => r.puts q.wrs) r with pend := r.pend.filter fun q => !(q.due ≤ slot) }

/-- A group of consecutive 32-bit values as one number, the first lowest (R29). -/
def joinWords (ws : List Word) : Nat := ws.foldr (fun w acc => w.toNat + 2 ^ 32 * acc) 0

/-- A scalar pair as a 64-bit value (R29). -/
def Regs.pair (r : Regs) (n : Nat) : DWord := r.sget (n + 1) ++ r.sget n

/-- What a source specifier reads in a lane, as a value of a type (R27 to R32). -/
def srcVal (r : Regs) (f : Fields) (t : Nat) (spec : BitVec 10) (lane : Nat) : Nat :=
  match Opd.of spec with
  | .v n => joinWords ((List.range (tyRegs t)).map fun i => r.vget (n + i) lane) % 2 ^ tyBits t
  | .s n => joinWords ((List.range (tyRegs t)).map fun i => r.sget (n + i)) % 2 ^ tyBits t
  | .int x => intConst t x
  | .fp n => fpConstVal t n
  | .imm => immVal t f.imm
  | .lane => lane % 2 ^ tyBits t
  | _ => 0

/-- One of `n` source registers has an element with a double-bit error in a lane of a mask (R152). -/
def srcBad (r : Regs) (n : Nat) (lanes : Lanes) (spec : BitVec 10) : Bool :=
  match Opd.of spec with
  | .v m => r.bad.any fun k => decide (64 * m ≤ k ∧ k < 64 * (m + n)) && lanes.getLsbD (k % 64)
  | .s m => r.bad.any fun k => decide (2 ^ 20 + m ≤ k ∧ k < 2 ^ 20 + m + n)
  | _ => false

/-- A source read as one 32-bit operand whatever TY is (R172). -/
def src32 (r : Regs) (f : Fields) (spec : BitVec 10) (lane : Nat) : Nat := srcVal r f 18 spec lane

/-- A mask operand: a predicate or em (R28). -/
def maskVal (r : Regs) (spec : BitVec 10) : Lanes :=
  match Opd.of spec with
  | .p n => r.pget n
  | .em => r.em
  | _ => 0

/-- The guard of an instruction (R21). -/
def guardMask (r : Regs) (f : Fields) : Lanes :=
  let g := r.pget (f.pred.extractLsb' 0 3).toNat
  if f.pred.getLsbD 3 then ~~~ g else g

/-- The lanes an instruction acts in: em and the guard (R21). -/
def activeMask (r : Regs) (f : Fields) : Lanes := r.em &&& guardMask r f

/-- 32-bit parts of a value, lowest first. -/
def wordsOf (n v : Nat) : List Word := (List.range n).map fun i => BitVec.ofNat 32 (v / 2 ^ (32 * i))

/-- The writes of a value of a type to a destination in a lane: the upper bits of a narrow value are 0 (R32). -/
def dstWr (t : Nat) (spec : BitVec 10) (lane v : Nat) : List Wr :=
  match Opd.of spec with
  | .v n => (wordsOf (tyRegs t) v).zipIdx.map fun (x, i) => Wr.v (n + i) lane x
  | .s n => (wordsOf (tyRegs t) v).zipIdx.map fun (x, i) => Wr.s (n + i) x
  | _ => []

/-- Element j of a value of a type. -/
def elemOf (t j v : Nat) : Nat := field v (tyElem t * j) (tyElem t)

/-- A value from its elements, element 0 lowest (R32). -/
def ofElems (t : Nat) (es : List Nat) : Nat :=
  es.zipIdx.foldl (fun acc (e, i) => acc + e % 2 ^ tyElem t * 2 ^ (tyElem t * i)) 0

/-- Apply a function to each element of up to three values. -/
def mapElems (t : Nat) (fn : Nat → Nat → Nat → Nat × FFlags) (a b c : Nat) : Nat × FFlags :=
  let rs := (List.range (tyCount t)).map fun j => fn (elemOf t j a) (elemOf t j b) (elemOf t j c)
  (ofElems t (rs.map (·.1)), rs.foldl (fun acc q => acc.or q.2) {})

end Sys2Proof.Machine
end

