-- ==== Sys2Proof/Machine/Flags.lean ====
section
/-! DEFINITION. Flags f0 to f11 (R22, R23, R297, R309) and the numeric status word (R58, R169). -/

namespace Sys2Proof.Machine

/-- The operation is counted in the bank of an arm (R309). -/
def Op.inBank (o : Op) (taken : Bool) : Bool := if taken then o.inT else o.inF

/-- Count of a flag in the issuing arm's bank (R297, R309). -/
def Wave.count (w : Wave) (flag : Nat) : Nat :=
  (w.ops.filter fun o => o.flag == flag && o.inBank w.r.ctl.arm.taken).length

/-- Count of a flag over both banks, each operation once (R309). -/
def Wave.countBoth (w : Wave) (flag : Nat) : Nat := (w.ops.filter fun o => o.flag == flag).length

/-- Error state of a flag in the issuing arm's bank (R297, R309). -/
def Wave.errOf (w : Wave) (flag : Nat) : Option FErr := lookup w.r.ctl.arm.errs flag

/-- Error states with one more failure on a flag: the first is kept and later ones counted to 255 (R297). -/
def addErr (errs : List (Nat × FErr)) (flag : Nat) (e : FErr) : List (Nat × FErr) :=
  match lookup errs flag with
  | none => assign flag e errs
  | some old => assign flag { old with later := min 255 (old.later + 1) } errs

/-- Add an operation to a flag, counted in the issuing arm's bank alone (R297, R309). -/
def Wave.addOp (w : Wave) (o : Op) : Wave :=
  let t := w.r.ctl.arm.taken
  { w with ops := w.ops ++ [{ o with inT := t, inF := !t }] }

/-- An operation just issued, unfinished. -/
def Op.fresh (id flag : Nat) : Op :=
  { id := id, flag := flag, inT := false, inF := true, fin := false, wrs := [], nstat := 0, err := none, acq := false,
    load := false, memb := none, eng := false, dst := [], outer := none }

/-- Change an operation of a wave. -/
def Wave.mapOp (w : Wave) (id : Nat) (f : Op → Op) : Wave :=
  { w with ops := updateFirst (fun o => o.id == id) f w.ops }

/-- Mark an operation finished, with what it writes and whether it failed (R297). -/
def Op.finish (o : Op) (wrs : List Wr) (nstat : Word) (err : Option FErr) : Op :=
  { o with fin := true, wrs := o.wrs ++ wrs, nstat := o.nstat ||| nstat, err := match o.err with | some e => some e | none => err }

/-- Two operations share a bank, in the control state that stands or in the one a trap froze (R309, R351). -/
def Op.sharesBank (a b : Op) : Bool :=
  (a.inT && b.inT) || (a.inF && b.inF) ||
    match a.outer, b.outer with | some x, some y => (x.1 && y.1) || (x.2 && y.2) | _, _ => false

/-- An operation that another may not retire before: an older one of its flag in a bank they share (R297), or an older load that
writes a register of its own (R156). -/
def Op.before (a b : Op) : Bool := (a.flag == b.flag && a.sharesBank b) || a.dst.any fun n => b.dst.contains n

/-- The operation as the control state a trap froze counts it: one issued since counts with the arm that trapped (R351). -/
def Op.frozen (o : Op) (taken : Bool) : Op :=
  match o.outer with | some (t, n) => { o with inT := t, inF := n } | none => { o with inT := taken, inF := !taken }

/-- The operation as a handler counts it: the handler's one bank is that of the arm that trapped (R351). -/
def Op.enter (taken : Bool) (o : Op) : Op :=
  { o with outer := some (o.inT, o.inF), inT := o.inBank taken && taken, inF := o.inBank taken && !taken }

/-- The operation once the handler has been left (R351, R367). -/
def Op.leave (taken : Bool) (o : Op) : Op := { o.frozen taken with outer := none }

/-- The first operation on a flag that may retire: finished, with no older one that comes before it. -/
def retirable (flag : Nat) : List Op → List Op → Option Op
  | _, [] => none
  | older, o :: os =>
    if o.flag == flag && o.fin && !(older.any fun p => p.before o) then some o else retirable flag (older ++ [o]) os

/-- Put an error into the banks that count an operation. -/
def Ctl.fail (c : Ctl) (o : Op) (e : FErr) : Ctl :=
  let one (a : Arm) : Arm := if o.inBank a.taken then { a with errs := addErr a.errs o.flag e } else a
  { c with arm := one c.arm, other := c.other.map one }

/-- A retirement's effect on a register set: results, status bits, error state (R170, R297). -/
def Regs.retire (r : Regs) (o : Op) : Regs :=
  let r := r.puts o.wrs
  let r := { r with nstat := r.nstat ||| o.nstat }
  match o.err with
  | none => r
  | some e => { r with ctl := r.ctl.fail o e }

/-- Retire an operation: its results reach the registers, and the checkpoint too when the operation is older than
the collective branch the wave runs ahead of (R296, R322). In handler mode the frozen banks take the errors (R351). -/
def Wave.retire (w : Wave) (o : Op) : Wave :=
  { w with
    r := w.r.retire o
    ops := w.ops.filter fun p => p.id != o.id
    ahead := w.ahead.map fun a => if o.id ≤ a.op then { a with ckpt := a.ckpt.retire o } else a
    frame := match o.err with
      | none => w.frame
      | some e => w.frame.map fun fr => { fr with ctl := fr.ctl.fail (o.frozen fr.ctl.arm.taken) e } }

/-- Some flag has an operation that may retire. -/
def Wave.nextRetire (w : Wave) : Option Nat :=
  (List.range 12).find? fun fl => (retirable fl [] w.ops).isSome

/-- Flags named by a WAIT field (R20). -/
def waitFlags (f : Fields) : List Nat := (List.range 12).filter fun i => f.wait.getLsbD i

/-- Condition 2 of R293: every flag in WAIT has count 0 or an error state. -/
def Wave.waitReady (w : Wave) (f : Fields) : Bool :=
  (waitFlags f).all fun i => w.count i == 0 || (w.errOf i).isSome

/-- The lowest flag in WAIT with an error state (R297). -/
def Wave.waitError (w : Wave) (f : Fields) : Option (Nat × FErr) :=
  match (waitFlags f).find? fun i => (w.errOf i).isSome with
  | none => none
  | some i => (w.errOf i).map fun e => (i, e)

/-- The detail word of 0x0120 (R300). -/
def errDetail (flag : Nat) (e : FErr) : DWord :=
  BitVec.ofNat 64 (e.code.toNat + flag * 2 ^ 16 + e.later * 2 ^ 24)

/-- Clear the error state of a flag in the issuing arm's bank (R297). -/
def Wave.clearErr (w : Wave) (flag : Nat) : Wave :=
  { w with r := { w.r with ctl := { w.r.ctl with arm := { w.r.ctl.arm with
      errs := w.r.ctl.arm.errs.filter fun p => p.1 != flag } } } }

/-- NSTAT.FTZ: the wave's flush default (R169). -/
def Regs.ftz (r : Regs) : Bool := r.nstat.getLsbD 16

/-- NSTAT bits of NF and SKIP (R169). -/
def nstatNF : Word := 0x100
/-- NSTAT.SKIP (R169). -/
def nstatSkip : Word := 0x200

/-- How an instruction rounds: MOD[1:0], MOD[2] and MOD[3] or the wave's flush default (R34, R57). -/
def rctl (r : Regs) (f : Fields) : RCtl :=
  { mode := RMode.ofMod f.mod, sat := f.mod.getLsbD 2, fz := f.mod.getLsbD 3 || r.ftz }

/-- Number of the flag SETF names; none for 15 (R22). -/
def setFlag (f : Fields) : Option Nat := if f.setf.toNat ≤ 11 then some f.setf.toNat else none

end Sys2Proof.Machine
end

