-- ==== Sys2Proof/Machine/Slice.lean ====
section
/-! DEFINITION. The home slices of the L2: lines, their key slots and tenant ways, and what passes them (R78, R81, R100 to R107 of
spec/05_shared_cache.md). -/

namespace Sys2Proof.Machine

/-- Memory, changed. -/
def State.withM (s : State) (f : MemSys → MemSys) : State := { s with m := f s.m }

/-- The sector of a physical address (R76, R77). -/
def sectorOf (pa : Nat) : Nat := pa / 256

/-- A poisoned sector lies under the bytes (R76). -/
def MemSys.poisoned (m : MemSys) (pa n : Nat) : Bool :=
  m.poison.any fun x => decide (sectorOf pa ≤ x ∧ x ≤ sectorOf (pa + n - 1))

/-! ### Lines and slices -/

/-- The number of a line (R100). -/
def lineOf (pa : Nat) : Nat := pa / 1024

/-- The home slice of a physical address (R101). -/
def homeSlice (pa : Nat) : Nat := (List.range 6).foldl (fun acc i => acc ^^^ (lineOf pa / 2 ^ (7 * i) % 128)) 0

/-- The set of a line in its slice (R101). -/
def l2Set (line : Nat) : Nat := line / 128 % 128

/-- The least recently used of some lines, by a measure. -/
def leastBy {α : Type} (f : α → Nat) : List α → Option α
  | [] => none
  | x :: xs => match leastBy f xs with | none => some x | some y => if f x ≤ f y then some x else some y

/-- The sectors of a range, by a physical address in each. -/
def sectorsOf (pa n : Nat) : List Nat := if n = 0 then [] else (List.range (sectorOf (pa + n - 1) + 1 - sectorOf pa)).map fun i => (sectorOf pa + i) * 256

/-! ### L2 (R100 to R107) -/

/-- The line an L2 holds of an address. -/
def MemSys.l2Find (m : MemSys) (pa : Nat) : Option L2Line := m.l2.find? fun l => l.line == lineOf pa

/-- Sectors are written back: a dirty one with an uncorrectable error that nothing has read is poisoned in HBM and owes the record of
0x0511 (R104; log 48). -/
def MemSys.writeBack (m : MemSys) (leave : L2Line → BitVec 4) : MemSys :=
  let bad (l : L2Line) : List Nat := ((List.range 4).map fun i => 4 * l.line + i).filter fun x =>
    (leave l &&& l.dirty).getLsbD (x % 4) && m.poison.contains x
  { m with spoilt := m.spoilt ++ m.l2.flatMap fun l => (bad l).map fun x => (x, l.slot) }

/-- The line of an address goes without being written back. -/
def MemSys.l2Drop (m : MemSys) (pa : Nat) : MemSys := { m with l2 := m.l2.filter fun l => l.line != lineOf pa }

/-- Write back and invalidate the line of an address (R78, R81). -/
def MemSys.l2Leave (m : MemSys) (pa : Nat) : MemSys := (m.writeBack fun l => if l.line = lineOf pa then 0xF else 0).l2Drop pa

/-- The same of the package. -/
def State.l2Leave (s : State) (pa : Nat) : State := s.withM fun m => m.l2Leave pa

/-- A sector goes from the slice; a line with no sector left is invalid (R103, R104). -/
def MemSys.l2Lose (m : MemSys) (pa : Nat) : MemSys :=
  let bit : BitVec 4 := 1#4 <<< (pa / 256 % 4)
  { m with l2 := (m.l2.map fun l =>
    if l.line = lineOf pa then { l with valid := l.valid &&& ~~~ bit, dirty := l.dirty &&& ~~~ bit } else l).filter fun l => l.valid != 0 }

/-- The way mask of a tenant at a slice (R105, R108). -/
def State.tenMask (s : State) (slice : Nat) (tenant : Bool) : BitVec 16 :=
  match lookup s.slices slice with
  | none => 0xFFFF
  | some x => if tenant then x.mask1 else x.mask0

/-- The way a fill takes (R103, R105): none with an empty mask. Of several invalid ways it is the lowest, which the spec leaves open
(log 11). -/
def MemSys.l2Victim (m : MemSys) (line : Nat) (mask : BitVec 16) : Option Nat :=
  let ways := (List.range 16).filter fun w => mask.getLsbD w
  let lines := m.l2.filter fun l =>
    homeSlice (l.line * 1024) == homeSlice (line * 1024) && l2Set l.line == l2Set line && ways.contains l.way
  match ways.find? fun w => !(lines.any fun l => l.way == w) with
  | some w => some w
  | none => match leastBy (·.used) (lines.filter fun l => !l.keep) with
    | some l => some l.way
    | none => (leastBy (·.used) lines).map (·.way)

/-- Fill a sector of a line (R102, R103). -/
def State.l2Fill (s : State) (pa slot : Nat) (tenant : Bool) (hint : Nat) : State :=
  let m := s.m
  let bit : BitVec 4 := 1#4 <<< (pa / 256 % 4)
  let stamp := m.useStamp + 1
  match m.l2Find pa with
  | some _ => s.withM fun m => { m with
      useStamp := stamp
      l2 := updateFirst (fun l => l.line == lineOf pa) (fun l =>
        { l with valid := l.valid ||| bit, keep := l.keep || hint == 2, used := if hint = 1 then l.used else stamp }) m.l2 }
  | none => match m.l2Victim (lineOf pa) (s.tenMask (homeSlice pa) tenant) with
    | none => s
    | some w =>
      let goes (l : L2Line) : Bool := homeSlice (l.line * 1024) == homeSlice pa && l2Set l.line == l2Set (lineOf pa) && l.way == w
      s.withM fun m => { m.writeBack fun l => if goes l then 0xF else 0 with
        useStamp := stamp
        l2 := { line := lineOf pa, way := w, slot := slot, tenant := tenant, keep := hint == 2, valid := bit, dirty := 0,
                used := if hint = 1 then 0 else stamp } ::
          m.l2.filter fun l => !goes l }

/-- The slice holds an address's sector for a key slot (R78, R102). -/
def MemSys.l2Has (m : MemSys) (pa slot : Nat) : Bool :=
  match m.l2Find pa with | none => false | some l => l.slot == slot && l.valid.getLsbD (pa / 256 % 4)

/-- A hit, and the sector's dirty bit on a write (R102, R103). -/
def MemSys.l2Hit (m : MemSys) (pa hint : Nat) (write : Bool) : MemSys :=
  let bit : BitVec 4 := 1#4 <<< (pa / 256 % 4)
  { m with
    useStamp := m.useStamp + 1
    l2 := updateFirst (fun l => l.line == lineOf pa) (fun l =>
      { l with keep := l.keep || hint == 2, used := if hint = 1 then l.used else m.useStamp + 1,
               dirty := if write then l.dirty ||| bit else l.dirty }) m.l2 }

/-- The first poisoned sector under the bytes, by its address. -/
def MemSys.badSector (m : MemSys) (pa n : Nat) : Nat :=
  match (sectorsOf pa n).find? fun x => m.poison.contains (sectorOf x) with | some x => x | none => pa / 256 * 256

/-- What the read of bytes with a poisoned sector under them raises: 0x0511 while the slice holds that sector dirty, else 0x0501 (R76,
R104). -/
def MemSys.badCode (m : MemSys) (pa n : Nat) : BitVec 16 :=
  let x := m.badSector pa n
  match m.l2Find x with
  | some l => if l.dirty.getLsbD (sectorOf x % 4) && m.poison.contains (sectorOf x) then 0x0511 else 0x0501
  | none => 0x0501

/-- Once 0x0511 has been raised for a sector it is written back poisoned, and 0x0501 is what later reads raise (R104). -/
def MemSys.badRead (m : MemSys) (pa n : Nat) : MemSys := if m.badCode pa n = 0x0511 then m.l2Lose (m.badSector pa n) else m

/-- The sector an access wrote is dirty (R102). -/
def MemSys.l2Dirty (m : MemSys) (pa : Nat) : MemSys :=
  { m with l2 := updateFirst (fun l => l.line == lineOf pa) (fun l => { l with dirty := l.dirty ||| 1#4 <<< (pa / 256 % 4) }) m.l2 }

/-- `cwb` at the slices (R120): a sector is written back and stays clean, a line is written back and goes, or every line of
a key slot is written back. -/
def MemSys.l2Clean (m : MemSys) (mode pa slot : Nat) : MemSys :=
  match mode with
  | 0 => { m with l2 := m.l2.map fun l => if l.line == lineOf pa then { l with dirty := l.dirty &&& ~~~ (1#4 <<< (pa / 256 % 4)) } else l }
  | 1 => m.l2Drop pa
  | _ => { m with l2 := m.l2.map fun l => if l.slot == slot then { l with dirty := 0 } else l }

/-- `cwb` at the slices, with what writing a spoiled sector back raises (R104, R120). -/
def State.l2Clean (s : State) (mode pa slot : Nat) : State :=
  s.withM fun m => (m.writeBack fun l => match mode with
    | 0 => if l.line = lineOf pa then 1#4 <<< (pa / 256 % 4) else 0
    | 1 => if l.line = lineOf pa then 0xF else 0
    | _ => if l.slot = slot then 0xF else 0).l2Clean mode pa slot

/-- A line held under another key slot is written back and goes before an access under this one (R78). -/
def State.l2Rekey (s : State) (slot pa : Nat) : State :=
  match s.m.l2Find pa with
  | some l => if l.slot = slot then s else s.l2Leave pa
  | none => s

/-- An engine's access, a peer's or the host's passes the home slice of one sector: it is a hit there or fills the sector, and a write
makes it dirty, one of the whole sector without a fill (R102, R103, R105); a Kettle-bound one takes the line out first (R81); a line
of the host window is owned first, at once, by the CXL.cache agent, which also performs its class 1 (R102, R331, R376; log 43). -/
def State.passSlice (s : State) (cls slot : Nat) (tenant : Bool) (hint : Nat) (write whole : Bool) (pa : Nat) : State :=
  let s := if pa ≥ 2 ^ 51 ∧ s.pkg.hostOwned.contains (lineOf pa) = false then
      { s with pkg := { s.pkg with hostOwned := lineOf pa :: s.pkg.hostOwned } } else s
  if cls = 1 ∨ cls = 3 then s.l2Leave pa
  else
    let s := s.l2Rekey slot pa
    if s.m.l2Has pa slot then s.withM fun m => m.l2Hit pa hint write
    else if s.tenMask (homeSlice pa) tenant = 0 ∨ (s.m.poisoned pa 1 ∧ !(write && whole)) then s
    else
      let s := s.l2Fill pa slot tenant hint
      if write then s.withM fun m => m.l2Dirty pa else s

/-- The same for every sector of a range. -/
def State.passSlices (s : State) (cls slot : Nat) (tenant : Bool) (hint : Nat) (write : Bool) (pa n : Nat) : State :=
  (sectorsOf pa n).foldl (fun s x => s.passSlice cls slot tenant hint write (decide (pa ≤ x ∧ x + 256 ≤ pa + n)) x) s

/-- A Kettle-bound read or write of class 3 by hardware passes the home slices of its lines, which give up what they hold of them (R80,
R81). -/
def State.sysPass (s : State) (pa n : Nat) : State :=
  if s.m.l2.any fun l => decide (lineOf pa ≤ l.line ∧ l.line ≤ lineOf (pa + n - 1)) then (sectorsOf pa n).foldl State.l2Leave s else s

end Sys2Proof.Machine
end

