-- ==== Sys2Proof/Machine/Ops.lean ====
section
/-! DEFINITION. The named operations every instruction and event is written over: waves, memory bytes, records and rings,
taking a trap (R349 to R362 of spec/17_faults.md) and what ends a wave. -/

namespace Sys2Proof.Machine

/-! ### Waves -/

/-- Put a wave back: as the one on the issue port if it is that one, else among the others. -/
def State.putWave (s : State) (w : Wave) : State :=
  if w.uid = s.w.uid then { s with w := w }
  else { s with others := updateFirst (fun x => x.uid == w.uid) (fun _ => w) s.others }

/-- A wave by its serial number. -/
def State.wave (s : State) (uid : Nat) : Option Wave :=
  if s.w.uid = uid then some s.w else s.others.find? fun x => x.uid == uid

/-- Change a wave, if it is there. -/
def State.mapWave (s : State) (uid : Nat) (f : Wave → Wave) : State :=
  if s.w.uid = uid then { s with w := f s.w } else { s with others := updateFirst (fun x => x.uid == uid) f s.others }

/-- Change every wave. -/
def State.mapWaves (s : State) (f : Wave → Wave) : State := { s with w := f s.w, others := s.others.map f }

/-- All waves, the one on the issue port first. -/
def State.waves (s : State) : List Wave := s.w :: s.others

/-- Put a wave on the issue port. -/
def State.select (s : State) (uid : Nat) : State :=
  if s.w.uid = uid then s
  else match s.others.find? fun x => x.uid == uid with
    | none => s
    | some x => { s with w := x, others := s.w :: s.others.filter fun y => y.uid != uid }

/-- The wave on the issue port, changed. -/
def State.withW (s : State) (f : Wave → Wave) : State := { s with w := f s.w }

/-- The registers of the wave on the issue port, changed. -/
def State.withR (s : State) (f : Regs → Regs) : State := { s with w := { s.w with r := f s.w.r } }

/-- A new serial number. -/
def State.fresh (s : State) : Nat × State := (s.nextId, { s with nextId := s.nextId + 1 })

/-- A context of this chip. -/
def State.ctx? (s : State) (n : Nat) : Option Ctx := s.ctxs.find? fun c => c.ctx == n

/-- Change a context. -/
def State.mapCtx (s : State) (n : Nat) (f : Ctx → Ctx) : State :=
  { s with ctxs := updateFirst (fun c => c.ctx == n) f s.ctxs }

/-- The wave's context. -/
def State.wctx (s : State) : Option Ctx := s.ctx? s.w.ctx

/-- The wave on the issue port runs privileged: its context is a system context (R350). -/
def State.priv (s : State) : Bool := match s.wctx with | some c => c.system | none => false

/-- A context's privilege (R350). -/
def State.ctxPriv (s : State) (n : Nat) : Bool := match s.ctx? n with | some c => c.system | none => false

/-- The key slot of a context (R77). -/
def State.keyOf (s : State) (n : Nat) : Nat := match s.ctx? n with | some c => c.keySlot | none => 0

/-- The key slot is firmware's or loaded (R77, R362). -/
def State.keyLoaded (s : State) (slot : Nat) : Bool := slot == 0 || (lookup s.pkg.keys slot).isSome

/-- The tenant bit of a context (R105). -/
def State.tenantOf (s : State) (n : Nat) : Bool := match s.ctx? n with | some c => c.tenant | none => false

/-- A team by its serial number. -/
def State.team? (s : State) (uid : Nat) : Option Team := s.teams.find? fun t => t.uid == uid

/-- Change a team. -/
def State.mapTeam (s : State) (uid : Nat) (f : Team → Team) : State :=
  { s with teams := updateFirst (fun t => t.uid == uid) f s.teams }

/-- A launch by its key. -/
def State.launch? (s : State) (k : LKey) : Option Launch := s.launches.find? fun l => l.key == k

/-- Change a launch. -/
def State.mapLaunch (s : State) (k : LKey) (f : Launch → Launch) : State :=
  { s with launches := updateFirst (fun l => l.key == k) f s.launches }

/-- A core is populated (R13, R14). -/
def State.corePresent (s : State) (n : Nat) : Bool := n < 256 && s.pkg.cap.coreMap.getLsbD n

/-- The die of a core: each die holds half of them (R13). -/
def dieOf (core : Nat) : Nat := core / 128

/-- Scope-table entry n of a context is usable (R328, R330). -/
def State.scopeValid (s : State) (ctx n : Nat) : Bool :=
  if n < 4 then true
  else match s.ctx? ctx with
    | none => false
    | some c => (lookup c.scopes n).isSome

/-- Scope entry n, taken from a wave on core `x`, covers core y of this package (R329). -/
def State.scopeCovers (s : State) (ctx n x y : Nat) : Bool :=
  if n = 0 then x == y
  else if n < 4 then true
  else x == y || match s.ctx? ctx with
    | none => false
    | some c => match lookup c.scopes n with | none => true | some m => m.getLsbD y

/-! ### Memory bytes at their point -/

/-- Number of populated bytes of local HBM: 64 GiB a stack (R74, R75). -/
def State.hbmBytes (s : State) : Nat := popCount s.pkg.cap.hbmMap.toNat 12 * 2 ^ 36

/-- The stacks that are populated, from bit 0 of HBMMAP (R75). -/
def State.stacks (s : State) : List Nat := (List.range 12).filter fun i => s.pkg.cap.hbmMap.getLsbD i

/-- The stack that holds a line of local HBM, on whose base die its Kettle sits (R75). -/
def State.stackOf (s : State) (pa : Nat) : Nat := nth 0 s.stacks (pa / 1024 % s.stacks.length)

/-- The line within its stack (R75). -/
def State.stackLine (s : State) (pa : Nat) : Nat := pa / 1024 / s.stacks.length

/-- The pseudo-channel of a line in its stack (R75). -/
def State.pseudoChannel (s : State) (pa : Nat) : Nat := s.stackLine pa % 64

/-- Where a physical address leads (R74). -/
inductive Place where
  | hbm (pa : Nat)
  | peer (c pa : Nat)
  | host (pa : Nat)
  | unbacked
deriving DecidableEq, Repr

/-- The place of a physical address (R74); `own` is the issuing chip's index in its launch, whose window is local. -/
def State.placeOf (s : State) (own pa : Nat) : Place :=
  if pa < s.hbmBytes then .hbm pa
  else if pa ≥ 2 ^ 51 then .host pa
  else if 2 ^ 50 ≤ pa ∧ pa < 2 ^ 50 + 2 ^ 46 then
    let c := (pa - 2 ^ 50) / 2 ^ 40
    let lo := (pa - 2 ^ 50) % 2 ^ 40
    if c = own then (if lo < s.hbmBytes then .hbm lo else .unbacked) else .peer c lo
  else .unbacked

/-- A byte of memory read under a key slot: undefined where the sector was last written under another (R77, R79)
or is poisoned (R76). -/
def MemSys.byte (m : MemSys) (free slot pa : Nat) : Byte :=
  let tag := (cget 0 m.secKey (sectorOf pa)).toNat
  if (tag = 0 ∨ tag = slot + 1 ∨ pa ≥ 2 ^ 51) ∧ m.poison.contains (sectorOf pa) = false then cget 0 m.mem pa
  else Config.freeByte (free * 2 ^ 56 + pa)

/-- A run of bytes of memory. -/
def MemSys.bytes (m : MemSys) (free slot pa n : Nat) : List Byte := (List.range n).map fun i => m.byte free slot (pa + i)

/-- A little-endian number of n bytes. -/
def State.readPa (s : State) (slot pa n : Nat) : Nat := ofBytes (s.m.bytes s.free slot pa n)

/-- Make a sector one of a key slot before bytes of it are written: what it held under another slot is undefined from
then on, and is what the Kettle decrypts (R77, R79). -/
def MemSys.rekey (m : MemSys) (free slot sec : Nat) : MemSys :=
  let tag := (cget 0 m.secKey sec).toNat
  if sec * 256 ≥ 2 ^ 51 ∨ tag = slot + 1 then m
  else
    let lost := (List.range 256).map fun i => Config.freeByte (free * 2 ^ 56 + sec * 256 + i)
    let m := if tag = 0 then m else { m with mem := csetMany 0 m.mem (sec * 256) lost }
    { m with secKey := cset 0 (BitVec.ofNat 16 (slot + 1)) m.secKey sec }

/-- Writing some bytes, as the watch on a collective's input sees it (R268). -/
def InWatch.see (x : InWatch) (pa n : Nat) : InWatch :=
  let lo := max pa x.pa
  let hi := min (pa + n) (x.pa + x.n)
  if lo < hi then { x with hits := (x.off + (lo - x.pa), hi - lo) :: x.hits } else x

/-- Write bytes of memory under a key slot. A sector wholly rewritten loses its poison (R76). -/
def MemSys.write (m : MemSys) (free slot pa : Nat) (bs : List Byte) : MemSys :=
  if bs.isEmpty then m else
  let lo := sectorOf pa
  let hi := sectorOf (pa + bs.length - 1)
  let m := (List.range (hi + 1 - lo)).foldl (fun m i => m.rekey free slot (lo + i)) m
  { m with
    mem := csetMany 0 m.mem pa bs
    poison := m.poison.filter fun x => !(decide (pa ≤ x * 256 ∧ x * 256 + 256 ≤ pa + bs.length))
    inWatch := m.inWatch.map fun x => x.see pa bs.length }

/-- Little-endian bytes of a number. -/
def natBytes (n v : Nat) : List Byte := (List.range n).map fun i => BitVec.ofNat 8 (v / 256 ^ i)

/-- Write a number of n bytes at its point, as firmware or another engine does. -/
def State.writePa (s : State) (slot pa n v : Nat) : State :=
  { s with m := s.m.write s.free slot pa (natBytes n v), free := s.free + 1 }

/-! ### Writes to lines the host may hold (R375) -/

/-- The host may hold a line of a range, or a write to one waits for its response. -/
def State.hostKeeps (s : State) (pa n : Nat) : Bool :=
  let mine (l : Nat) : Bool := n != 0 && decide (lineOf pa ≤ l ∧ l ≤ lineOf (pa + n - 1))
  s.pkg.hostHeld.any mine || s.m.hostWrites.any fun h => mine (lineOf h.pa)

/-- A device's write within one line waits for the host, which is asked for the line if it holds it and has not been asked; its number is
the answer. -/
def State.holdWrite (s : State) (h : HostWrite) : Nat × State :=
  let asks := s.pkg.hostHeld.contains (lineOf h.pa) && !(s.m.hostWrites.any fun x => lineOf x.pa == lineOf h.pa)
  let (id, s) := s.fresh
  (id, { s with m := { s.m with hostWrites := s.m.hostWrites ++ [{ h with id := id }] },
                out := if asks then s.out ++ [.backInv (lineOf h.pa)] else s.out })

/-- Memory as hardware that has writes waiting for the host reads it: with those. -/
def State.peekPa (s : State) (slot pa n : Nat) : Nat :=
  ofBytes (s.m.hostWrites.foldl (fun bs h => bs.zipIdx.map fun (b, i) =>
    if h.pa ≤ pa + i ∧ pa + i < h.pa + h.bytes.length then h.bytes.getD (pa + i - h.pa) b else b) (s.m.bytes s.free slot pa n))

/-- Hardware writes bytes within a line of class 3 memory, past the line's home slice; `late` makes the write wait for the host, behind
the writes that wait already. -/
def State.sysPut (s : State) (late : Bool) (pa : Nat) (bs : List Byte) : State :=
  if late then
    (s.holdWrite { id := 0, slot := 0, cls := 3, pa := pa, bytes := bs, add := false, atomic := false, tenant := false, hint := 0,
                   prior := s.m.hostWrites.getLast?.map (·.id) }).2
  else
    let s := s.sysPass pa bs.length
    { s with m := s.m.write s.free 0 pa bs, free := s.free + 1 }

/-- The dump region (R372): class 3 memory under key slot 0, at an address the spec does not give (log 13). -/
def State.dumpPa (s : State) : Nat := if s.hbmBytes = 0 then 0 else Config.dumpBase * 4096 % s.hbmBytes

/-- Hardware writes bytes of class 3 memory, line by line. -/
def State.sysStores (s : State) (pa : Nat) : Nat → List Byte → State
  | 0, _ => s
  | n + 1, bs =>
    if bs.isEmpty then s
    else
      let k := 1024 - pa % 1024
      (s.sysPut (s.hostKeeps pa (min k bs.length)) pa (bs.take k)).sysStores (pa + k) n (bs.drop k)

/-- The same of any number. -/
def State.sysStore (s : State) (pa : Nat) (bs : List Byte) : State := s.sysStores pa (bs.length / 1024 + 2) bs

/-! ### Records and rings (R355 to R359) -/

/-- The recovery action of a code, as the code tables give it: 0 RETRY, 1 KILL-WAVE, 2 KILL-LAUNCH, 3 KILL-JOB,
4 RESET-PACKAGE, 5 SERVICE (R359). -/
def actionOf (code : BitVec 16) : Nat :=
  match code.toNat with
  | 0x0124 => 2 | 0x0143 => 0 | 0x0202 => 0 | 0x0204 => 0 | 0x0207 => 3
  | 0x0301 => 2 | 0x0302 => 2 | 0x0303 => 2 | 0x0304 => 2 | 0x0305 => 2 | 0x0307 => 2 | 0x030D => 0
  | 0x0401 => 5 | 0x0402 => 5 | 0x0410 => 2 | 0x0411 => 2
  | 0x0420 => 0 | 0x0421 => 2 | 0x0423 => 2 | 0x0424 => 0 | 0x0425 => 3
  | 0x0432 => 2 | 0x0433 => 2 | 0x0434 => 3
  | 0x0501 => 2 | 0x0502 => 3 | 0x0511 => 3 | 0x0512 => 2 | 0x0520 => 4
  | 0x0601 => 0 | 0x0602 => 3 | 0x0610 => 2 | 0x0611 => 2 | 0x0612 => 2 | 0x0613 => 2 | 0x0614 => 2 | 0x0615 => 0
  | 0x0616 => 5 | 0x0622 => 2 | 0x0625 => 2
  | 0x0701 => 5 | 0x0703 => 4 | 0x0704 => 4 | 0x0801 => 3 | 0x0802 => 5
  | _ => 1

/-- SEVERITY follows from ACTION (R359). -/
def severityOf (action : Nat) : Nat := match action with | 5 => 0 | 3 => 2 | 4 => 3 | _ => 1

/-- The low 32 bits of a record's word 0 (R359). -/
def Record.low (r : Record) (ovf : Bool) : Nat :=
  r.code.toNat + r.action * 2 ^ 16 + (if r.wave.isSome then 2 ^ 19 else 0) + severityOf r.action * 2 ^ 20 +
  (if r.precise then 2 ^ 22 else 0) + (if ovf then 2 ^ 23 else 0) + r.engine * 2 ^ 24

/-- The eight 64-bit words of a record (R359). -/
def Record.words (r : Record) (ovf : Bool) (seqNo : Word) (time : Nat) : List DWord :=
  let w10 := match r.wave with
    | none => 0
    | some (slot, core, wave, team) => slot * 2 ^ 48 + core * 2 ^ 40 + wave * 2 ^ 32 + team % 2 ^ 32
  [ BitVec.ofNat 64 (r.low ovf + r.ctx * 2 ^ 32 + r.chip * 2 ^ 48),
    BitVec.ofNat 64 (seqNo.toNat + r.launch * 2 ^ 32),
    BitVec.ofNat 64 w10, r.addr, r.detail, BitVec.ofNat 64 time, r.pc, r.gen.setWidth 64 ]

/-- Write a record's words to a ring in memory, then its WRIDX, or count it dropped: the memory and whether it was dropped (R357). Where
the host may hold a line of them the writes wait for it, in their order (R375). -/
def ringWrite (s : State) (base : Nat) (ws : List DWord) : State × Bool :=
  let s := s.sysPass base 0x40
  let wr := s.peekPa 0 base 8
  let rd := s.peekPa 0 (base + 8) 8
  let log2 := s.peekPa 0 (base + 0x10) 8 % 32
  let dropped := s.peekPa 0 (base + 0x18) 8
  if (wr + 2 ^ 64 - rd) % 2 ^ 64 ≥ 2 ^ log2 then (s.sysPut (s.hostKeeps base 0x20) (base + 0x18) (natBytes 8 (dropped + 1)), true)
  else
    let at_ := base + 0x40 + 64 * (wr % 2 ^ log2)
    let late := s.hostKeeps base 8 || s.hostKeeps at_ 64
    ((s.sysPut late at_ (ws.flatMap fun x => natBytes 8 x.toNat)).sysPut late base (natBytes 8 (wr + 1)), false)

/-- ERRPEND is set; a rise sends MSI-X vector 0 (R379). -/
def State.errPendSet (s : State) : State :=
  if s.pkg.errPend then s
  else { s with pkg := { s.pkg with errPend := true }, out := s.out ++ [.msix 0] }

/-- The package ring's copy of a record (R355, R356). -/
def State.packageRecord (s : State) (r : Record) (seqNo : Word) : State :=
  match s.pkg.pkgRing with
  | some base =>
    let (s, drop) := ringWrite s base (r.words s.pkg.pkgOvf seqNo s.clock)
    let s := { s with pkg := { s.pkg with pkgOvf := drop } }
    if drop then s else s.errPendSet
  | none =>
    if s.pkg.pkgBuf.length < 256 then
      { s with pkg := { s.pkg with pkgBuf := s.pkg.pkgBuf ++ [r.words s.pkg.pkgOvf seqNo s.clock], pkgOvf := false } }
    else { s with pkg := { s.pkg with pkgDropped := s.pkg.pkgDropped + 1, pkgOvf := true } }

/-- The context ring's copy of a record (R355). -/
def State.contextRecord (s : State) (r : Record) (seqNo : Word) : State :=
  match s.ctx? r.ctx with
  | none => s
  | some c =>
    let (s, drop) := ringWrite s c.errRing.toNat (r.words c.ringOvf seqNo s.clock)
    s.mapCtx r.ctx fun c => { c with ringOvf := drop }

/-- The error arbiter takes a record: it numbers it and writes both rings (R355). The number is the answer. -/
def State.record (s : State) (r : Record) : Word × State :=
  let n := s.pkg.seqNo + 1
  let s := { s with pkg := { s.pkg with seqNo := n }, free := s.free + 1 }
  (n, (s.packageRecord r n).contextRecord r n)

/-- The sequence number of a launch's start barrier; 0 with no launch (R359). -/
def State.launchSeq (s : State) (k : LKey) : Nat := match s.launch? k with | some l => l.seqNo.toNat | none => 0

/-- The codes for whose records the spec states no ADDRESS (R361; log 14). -/
def addrOpen (code : BitVec 16) : Bool :=
  let n := code.toNat
  decide (0x0130 ≤ n ∧ n ≤ 0x0138) || decide (0x0420 ≤ n ∧ n ≤ 0x0425) || decide (0x0430 ≤ n ∧ n ≤ 0x0434) ||
  decide (0x0620 ≤ n ∧ n ≤ 0x0626) ||
  [0x0114, 0x0115, 0x0121, 0x0140, 0x0141, 0x0143, 0x0146, 0x0147, 0x0148, 0x0211, 0x0221, 0x0240, 0x0241, 0x0242, 0x0308,
   0x0309, 0x030A, 0x030B, 0x0502, 0x0511, 0x0512, 0x0513, 0x0801].contains n

/-- The codes for whose records the spec states no DETAIL (R361; log 14). -/
def detailOpen (code : BitVec 16) : Bool :=
  let n := code.toNat
  decide (0x0620 ≤ n ∧ n ≤ 0x0626) ||
  [0x0115, 0x0121, 0x0141, 0x0146, 0x0147, 0x0148, 0x0211, 0x0241, 0x0242, 0x0309, 0x030A, 0x030B, 0x0501, 0x0502, 0x0511,
   0x0512, 0x0513, 0x0801].contains n

/-- An ADDRESS that the spec does not state: undefined (log 14). -/
def State.openAddr (s : State) : DWord := Config.freeRecord (2 * s.free)

/-- A DETAIL that the spec does not state: undefined (log 14). -/
def State.openDetail (s : State) : DWord := Config.freeRecord (2 * s.free + 1)

/-- The ADDRESS of a record of a code: as the code states, else undefined (R361). -/
def State.recAddr (s : State) (code : BitVec 16) (addr : DWord) : DWord := if addrOpen code then s.openAddr else addr

/-- The DETAIL of a record of a code: as the code states, else undefined (R361). -/
def State.recDetail (s : State) (code : BitVec 16) (detail : DWord) : DWord :=
  if detailOpen code then s.openDetail else detail

/-- Records were dropped from a context's ring before its next one (R357, R359). -/
def State.ctxOvf (s : State) (ctx : Nat) : Bool := match s.ctx? ctx with | some c => c.ringOvf | none => s.pkg.pkgOvf

/-- A record that names a wave (R359). -/
def State.waveRecord (s : State) (w : Wave) (engine : Nat) (precise : Bool) (code : BitVec 16) (addr detail pc : DWord) :
    Record :=
  { chip := s.pkg.chipNo, ctx := w.ctx, engine := engine, precise := precise, action := actionOf code, code := code,
    launch := s.launchSeq w.key, wave := some (w.slot, w.core, w.idx, w.lteam), addr := addr, detail := detail, pc := pc,
    gen := match s.ctx? w.ctx with | some c => c.gen | none => 0, ovf := s.ctxOvf w.ctx }

/-- A record that names a context and no wave (R359). -/
def State.ctxRecord (s : State) (ctx : Nat) (key : Option LKey) (engine : Nat) (code : BitVec 16) (addr detail : DWord) :
    Record :=
  { chip := s.pkg.chipNo, ctx := ctx, engine := engine, precise := false, action := actionOf code, code := code,
    launch := match key with | some k => s.launchSeq k | none => 0, wave := none, addr := addr, detail := detail, pc := 0,
    gen := match s.ctx? ctx with | some c => c.gen | none => 0, ovf := s.ctxOvf ctx }

/-- A record with no context: CTX 0xFFFF, CHIP and GEN 0 (R359). -/
def State.bareRecord (s : State) (engine : Nat) (code : BitVec 16) (addr detail : DWord) : Record :=
  { chip := 0, ctx := 0xFFFF, engine := engine, precise := false, action := actionOf code, code := code, launch := 0,
    wave := none, addr := addr, detail := detail, pc := 0, gen := 0, ovf := s.pkg.pkgOvf }

/-! ### Messages between chips -/

/-- A chip is reached: this one, or one whose routed port is up and enabled (R260, R261). -/
def State.routed (s : State) (chip : Nat) : Bool :=
  chip == s.pkg.chipNo || match lookup s.pkg.routes chip with
    | none => false
    | some p => match lookup s.ports p with | none => false | some x => x.width != 0 && x.enable

/-- Send a message to a chip: to this chip it is simply received, and one with no port to leave by is lost (R259, R260; log 1). -/
def State.send (s : State) (chip : Nat) (msg : Msg) : State :=
  if chip = s.pkg.chipNo then { s with inbox := s.inbox ++ [msg] }
  else if s.routed chip then { s with out := s.out ++ [.flit chip msg] } else s

/-- The link runs CXL.mem and CXL.cache: at x4 or more, and at the full rate of 64 GT/s (R374; DEDUCED, log 43: its two sentences read
together). -/
def State.cxlUp (s : State) : Bool := match s.pkg.link with | some (lanes, rate) => decide (lanes ≥ 4 ∧ rate ≥ 64) | none => false

/-- The home chip of a membership set (R318): launch chip index 0 for set 0. -/
def State.setHome (s : State) (r : SetRef) : Nat :=
  if r.set = 0 then
    match r.key with
    | none => s.pkg.chipNo
    | some k => match s.launch? k with | some l => l.chips.headD s.pkg.chipNo | none => s.pkg.chipNo
  else match s.ctx? r.ctx with
    | none => s.pkg.chipNo
    | some c => match lookup c.msets r.set with | some e => e.home | none => s.pkg.chipNo

/-- The name of a set a wave uses: set 0 is its launch's own (R318). -/
def Wave.setRef (w : Wave) (n : Nat) : SetRef := { ctx := w.ctx, set := n, key := if n = 0 then some w.key else none }

/-- A wave as a member (R319). -/
def State.member (s : State) (w : Wave) : Member := { chip := s.pkg.chipNo, uid := w.uid }

/-- The wave is a member of a set: its cmm says so (R301), or it is set 0 of a launch whose kernel declares it, of which every wave is a member
from its start though cmm begins as 0 (R143, R318; log 22). -/
def Wave.memberOf (w : Wave) (n : Nat) : Bool := w.r.cmm.getLsbD n || (n == 0 && natBit w.k.msetMask 0)

/-- The sets a wave is a member of; one that has ended has left them (R312). -/
def Wave.sets (w : Wave) : List Nat := if w.status = .ended then [] else (List.range 16).filter w.memberOf

/-- The wave leaves every set it is a member of (R312). -/
def State.leaveSets (s : State) (uid : Nat) : State :=
  match s.wave uid with
  | none => s
  | some w =>
    let s := w.sets.foldl (fun s n => s.send (s.setHome (w.setRef n)) (.leave (w.setRef n) (s.member w))) s
    s.mapWave uid fun w => { w with r := { w.r with cmm := 0 } }

/-- The policy of a set (R318, R325): true is EXCLUDE. -/
def State.setExcludes (s : State) (w : Wave) (n : Nat) : Bool :=
  match s.ctx? w.ctx with
  | none => false
  | some c => match lookup c.msets n with | some e => e.exclude | none => false

/-- A member delivered a trap before it voted: each EXCLUDE set gets an exclusion for its next instance, once (R325). -/
def State.excludeSets (s : State) (uid : Nat) : State :=
  match s.wave uid with
  | none => s
  | some w =>
    (w.sets.filter fun n => s.setExcludes w n).foldl (fun s n =>
      let k := cget 0 w.r.next n
      if w.excl.contains (n, k) then s
      else (s.send (s.setHome (w.setRef n)) (.vote (w.setRef n) k (s.member w) none)).mapWave uid fun w =>
        { w with excl := w.excl ++ [(n, k)] }) s

/-! ### The matrix claim of a wave that ends (R222) -/

/-- A quad of a team. -/
def Wave.quad (w : Wave) : Nat := w.idx / 4

/-- The wave on a core's engine list. -/
def State.engine? (s : State) (core : Nat) : Option Engine := lookup s.engines core

/-- A wave by its serial number, resident or held by a save (R364). -/
def State.anyWave (s : State) (uid : Nat) : Option Wave :=
  (s.wave uid) <|> s.images.findSome? fun im => if im.held then im.waves.find? fun w => w.uid == uid else none

/-- Change a wave, resident or held by a save: what ends while it is saved ends in its image (R156, R272). -/
def State.mapAnyWave (s : State) (uid : Nat) (f : Wave → Wave) : State :=
  if (s.wave uid).isSome then s.mapWave uid f
  else { s with images := s.images.map fun im =>
    if im.held then { im with waves := updateFirst (fun w => w.uid == uid) f im.waves } else im }

/-- Mark an operation of a wave finished with an error code whose record lies at an address. -/
def State.finishOp (s : State) (wave op : Nat) (wrs : List Wr) (nstat : Word) (err : Option FErr) : State :=
  s.mapAnyWave wave fun w => w.mapOp op fun o => o.finish wrs nstat err

/-- Finish an operation in several waves (R208). -/
def State.finishOps (s : State) (ops : List (Nat × Nat)) (err : Option FErr) : State :=
  ops.foldl (fun s (w, o) => s.finishOp w o [] 0 err) s

/-- The blocks a quad's loads have taken stay held until their flags clear, whatever becomes of its RDY counts (R207). -/
def HeldBlock.age (b : HeldBlock) (q : Option QuadSt) : HeldBlock :=
  if b.zeros = 0 ∧ (q.any fun q => q.team == b.team && q.quad == b.quad) = true then { b with old := true } else b

/-- The claim is released: the next pending quad takes it at its grant (R205, R210). -/
def Engine.passClaim (e : Engine) : Engine :=
  { e with stack := [], bpre := false, poison := false, taint := false, claim := none, plan := e.plan.map fun b => b.age e.claim }

/-- Registers written while the engine held them become undefined when it gives them up (R207). -/
def State.freeHits (s : State) (hits : List (Nat × Nat)) : State :=
  let free := s.free
  let undo (n : Nat) (w : Wave) : Wave :=
    { w with r := { w.r with v := (List.range 64).foldl (fun v l =>
        cset 0 (Config.freeWord (free * 2 ^ 14 + 64 * n + l)) v (64 * n + l)) w.r.v } }
  hits.foldl (fun s (u, n) => s.mapWave u (undo n)) { s with free := free + 1 }

/-- Discard a quad's instructions and its claim, ending their operations with an error (R221, R222). -/
def State.dropQuad (s : State) (core team quad : Nat) (err : Option FErr) : State :=
  match s.engine? core with
  | none => s
  | some e =>
    let mine (q : QuadSt) : Bool := q.team == team && q.quad == quad
    let held := match e.claim with | some q => mine q | none => false
    let queued := (e.claim.toList ++ e.pending).filter mine
    let ops := queued.flatMap fun q => q.queue.flatMap fun x => x.ops
    let kept (b : HeldBlock) : Bool := b.team == team && b.quad == quad
    let hits := (e.plan.filter kept).flatMap (·.hit)
    let e := { e with pending := e.pending.filter fun q => !mine q, plan := e.plan.filter fun b => !kept b }
    let e := if held then e.passClaim else e
    (({ s with engines := assign core e s.engines }).freeHits hits).finishOps ops err

/-- The quad of a wave holds or awaits the claim of its core's engine (R222). -/
def State.quadClaims (s : State) (w : Wave) : Bool :=
  match s.engine? w.core with
  | none => false
  | some e => (e.claim.toList ++ e.pending).any fun q => q.team == w.team && q.quad == w.quad

/-! ### Ending a wave -/

/-- The control state of a wave with no live lane. -/
def Ctl.dead (c : Ctl) : Ctl :=
  { c with live := 0, other := none, full := [], arm := { c.arm with em := 0, stack := [] } }

/-- A wave that sleeps at a barrier sleeps no more: its arrival stands and its operation completes (R345, R347). -/
def Wave.unsleep (w : Wave) : Wave :=
  match w.status with
  | .sleepBar _ op => { (w.mapOp op fun o => o.finish [] 0 none) with status := .run }
  | .sleepWord _ _ op _ => { (w.mapOp op fun o => o.finish [] 0 none) with status := .run }
  | _ => w

/-- The bit of a wave that sleeps no more leaves its barrier's WAITERS (R343, R347). -/
def State.unsleep (s : State) (uid : Nat) : State :=
  match s.wave uid with
  | none => s
  | some w =>
    let s := match w.status with
      | .sleepBar n _ => s.mapTeam w.team fun t => { t with
          bars := t.bars.map fun (b : Nat × Bar) => if b.1 = n then (n, { b.2 with waiters := b.2.waiters &&& ~~~ (1#16 <<< w.idx) }) else b }
      | _ => s
    s.mapWave uid Wave.unsleep

/-- A run-ahead ends with its wave: what it issued is dropped, and the `cbr`'s operation retires with 0x0630 (R326). -/
def Wave.dropAhead (w : Wave) : Wave :=
  match w.ahead with
  | none => w
  | some a => ({ w with ahead := none, ops := w.ops.filter fun o => decide (o.id ≤ a.op) || o.eng }).mapOp a.op fun o =>
      o.finish [] 0 (some { code := 0x0630, later := 0, addr := 0 })

/-- A wave ends by a recovery action or a handler, as if every live lane executed `end` (R312, R354). A member of a
quad that holds or awaits the claim takes the quad's instructions with it, under a record of 0x0138 (R222). -/
def State.killWave (s : State) (uid : Nat) : State :=
  match s.wave uid with
  | none => s
  | some w =>
    let s := (s.leaveSets uid).unsleep uid
    let s := if s.quadClaims w then
        let addr := s.openAddr
        let (_, s) := s.record (s.waveRecord w 2 false 0x0138 addr (BitVec.ofNat 64 w.idx) 0)
        s.dropQuad w.core w.team w.quad (some { code := 0x0138, later := 0, addr := addr })
      else s
    s.mapWave uid fun w => { w.dropAhead with
      status := .ended, frame := none, ahead := none, cancel := none,
      r := { w.r with ctl := w.r.ctl.dead } }

/-- Enact KILL-LAUNCH or KILL-JOB for a wave's work: the cancel of R286 is begun as a command of the job on this chip,
and sent to the job's other chips by the command's own rule (R354, R412). `level` 0 is the launch and 3 the job. -/
def State.startCancel (s : State) (ctx : Nat) (level : Nat) (key : LKey) : State :=
  let w0 := BitVec.ofNat 64 (ctx + level * 2 ^ 16)
  let w3 := match key.node with | none => 0 | some n => BitVec.ofNat 64 (2 ^ 31 + n)
  { s with inbox := s.inbox ++ [.jobCmd 0x22 [w0, BitVec.ofNat 64 key.queue, BitVec.ofNat 64 key.slot, w3,
      BitVec.ofNat 64 (key.chip + 1)]] }

/-- Enact the action of a failure that has no issuing wave (R354): RETRY, KILL-WAVE and SERVICE have no effect. -/
def State.enact (s : State) (ctx : Nat) (key : Option LKey) (action : Nat) : State :=
  match action, key with
  | 2, some k => s.startCancel ctx 0 k
  | 3, _ => s.startCancel ctx 3 LKey.none
  | _, _ => s

/-- A record whose action is RESET-PACKAGE has the package dump and reset next, but for 0x0703 and 0x0704, which reset it at once
(R354, R372). -/
def State.noteFatal (s : State) (r : Record) (seqNo : Word) : State :=
  if r.action = 4 ∧ r.code ≠ 0x0703 ∧ r.code ≠ 0x0704 then
    { s with pkg := { s.pkg with
        fatal := s.pkg.fatal <|> some (r.words s.pkg.pkgOvf seqNo s.clock, seqNo)
        dumping := s.pkg.dumping.map fun d => { d with halted := true } } }
  else s

/-- Write a record that names no wave and enact its action at once (R354). -/
def State.failNoWave (s : State) (r : Record) (key : Option LKey) : State :=
  let (n, s) := s.record r
  (s.noteFatal r n).enact r.ctx key r.action

/-- Write the record of a wave's asynchronous failure: its action waits for 0x0120 (R354). -/
def State.failAsync (s : State) (w : Wave) (engine : Nat) (code : BitVec 16) (addr detail : DWord) : State :=
  (s.record (s.waveRecord w engine false code addr detail 0)).2

/-! ### Taking a trap (R351) -/

/-- Apply an action to the wave on the issue port, which runs no handler (R354). -/
def State.applyAction (s : State) (action : Nat) (code : BitVec 16) : State :=
  match action with
  | 1 => s.killWave s.w.uid
  | 2 => (s.withW fun w => { w with status := .stopped }).startCancel s.w.ctx 0 s.w.key
  | 3 => (s.withW fun w => { w with status := .stopped }).startCancel s.w.ctx 3 s.w.key
  | 4 => s.withW fun w => { w with status := .stopped }
  | _ => s.withW fun w => { w with status := .parked code }

/-- Enter handler mode with a record already numbered (R351 step 3, R352); item 0's OVF is that of the context ring's copy (log 54). -/
def State.enterHandler (s : State) (r : Record) (seqNo : Word) : State :=
  s.withW fun w => { w with
    status := .run,
    frame := some { word0 := BitVec.ofNat 32 (r.low r.ovf), code := r.code, addr := r.addr, detail := r.detail,
                    xpc := w.r.ctl.arm.pc, em := w.r.ctl.arm.em, seqNo := seqNo, ctl := w.r.ctl },
    ops := w.ops.map (Op.enter w.r.ctl.arm.taken),
    r := { w.r with ctl :=
      { w.r.ctl with
        other := none, full := [],
        arm := { w.r.ctl.arm with
          pc := w.k.hdr + 64 + BitVec.ofNat 64 w.k.trapOff, em := w.r.ctl.live, stack := [], lp0 := LoopRec.none,
          lp1 := LoopRec.none, done := none, parked := false, atFull := 0 } } } }

/-- Take a trap precise at the issuing wave's pc: one record, then the handler or the recovery action (R349, R351). An end action
refused by R317 names END in its record. -/
def State.takeTrap (s : State) (code : BitVec 16) (addr detail : DWord) (action : Nat) : State :=
  let pc := s.w.r.ctl.arm.pc
  let addr := if code = 0x0114 ∧ detail = 2 then addr else s.recAddr code addr
  let detail := s.recDetail code detail
  match s.w.frame with
  | some _ =>
    let r := { s.waveRecord s.w 0 true 0x0142 addr (code.setWidth 64) pc with action := 1 }
    let (_, s) := s.record r
    s.killWave s.w.uid
  | none =>
    let r := { s.waveRecord s.w 0 true code addr detail pc with action := action }
    let (n, s) := s.record r
    let s := (s.noteFatal r n).excludeSets s.w.uid
    if s.w.k.trapOff = 0 then s.applyAction action code else s.enterHandler r n

end Sys2Proof.Machine
end

