-- ==== Sys2Proof/Machine/Check.lean ====
section
/-! DEFINITION. The decode checks of R40 (spec/02_encoding.md), in their order, over a description of each instruction. -/

namespace Sys2Proof.Machine

/-- What an instruction does with UNI: accepts it, or refuses it with 0x0104 (R24) or 0x0106 (R168). -/
inductive Uni where
  | yes | no4 | no6
deriving DecidableEq, Repr

/-- How an instruction's description uses its fields (R24). `ok` is the operand check of step 12; `wD` to `wC` are the
numbers of registers its operands read, by TY; `maskUni` accepts mask operands with UNI (R187); `fp64` has TY = 9 need the FP64
unit (R2). -/
structure Spec where
  minLen : Nat := 0
  priv   : Bool := false
  long   : Bool := false
  ord    : Bool := false
  holdAhead : Fields → Bool := fun _ => false
  ty     : Nat → Bool := fun t => t == 0
  vals   : Fields → Option (BitVec 16) := fun f => if f.mod = 0 ∧ f.x = 0 then none else some 0x0103
  privVals : State → Fields → Option (BitVec 16) := fun _ _ => none
  useD   : Bool := false
  readD  : Bool := false
  wD     : Nat → Nat := tyRegs
  wA     : Nat → Nat := tyRegs
  wB     : Nat → Nat := tyRegs
  wC     : Nat → Nat := tyRegs
  useA   : Bool := false
  useB   : Bool := false
  useC   : Bool := false
  idxC   : Bool := false
  fp64   : Bool := true
  useImm : Bool := false
  offset : Bool := false
  uni    : Uni := .yes
  maskUni : Bool := false
  pred7  : Bool := false
  ok     : Kernel → Fields → Bool := fun _ _ => true
  late   : State → Fields → Option (BitVec 16) := fun _ _ => none

/-- A register group lies in the allocation on its own boundary (R28, R29). -/
def groupOk (n g limit : Nat) : Bool := n % g == 0 && decide (n + g ≤ limit)

/-- A vector register group of a type. -/
def vGroup (k : Kernel) (t n : Nat) : Bool := groupOk n (tyRegs t) k.vregs
/-- A scalar register group of a type. -/
def sGroup (k : Kernel) (t n : Nat) : Bool := groupOk n (tyRegs t) k.sregs

/-- A source of a type: register, constant, IMM32 or lane index (R28 to R31). -/
def srcOk (k : Kernel) (f : Fields) (t : Nat) (spec : BitVec 10) : Bool :=
  match Opd.of spec with
  | .v n => vGroup k t n
  | .s n => sGroup k t n
  | .int _ => true
  | .fp _ => fpConstOk t
  | .imm => f.len == .l128 && immOk t f.imm
  | .lane => true
  | _ => false

/-- A scalar register, constant or IMM32 read as 32 bits. -/
def scalarOk (k : Kernel) (f : Fields) (spec : BitVec 10) : Bool :=
  match Opd.of spec with
  | .v _ => false
  | .lane => false
  | _ => srcOk k f 18 spec

/-- A scalar register alone. -/
def sregOk (k : Kernel) (t : Nat) (spec : BitVec 10) : Bool :=
  match Opd.of spec with | .s n => sGroup k t n | _ => false

/-- An even scalar pair (R29). -/
def pairOk (k : Kernel) (spec : BitVec 10) : Bool := sregOk k 19 spec

/-- A vector register group of a type. -/
def vregOk (k : Kernel) (t : Nat) (spec : BitVec 10) : Bool :=
  match Opd.of spec with | .v n => vGroup k t n | _ => false

/-- A scalar register or the discard sink. -/
def sregOrNull (k : Kernel) (t : Nat) (spec : BitVec 10) : Bool :=
  match Opd.of spec with | .s n => sGroup k t n | .sink => true | _ => false

/-- A destination of a type: a vector group, the discard sink, and a scalar group with UNI set (R28). -/
def dstOk (k : Kernel) (f : Fields) (t : Nat) (spec : BitVec 10) : Bool :=
  match Opd.of spec with
  | .v n => vGroup k t n
  | .s n => f.uni && sGroup k t n
  | .sink => true
  | _ => false

/-- A specifier of a vector register. -/
def isVec (spec : BitVec 10) : Bool := match Opd.of spec with | .v _ => true | _ => false

/-- A specifier of a scalar register. -/
def isScal (spec : BitVec 10) : Bool := match Opd.of spec with | .s _ => true | _ => false

/-- A destination that may be scalar without UNI, in an instruction none of whose other operands is then a vector (R159, R163). -/
def dstFree (k : Kernel) (t : Nat) (d : BitVec 10) (others : List (BitVec 10)) : Bool :=
  (vregOk k t d || sregOrNull k t d) && !(isScal d && others.any isVec)

/-- A predicate or em. -/
def maskOk (spec : BitVec 10) : Bool := match Opd.of spec with | .p _ => true | .em => true | _ => false

/-- A predicate. -/
def predOk (spec : BitVec 10) : Bool := match Opd.of spec with | .p _ => true | _ => false

/-- The index vector register of a memory operand, or none (R153). -/
def idxOk (k : Kernel) (spec : BitVec 10) : Bool :=
  spec == 0 || match Opd.of spec with | .v n => decide (n < k.vregs) | _ => false

/-- A specifier that UNI does not accept (R28). -/
def notUniform (spec : BitVec 10) : Bool :=
  match Opd.of spec with | .v _ => true | .p _ => true | .em => true | .lane => true | _ => false

/-- A specifier that UNI does not accept where masks are accepted with it (R187). -/
def notUniformMask (spec : BitVec 10) : Bool :=
  match Opd.of spec with | .v _ => true | .lane => true | _ => false

/-- The source of a named specifier is IMM32. -/
def isImm (spec : BitVec 10) : Bool := spec == 729

/-- LEN as a number. -/
def lenNum (l : Len) : Nat := match l with | .l64 => 0 | .l96 => 1 | .l128 => 2

/-- Steps 5 to 13 of R40: the first check that fails. Within step 13, whose codes R40 names as a range, an absent unit 0x0111 comes before an
absent core 0x0110 and the rest (DESIGN CHOICE, log 57). -/
def decodeCheck (s : State) (sp : Spec) (f : Fields) : Option (BitVec 16) :=
  if sp.priv && !s.priv then some 0x010A
  else if lenNum f.len < sp.minLen then some 0x0102
  else if (12 ≤ f.setf.toNat ∧ f.setf.toNat ≤ 14) ∨ (sp.long = true ∧ f.setf = 15) then some 0x0103
  else if !(decide (f.ty.toNat ≤ 20) && sp.ty f.ty.toNat) then some 0x0108
  else match sp.vals f with
  | some c => some c
  | none =>
    if sp.pred7 && f.pred != 7 then some 0x0103
    else match sp.privVals s f with
    | some c => some c
    | none =>
    let usesImm := sp.useImm || (sp.useA && isImm f.a) || (sp.useB && isImm f.b) || (sp.useC && isImm f.c)
    if (!sp.offset && ((!sp.useD && f.d != 0) || (!sp.useA && f.a != 0) || (!sp.useB && f.b != 0))) ||
        (!sp.useC && f.c != 0) || (!usesImm && f.imm != 0) || (f.uni && sp.uni == .no4) then some 0x0104
    else if f.uni && (sp.uni == .no6 || (let no := if sp.maskUni then notUniformMask else notUniform
        (sp.useD && no f.d) || (sp.useA && no f.a) || (sp.useB && no f.b) || (sp.useC && !(sp.idxC && f.c == 0) && no f.c))) then some 0x0106
    else if !sp.ok s.w.k f then some 0x0107
    else if f.ty = 9 && sp.fp64 && sp.ty 9 && !s.pkg.cap.fp64 then some 0x0111
    else sp.late s f

end Sys2Proof.Machine
end

