-- ==== Sys2Proof/Machine/Issue.lean ====
section
/-! DEFINITION. How an instruction of the wave on the issue port issues: its checks (R40), its wait conditions
(R293, R294), its effect, and the flag and control bookkeeping after it (R21, R22, R295 to R297). -/

namespace Sys2Proof.Machine

/-- What an instruction's effect answers: a trap precise at it (`trapIn`: after an access it made), a wait at issue, or done. `ok` goes to an address, or on
to the next instruction; with `moved` the effect has set the control state itself. -/
inductive Try where
  | trap (code : BitVec 16) (addr detail : DWord)
  | trapIn (s : State) (code : BitVec 16) (addr detail : DWord)
  | stall (s : State)
  | ok (s : State) (dest : Option DWord)
  | moved (s : State)

/-- The issue slot in which the wave's next instruction goes (R293, R294). -/
def issueSlot (s : State) (f : Fields) : Nat :=
  let pipe := s.w.core * 4 + s.w.slot % 4
  let base := max (s.clock / 4) ((lookup s.pipes pipe).getD 0)
  let arm := s.w.r.ctl.arm
  if arm.free then base else max base (arm.last + 1 + f.dist.toNat)

/-- The 64 low bits of an instruction, as a record's detail word holds them (R39). -/
def instrLow (i : Instr) : DWord := match i.bits with | some w => w.extractLsb' 0 64 | none => 0

/-- The address of the wave's next instruction. -/
def State.pc (s : State) : DWord := s.w.r.ctl.arm.pc

/-- A wait at issue: the wave is not ready until something happens (R293 condition 4). -/
def State.waits (s : State) : State :=
  s.withR fun r => { r with ctl := { r.ctl with arm := { r.ctl.arm with stalled := true } } }

/-- Forget the failed walks a wave has met and those it waits for: it translates again (R91). -/
def State.dropFaults (s : State) (uid : Nat) : State :=
  { s with m := { s.m with
    faults := s.m.faults.filter fun x => x.wave != uid
    walks := s.m.walks.map fun x => { x with waiters := x.waiters.filter fun u => u != uid } } }

/-- A trap at the wave's instruction: taken, or held while the wave runs ahead (R322, R349). -/
def State.trapAt (s : State) (code : BitVec 16) (addr detail : DWord) (action : Nat) : State :=
  let s := s.dropFaults s.w.uid
  match s.w.ahead with
  | some a => (s.withW fun w => { w with ahead := some { a with fault := some (code, addr, detail) } }).waits
  | none => s.takeTrap code addr detail action

/-- A trap an instruction raises: 0x0120 has the action of the failure its detail names, and its delivery clears the flag's error
(R297, R300). -/
def State.trapBy (s : State) (code : BitVec 16) (addr detail : DWord) : State :=
  if code = 0x0120 then
    let s := if s.w.ahead.isSome then s else s.withW fun w => w.clearErr (detail.extractLsb' 16 4).toNat
    s.trapAt code addr detail (actionOf (detail.setWidth 16))
  else s.trapAt code addr detail (actionOf code)

/-- 0x0120 for a flag. -/
def State.trapFlag (s : State) (flag : Nat) (e : FErr) : State := s.trapBy 0x0120 e.addr (errDetail flag e)

/-- The registers of the destination, as a load's operation names them (R156). -/
def destRegs (f : Fields) : List Nat :=
  match Opd.of f.d with
  | .v n => (List.range (tyRegs f.ty.toNat)).map fun i => n + i
  | .s n => (List.range (tyRegs f.ty.toNat)).map fun i => 1024 + n + i
  | _ => []

/-- Begin an operation on the flag SETF names; its number is the answer. -/
def State.startOp (s : State) (f : Fields) (acq load : Bool) : Nat × State :=
  let (id, s) := s.fresh
  match setFlag f with
  | none => (id, s)
  | some fl => (id, s.withW fun w => w.addOp { Op.fresh id fl with
      acq := acq, load := load, dst := if load then destRegs f else [] })

/-- Raise a flag with an operation that is complete at once (R171). -/
def State.finishedOp (s : State) (f : Fields) : State :=
  match setFlag f with
  | none => s
  | some fl =>
    let (id, s) := s.fresh
    s.withW fun w => w.addOp { Op.fresh id fl with fin := true }

/-- What later-issued writes leave of a write that lands no sooner than they do (R308). -/
def Wr.under (ws : List Wr) : Wr → Option Wr
  | .v n l x => if ws.any fun w => match w with | .v m k _ => m == n && k == l | _ => false then none else some (.v n l x)
  | .s n x => if ws.any fun w => match w with | .s m _ => m == n | _ => false then none else some (.s n x)
  | .p n mask bits =>
    some (.p n (ws.foldl (fun a w => match w with | .p m b _ => if m = n then a &&& ~~~ b else a | _ => a) mask) bits)
  | .em x => some (.em x)

/-- A short result that lands no sooner than later-issued writes loses what they write: a register holds what the later-issued write
gave it (R308). -/
def Pend.under (due : Nat) (ws : List Wr) (q : Pend) : Pend :=
  if q.due < due then q else { q with wrs := q.wrs.filterMap (Wr.under ws) }

/-- Queue a short result for issue slot `slot + lam` (R295). -/
def State.result (s : State) (slot lam : Nat) (wrs : List Wr) : State :=
  if wrs.isEmpty then s
  else s.withR fun r => { r with pend := r.pend.map (Pend.under (slot + lam) wrs) ++ [{ due := slot + lam, wrs := wrs }] }

/-- An instruction that has just made the two arms leaves every operation counted in both, its own too (R309). -/
def State.countBothNew (t s : State) : State :=
  if s.w.r.ctl.other.isNone && t.w.r.ctl.other.isSome && s.w.frame.isSome == t.w.frame.isSome then
    t.withW fun w => { w with ops := w.ops.map fun o => { o with inT := o.inT || o.inF, inF := o.inT || o.inF } }
  else t

/-- The issue bookkeeping of an instruction that has issued: pipe, clock, order of issue, and the run-ahead count, in
which the `cbr` itself is the first (R322). -/
def State.issued (s : State) (slot : Nat) : State :=
  let pipe := s.w.core * 4 + s.w.slot % 4
  let s := { s with pipes := assign pipe (slot + 1) s.pipes, clock := max s.clock (4 * slot) }
  s.withW fun w => { w with last := some slot, ahead := w.ahead.map fun a => { a with count := a.count + 1 } }

/-- The arm after its instruction: at the target of a transfer, or past the instruction with the end action open. -/
def Arm.after (a : Arm) (slot size : Nat) (dest : Option DWord) : Arm :=
  match dest with
  | some t => { a with pc := t, last := slot, free := false, done := none, stalled := false }
  | none => { a with pc := a.pc + BitVec.ofNat 64 size, last := slot, free := false, done := some a.pc,
                     stalled := false }

/-- Whether an instruction acts at all: `always` for the control instructions of R302, else one lane in em and the
guard (R21). -/
def acts (always : Bool) (r : Regs) (f : Fields) : Bool := always || activeMask r f != 0

/-- The instruction reads an element with a double-bit error (R152). -/
def readsBad (sp : Spec) (r : Regs) (f : Fields) : Bool :=
  let bad (n : Nat → Nat) (spec : BitVec 10) : Bool := srcBad r (n f.ty.toNat) (activeMask r f) spec
  (sp.readD && bad sp.wD f.d) || (sp.useA && bad sp.wA f.a) || (sp.useB && bad sp.wB f.b) ||
    (sp.useC && !(sp.idxC && f.c == 0) && bad sp.wC f.c)

/-! ### Registers held by the matrix engine (R207) -/

/-- The engine holds a block of a wave: handed over, no `mzero` to come before its load, and its operation outstanding in the wave. -/
def Engine.holds (e : Engine) (w : Wave) (b : HeldBlock) : Bool :=
  b.zeros == 0 && (b.ops.any fun (u, o) => u == w.uid && w.ops.any fun p => p.id == o) &&
    (b.old || match (e.claim.toList ++ e.pending).find? fun q => q.team == b.team && q.quad == b.quad with
    | none => true
    | some q => decide (b.num < nth 0 q.rdy (w.idx % 4)))

/-- The vector registers of a wave that its core's engine holds. -/
def State.heldRegs (s : State) (w : Wave) : List Nat :=
  match s.engine? w.core with
  | none => []
  | some e => (e.plan.filter fun b => e.holds w b).flatMap fun b => (List.range b.n).map fun i => b.reg + i

/-- The wave on the issue port with its held registers undefined (R207). -/
def State.maskHeld (s : State) (held : List Nat) : State :=
  { s.withR fun r => { r with v := held.foldl (fun v n =>
      (List.range 64).foldl (fun v l => cset 0 (Config.freeWord (s.free * 2 ^ 14 + 64 * n + l)) v (64 * n + l)) v) r.v } with
    free := s.free + 1 }

/-- The held registers as they were, after an effect that read them as undefined. -/
def State.unmaskHeld (s : State) (v : Cells 32) : State :=
  s.withW fun w => { w with
    r := { w.r with v := v },
    ahead := w.ahead.map fun a => if a.count = 0 then { a with ckpt := { a.ckpt with v := v } } else a }

/-- The vector registers a list of writes names. -/
def wrRegs (ws : List Wr) : List Nat := ws.filterMap fun w => match w with | .v n _ _ => some n | _ => none

/-- The entry is the quad of a wave. -/
def QuadSt.ofWave (q : QuadSt) (w : Wave) : Bool := q.team == w.team && q.quad == w.quad

/-- Change the first entry of a wave's quad: the claim, or a pending one. -/
def Engine.mapFirst (e : Engine) (w : Wave) (f : QuadSt → QuadSt) : Engine :=
  match e.claim with
  | some q => if q.ofWave w then { e with claim := some (f q) } else { e with pending := updateFirst (fun q => q.ofWave w) f e.pending }
  | none => { e with pending := updateFirst (fun q => q.ofWave w) f e.pending }

/-- The member of a quad has handed over a block that no load names yet (R207). -/
def QuadSt.awaits (q : QuadSt) (w : Wave) : Bool := decide (nth 0 q.rdy (w.idx % 4) > q.iloads)

/-- Vector registers written while the member has handed over a block that no load names yet are remembered: that block may prove to be
theirs (R207). -/
def State.noteEarly (s : State) (w : Wave) (ws : List Wr) : State :=
  match s.engine? w.core with
  | none => s
  | some e =>
    if (wrRegs ws).isEmpty || !((e.claim.toList ++ e.pending).any fun q => q.ofWave w && q.awaits w) then s
    else { s with engines := assign w.core (e.mapFirst w fun q =>
        if q.awaits w then { q with early := ((wrRegs ws).eraseDups.map fun n => (w.uid, nth 0 q.rdy (w.idx % 4), n)) ++ q.early } else q) s.engines }

/-- A held register is written: it and the result of every cell become undefined (R207). -/
def State.touchHeld (s : State) (w : Wave) (ws : List Wr) : State :=
  let s := s.noteEarly w ws
  let hits := (s.heldRegs w).filter fun n => (wrRegs ws).contains n
  if hits.isEmpty then s
  else match s.engine? w.core with
    | none => s
    | some e =>
      let mark (b : HeldBlock) : HeldBlock :=
        { b with hit := b.hit ++ (hits.filter fun n => decide (b.reg ≤ n ∧ n < b.reg + b.n)).map fun n => (w.uid, n) }
      let e := { e with taint := true, plan := e.plan.map fun b => if e.holds w b then mark b else b }
      { s with engines := assign w.core e s.engines }

/-- Run an effect with the held registers undefined (R207). -/
def withHeld (eff : Nat → State → Try) (slot : Nat) (s : State) : Try :=
  let held := s.heldRegs s.w
  if held.isEmpty then eff slot s
  else
    let v := s.w.r.v
    match eff slot (s.maskHeld held) with
    | .trap c a d => .trap c a d
    | .trapIn t c a d => .trapIn (t.unmaskHeld v) c a d
    | .stall t => .stall (t.unmaskHeld v)
    | .ok t dest => .ok (t.unmaskHeld v) dest
    | .moved t => .moved (t.unmaskHeld v)

/-- The state in which an instruction's effect begins: the short results whose time has come are available, and the clock stands at
its issue slot (R294, R295). -/
def State.atIssue (s : State) (f : Fields) : State :=
  let slot := issueSlot s f
  let s := (s.touchHeld s.w ((s.w.r.ripe slot).flatMap (·.wrs))).withR fun r => r.settle slot
  { s with clock := max s.clock (4 * slot) }

/-- The wave goes on after an instruction: its flag raised unless the effect raised it, its arm past the instruction or at the target of
a transfer, the issue slot used (R171, R293, R315). -/
def State.goOn (s : State) (long : Bool) (f : Fields) (slot : Nat) (dest : Option DWord) : State :=
  let s := if long then s else s.finishedOp f
  (s.withR fun r => { r with ctl := { r.ctl with arm := r.ctl.arm.after slot f.len.bytes dest } }).issued slot

/-- The same after an effect that has set the control state itself. -/
def State.goOnMoved (s t : State) (long : Bool) (f : Fields) (slot : Nat) : State :=
  (if long then t else (t.finishedOp f).countBothNew s).issued slot

/-- The flag SETF names counts 63 operations already: the instruction waits (R297). -/
def Wave.flagFull (w : Wave) (f : Fields) : Bool :=
  match setFlag f with | some fl => decide (w.countBoth fl ≥ 63) | none => false

/-- The wave runs ahead of a collective branch and holds the instruction: 64 have issued since, it is one that waits for the outcome, or
a fault is held (R322). -/
def Wave.aheadHolds (w : Wave) (sp : Spec) (f : Fields) : Bool :=
  match w.ahead with | some a => decide (a.count ≥ 65) || sp.holdAhead f || a.fault.isSome | none => false

/-- A memory instruction waits for an earlier acquire of its wave (R334). -/
def Wave.acquires (w : Wave) (sp : Spec) : Bool := sp.ord && w.ops.any fun o => o.acq && !o.fin

/-- Issue one instruction of the wave on the issue port. -/
def issue (sp : Spec) (always : Bool) (i : Instr) (f : Fields) (eff : Nat → State → Try) (s : State) : State :=
  if s.w.status ≠ .run ∨ s.w.preempted then s.waits
  else
  match decodeCheck s sp f with
  | some code => s.trapAt code s.pc (instrLow i) (actionOf code)
  | none =>
    if !s.w.waitReady f then s.waits
    else if s.w.flagFull f then s.waits
    else match s.w.waitError f with
    | some (fl, e) => s.trapFlag fl e
    | none =>
      if s.w.aheadHolds sp f then s.waits
      else if s.w.acquires sp then s.waits
      else
      let slot := issueSlot s f
      let s := s.atIssue f
      if acts always s.w.r f && readsBad sp s.w.r f then s.trapAt 0x0513 s.pc 0 (actionOf 0x0513)
      else if acts always s.w.r f then
        match withHeld eff slot s with
        | .trap code addr detail => s.trapBy code addr detail
        | .trapIn s code addr detail => s.trapBy code addr detail
        | .stall s => s.waits
        | .moved t => s.goOnMoved t sp.long f slot
        | .ok s dest => s.goOn sp.long f slot dest
      else s.goOn false f slot none

/-- A next state. -/
abbrev Ans := Host.Outcome State Fault Refusal

/-- The answer of an encoded instruction: it always has a next state, a trap being one. -/
def run (sp : Spec) (i : Instr) (f : Fields) (eff : Nat → State → Try) (s : State) : Ans :=
  .next (issue sp false i f eff s)

/-- An instruction that writes a scalar D once per wave: the value over no lane is written too (R184, R186). -/
def writesOnce (f : Fields) : Bool := match Opd.of f.d with | .s _ => true | _ => false

/-- The answer of an instruction that reduces its lanes to one value. -/
def runOnce (sp : Spec) (i : Instr) (f : Fields) (eff : Nat → State → Try) (s : State) : Ans :=
  .next (issue sp (writesOnce f) i f eff s)

/-- The same for a control instruction, which acts whatever em is (R302). -/
def runCtl (sp : Spec) (i : Instr) (f : Fields) (eff : Nat → State → Try) (s : State) : Ans :=
  .next (issue sp true i f eff s)

end Sys2Proof.Machine
end

