-- ==== Sys2Proof/Machine/Xlate.lean ====
section
/-! DEFINITION. Translation (R88 to R93, R411 of spec/04_main_memory.md) and the instruction cache (R19 of
spec/02_encoding.md). -/

namespace Sys2Proof.Machine

/-- The kinds of an access, as a fault record numbers them (R91). -/
inductive Kind where
  | read | write | atomic | fetch
deriving DecidableEq, Repr

/-- The number of an access kind (R91). -/
def Kind.num : Kind → Nat
  | .read => 0 | .write => 1 | .atomic => 2 | .fetch => 3

/-- What an address translates to (R90): the physical address and the page's class and bits. -/
structure Hit where
  pa  : Nat
  cls : Nat
  u   : Bool
  x   : Bool
  w   : Bool
deriving DecidableEq, Repr

/-- The outcome of one translation: a hit, a failure at a walk level (7: found without a walk), or a miss. -/
inductive Xl where
  | hit (h : Hit)
  | fail (level : Nat) (code : BitVec 16)
  | miss
deriving DecidableEq, Repr

/-- Bits [63:57] equal bit 56 (R89). -/
def canonicalVa (va : DWord) : Bool := va.toNat / 2 ^ 56 == 0 || va.toNat / 2 ^ 56 == 255

/-- A TLB entry maps an address (R88). -/
def TlbEnt.maps (e : TlbEnt) (unit ctx va : Nat) : Bool :=
  e.unit == unit && e.ctx == ctx && decide (e.va ≤ va ∧ va < e.va + e.size)

/-- The hit of an entry. -/
def TlbEnt.hit (e : TlbEnt) (va : Nat) : Hit := { pa := e.pa + (va - e.va), cls := e.cls, u := e.u, x := e.x, w := e.w }

/-- Look an address up in a core's TLB, then in its die's (R88). -/
def State.tlbFind (s : State) (core : Option Nat) (die ctx va : Nat) : Option TlbEnt :=
  let find (u : Nat) := s.m.tlb.find? fun e => e.maps u ctx va
  match core with
  | none => find (256 + die)
  | some c => match find c with | some e => some e | none => find (256 + die)

/-! ### The walk (R89, R90) -/

/-- The size a leaf maps at a walk level (R89). -/
def levelSize (level : Nat) : Nat := match level with | 0 => 2 ^ 16 | 1 => 2 ^ 21 | 2 => 2 ^ 30 | 3 => 2 ^ 39 | _ => 2 ^ 48

/-- The index of an address at a walk level (R89). -/
def levelIndex (level va : Nat) : Nat := if level = 0 then va / 2 ^ 16 % 32 else va / levelSize level % 512

/-- A page table entry is malformed at a level (R90), V being 1; `hbm` is the backed local HBM. -/
def pteBad (hbm level e : Nat) : Bool :=
  let leaf := natBit e 1
  let cls := field e 60 2
  let addr := field e 8 44 * 256
  field e 62 2 != 0 || field e 52 8 != 0 || field e 5 3 != 0 ||
  (if leaf then
    decide (level ≥ 3) || addr % levelSize level != 0 || (decide (cls ≥ 2) && decide (addr + levelSize level > hbm)) ||
      (decide (addr ≥ hbm) && decide (cls ≥ 2))
  else
    level == 0 || cls != 0 || field e 2 3 != 0 || (decide (level ≥ 2) && addr % 4096 != 0))

/-- What a walk finds: a leaf with its level, or a failure with its level and code; and the table pointers it read. -/
inductive Found where
  | leaf (level e : Nat)
  | fail (level : Nat) (code : BitVec 16)
deriving DecidableEq, Repr

/-- Walk from a table at a level down (R89, R90), with the pointers read: (level below, table). A table outside local HBM ends the walk
with 0x0203 (R74), and one whose sector is poisoned with 0x0501 (R76): the spec gives the two reads no code of their own (log 47). -/
def walkFrom (s : State) (va : Nat) : Nat → Nat → Found × List (Nat × Nat)
  | level, table =>
    let pa := table + 8 * levelIndex level va
    let e := s.readPa 0 pa 8
    if pa ≥ s.hbmBytes then (.fail level 0x0203, [])
    else if s.m.poisoned pa 8 then (.fail level 0x0501, [])
    else if natBit e 0 = false then (.fail level 0x0202, [])
    else if pteBad s.hbmBytes level e then (.fail level 0x0207, [])
    else if natBit e 1 then (.leaf level e, [])
    else
      let next := field e 8 44 * 256
      match level with
      | 0 => (.fail 0 0x0207, [])
      | l + 1 => let (f, ps) := walkFrom s va l next; (f, (l, next) :: ps)

/-- Where a walk starts: the deepest pointer the die's page-walk cache holds, else PTROOT (R88, R89). -/
def State.walkStart (s : State) (die ctx va : Nat) : Nat × Nat :=
  let find (l : Nat) := s.m.pwc.find? fun e =>
    e.die == die && e.ctx == ctx && e.level == l && e.va == va / levelSize (l + 1)
  match find 0 with
  | some e => (0, e.table)
  | none => match find 1 with
    | some e => (1, e.table)
    | none => match find 2 with
      | some e => (2, e.table)
      | none => match find 3 with
        | some e => (3, e.table)
        | none => (4, match s.ctx? ctx with | some c => c.ptRoot.toNat | none => 0)

/-- Walk for an address, its reads passing the home slices of the tables' lines, and keep the pointers read in the die's page-walk cache
(R81, R88, R89). -/
def State.walk (s : State) (die ctx va : Nat) : Found × State :=
  let (level, table) := s.walkStart die ctx va
  let (found, ps) := walkFrom s va level table
  let s := ((level, table) :: ps).foldl (fun s (l, t) => s.sysPass (t + 8 * levelIndex l va) 8) s
  let news := ps.map fun (l, t) => ({ die := die, ctx := ctx, level := l, va := va / levelSize (l + 1), table := t } : PwcEnt)
  (found, { s with m := { s.m with pwc := news ++ s.m.pwc } })

/-- The TLB entry of a leaf (R88, R90). -/
def leafEntry (unit ctx va level e : Nat) : TlbEnt :=
  let size := levelSize level
  { unit := unit, ctx := ctx, va := va / size * size, size := size, pa := field e 8 44 * 256, cls := field e 60 2,
    u := natBit e 4, x := natBit e 3, w := natBit e 2 }

/-- How many entries a TLB holds: a core's 128, a die's 16,384 (R88). -/
def tlbSize (unit : Nat) : Nat := if unit < 256 then 128 else 16384

/-- Put entries into the TLBs; the oldest entry of a full one goes (R88; log 10). -/
def State.addTlb (s : State) (es : List TlbEnt) : State :=
  let all := es.filter (fun e => !s.m.tlb.contains e) ++ s.m.tlb
  { s with m := { s.m with tlb := es.foldl (fun l e => keepFirst (fun x => x.unit == e.unit) (tlbSize e.unit) l) all } }

/-! ### A wave's accesses (R91, R411) -/

/-- The place of a wave's physical address is one it may reach: backed, and in a chip of its launch (R74). -/
def State.reachable (s : State) (w : Wave) (pa : Nat) : Bool :=
  match s.placeOf w.chip pa with
  | .unbacked => false
  | .peer c _ => match s.launch? w.key with | some l => decide (c < l.chips.length) | none => false
  | _ => true

/-- The check of R411 that an access to a translated address fails: its rank and code. -/
def accessFault (backed priv : Bool) (kind : Kind) (align va : Nat) (h : Hit) : Option (Nat × BitVec 16) :=
  if !backed then some (30, 0x0203)
  else if !priv && (h.cls == 3 || !h.u) then some (40, 0x0206)
  else if kind == .atomic && decide (h.cls ≥ 2) then some (50, 0x0209)
  else if va % align ≠ 0 then some (60, if kind == .atomic then 0x0208 else 0x020A)
  else if kind == .fetch && !h.x then some (70, 0x0205)
  else if (kind == .write || kind == .atomic) && !h.w then some (80, 0x0204)
  else none

/-- Translate one address for the wave on the issue port. -/
def State.xlate (s : State) (va : DWord) : Xl :=
  if !canonicalVa va then .fail 7 0x0201
  else match s.m.faults.find? fun x => x.wave == s.w.uid && x.page == va.toNat / 2 ^ 16 with
  | some x => .fail x.level x.code
  | none => match s.tlbFind (some s.w.core) (dieOf s.w.core) s.w.ctx va.toNat with
    | some e => .hit (e.hit va.toNat)
    | none => .miss

/-- The rank, code and level of what stops a lane's access, none where nothing does (R411). -/
def State.laneFault (s : State) (kind : Kind) (align : Nat) (va : DWord) : Option (Nat × BitVec 16 × Nat) :=
  match s.xlate va with
  | .fail level code => some (if code = 0x0201 then 10 else if code = 0x0203 then 30 else 24 - level, code, level)
  | .miss => none
  | .hit h =>
    (accessFault (s.reachable s.w h.pa) s.priv kind align va.toNat h).map fun (r, c) => (r, c, 7)

/-- The first of several faults: the lowest rank, then the lowest lane (R411). -/
def worstFault (fs : List (Nat × DWord × Nat × BitVec 16 × Nat)) : Option (Nat × DWord × Nat × BitVec 16 × Nat) :=
  fs.foldl (fun acc x => match acc with
    | none => some x
    | some a => if x.2.2.1 < a.2.2.1 then some x else some a) none

/-- The detail word of a translation fault (R91). -/
def xlDetail (lane : Nat) (kind : Kind) (level : Nat) : DWord :=
  BitVec.ofNat 64 (lane + kind.num * 2 ^ 8 + level * 2 ^ 12)

/-- Two 64 KiB pieces lie in one page, as the tables map the first: what a miss-merge buffer compares (R88). -/
def State.onePage (s : State) (die ctx p q : Nat) : Bool :=
  p == q || (let start := s.walkStart die ctx (p * 2 ^ 16)
    match (walkFrom s (p * 2 ^ 16) start.1 start.2).1 with
    | .leaf level _ => p * 2 ^ 16 / levelSize level == q * 2 ^ 16 / levelSize level
    | .fail _ _ => false)

/-- A missing page joins the walk in flight for it, or starts one while the die's 512 places last (R88). -/
def State.joinWalk (s : State) (page : Nat) : State :=
  let die := dieOf s.w.core
  let here (x : Walk) : Bool := x.die == die && x.ctx == s.w.ctx && s.onePage die s.w.ctx page x.page
  if s.m.walks.any here then
    { s with m := { s.m with walks := updateFirst here (fun x =>
      if x.waiters.contains s.w.uid then x else { x with waiters := x.waiters ++ [s.w.uid] }) s.m.walks } }
  else if (s.m.walks.filter fun x => x.die == die).length ≥ 512 then s
  else
    let (id, s) := s.fresh
    { s with m := { s.m with walks := s.m.walks ++
      [{ id := id, die := die, ctx := s.w.ctx, page := page, waiters := [s.w.uid] }] } }

/-- The sector a walk of an address meets poisoned (R76). -/
def State.walkSector (s : State) (die ctx va : Nat) : Option Nat :=
  let start := s.walkStart die ctx va
  let tables := start :: (walkFrom s va start.1 start.2).2
  (tables.find? fun t => s.m.poisoned (t.2 + 8 * levelIndex t.1 va) 8).map fun t => sectorOf (t.2 + 8 * levelIndex t.1 va) * 256

/-- The ADDRESS of a failed translation: its virtual address, but the sector where the walk met an uncorrectable one (R91, R362). -/
def State.xlAddr (s : State) (die ctx : Nat) (code : BitVec 16) (va : DWord) : DWord :=
  if code = 0x0501 then match s.walkSector die ctx va.toNat with | some p => BitVec.ofNat 64 p | none => va else va

/-- What translating every lane of an instruction gives. -/
inductive Xlated where
  | fault (code : BitVec 16) (addr detail : DWord)
  | wait (s : State)
  | ok (hits : List (Nat × DWord × Hit))

/-- Translate every active lane's address before the instruction issues (R91, R411). -/
def xlateLanes (s : State) (kind : Kind) (align : Nat) (vas : List (Nat × DWord)) : Xlated :=
  let faults := vas.filterMap fun (l, va) => (s.laneFault kind align va).map fun (r, c, lev) => (l, va, r, c, lev)
  match worstFault (faults.filter fun x => x.2.2.1 == 10) with
  | some (l, va, _, c, lev) => .fault c va (xlDetail l kind lev)
  | none =>
    let misses := vas.filter fun (_, va) => s.xlate va == .miss
    match misses with
    | _ :: _ => .wait (((misses.map fun x => x.2.toNat / 2 ^ 16).eraseDups).foldl State.joinWalk s)
    | [] =>
      match worstFault faults with
      | some (l, va, _, c, lev) => .fault c (s.xlAddr (dieOf s.w.core) s.w.ctx c va) (xlDetail l kind lev)
      | none => .ok (vas.filterMap fun (l, va) => match s.xlate va with | .hit h => some (l, va, h) | _ => none)

/-- The local physical address of a wave's address: its own part of the peer window is local HBM (R74). -/
def State.localPa (s : State) (w : Wave) (pa : Nat) : Nat := match s.placeOf w.chip pa with | .hbm p => p | _ => pa

/-- The key slot of an access (R77): class 3 carries slot 0. -/
def State.slotFor (s : State) (ctx cls : Nat) : Nat := if cls = 3 then 0 else s.keyOf ctx

/-! ### The instruction cache (R19) -/

/-- Put a block into its core's instruction cache of 128 KiB: the one read longest ago makes room (R11; log 9). -/
def MemSys.addBlock (m : MemSys) (x : IBlock) : MemSys :=
  { m with icache := keepFirst (fun y => y.core == x.core) 4096 (x :: m.icache) }

/-- What reading a 32-byte block through a core's instruction cache gives: its bytes, or the code of a read that returns none, with the
address of its sector (R76, R104, R362). -/
inductive IBlockRead where
  | bad (code : BitVec 16) (sector : DWord) (s : State)
  | ok (bytes : List Byte) (s : State)

/-- The 32-byte block of a core's instruction cache, read into it through its home slice if it is not there (R19, R78, R81). A block on
another chip is an input the model does not hold: its bytes are free values (log 1). -/
def State.iblock (s : State) (ctx core cls pa : Nat) (remote : Bool) : IBlockRead :=
  let slot := s.slotFor ctx cls
  let b := pa / 32
  match s.m.icache.find? fun x => x.core == core && x.block == b && x.slot == slot with
  | some x => .ok x.bytes s
  | none =>
    let keep (bytes : List Byte) (s : State) : IBlockRead :=
      .ok bytes { s with m := s.m.addBlock { core := core, block := b, slot := slot, bytes := bytes }, free := s.free + 1 }
    if remote then keep ((List.range 32).map fun i => Config.freeByte (s.free * 2 ^ 56 + b * 32 + i)) s
    else if pa < 2 ^ 51 && !s.keyLoaded slot then .bad 0x0801 (BitVec.ofNat 64 (pa / 256 * 256)) s
    else if s.m.poisoned (b * 32) 32 then
      .bad (s.m.badCode (b * 32) 32) (BitVec.ofNat 64 (pa / 256 * 256)) (s.withM fun m => m.badRead (b * 32) 32)
    else keep (s.m.bytes s.free slot (b * 32) 32) (s.passSlices cls slot (s.tenantOf ctx) 0 false (b * 32) 32)

/-- What reading through the instruction cache gives: the rest of the block from an address on; or a read that returns no data. -/
inductive IRead where
  | fault (code : BitVec 16) (addr detail : DWord)
  | bad (code : BitVec 16) (sector : DWord) (s : State)
  | wait (s : State)
  | ok (bytes : List Byte) (s : State)

/-- Read the block of an address through the wave's instruction cache, from that address on (R19, R90, R91): in the host window only while the
link runs CXL.cache (R374). -/
def State.iread (s : State) (va : DWord) : IRead :=
  match xlateLanes s .fetch 1 [(0, va)] with
  | .fault c a d => .fault c a d
  | .wait s => .wait s
  | .ok ((_, _, h) :: _) =>
    let pa := s.localPa s.w h.pa
    let remote := match s.placeOf s.w.chip h.pa with | .peer _ _ => true | _ => false
    if (match s.placeOf s.w.chip h.pa with | .host _ => !s.cxlUp | _ => false) then .wait s
    else match s.iblock s.w.ctx s.w.core h.cls pa remote with
    | .bad c a s => .bad c a s
    | .ok bs s => .ok (bs.drop (pa % 32)) s
  | .ok [] => .wait s

/-! ### Events of translation -/

/-- The walk of a page ends (R88 to R91). A hit fills the die's TLB and the waiting cores'; a failure waits for each waiting wave's
instruction. -/
def State.endWalk (s : State) (x : Walk) : Found × State :=
  let va := x.page * 2 ^ 16
  let (found, s) := s.walk x.die x.ctx va
  let s := { s with m := { s.m with walks := s.m.walks.filter fun y => y.id != x.id } }
  (found, match found with
    | .leaf level e =>
      let cores := (x.waiters.filterMap fun u => (s.wave u).map (·.core)).eraseDups
      s.addTlb (((256 + x.die) :: cores).map fun u => leafEntry u x.ctx va level e)
    | .fail level code =>
      { s with m := { s.m with faults :=
        (x.waiters.map fun u => ({ wave := u, page := x.page, level := level, code := code } : WalkFault)) ++ s.m.faults } })

/-- `PAGE_WALK` (R88 to R91): the walk of a page ends. -/
def execPageWalk (id : Nat) (s : State) : Ans :=
  match s.m.walks.find? fun x => x.id == id with
  | none => .next s
  | some x => .next (s.endWalk x).2

/-- The walk an engine's miss makes: that of the page where one is in flight, which then ends, else one of its own, for which the die's
oldest ends first where its 512 places are taken (R88). -/
def State.engWalk (s : State) (die ctx va : Nat) : Found × State :=
  match s.m.walks.find? fun x => x.die == die && x.ctx == ctx && s.onePage die ctx (va / 2 ^ 16) x.page with
  | some x => s.endWalk x
  | none =>
    let mine := s.m.walks.filter fun x => x.die == die
    match mine with
    | x :: _ => (if mine.length ≥ 512 then (s.endWalk x).2 else s).walk die ctx va
    | [] => s.walk die ctx va

/-- An engine's translation: from its die's TLB, or by a walk there and then (R91, R93). -/
def State.engXlate (s : State) (die ctx : Nat) (va : DWord) : Xl × State :=
  if !canonicalVa va then (.fail 7 0x0201, s)
  else match s.tlbFind none die ctx va.toNat with
  | some e => (.hit (e.hit va.toNat), s)
  | none =>
    let (found, s) := s.engWalk die ctx va.toNat
    match found with
    | .fail level code => (.fail level code, s)
    | .leaf level e =>
      let ent := leafEntry (256 + die) ctx va.toNat level e
      (.hit (ent.hit va.toNat), s.addTlb [ent])

/-- A covered address of an invalidation (R94, R95). -/
def Inv.covers (x : Inv) (ctx va size : Nat) : Bool :=
  (match x.ctx with | none => true | some c => c == ctx) &&
  (match x.va with | none => true | some a => decide (va ≤ a.toNat ∧ a.toNat < va + size))

/-- The stores run-aheads hold (R323), of resident waves and of those a save holds. -/
def State.heldStores (s : State) : List Acc :=
  (s.waves ++ s.images.flatMap fun im => if im.held then im.waves else []).flatMap fun w => w.ahead.toList.flatMap fun a => a.stores.flatten

/-- Step 1 and 2 of R94: covered TLB and page-walk cache entries and walks go; the accesses issued through a removed
entry are the ones to wait for. -/
def State.invBegin (s : State) (x : Inv) : State :=
  let removed := s.m.tlb.filter fun e => x.covers e.ctx e.va e.size
  let through (a : Acc) : Bool := !a.sp && removed.any fun e => e.ctx == a.ctx && decide (e.va ≤ a.va.toNat ∧ a.va.toNat < e.va + e.size)
  let accs := (s.m.port.filter through).map (·.id)
  let held := (s.heldStores.filter through).map (·.op)
  { s with m := { s.m with
    tlb := s.m.tlb.filter fun e => !x.covers e.ctx e.va e.size
    pwc := s.m.pwc.filter fun e => !(match x.ctx with | none => true | some c => c == e.ctx)
    walks := s.m.walks.filter fun e => !x.covers e.ctx (e.page * 2 ^ 16) (2 ^ 16)
    invs := updateFirst (fun y => y.id == x.id) (fun y => { y with began := true, accs := accs, held := held }) s.m.invs } }

/-- The stores an invalidation comes after have been performed (R95 step 1). -/
def State.invReady (s : State) (x : Inv) : Bool := !(s.m.port.any fun a => x.pre.contains a.id)

/-- Conditions 3 and 4 of R94 hold: the accesses, a run-ahead's held stores among them, are performed, and the pins released. -/
def State.invDone (s : State) (x : Inv) : Bool :=
  !(s.m.port.any fun a => x.accs.contains a.id) && !((s.m.port ++ s.heldStores).any fun a => x.held.contains a.op) && !(s.m.pins.any fun p => x.covers p.ctx p.va p.size)

/-- `INVALIDATION_COMPLETE` (R94): an invalidation begins once its wave's stores are performed, and completes. -/
def execInvalidationComplete (id : Nat) (s : State) : Ans :=
  match s.m.invs.find? fun x => x.id == id with
  | none => .next s
  | some x =>
    if !s.invReady x then .next s
    else
      let s := if x.began then s else s.invBegin x
      match s.m.invs.find? fun y => y.id == id with
      | none => .next s
      | some y =>
        if s.invDone y then
          let s := { s with m := { s.m with invs := s.m.invs.filter fun z => z.id != id } }
          .next (match y.op with | none => s | some (w, o) => s.finishOp w o [] 0 none)
        else .next s

/-- Add an invalidation (R94). -/
def State.addInv (s : State) (ctx : Option Nat) (va : Option DWord) (pre : List Nat) (op : Option (Nat × Nat)) : State :=
  let (id, s) := s.fresh
  { s with m := { s.m with invs := s.m.invs ++
    [{ id := id, ctx := ctx, va := va, pre := pre, began := false, accs := [], held := [], op := op }] } }

/-- The wave's stores, atomics and updates of objects that have not been performed. -/
def State.ownStores (s : State) : List Nat :=
  (s.m.port.filter fun a => a.wave == s.w.uid && a.kind != .load && (match a.kind with | .clean _ => false | _ => true)).map (·.id)

/-- The effect of `tlbi` (R95). -/
def tlbiEff (f : Fields) (ctx : State → Option Nat) (va : State → Option DWord) (_ : Nat) (s : State) : Try :=
  let w := s.w.uid
  let c := ctx s
  let a := va s
  let (op, s) := s.startOp f false false
  match a with
  | some x => if canonicalVa x then .ok (s.addInv c a s.ownStores (some (w, op))) none
    else .ok (s.finishOp w op [] 0 none) none
  | none => .ok (s.addInv c none s.ownStores (some (w, op))) none

/-- A form of `tlbi`: X is its number, TY, MOD and UNI 0 (R95). -/
def tlbiSpec (x : Nat) : Spec :=
  { priv := true, long := true, ord := true, uni := .no4, holdAhead := fun _ => true,
    vals := fun f => if f.mod = 0 ∧ f.x.toNat = x then none else some 0x0103 }

/-- The context number of a `tlbi`: bits [15:0] of a scalar (R95). -/
def tlbiCtxOf (r : Regs) (f : Fields) (spec : BitVec 10) : Nat := src32 r f spec 0 % 2 ^ 16

/-- The fields of `tlbi.va`. -/
def tlbiVaSpec : Spec :=
  { tlbiSpec 0 with useA := true, useB := true, wA := fun _ => 2, ok := fun k f => pairOk k f.a && sregOk k 18 f.b }

/-- `tlbi.va` (R95). X = 3 comes here, and is refused. -/
def execTlbiVa (f : Fields) (s : State) : Ans :=
  run tlbiVaSpec (.tlbiVa f) f
    (tlbiEff f (fun s => some (tlbiCtxOf s.w.r f f.b)) fun s => some (BitVec.ofNat 64 (srcVal s.w.r f 19 f.a 0))) s

/-- The fields of `tlbi.ctx`. -/
def tlbiCtxSpec : Spec :=
  { tlbiSpec 1 with minLen := 1, useA := true, ok := fun k f => sregOk k 18 f.a }

/-- `tlbi.ctx` (R95). -/
def execTlbiCtx (f : Fields) (s : State) : Ans :=
  run tlbiCtxSpec (.tlbiCtx f) f
    (tlbiEff f (fun s => some (tlbiCtxOf s.w.r f f.a)) fun _ => none) s

/-- The fields of `tlbi.all`. -/
def tlbiAllSpec : Spec :=
  { tlbiSpec 2 with minLen := 1 }

/-- `tlbi.all` (R95). -/
def execTlbiAll (f : Fields) (s : State) : Ans :=
  run tlbiAllSpec (.tlbiAll f) f (tlbiEff f (fun _ => none) fun _ => none) s

/-- `HOST_TLB_INVALIDATION` (R94): the host invalidates a page or a context's translations over CXL. -/
def execHostTlbInvalidation (ctx : Option Nat) (va : Option DWord) (s : State) : Ans := .next (s.addInv ctx va [] none)

end Sys2Proof.Machine
end

