-- ==== Sys2Proof/Machine/Access.lean ====
section
/-! DEFINITION. Accesses on their way to their points: L1 and L2 (R100 to R107, R149, R150), points, releases, acquires and
promotion (R331 to R337), the Kettle (R76, R77, R84), the peer and host windows (R74, R102, R375, R376), fences (R342) and
barrier words (R346). -/

namespace Sys2Proof.Machine

/-! ### L1 (R149, R150) -/

/-- The address under which an L1 holds a byte: its own, or one that names the package of the peer window it lies in (R74, R149). -/
def l1Addr (peer : Option Nat) (pa : Nat) : Nat := match peer with | none => pa | some c => pa + (c + 1) * 2 ^ 52

/-- The copy of an address's sector in a core's L1. -/
def MemSys.l1Find (m : MemSys) (core slot pa : Nat) : Option (List Byte) :=
  match m.l1.find? fun l => l.core == core && l.line == lineOf pa && l.slot == slot with
  | none => none
  | some l => lookup l.sectors (pa / 256 % 4)

/-- Invalidate a core's whole L1 (R150). -/
def MemSys.l1Clear (m : MemSys) (core : Nat) : MemSys := { m with l1 := m.l1.filter fun l => l.core != core }

/-- Invalidate an address's sector in a core's L1. -/
def MemSys.l1Drop (m : MemSys) (core pa : Nat) : MemSys :=
  { m with l1 := m.l1.map fun l =>
    if l.core == core && l.line == lineOf pa then { l with sectors := l.sectors.filter fun x => x.1 != pa / 256 % 4 } else l }

/-- Replace a run of bytes in a list. -/
def patch (bs : List Byte) (off : Nat) (new : List Byte) : List Byte := bs.take off ++ new ++ bs.drop (off + new.length)

/-- A store updates a valid sector of its core's L1 (R149). -/
def MemSys.l1Store (m : MemSys) (core pa : Nat) (bs : List Byte) : MemSys :=
  { m with l1 := m.l1.map fun l =>
    if l.core == core && l.line == lineOf pa then
      { l with sectors := l.sectors.map fun (i, x) => if i = pa / 256 % 4 then (i, patch x (pa % 256) bs) else (i, x) }
    else l }

/-- A hit makes its line the most recently used, but under hint 1 (R149). -/
def MemSys.l1Touch (m : MemSys) (core pa hint : Nat) : MemSys :=
  if hint = 1 then m
  else { m with
    l1 := m.l1.map fun l => if l.core == core && l.line == lineOf pa then { l with used := m.useStamp + 1 } else l
    useStamp := m.useStamp + 1 }

/-- Put a sector into a core's L1: 64 sets of four ways, as most recently used, or least under hint 1 (R149). -/
def MemSys.l1Fill (m : MemSys) (core slot pa hint : Nat) (bs : List Byte) : MemSys :=
  let line := lineOf pa
  let used := if hint = 1 then 0 else m.useStamp + 1
  let l1 := m.l1.filter fun l => !(l.core == core && l.line == line && l.slot != slot)
  let mine (l : L1Line) : Bool := l.core == core && l.line == line
  if l1.any mine then
    { m with l1 := updateFirst mine (fun l => { l with sectors := assign (pa / 256 % 4) bs l.sectors, used := used }) l1,
             useStamp := m.useStamp + 1 }
  else
    let inSet (l : L1Line) : Bool := l.core == core && l.line % 64 == line % 64
    let ways := l1.filter inSet
    let l1 := if ways.length < 4 then l1 else match leastBy (·.used) ways with
      | none => l1
      | some v => l1.filter fun l => !(l.core == v.core && l.line == v.line)
    { m with l1 := { core := core, line := line, slot := slot, sectors := [(pa / 256 % 4, bs)], used := used } :: l1,
             useStamp := m.useStamp + 1 }

/-! ### Atomics (R97) -/

/-- The new value of an operation (R97). -/
def opxApply (opx ty old b cmp : Nat) : Nat :=
  let w := tyElem ty
  match opx with
  | 0 => (old + b) % 2 ^ w
  | 1 => match tyFmt ty with
    | some f => minMaxBits f false false old b
    | none => (combineInt w (tySigned ty) 1 old b).1
  | 2 => match tyFmt ty with
    | some f => minMaxBits f true false old b
    | none => (combineInt w (tySigned ty) 2 old b).1
  | 3 => old &&& b
  | 4 => old ||| b
  | 5 => old ^^^ b
  | 6 => b
  | 7 => if old = cmp then b else old
  | 8 => if old ≥ b then 0 else old + 1
  | _ => if old = 0 ∨ old > b then b else old - 1

/-- The lanes of an access perform an atomic in ascending order: the last value and each lane's old and new (R98). -/
def atomicLanes (opx ty : Nat) : Nat → List Part → Nat × List (Part × Nat × Nat)
  | old, [] => (old, [])
  | old, p :: ps =>
    let new := opxApply opx ty old p.data.toNat p.cmp.toNat
    let (last, rs) := atomicLanes opx ty new ps
    (last, (p, old, new) :: rs)

/-! ### Order in the port (R331, R333) -/

/-- The kind writes its word. -/
def AKind.writes : AKind → Bool
  | .load => false | .store => true | .atomic _ _ _ => true | .barrier _ _ => true | .clean _ => false
  | .obj opn _ => decide (opn < 3)

/-- The kind reads its word. -/
def AKind.reads : AKind → Bool
  | .load => true | .store => false | .atomic _ _ _ => true | .barrier _ _ => true | .clean _ => false
  | .obj opn _ => opn != 0

/-- Two accesses lie on one path from the port to their homes. -/
def Acc.sameHome (a b : Acc) : Bool :=
  if a.sp then b.sp && a.pa / 2 ^ 19 == b.pa / 2 ^ 19
  else !b.sp && a.peer == b.peer && homeSlice a.pa == homeSlice b.pa

/-- Two accesses touch one sector. -/
def Acc.sameSector (a b : Acc) : Bool := a.sp == b.sp && a.peer == b.peer && a.pa / 256 == b.pa / 256

/-- The accesses that entered the ports before one. -/
def State.before (s : State) (id : Nat) : List Acc := s.m.port.takeWhile fun b => b.id != id

/-- What a release waits for (R333): at core scope the wave's own accesses to its core's scratchpad array; wider, every
store and atomic of the core and every load of the wave. -/
def releaseHolds (core wave scope : Nat) (remote : Bool) (older : List Acc) : Bool :=
  if scope = 0 ∧ remote = false then older.any fun b => b.wave == wave && b.sp && b.pa / 2 ^ 19 == core
  else older.any fun b => (b.core == core && b.kind.writes) || (b.wave == wave && b.kind.reads)

/-- SCOPE of a completion object, entry 1 where it is not valid (R129, R330). -/
def State.objScope (s : State) (ctx pa : Nat) : Nat :=
  let v := field (ofBytes (cgetMany 0 s.m.sp pa 4)) 16 5
  if s.scopeValid ctx v then v else 1

/-- The scope of an access's order: its entry, or its object's SCOPE (R131). -/
def State.orderScope (s : State) (a : Acc) : Nat := match a.kind with | .obj _ _ => s.objScope a.ctx a.pa | _ => a.scope

/-- An access may leave its core's port: no older one of the core is on its path or its sector, and a release's earlier
accesses are complete (R331, R333). -/
def State.mayLeave (s : State) (a : Acc) : Bool :=
  let older := s.before a.id
  !(older.any fun b => b.core == a.core && ((b.stage == .port && a.sameHome b) || a.sameSector b)) &&
    !(!a.sp && a.peer.isNone && s.mesh.any fun x => match x with
      | .part n _ (some (core, id)) => core == a.core && decide (id < a.id) && n == homeSlice a.pa
      | _ => false) &&
    !(a.kind == .clean 2 && older.any fun b => b.wave == a.wave && !b.sp && b.kind.writes) &&
    !((a.rel || (a.fenced && a.peer.isSome && a.kind.writes)) && releaseHolds a.core a.wave (s.orderScope a) a.peer.isSome older)

/-- Change an access in the port. -/
def State.mapAcc (s : State) (id : Nat) (f : Acc → Acc) : State :=
  s.withM fun m => { m with port := updateFirst (fun a => a.id == id) f m.port }

/-- An access in the port. -/
def State.acc? (s : State) (id : Nat) : Option Acc := s.m.port.find? fun a => a.id == id

/-! ### Promotion records (R336, R337) -/

/-- The bytes of an access touch a record's location. -/
def Promo.meets (p : Promo) (sp : Bool) (pa n : Nat) : Bool := p.sp == sp && decide (pa < p.loc + p.size ∧ p.loc < pa + n)

/-- The record an acquire must see promoted before it reads. -/
def State.promoAt (s : State) (ctx scope core : Nat) (sp : Bool) (pa n : Nat) : Option Promo :=
  s.m.promos.find? fun p => p.meets sp pa n && p.core != core && s.scopeCovers ctx scope core p.core

/-- The same for an acquiring access. -/
def State.promoFor (s : State) (a : Acc) : Option Promo := s.promoAt a.ctx a.scope a.core a.sp a.pa a.size

/-- Ask for a promotion on behalf of an access (R336 step 1). -/
def State.askPromo (s : State) (p : Promo) (acc : Option Nat) : State :=
  let (id, s) := s.fresh
  s.withM fun m => { m with promoReqs := m.promoReqs ++
    [{ id := id, seqNo := p.seqNo, acc := acc, sp := p.sp, loc := p.loc, size := p.size, core := p.core, need := [], asked := false, remote := none }] }

/-- The home of a promotion record: a slice, a scratchpad array, or the Kettle of a stack (R75, R337). -/
def State.promoHome (s : State) (p : Promo) : Nat :=
  if p.sp then 128 + p.loc / 2 ^ 19 else if p.kettle then 384 + s.stackOf p.loc else homeSlice p.loc

/-- Keep a record of a core-scope release; at a home that is full, a Kettle with 256 and another with 64, the oldest is promoted out
(R336, R337). -/
def State.addPromo (s : State) (p : Promo) : State :=
  let same (q : Promo) : Bool := q.sp == p.sp && q.loc == p.loc && q.size == p.size
  let s := s.withM fun m => { m with promos := m.promos.filter fun q => !(same q && q.core == p.core) }
  let here := s.m.promos.filter fun q => s.promoHome q == s.promoHome p && !q.out
  let s := if here.length < (if p.kettle then 256 else 64) then s else match here with
    | [] => s
    | q :: _ => (s.withM fun m => { m with promos := m.promos.map fun x => if x == q then { x with out := true } else x }).askPromo q none
  s.withM fun m => { m with promos := m.promos ++ [p] }

/-- A plain store by another party drops the location's records (R336). -/
def MemSys.dropPromos (m : MemSys) (core : Option Nat) (sp : Bool) (pa n : Nat) : MemSys :=
  { m with promos := m.promos.filter fun p =>
    !(p.meets sp pa n && some p.core != core) }

/-- What a core must have performed before a release of its may be promoted: the stores and atomics it issued before (R336), and the loads,
which are not to return what they happen before (R335); an acquire, after which its wave issues no release until it is done, is none of
them. -/
def State.promoNeeds (s : State) (core seqNo : Nat) : List Nat :=
  (s.m.port.filter fun a => a.core == core && decide (a.id < seqNo) && (a.kind.writes || (a.kind.reads && !a.acq))).map (·.id)

/-- `PROMOTION_REQUEST` (R336 step 2): the core must complete what it issued before the recorded release. -/
def execPromotionRequest (id : Nat) (s : State) : Ans :=
  match s.m.promoReqs.find? fun q => q.id == id with
  | none => .next s
  | some q =>
    if q.asked then .next s
    else
      let need := s.promoNeeds q.core q.seqNo
      .next (s.withM fun m => { m with
        promoReqs := updateFirst (fun x => x.id == id) (fun x => { x with need := need, asked := true }) m.promoReqs })

/-- What a promotion waits for has been performed. -/
def State.promoReady (s : State) (q : PromoReq) : Bool := q.asked && !(s.m.port.any fun a => q.need.contains a.id)

/-- The record a promotion was asked for. -/
def PromoReq.isFor (q : PromoReq) (p : Promo) : Bool := p.sp == q.sp && p.loc == q.loc && p.size == q.size && p.core == q.core && p.seqNo == q.seqNo

/-- Acquires of other packages that waited for a location's promotion come to its point again (R336). -/
def State.freePeers (s : State) (q : PromoReq) : State :=
  let mine (r : PeerReq) : Bool := !q.sp && decide (r.addr < q.loc + q.size ∧ q.loc < r.addr + r.size)
  { s.withM fun m => { m with peerHeld := m.peerHeld.filter fun r => !mine r } with
    inbox := s.inbox ++ (s.m.peerHeld.filter mine).map Msg.peerReq }

/-- `PROMOTION_REPLY` (R336 steps 3 and 4): the record is dropped and the access goes on. -/
def execPromotionReply (id : Nat) (s : State) : Ans :=
  match s.m.promoReqs.find? fun q => q.id == id with
  | none => .next s
  | some q =>
    if !s.promoReady q then .next s
    else
      let s := s.withM fun m => { m with
        promoReqs := m.promoReqs.filter fun x => x.id != id
        promos := if q.remote.isSome then m.promos else m.promos.filter fun p => !q.isFor p }
      let s := if q.remote.isSome then s else s.freePeers q
      let s := match q.acc with | none => s | some a => s.mapAcc a fun x => { x with stage := .port }
      .next (match q.remote with | none => s | some (src, rid) => s.send src (.promoted rid))

/-! ### Completion -/

/-- The registers of a destination, from sub-register `sub` on: a value of `size` bytes in a lane. -/
def regWrs (dst sub size lane v : Nat) : List Wr :=
  (wordsOf (if size ≤ 4 then 1 else 2) v).zipIdx.map fun (x, i) =>
    if dst < 256 then Wr.v (dst + sub + i) lane x else Wr.s (dst - 256 + sub + i) x

/-- The writes of an access's lanes. -/
def Acc.wrs (a : Acc) (vals : List (Nat × Nat)) : List Wr :=
  match a.dst with
  | none => []
  | some d => vals.flatMap fun (l, v) => regWrs d a.sub a.size l v

/-- The access with the size of what its destination receives: an instruction of R138 gives one word. -/
def Acc.result (a : Acc) : Acc := match a.kind with | .obj _ _ => { a with size := 4 } | _ => a

/-- A request of an engine or a fence at another package has not been answered. -/
def State.peerWaits (s : State) (whose : PeerFor) : Bool := s.m.peerOuts.any fun x => x.whose == whose

/-- What a fence still waits for (R342): for an acquire also the promotion of the releases the wave's relaxed reads have met, here and at
other packages. -/
def State.fenceHolds (s : State) (x : Fence) : Bool :=
  let older := s.m.port.filter fun a => decide (a.id < x.id)
  (x.rel && releaseHolds x.core x.wave x.scope false older) ||
  (x.acq && (older.any fun a => a.wave == x.wave && a.kind.reads)) ||
  (x.acq && (match s.wave x.wave with
    | none => false
    | some w => w.seen.any fun p => s.scopeCovers x.ctx x.scope x.core p.1 &&
        s.m.port.any fun a => (s.promoNeeds p.1 p.2).contains a.id)) ||
  s.peerWaits (.fence x.id)

/-- A fence completes: an acquire wider than core drops the L1 (R334, R342). -/
def State.fenceDone (s : State) (x : Fence) : State :=
  let s := { s with fences := s.fences.filter fun y => y.id != x.id }
  let s := if x.acq && x.scope != 0 then s.withM fun m => m.l1Clear x.core else s
  s.finishOp x.wave x.op [] 0 none

/-- The launch chip that orders a launch's job-scope SC fences (R342). -/
def State.scChip (s : State) (w : Nat) : Nat :=
  match s.wave w with
  | none => s.pkg.chipNo
  | some w => match s.launch? w.key with | some l => l.chips.headD s.pkg.chipNo | none => s.pkg.chipNo

/-- Complete every fence that waits for nothing more; one at job scope with SC first takes its place at launch chip 0. -/
def State.settleFences (s : State) : State :=
  s.fences.foldl (fun s x =>
    if s.fenceHolds x then s
    else if x.sc && x.scope == 2 then
      if x.asked then s
      else ({ s with fences := updateFirst (fun y => y.id == x.id) (fun y => { y with asked := true }) s.fences }).send
        (s.scChip x.wave) (.scFence x.id s.pkg.chipNo)
    else s.fenceDone x) s

/-- `SC_FENCE_MESSAGE` (R342): launch chip 0 gives a fence its place in the order. -/
def execScFenceMessage (id src : Nat) (s : State) : Ans := .next (s.send src (.scOrder id))

/-- What a failing access reports: engine, code, address and detail; the words the spec does not state for the code count for nothing. -/
structure Failure where
  engine : Nat
  code   : BitVec 16
  addr   : DWord
  detail : DWord
deriving DecidableEq, Repr

/-- The failure of a copy at an offset, which its DETAIL states whatever the code, 0x0210 among them, for which R165 gives another layout (R135;
DEDUCED, log 29). -/
def Failure.copies (x : Failure) : Bool := x.engine == 1 && !decide (0x0620 ≤ x.code.toNat ∧ x.code.toNat ≤ 0x0626)

/-- Hold the record of an operation issued in a wave's run-ahead until the outcome is known (R324). -/
def State.holdFail (s : State) (w : Wave) (r : Record) : State :=
  s.mapAnyWave w.uid fun w => { w with ahead := w.ahead.map fun h => { h with fails := h.fails ++ [r] } }

/-- An operation of a wave takes a failure: its error, and its record, once for the operation unless `each` asks for one of every
failure (R297, R358). -/
def State.opFails (s : State) (each : Bool) (wave op : Nat) (x : Failure) : State :=
  match s.anyWave wave with
  | none => s
  | some w => match w.ops.find? fun o => o.id == op with
    | none => s
    | some o =>
      if o.err.isSome && !each then s
      else
        let addr := s.recAddr x.code x.addr
        let detail := if x.copies then x.detail else s.recDetail x.code x.detail
        let s := match w.ahead with
          | some h => if h.op < op then s.holdFail w (s.waveRecord w x.engine false x.code addr detail 0) else s.failAsync w x.engine x.code addr detail
          | none => s.failAsync w x.engine x.code addr detail
        s.mapAnyWave wave fun w => w.mapOp op fun o =>
          { o with err := some (o.err.getD { code := x.code, later := 0, addr := addr }) }

/-- A failure recorded once for its operation. -/
abbrev State.opFail (s : State) (wave op : Nat) (x : Failure) : State := s.opFails false wave op x

/-- A discarded partial of `mdrnn` or `gsc`: each has a record of its own (R253, R401). -/
abbrev State.leafFail (s : State) (wave op : Nat) (x : Failure) : State := s.opFails true wave op x

/-- An access has been performed: it leaves the port with what it returns; the last of its operation completes it, and an
acquire wider than core then drops the L1 (R150, R156, R334). -/
def State.accDone (s : State) (a : Acc) (wrs : List Wr) (fail : Option Failure) : State :=
  let s := s.withM fun m => { m with port := m.port.filter fun b => b.id != a.id }
  let s := match fail with | none => s | some x => s.opFail a.wave a.op x
  let s := s.mapWave a.wave fun w => w.mapOp a.op fun o => { o with wrs := o.wrs ++ wrs }
  let s := if s.m.port.any fun b => b.op == a.op then s
    else
      let s := if a.acq && a.scope != 0 then s.withM fun m => m.l1Clear a.core else s
      s.finishOp a.wave a.op [] 0 none
  s.settleFences

/-! ### Performing an access at its point -/

/-- An allocation of a launch covers a range of a core's scratchpad (R146, R279). -/
def State.spAllocated (s : State) (key : LKey) (core off n : Nat) : Bool :=
  s.teams.any fun t => t.core == core && t.key == key && decide (t.base ≤ off ∧ off + n ≤ t.base + t.k.scratch)

/-- A poisoned 8-byte scratchpad word lies under a range (R148). -/
def MemSys.spPoisoned (m : MemSys) (pa n : Nat) : Bool :=
  m.spPoison.any fun x => decide (pa / 8 ≤ x ∧ x ≤ (pa + n - 1) / 8)

/-- The kind of an access as a detail word numbers it (R91). -/
def AKind.num : AKind → Nat
  | .load => 0 | .store => 1 | .atomic _ _ _ => 2 | .barrier _ _ => 2 | .clean _ => 0 | .obj _ _ => 2

/-- What stops an access at its point (R76, R148, R279, R362). -/
def State.pointFault (s : State) (a : Acc) : Option Failure :=
  let lane := (a.parts.head?.map (·.lane)).getD 0
  if a.sp then
    if !s.spAllocated a.launch (a.pa / 2 ^ 19) (a.pa % 2 ^ 19) a.size then
      some { engine := 0, code := 0x0210, addr := a.va, detail := BitVec.ofNat 64 (lane + a.kind.num * 2 ^ 8 + 7 * 2 ^ 12) }
    else if a.kind.reads && s.m.spPoisoned a.pa a.size then
      some { engine := 0, code := 0x0512, addr := 0, detail := 0 }
    else none
  else
    let engine := if a.cls = 1 ∨ a.cls = 3 then 5 else 4
    let sec := BitVec.ofNat 64 (a.pa / 256 * 256)
    if decide (a.pa < 2 ^ 51) && !s.keyLoaded a.slot then some { engine := 5, code := 0x0801, addr := 0, detail := 0 }
    else if s.m.poisoned a.pa a.size then
      let code := s.m.badCode a.pa a.size
      if code = 0x0511 then some { engine := 4, code := code, addr := sec, detail := 0 }
      else if a.kind = .store then some { engine := engine, code := 0x0502, addr := sec, detail := 0 }
      else some { engine := 5, code := code, addr := sec, detail := 0 }
    else none

/-- Read an access's bytes as a number. -/
def State.pointRead (s : State) (a : Acc) : Nat :=
  if a.sp then ofBytes (cgetMany 0 s.m.sp a.pa a.size) else s.readPa a.slot a.pa a.size

/-- A write the Kettle performs on a queue's write index signals the dispatch processor (R84, R126). -/
def State.watch (s : State) (pa n : Nat) : State :=
  { s with queues := s.queues.map fun q =>
    if decide (pa < s.hbmBytes ∧ pa < q.widxPa + 8 ∧ q.widxPa < pa + n) then { q with signalled := true } else q }

/-- Write scratchpad bytes: a word wholly written loses its poison (R148). -/
def MemSys.spWrite (m : MemSys) (pa : Nat) (bs : List Byte) : MemSys :=
  { m with sp := csetMany 0 m.sp pa bs, spPoison := m.spPoison.filter fun x => !(decide (pa ≤ x * 8 ∧ x * 8 + 8 ≤ pa + bs.length)) }

/-- Write an access's bytes. -/
def State.pointWrite (s : State) (a : Acc) (bs : List Byte) : State :=
  if a.sp then s.withM fun m => m.spWrite a.pa bs
  else
    let s := { s with m := s.m.write s.free a.slot a.pa bs, free := s.free + 1 }
    if a.cls = 1 ∨ a.cls = 3 then s.watch a.pa bs.length else s

/-- A release at core scope leaves its record, as does a relaxed write after a `fence.rel` at core scope (R342); a plain store by
another core drops the location's (R336). -/
def State.promoAfter (s : State) (a : Acc) : State :=
  let s := if a.kind = .store then s.withM fun m => m.dropPromos (some a.core) a.sp a.pa a.size else s
  if a.kind.writes && ((a.rel && s.orderScope a == 0) || (a.fenced && !a.rel)) then
    s.addPromo { sp := a.sp, kettle := !a.sp && a.cls == 1, loc := a.pa, size := a.size, core := a.core, seqNo := a.id,
                 out := false }
  else s

/-- The releases of other cores at the bytes of a read that still come after something not performed: core and release sequence number. -/
def State.releasesMet (s : State) (core : Option Nat) (sp : Bool) (pa n : Nat) : List (Nat × Nat) :=
  (s.m.promos.filter fun p => p.meets sp pa n && some p.core != core && !(s.promoNeeds p.core p.seqNo).isEmpty).map fun p => (p.core, p.seqNo)

/-- A relaxed read that meets core-scope releases of other cores: a `fence.acq` of its wave, with which it counts as an acquire, waits for
what they come after (R342). -/
def State.noteSeen (s : State) (a : Acc) : State :=
  if a.kind.reads && !a.acq then
    match s.releasesMet (some a.core) a.sp a.pa a.size with
    | [] => s
    | ps => s.mapWave a.wave fun w => { w with seen := (ps ++ w.seen).eraseDups }
  else s

/-- Free words for a destination the spec leaves undefined (R76, R148). -/
def freeVals (free : Nat) (parts : List Part) : List (Nat × Nat) :=
  parts.map fun p => (p.lane, (Config.freeDWord (free * 64 + p.lane)).toNat)

/-- Put the bytes of held stores over a loaded value (R323). -/
def overlay (size v : Nat) (p : Part) : Nat :=
  ofBytes ((List.range size).map fun i =>
    BitVec.ofNat 8 (if natBit p.cmp.toNat i then p.data.toNat / 256 ^ i else v / 256 ^ i))

/-- The sector a load brings to its core's L1, with the core's stores still on their way to it; none while an atomic of the
core is (R149, R150). -/
def State.l1Sector (s : State) (a : Acc) (bs : List Byte) : Option (List Byte) :=
  let mine := s.m.port.filter fun b => b.core == a.core && b.id != a.id && a.sameSector b
  if mine.any fun b => b.kind.writes && b.kind.reads then none
  else
    let base := a.pa / 256 * 256
    some ((mine.filter fun b => b.kind == .store).foldl (fun bs b =>
      match b.parts with | p :: _ => patch bs (b.pa - base) (natBytes b.size p.data.toNat) | [] => bs) bs)

/-- A load fills its core's L1 with the sector it came from (R149). -/
def State.l1Bring (s : State) (a : Acc) (bs : List Byte) : State :=
  match (if a.l1 then s.l1Sector a bs else none) with
  | none => s
  | some bs => s.withM fun m => m.l1Fill a.core a.slot (l1Addr a.peer a.pa) a.hint bs

/-- What an arrival does to a barrier word: the new word, the token, and whether the phase advanced (R346). A count of 0 is
no arrival but a reread for a token. -/
def barArrive (n : Nat) (tok : Bool) (w : Nat) : Option (Nat × Bool × Bool) :=
  let arrived := w % 2 ^ 24
  let expect := field w 24 24
  let phase := natBit w 63
  if n = 0 then some (w, tok, phase != tok)
  else if field w 48 15 ≠ 0 ∨ (arrived ≠ 0 ∧ (expect ≤ arrived ∨ expect ≠ n)) then none
  else if arrived + 1 = n then some ((if phase then 0 else 2 ^ 63), phase, true)
  else some ((if phase then 2 ^ 63 else 0) + n * 2 ^ 24 + arrived + 1, phase, false)

/-- The token a wave sleeps on (R346). -/
def State.sleepTok (s : State) (wave : Nat) : Bool :=
  match s.wave wave with
  | some w => match w.status with | .sleepWord _ _ _ tok => tok | _ => false
  | none => false

/-- What an access at a barrier word saw reaches its wave: it wakes, sleeps on, or goes on without the phase (R346). -/
def State.barrierSeen (s : State) (a : Acc) (n : Nat) (waits : Bool) (old : Nat) (engine : Nat) : State :=
  match barArrive n (s.sleepTok a.wave) old with
  | none =>
    let s := s.mapWave a.wave fun x => if waits then { x with status := .run } else x
    s.accDone a [] (some { engine := engine, code := 0x0124, addr := a.va, detail := BitVec.ofNat 64 (n + field old 24 24 * 2 ^ 32) })
  | some (_, tok, adv) =>
    if waits && !adv then
      let s := s.withM fun m => { m with port := m.port.filter fun b => b.id != a.id }
      (s.mapWave a.wave fun x => match x.status with
        | .sleepWord va scope op _ => { x with status := .sleepWord va scope op tok }
        | _ => x).settleFences
    else
      let s := if waits then s.mapWave a.wave fun x => { x with status := .run } else s
      s.accDone a (a.wrs [(0, if tok then 1 else 0)]) none

/-- Perform an arrival at a barrier word, or reread it (R346). -/
def State.pointBarrier (s : State) (a : Acc) (n : Nat) (waits : Bool) : State :=
  let w := s.pointRead a
  let s := s.noteSeen a
  let s := if n = 0 then s else match barArrive n false w with
    | none => s
    | some (new, _, _) => (s.pointWrite a (natBytes 8 new)).promoAfter a
  s.barrierSeen a n waits w (if a.cls = 1 then 5 else 4)

/-! ### Completion objects (R129 to R131, R138) -/

/-- Write the two words of a completion object. -/
def State.objPut (s : State) (pa w0 tx : Nat) : State :=
  s.withM fun m => m.spWrite pa (natBytes 8 w0 ++ natBytes 8 tx)

/-- A wait on an object ends: an acquire at its SCOPE, and 0x0626 where ERR is set (R138). -/
def State.waitDone (s : State) (c : CWait) (scope w0 : Nat) : State :=
  let s := if scope = 0 then s else s.withM fun m => m.l1Clear (match s.wave c.wave with | some w => w.core | none => c.core)
  let s := if natBit w0 30 then s.opFail c.wave c.op { engine := 1, code := 0x0626, addr := 0, detail := 0 } else s
  s.finishOp c.wave c.op [] 0 none

/-- The waits on an object that its PHASE satisfies end (R138). -/
def State.objWake (s : State) (ctx pa w0 : Nat) : State :=
  let mine (c : CWait) : Bool := c.core * 2 ^ 19 + c.off == pa && c.parity != natBit w0 31
  let woken := s.cwaits.filter mine
  let s := { s with cwaits := s.cwaits.filter fun c => !mine c }
  woken.foldl (fun s c => s.waitDone c (s.objScope ctx pa) w0) s

/-- Waits on objects under bytes just written look at their PHASE again (R138). -/
def State.spWake (s : State) (ctx pa n : Nat) : State :=
  let at_ (c : CWait) : Nat := c.core * 2 ^ 19 + c.off
  let touched := s.cwaits.filter fun c => decide (at_ c < pa + n ∧ pa < at_ c + 16)
  ((touched.map at_).eraseDups).foldl (fun s p => s.objWake ctx p (ofBytes (cgetMany 0 s.m.sp p 8))) s

/-- An update of an object, evaluated in the same step: a phase that ends releases the waits (R130, R131). -/
def State.objEval (s : State) (ctx pa w0 tx : Nat) : State :=
  if w0 % 2 ^ 16 = 0 ∧ tx = 0 then
    let phase := !natBit w0 31
    let w0 := w0 % 2 ^ 31 + (if phase then 2 ^ 31 else 0) - w0 % 2 ^ 16 + field w0 32 16 + w0 / 2 ^ 32 * 2 ^ 32
    (s.objPut pa w0 tx).objWake ctx pa w0
  else s.objPut pa w0 tx

/-- The first word of an object: PHASE to EXPECT. -/
def State.objW0 (s : State) (pa : Nat) : Nat := ofBytes (cgetMany 0 s.m.sp pa 8)

/-- TXBYTES of an object. -/
def State.objTx (s : State) (pa : Nat) : Nat := ofBytes (cgetMany 0 s.m.sp (pa + 8) 8)

/-- ERR set in an object's first word. -/
def objErr (w0 : Nat) : Nat := if natBit w0 30 then w0 else w0 + 2 ^ 30

/-- A transfer's decrement reaches its object, with ERR where it has failed (R133, R135). -/
def State.objMoved (s : State) (ctx pa n : Nat) (err : Bool) : State :=
  let w0 := s.objW0 pa
  s.objEval ctx pa (if err then objErr w0 else w0) ((s.objTx pa + 2 ^ 64 - n % 2 ^ 64) % 2 ^ 64)

/-- Perform an instruction of R138 at its object. -/
def State.pointObj (s : State) (a : Acc) (opn b : Nat) : State :=
  let w0 := s.objW0 a.pa
  let phase := natBit w0 31
  let word (v : Nat) : List Wr := a.result.wrs [(0, v)]
  match opn with
  | 0 =>
    let w0 := a.scope * 2 ^ 16 + b + b * 2 ^ 32
    ((s.objPut a.pa w0 0).objWake a.ctx a.pa w0).accDone a [] none
  | 1 =>
    if w0 % 2 ^ 16 < b then
      (s.objPut a.pa (objErr w0) (s.objTx a.pa)).accDone a (word (if phase then 1 else 0)) (some { engine := 1, code := 0x0625, addr := 0, detail := 0 })
    else ((s.objEval a.ctx a.pa (w0 - b) (s.objTx a.pa)).promoAfter a).accDone a (word (if phase then 1 else 0)) none
  | 2 => (s.objEval a.ctx a.pa w0 ((s.objTx a.pa + b) % 2 ^ 64)).accDone a [] none
  | 3 =>
    let hit := phase != natBit b 0
    s.accDone { a with acq := hit, scope := s.objScope a.ctx a.pa } (word (if hit then 1 else 0)) none
  | _ =>
    let c : CWait := { core := a.pa / 2 ^ 19, off := a.pa % 2 ^ 19, parity := natBit b 0, wave := a.wave, op := a.op }
    let s := s.withM fun m => { m with port := m.port.filter fun x => x.id != a.id }
    if phase != natBit b 0 then (s.waitDone c (s.objScope a.ctx a.pa) w0).settleFences
    else ({ s with cwaits := s.cwaits ++ [c] }).settleFences

/-- Perform an access at its point (R331), and complete it. -/
def State.perform (s : State) (a : Acc) : State :=
  match s.pointFault a with
  | some x =>
    let vals := if x.code = 0x0210 then a.parts.map fun p => (p.lane, 0) else freeVals s.free a.parts
    let s := { s with free := s.free + 1 }
    let s := if a.sp then s else s.withM fun m => m.badRead a.pa a.size
    let s := s.mapWave a.wave fun w => match a.kind with | .barrier _ true => { w with status := .run } | _ => w
    s.accDone a (a.result.wrs vals) (some x)
  | none =>
    match a.kind with
    | .load =>
      let v := s.pointRead a
      let s := (s.l1Bring a (s.m.bytes s.free a.slot (a.pa / 256 * 256) 256)).noteSeen a
      let s := { s with free := s.free + 1 }
      s.accDone a (a.wrs (a.parts.map fun p => (p.lane, overlay a.size v p))) none
    | .store =>
      let s := a.parts.foldl (fun s p => s.pointWrite a (natBytes a.size p.data.toNat)) s
      let s := if a.sp then s.spWake a.ctx a.pa a.size else s
      (s.promoAfter a).accDone a [] none
    | .atomic opx ty ret =>
      let (last, rs) := atomicLanes opx ty (s.pointRead a) a.parts
      let s := ((s.noteSeen a).pointWrite a (natBytes a.size last)).promoAfter a
      let s := if a.sp then s.spWake a.ctx a.pa a.size else s
      let vals := if ret = 0 then [] else rs.map fun (p, old, new) => (p.lane, if ret = 1 then old else new)
      s.accDone a (a.wrs vals) none
    | .barrier n waits => s.pointBarrier a n waits
    | .clean _ => s.accDone a [] none
    | .obj opn b => s.pointObj a opn b

/-- Hold an access for a promotion if its acquire needs one: none when it may read (R336). -/
def State.promoHold (s : State) (a : Acc) : Option State :=
  if a.acq && a.kind.reads then
    match s.promoFor a with
    | none => none
    | some p => some ((s.askPromo p (some a.id)).mapAcc a.id fun x => { x with stage := .promo })
  else none

/-- Hold a write to a line the host may hold for the host's response (R375). -/
def State.invalHold (s : State) (a : Acc) : Option State :=
  if a.kind.writes && s.pkg.hostHeld.contains (lineOf a.pa) then
    some { (s.mapAcc a.id fun x => { x with stage := .inval }) with out := s.out ++ [.backInv (lineOf a.pa)] }
  else none

/-- Send an access to the peer it names, every lane of its word in one request (R74, R98); a load that fills its L1 asks for its sector
(R149). -/
def State.toPeer (s : State) (a : Acc) (chip : Nat) : State :=
  let data := match a.parts with | p :: _ => p.data | [] => 0
  let sector := a.l1 && a.kind == .load
  (s.mapAcc a.id fun x => { x with stage := .fwd }).send chip (.peerReq
    { id := a.id, src := s.pkg.chipNo, ctx := a.ctx, cls := a.cls, addr := if sector then a.pa / 256 * 256 else a.pa,
      size := if sector then 256 else a.size,
      write := if a.kind = .store then some data else none,
      atomic := match a.kind with
        | .atomic opx ty _ => some (opx, ty, a.parts.map fun p => (p.data, p.cmp))
        | .barrier n _ => some (16, 19, [(BitVec.ofNat 128 n, 0)])
        | _ => none
      acq := a.acq && (a.scope == 2 || a.scope == 3), hint := a.hint })

/-- `HOME_SLICE_ACCESS` (R81, R101, R102): an access reaches its line's home slice. -/
def execHomeSliceAccess (id : Nat) (s : State) : Ans :=
  match s.acc? id with
  | none => .next s
  | some a =>
    if a.sp || a.stage != .port || !s.mayLeave a then .next s
    else match a.peer with
    | some chip => .next (s.toPeer a chip)
    | none =>
      match s.invalHold a with
      | some s => .next s
      | none =>
        if let .clean mode := a.kind then .next ((s.l2Clean mode a.pa a.slot).accDone a [] none)
        else if a.pa ≥ 2 ^ 51 ∧ (a.cls = 1 ∨ s.pkg.hostOwned.contains (lineOf a.pa) = false) then
          .next ((if a.cls = 1 then s.l2Leave a.pa else s).mapAcc id fun x => { x with stage := .host })
        else if a.cls = 1 ∨ a.cls = 3 then
          .next ((s.l2Leave a.pa).mapAcc id fun x => { x with stage := .fwd })
        else match s.promoHold a with
        | some s => .next s
        | none =>
          let s := s.l2Rekey a.slot a.pa
          if s.m.l2Has a.pa a.slot then .next ((s.withM fun m => m.l2Hit a.pa a.hint a.kind.writes).perform a)
          else if s.tenMask (homeSlice a.pa) a.tenant = 0 then .next (s.perform a)
          else .next (s.mapAcc id fun x => { x with stage := .fill })

/-- `L2_SECTOR_FILL` (R102, R103): the Kettle's sector arrives; one with an uncorrectable error does not. -/
def execL2SectorFill (id : Nat) (s : State) : Ans :=
  match s.acc? id with
  | none => .next s
  | some a =>
    if a.stage != .fill then .next s
    else if (s.pointFault a).isSome then .next (s.perform a)
    else
      let s := s.l2Fill a.pa a.slot a.tenant a.hint
      if s.m.l2Has a.pa a.slot then .next (s.mapAcc id fun x => { x with stage := .port }) else .next (s.perform a)

/-- Mark a sector poisoned (R76). -/
def MemSys.poisonSector (m : MemSys) (pa : Nat) : MemSys :=
  if m.poison.contains (sectorOf pa) then m else { m with poison := sectorOf pa :: m.poison }

/-- `KETTLE_ACCESS` (R76, R77, R81): the Kettle performs what was forwarded to it, or reads a sector being filled. With
`uncorrectable` the sector's read fails, now and until it is wholly rewritten. -/
def execKettleAccess (id : Nat) (uncorrectable : Bool) (s : State) : Ans :=
  match s.acc? id with
  | none => .next s
  | some a =>
    if a.sp || a.peer.isSome then .next s
    else
      let s := if uncorrectable && (a.stage == .fill || a.stage == .fwd) then s.withM fun m => m.poisonSector a.pa else s
      if a.stage != .fwd then .next s
      else match s.invalHold a <|> s.promoHold a with
      | some s => .next s
      | none => .next (s.perform a)

/-- `SCRATCHPAD_ARRAY_ACCESS` (R147): the array of a core performs an access. -/
def execScratchpadArrayAccess (id : Nat) (s : State) : Ans :=
  match s.acc? id with
  | none => .next s
  | some a =>
    if !a.sp || a.stage != .port || !s.mayLeave a then .next s
    else match s.promoHold a with
    | some s => .next s
    | none => .next (s.perform a)

/-! ### Engines at the point -/

/-- An engine reads bytes at their point. -/
def State.engRead (s : State) (slot pa n : Nat) : List Byte := s.m.bytes s.free slot pa n

/-- An engine's write is performed at its point. An atomic keeps the location's promotion records (R336). -/
def State.engPut (s : State) (slot cls pa : Nat) (bs : List Byte) (tenant : Bool) (hint : Nat) (atomic : Bool) : State :=
  let s := s.passSlices cls slot tenant hint true pa bs.length
  let s := { s with m := (if atomic then s.m else s.m.dropPromos none false pa bs.length).write s.free slot pa bs, free := s.free + 1 }
  if cls = 1 ∨ cls = 3 then s.watch pa bs.length else s

/-- Split bytes at the boundaries of lines: the address and bytes of each piece. -/
def lineSplit : Nat → Nat → List Byte → List (Nat × List Byte)
  | 0, _, _ => []
  | k + 1, pa, bs =>
    if bs.isEmpty then [] else (pa, bs.take (1024 - pa % 1024)) :: lineSplit k (pa + (1024 - pa % 1024)) (bs.drop (1024 - pa % 1024))

/-- An engine writes bytes: at their point, or, where the host may hold a line of them, once the host has answered (R375), which the owner
of the write awaits. A word that is added to has 8 bytes; with `behind` the write comes after those that wait already. -/
def State.engWrite (s : State) (slot cls pa : Nat) (bs : List Byte) (tenant : Bool := false) (hint : Nat := 0)
    (whose : Option PeerFor := none) (add behind : Bool := false) : State :=
  if bs.isEmpty then s
  else if cls ≠ 3 ∧ (s.hostKeeps pa bs.length = true ∨ (behind = true ∧ s.m.hostWrites.isEmpty = false)) then
    (lineSplit (bs.length / 1024 + 2) pa bs).foldl (fun s (pa, bs) =>
      let (id, s) := s.holdWrite { id := 0, slot := slot, cls := cls, pa := pa, bytes := bs, add := add, atomic := add, tenant := tenant,
                                   hint := hint, prior := if behind then s.m.hostWrites.getLast?.map (·.id) else none }
      match whose with
      | none => s
      | some x => s.withM fun m => { m with peerOuts := m.peerOuts ++ [({ id := id, whose := x } : PeerOut)] }) s
  else s.engPut slot cls pa (if add then natBytes 8 ((s.readPa slot pa 8 + ofBytes bs) % 2 ^ 64) else bs) tenant hint add

/-- A write that waited for the host is performed: its owner waits for it no more, and requests of other packages that waited for its line
come again (R375). -/
def State.runHostWrite (s : State) (h : HostWrite) : State :=
  let s := if h.bytes.isEmpty then s
    else s.engPut h.slot h.cls h.pa (if h.add then natBytes 8 ((s.readPa h.slot h.pa 8 + ofBytes h.bytes) % 2 ^ 64) else h.bytes) h.tenant
      h.hint h.atomic
  let mine (r : PeerReq) : Bool := h.bytes.isEmpty && lineOf r.addr == lineOf h.pa
  let freed := s.m.peerHeld.filter mine
  { s.withM fun m => { m with
      hostWrites := m.hostWrites.filter fun x => x.id != h.id
      peerOuts := m.peerOuts.filter fun x => x.id != h.id
      peerHeld := m.peerHeld.filter fun r => !mine r } with
    inbox := s.inbox ++ freed.map Msg.peerReq }

/-- Perform the writes that wait for the host no longer, in their order. -/
def State.runHostWrites : Nat → State → State
  | 0, s => s
  | k + 1, s =>
    let ready (h : HostWrite) : Bool := !s.pkg.hostHeld.contains (lineOf h.pa) &&
      !(match h.prior with | none => false | some n => s.m.hostWrites.any fun x => x.id == n)
    match s.m.hostWrites.find? ready with
    | none => s
    | some h => State.runHostWrites k (s.runHostWrite h)

/-- The host holds a line no longer: what waited for that goes on (R375). -/
def State.hostFreed (s : State) (line : Nat) : State :=
  let s := { s with pkg := { s.pkg with hostHeld := s.pkg.hostHeld.filter fun l => l != line } }
  let s := s.withM fun m => { m with port := m.port.map fun a => if a.stage = .inval ∧ lineOf a.pa = line then { a with stage := .port } else a }
  State.runHostWrites s.m.hostWrites.length s

/-! ### The host -/

/-- `BACK_INVALIDATE_RESPONSE` (R375): the host has given back the line an access or an engine's write waits for. -/
def execBackInvalidateResponse (id : Nat) (s : State) : Ans :=
  let acc := (s.acc? id).bind fun a => if a.stage = .inval then some (lineOf a.pa) else none
  match acc <|> (s.m.hostWrites.find? fun h => h.id == id).map fun h => lineOf h.pa with
  | none => .next s
  | some line => .next (if s.cxlUp then s.hostFreed line else s)

/-- `HOST_OWNERSHIP_GRANTED` (R102, R376): the CXL.cache agent owns the line: a class 1 access is performed there, a class
0 one goes on at the slice, which then holds the line. -/
def execHostOwnershipGranted (id : Nat) (s : State) : Ans :=
  match s.acc? id with
  | none => .next s
  | some a =>
    if a.stage != .host || !s.cxlUp then .next s
    else if a.cls = 1 then
      match s.promoHold a with
      | some s => .next s
      | none => .next (s.perform a)
    else .next { (s.mapAcc id fun x => { x with stage := .port }) with
      pkg := { s.pkg with hostOwned := lineOf a.pa :: s.pkg.hostOwned } }

/-- `HOST_SNOOP` (R376): the host takes a line of its memory back, and may write it; L1 copies stay (R82). The home slice answers with the
64 bytes asked for where it holds them dirty. -/
def execHostSnoop (addr : Nat) (write : Option DWord) (s : State) : Ans :=
  if !s.cxlUp then .next s else
  let pa := 2 ^ 51 + addr
  let dirty := match s.m.l2Find pa with | some l => l.dirty.getLsbD (pa / 256 % 4) | none => false
  let data := if dirty then some (s.m.bytes s.free 0 (pa / 64 * 64) 64) else none
  let s := { s with out := s.out ++ [Out.snoop addr data],
                    pkg := { s.pkg with hostOwned := s.pkg.hostOwned.filter fun l => l != lineOf pa } }
  let s := s.l2Leave pa
  .next (match write with
    | none => s
    | some v => s.withM fun m => (m.dropPromos none false pa 8).write s.free 0 pa (natBytes 8 v.toNat))

/-- The words of a completion on the host link. -/
def busWords (size v : Nat) : List Word := wordsOf (max 1 (size / 4)) v

/-- `CXL_MEM_ACCESS` (R76, R105, R375): through an HDM decoder, under its key slot and tenant bit, at the point. The word of a
registered write index is one of class 1, whose point is the Kettle (R84, R123; log 43). The address is the one the decoder maps the
host's to, in local HBM. An unbound decoder, or one whose slot holds no key, reads all ones and drops writes, under a record of 0x0801. -/
def execCxlMemAccess (decoder addr size : Nat) (write : Option DWord) (s : State) : Ans :=
  if !s.cxlUp then .next s else
  match s.pkg.hdm.find? fun d => d.1 == decoder && s.keyLoaded d.2.1 && decide (addr + size ≤ s.hbmBytes) with
  | none =>
    let s := s.failNoWave (s.bareRecord 10 0x0801 s.openAddr s.openDetail) none
    .next { s with out := s.out ++ [.bus (if write.isSome then [] else busWords size (2 ^ (8 * size) - 1)) true] }
  | some (_, slot, tenant) =>
    let bad (code : BitVec 16) : State :=
      let s := s.failNoWave (s.bareRecord 5 code (s.recAddr code (BitVec.ofNat 64 (s.m.badSector addr size))) s.openDetail) none
      { s.withM fun m => m.badRead addr size with out := s.out ++ [.bus [] false] }
    if s.m.poisoned addr size then .next (bad (if write.isSome then 0x0502 else s.m.badCode addr size)) else
    let cls := if s.queues.any fun q => decide (addr < q.widxPa + 8 ∧ q.widxPa < addr + size) then 1 else 0
    let hold (s : State) : State :=
      { s with pkg := { s.pkg with hostHeld := lineOf addr :: s.pkg.hostHeld.filter fun l => l != lineOf addr } }
    match write with
    | none =>
      let s := hold (s.passSlices cls slot tenant 0 false addr size)
      .next { s with out := s.out ++ [.bus (busWords size (s.readPa slot addr size)) true], free := s.free + 1 }
    | some v =>
      let s := hold { s with pkg := { s.pkg with hostHeld := s.pkg.hostHeld.filter fun l => l != lineOf addr } }
      let s := s.passSlices cls slot tenant 0 true addr size
      let s := { s with m := (s.m.dropPromos none false addr size).write s.free slot addr (natBytes size v.toNat), free := s.free + 1 }
      let s := if cls = 1 then s.watch addr size else s
      .next { s with out := s.out ++ [.bus [] true] }

/-! ### The peer window -/

/-- Send a request to a peer for an engine or a fence, which awaits its answer if it says whose it is (R74, R134). -/
def State.peerSend (s : State) (whose : Option PeerFor) (chip : Nat) (r : PeerReq) : State :=
  let (id, s) := s.fresh
  let s := match whose with
    | none => s
    | some x => s.withM fun m => { m with peerOuts := m.peerOuts ++ [({ id := id, whose := x } : PeerOut)] }
  s.send chip (.peerReq { r with id := id, src := s.pkg.chipNo })

/-- Perform a peer's request at its local point: the values returned and a code, 0 if performed (R74). The lanes of an atomic are
performed one after another (R98). -/
def State.peerServe (s : State) (r : PeerReq) : List Nat × Nat × State :=
  let slot := s.slotFor r.ctx r.cls
  if r.addr + r.size > s.hbmBytes then ([], 0x0203, s)
  else if !s.keyLoaded slot then ([], 0x0801, s)
  else if s.m.poisoned r.addr r.size then
    ([], if r.write.isSome then 0x0502 else (s.m.badCode r.addr r.size).toNat, s.withM fun m => m.badRead r.addr r.size)
  else
    let tenant := s.tenantOf r.ctx
    let old := s.readPa slot r.addr r.size
    let get : State := { s.passSlices r.cls slot tenant r.hint false r.addr r.size with free := s.free + 1 }
    let put (v : Nat) (atomic : Bool) : State := s.engPut slot r.cls r.addr (natBytes r.size v) tenant r.hint atomic
    match r.write, r.atomic with
    | some d, _ => ([], 0, put d.toNat false)
    | none, some (opx, ty, lanes) =>
      if opx = 16 then
        let n := match lanes with | x :: _ => x.1.toNat | [] => 0
        if n = 0 then ([old], 0, get)
        else match barArrive n false old with
        | none => ([old], 0, get)
        | some (new, _, _) => ([old], 0, put new true)
      else
        let (last, rs) := atomicLanes opx ty old (lanes.map fun x => ({ lane := 0, data := x.1, cmp := x.2 } : Part))
        (rs.map fun x => x.2.1, 0, put last true)
    | none, none => ((List.range ((r.size + 15) / 16)).map fun i => field old (128 * i) 128, 0, get)

/-- A fence of another package acquires: what the releases its waves have read here come after is performed before the answer (R342). -/
def State.peerFence (s : State) (r : PeerReq) : State :=
  let shown := s.m.shown.filter fun x => !(s.promoNeeds x.2.1 x.2.2).isEmpty
  let need := (shown.filter fun x => x.1 == r.src).flatMap fun x => s.promoNeeds x.2.1 x.2.2
  let (n, s) := s.fresh
  s.withM fun m => { m with
    shown := shown
    promoReqs := m.promoReqs ++ [{ id := n, seqNo := 0, acc := none, sp := false, loc := 0, size := 0, core := 0, need := need, asked := true,
                                   remote := some (r.src, r.id) }] }

/-- A write or atomic of another package to a line the host may hold waits until the host has answered (R375). -/
def State.peerHold (s : State) (r : PeerReq) : State :=
  let s := (s.holdWrite { id := 0, slot := 0, cls := r.cls, pa := r.addr, bytes := [], add := false, atomic := false, tenant := false, hint := 0,
                          prior := none }).2
  s.withM fun m => { m with peerHeld := m.peerHeld ++ [r] }

/-- `PEER_REQUEST_ARRIVAL` (R74): an acquire that finds a promotion record waits for the promotion (R336), a write for a line the host
holds (R375); a relaxed read notes the releases it meets (R342). Operation 17 is a fence's. -/
def execPeerRequestArrival (r : PeerReq) (s : State) : Ans :=
  if (match r.atomic with | some (17, _, _) => true | _ => false) then .next (s.peerFence r)
  else if (r.write.isSome || r.atomic.isSome) && s.hostKeeps r.addr r.size then .next (s.peerHold r)
  else match (if r.acq then s.m.promos.find? fun p => p.meets false r.addr r.size else none) with
  | some p => .next ((s.askPromo p none).withM fun m => { m with peerHeld := m.peerHeld ++ [r] })
  | none =>
    let met := if r.acq || r.write.isSome then [] else (s.releasesMet none false r.addr r.size).map fun x => (r.src, x.1, x.2)
    let s := s.withM fun m => { m with shown := (met ++ m.shown).eraseDups }
    let (vs, code, s) := s.peerServe r
    .next (s.send r.src (.peerResp r.id (vs.map fun v => BitVec.ofNat 128 v) code))

/-- A peer's answer for an access (R74), an atomic's lane by lane. -/
def State.peerAnswer (s : State) (id : Nat) (data : List QWord) (code : Nat) : State :=
  match s.acc? id with
  | none => s
  | some a =>
    if a.stage != .fwd || a.peer.isNone then s
    else
      let whole := data.flatMap fun d => natBytes 16 d.toNat
      let old := match data with | [d] => d.toNat | [] => 0 | _ => ofBytes ((whole.drop (a.pa % 256)).take a.size)
      let lane := (a.parts.head?.map (·.lane)).getD 0
      let fail : Option Failure := if code = 0 then none
        else some { engine := 6, code := BitVec.ofNat 16 code, addr := a.va, detail := BitVec.ofNat 64 lane }
      let wrs := match a.kind with
        | .load => a.wrs (a.parts.map fun p => (p.lane, overlay a.size old p))
        | .atomic opx ty ret => if ret = 0 then [] else
            a.wrs ((a.parts.zip data).map fun (p, d) =>
              (p.lane, if ret = 1 then d.toNat else opxApply opx ty d.toNat p.data.toNat p.cmp.toNat))
        | _ => []
      let wrs := if code = 0 then wrs else a.wrs (freeVals s.free a.parts)
      let s := { s with free := s.free + 1 }
      let s := if code = 0 && a.kind == .load then s.l1Bring a whole else s
      let s := if a.kind.reads && !a.acq then
          s.mapWave a.wave fun w => { w with peersRead := (a.peer.toList ++ w.peersRead).eraseDups } else s
      match a.kind with
      | .barrier n waits =>
        if code = 0 then s.barrierSeen a n waits old 6
        else (s.mapWave a.wave fun x => if waits then { x with status := .run } else x).accDone a wrs fail
      | _ => s.accDone a wrs fail

end Sys2Proof.Machine
end

