-- ==== Sys2Proof/Machine/Int.lean ====
section
/-! DEFINITION. The integer group (R172 to R176 of spec/08_vector_scalar.md). -/

namespace Sys2Proof.Machine

/-- What an instruction does in each lane it acts in, once with UNI (R21, R168): the writes, in ascending lane order. -/
def perLane (s : State) (f : Fields) (fn : Nat → List Wr) : List Wr :=
  if f.uni then fn 0 else (lanesOf (activeMask s.w.r f)).flatMap fn

/-- Types by code. -/
def tyIn (l : List Nat) (t : Nat) : Bool := l.contains t

/-- MOD and X both 0 (R34, R35). -/
def valsZero (f : Fields) : Option (BitVec 16) := if f.mod = 0 ∧ f.x = 0 then none else some 0x0103

/-- MOD[2] alone, X 0 (R34). -/
def valsSat (f : Fields) : Option (BitVec 16) := if (f.mod = 0 ∨ f.mod = 4) ∧ f.x = 0 then none else some 0x0103

/-- X within its lowest values and MOD 0. -/
def valsX (n : Nat) (f : Fields) : Option (BitVec 16) := if f.mod = 0 ∧ f.x.toNat < n then none else some 0x0103

/-- An element as an integer, signed by its type (R174). -/
def elemInt (t v : Nat) : Int := if tySigned t then sext (tyElem t) v else (v : Int)

/-- Clamp to the range of a type (R61, R174). -/
def clampTy (t : Nat) (x : Int) : Int :=
  let w := tyElem t
  if tySigned t then max (-(2 ^ (w - 1) : Nat)) (min (2 ^ (w - 1) - 1 : Nat) x) else max 0 (min (2 ^ w - 1 : Nat) x)

/-- The stored bits of an exact result: clamped with MOD[2], else modulo 2^w (R174). -/
def narrow (t : Nat) (sat : Bool) (x : Int) : Nat := wrap (tyElem t) (if sat then clampTy t x else x)

/-- Sources read, as integers, one result for each element (R174). -/
def arith (f : Fields) (fn : Int → Int → Int → Int) (t a b c : Nat) : Nat :=
  (mapElems t (fun x y z => (narrow t (f.mod.getLsbD 2) (fn (elemInt t x) (elemInt t y) (elemInt t z)), {})) a b c).1

/-- The effect of an instruction with sources of TY and a destination of TY. -/
def tyEff (f : Fields) (lam : Nat) (fn : Nat → Nat → Nat → Nat → Nat) (slot : Nat) (s : State) : Try :=
  let t := f.ty.toNat
  let r := s.w.r
  .ok (s.result slot lam (perLane s f fun l =>
    dstWr t f.d l (fn t (srcVal r f t f.a l) (srcVal r f t f.b l) (srcVal r f t f.c l)))) none

/-- λ of a short instruction: 1 with UNI (R295). -/
def lamOf (f : Fields) (lam : Nat) : Nat := if f.uni then 1 else lam

/-- An integer instruction with sources A and, as said, B and C, all of TY. -/
def intSpec (tys : List Nat) (sat useB useC : Bool) : Spec :=
  { ty := tyIn tys, vals := if sat then valsSat else valsZero, useD := true, useA := true, useB := useB, useC := useC,
    minLen := if useC then 1 else 0,
    ok := fun k f =>
      let t := f.ty.toNat
      dstOk k f t f.d && srcOk k f t f.a && (!useB || srcOk k f t f.b) && (!useC || srcOk k f t f.c) }

/-- 0 to 7. -/
def tys07 : List Nat := [0, 1, 2, 3, 4, 5, 6, 7]
/-- 0 to 7 and 16 to 20. -/
def tysBits : List Nat := [0, 1, 2, 3, 4, 5, 6, 7, 16, 17, 18, 19, 20]
/-- 0 to 3, 18 and 19. -/
def tysWord : List Nat := [0, 1, 2, 3, 18, 19]

/-- `add` (R173). -/
def execAdd (f : Fields) (s : State) : Ans :=
  run (intSpec tys07 true true false) (.add f) f (tyEff f (lamOf f 1) (arith f fun a b _ => a + b)) s

/-- `sub` (R173). -/
def execSub (f : Fields) (s : State) : Ans :=
  run (intSpec tys07 true true false) (.sub f) f (tyEff f (lamOf f 1) (arith f fun a b _ => a - b)) s

/-- `mul` (R173). -/
def execMul (f : Fields) (s : State) : Ans :=
  run (intSpec tys07 true true false) (.mul f) f (tyEff f (lamOf f 2) (arith f fun a b _ => a * b)) s

/-- `mulhi` (R173): floor of the product over 2^w. -/
def execMulhi (f : Fields) (s : State) : Ans :=
  run (intSpec [0, 1, 2, 3] false true false) (.mulhi f) f
    (tyEff f (lamOf f 2) fun t => arith f (fun a b _ => a * b / (2 ^ tyElem t : Nat)) t) s

/-- `mad` (R173). -/
def execMad (f : Fields) (s : State) : Ans :=
  run (intSpec tys07 true true true) (.mad f) f (tyEff f (lamOf f 2) (arith f fun a b c => a * b + c)) s

/-- `min` (R173). -/
def execMin (f : Fields) (s : State) : Ans :=
  run (intSpec tys07 false true false) (.min f) f (tyEff f (lamOf f 1) (arith f fun a b _ => min a b)) s

/-- `max` (R173). -/
def execMax (f : Fields) (s : State) : Ans :=
  run (intSpec tys07 false true false) (.max f) f (tyEff f (lamOf f 1) (arith f fun a b _ => max a b)) s

/-- `abs` (R173). -/
def execAbs (f : Fields) (s : State) : Ans :=
  run (intSpec [0, 2, 4, 6] true false false) (.abs f) f (tyEff f (lamOf f 1) (arith f fun a _ _ => (a.natAbs : Int))) s

/-- `and` (R173). -/
def execAndB (f : Fields) (s : State) : Ans :=
  run (intSpec tysBits false true false) (.andB f) f (tyEff f (lamOf f 1) fun _ a b _ => a &&& b) s

/-- `or` (R173). -/
def execOrB (f : Fields) (s : State) : Ans :=
  run (intSpec tysBits false true false) (.orB f) f (tyEff f (lamOf f 1) fun _ a b _ => a ||| b) s

/-- `xor` (R173). -/
def execXorB (f : Fields) (s : State) : Ans :=
  run (intSpec tysBits false true false) (.xorB f) f (tyEff f (lamOf f 1) fun _ a b _ => a ^^^ b) s

/-- `not` (R173). -/
def execNotB (f : Fields) (s : State) : Ans :=
  run (intSpec tysBits false false false) (.notB f) f (tyEff f (lamOf f 1) fun t a _ _ => 2 ^ tyBits t - 1 - a) s

/-- A shift or rotate: B is one 32-bit count whatever TY is (R172). -/
def shiftSpec : Spec :=
  { ty := tyIn tysWord, vals := valsZero, useD := true, useA := true, useB := true, wB := fun _ => 1,
    ok := fun k f => dstOk k f f.ty.toNat f.d && srcOk k f f.ty.toNat f.a && srcOk k f 18 f.b }

/-- The effect of a shift or rotate: a function of the width, the value and the count. -/
def shiftEff (f : Fields) (fn : Nat → Nat → Nat → Nat) (slot : Nat) (s : State) : Try :=
  let t := f.ty.toNat
  .ok (s.result slot 1 (perLane s f fun l =>
    dstWr t f.d l (fn (tyBits t) (srcVal s.w.r f t f.a l) (src32 s.w.r f f.b l)))) none

/-- a times 2^n, 0 for a count of the width or more (R173). -/
def shlBits (w a n : Nat) : Nat := if n < w then a * 2 ^ n % 2 ^ w else 0

/-- a over 2^n, unsigned (R173). -/
def shrBits (w a n : Nat) : Nat := if n < w then a / 2 ^ n else 0

/-- a over 2^n, signed; all sign bits for a count of the width or more (R173). -/
def sraBits (w a n : Nat) : Nat :=
  if n < w then wrap w (sext w a / (2 ^ n : Nat)) else if sext w a < 0 then 2 ^ w - 1 else 0

/-- a rotated left by n mod w (R173). -/
def rotBits (w a n : Nat) : Nat := a * 2 ^ (n % w) % 2 ^ w + a / 2 ^ (w - n % w)

/-- `shl` (R173). -/
def execShl (f : Fields) (s : State) : Ans := run shiftSpec (.shl f) f (shiftEff f shlBits) s

/-- `shr` (R173). -/
def execShr (f : Fields) (s : State) : Ans := run shiftSpec (.shr f) f (shiftEff f shrBits) s

/-- `sra` (R173). -/
def execSra (f : Fields) (s : State) : Ans := run shiftSpec (.sra f) f (shiftEff f sraBits) s

/-- `rot` (R173). -/
def execRot (f : Fields) (s : State) : Ans := run shiftSpec (.rot f) f (shiftEff f rotBits) s

/-- Bit i moved to bit w - 1 - i (R173). -/
def brevBits (w a : Nat) : Nat := (List.range w).foldl (fun acc i => if natBit a i then acc + 2 ^ (w - 1 - i) else acc) 0

/-- `clz` (R173). -/
def execClz (f : Fields) (s : State) : Ans :=
  run (intSpec tysWord false false false) (.clz f) f (tyEff f (lamOf f 1) fun t a _ _ => tyBits t - bitLen a) s

/-- `popc` (R173). -/
def execPopc (f : Fields) (s : State) : Ans :=
  run (intSpec tysWord false false false) (.popc f) f (tyEff f (lamOf f 1) fun t a _ _ => popCount a (tyBits t)) s

/-- `brev` (R173). -/
def execBrev (f : Fields) (s : State) : Ans :=
  run (intSpec tysWord false false false) (.brev f) f (tyEff f (lamOf f 1) fun t a _ _ => brevBits (tyBits t) a) s

/-- The field a field operand names in a value of w bits: position and length, none if empty (R175). -/
def fieldOf (w x : Nat) : Option (Nat × Nat) :=
  let p := x % 256
  let n := x / 256 % 256
  if n = 0 ∨ p ≥ w then none else some (p, min n (w - p))

/-- The extracted field (R175). -/
def bfeBits (signed : Bool) (w a x : Nat) : Nat :=
  match fieldOf w x with
  | none => 0
  | some (p, n) => let v := field a p n; if signed then wrap w (sext n v) else v

/-- The fields of `bfe`. -/
def bfeSpec : Spec :=
  { shiftSpec with ty := tyIn [0, 1, 2, 3] }

/-- `bfe` (R175). -/
def execBfe (f : Fields) (s : State) : Ans :=
  run bfeSpec (.bfe f) f (shiftEff f (bfeBits (tySigned f.ty.toNat))) s

/-- The value with its field replaced (R175). -/
def bfiBits (w a b x : Nat) : Nat :=
  match fieldOf w x with
  | none => a
  | some (p, n) => a - field a p n * 2 ^ p + b % 2 ^ n * 2 ^ p

/-- The fields of `bfi`. -/
def bfiSpec (f : Fields) : Spec :=
  let t := f.ty.toNat
  { ty := tyIn tysWord, vals := valsZero, useD := true, useA := true, useB := true, useC := true, minLen := 1,
    wC := fun _ => 1,
    ok := fun k f => dstOk k f t f.d && srcOk k f t f.a && srcOk k f t f.b && srcOk k f 18 f.c }

/-- `bfi` (R175): C is one 32-bit field operand. -/
def execBfi (f : Fields) (s : State) : Ans :=
  let t := f.ty.toNat
  run (bfiSpec f)
    (.bfi f) f
    (fun slot s => .ok (s.result slot 1 (perLane s f fun l =>
      dstWr t f.d l (bfiBits (tyBits t) (srcVal s.w.r f t f.a l) (srcVal s.w.r f t f.b l) (src32 s.w.r f f.c l)))) none) s

/-- The fields of `sel`. -/
def selSpec (f : Fields) : Spec :=
  let t := f.ty.toNat
  { ty := fun _ => true, vals := valsZero, useD := true, useA := true, useB := true, useC := true, minLen := 1,
    wC := fun _ => 1,
    ok := fun k f => dstOk k f t f.d && srcOk k f t f.a && srcOk k f t f.b &&
      (if f.uni then scalarOk k f f.c else maskOk f.c) }

/-- `sel` (R176): C is a mask, or with UNI a scalar or constant. -/
def execSel (f : Fields) (s : State) : Ans :=
  let t := f.ty.toNat
  run (selSpec f)
    (.sel f) f
    (fun slot s =>
      let r := s.w.r
      .ok (s.result slot 1 (perLane s f fun l =>
        let first := if f.uni then src32 r f f.c l != 0 else (maskVal r f.c).getLsbD l
        dstWr t f.d l (if first then srcVal r f t f.a l else srcVal r f t f.b l))) none) s

/-- The destination of a comparison (R176): predicate, vector, or with UNI scalar. -/
def cmpDstOk (k : Kernel) (f : Fields) : Bool := predOk f.d || dstOk k f 18 f.d

/-- The writes of a per-lane truth value to the destination of a comparison (R176). -/
def cmpWrs (s : State) (f : Fields) (holds : Nat → Bool) : List Wr :=
  match Opd.of f.d with
  | .p n => [.p n (activeMask s.w.r f) (maskOf holds)]
  | _ => perLane s f fun l => dstWr 18 f.d l (if holds l then 1 else 0)

/-- The six conditions of `cmp` (R176). -/
def condHolds (x : Nat) (o : Ordering) : Bool :=
  match x with
  | 0 => o == .eq | 1 => o != .eq | 2 => o == .lt | 3 => o != .gt | 4 => o == .gt | _ => o != .lt

/-- The fields of `cmp`. -/
def cmpSpec (f : Fields) : Spec :=
  let t := f.ty.toNat
  { ty := tyIn [0, 1, 2, 3], vals := valsX 6, useD := true, useA := true, useB := true,
    ok := fun k f => cmpDstOk k f && srcOk k f t f.a && srcOk k f t f.b }

/-- `cmp` (R176). -/
def execCmp (f : Fields) (s : State) : Ans :=
  let t := f.ty.toNat
  run (cmpSpec f)
    (.cmp f) f
    (fun slot s => .ok (s.result slot 1 (cmpWrs s f fun l =>
      condHolds f.x.toNat (compare (elemInt t (srcVal s.w.r f t f.a l)) (elemInt t (srcVal s.w.r f t f.b l))))) none) s

end Sys2Proof.Machine
end

