-- ==== Sys2Proof/Machine/Move.lean ====
section
/-! DEFINITION. Moves, address arithmetic and special registers (R144, R160 to R164 of spec/07_core_storage.md). -/

namespace Sys2Proof.Machine

/-- A 32-bit type code of the mask forms of `mov` (R160). -/
def isTy32 (t : Nat) : Bool := t == 0 || t == 1 || t == 18
/-- A 64-bit type code of the mask forms of `mov` (R160). -/
def isTy64 (t : Nat) : Bool := t == 2 || t == 3 || t == 19

/-- The operand forms of `mov` (R160): the mask forms of its table, else a plain copy. -/
def movOk (k : Kernel) (f : Fields) : Bool :=
  let t := f.ty.toNat
  if maskOk f.a || maskOk f.d then
    match Opd.of f.d with
    | .v n => isTy32 t && maskOk f.a && vGroup k t n
    | .s n => isTy64 t && maskOk f.a && !f.uni && sGroup k t n
    | .p _ =>
      match Opd.of f.a with
      | .s n => isTy64 t && !f.uni && sGroup k t n
      | .v n => isTy32 t && vGroup k t n
      | _ => false
    | _ => false
  else dstOk k f t f.d && srcOk k f t f.a

/-- What `mov` writes (R160). -/
def movWrs (s : State) (f : Fields) : List Wr :=
  let t := f.ty.toNat
  let r := s.w.r
  match Opd.of f.d with
  | .p n =>
    match Opd.of f.a with
    | .s m => [.p n allLanes (r.pair m)]
    | _ => [.p n (activeMask r f) (maskOf fun l => srcVal r f t f.a l != 0)]
  | _ =>
    if maskOk f.a then
      match Opd.of f.d with
      | .s _ => dstWr t f.d 0 (maskVal r f.a).toNat
      | _ => perLane s f fun l => dstWr t f.d l (if (maskVal r f.a).getLsbD l then 1 else 0)
    else perLane s f fun l => dstWr t f.d l (srcVal r f t f.a l)

/-- The fields of `mov`. -/
def movSpec : Spec :=
  { ty := fun _ => true, vals := valsZero, useD := true, useA := true, ok := movOk }

/-- `mov` (R160). -/
def execMov (f : Fields) (s : State) : Ans :=
  run movSpec (.mov f) f
    (fun slot s => .ok (s.result slot 1 (movWrs s f)) none) s

/-- What `movi` writes in a lane (R161). -/
def moviWrs (f : Fields) (l : Nat) : List Wr :=
  let t := f.ty.toNat
  let put (n : Nat) (x : Word) : List Wr :=
    match Opd.of f.d with
    | .v r => [.v (r + n) l x]
    | .s r => [.s (r + n) x]
    | _ => []
  if f.x = 1 then put 1 f.imm
  else if isTy32 t then put 0 f.imm
  else put 0 f.imm ++ put 1 (if t = 2 ∧ f.imm.getLsbD 31 = true then BitVec.allOnes 32 else 0)

/-- The fields of `movi`. -/
def moviSpec : Spec :=
  { minLen := 2, ty := fun t => isTy32 t || isTy64 t,
    vals := fun f => if f.mod = 0 ∧ (f.x = 0 ∨ (f.x = 1 ∧ isTy64 f.ty.toNat = true)) then none else some 0x0103,
    useD := true, useImm := true,
    ok := fun k f => dstOk k { f with uni := true } f.ty.toNat f.d }

/-- `movi` (R161): MODE 1 is for a pair alone. -/
def execMovi (f : Fields) (s : State) : Ans :=
  run moviSpec (.movi f) f
    (fun slot s => .ok (s.result slot 1 (match Opd.of f.d with
      | .s _ => moviWrs f 0
      | _ => perLane s f (moviWrs f))) none) s

/-- The index term of a memory operand: C as signed times a scale, 0 with no index (R154). -/
def idxTerm (r : Regs) (f : Fields) (scale lane : Nat) : Int :=
  match Opd.of f.c with
  | .v n => if f.c = 0 then 0 else (r.vget n lane).toInt * scale
  | _ => 0

/-- SCALE of X[11:10] (R153). -/
def scaleX (f : Fields) : Nat := 2 ^ (f.x.extractLsb' 10 2).toNat

/-- The address of a memory operand: base pair, index, displacement (R98, R154). -/
def memAddr (r : Regs) (f : Fields) (scale lane : Nat) : DWord :=
  match Opd.of f.a with
  | .s n => r.pair n + BitVec.ofInt 64 (idxTerm r f scale lane) + f.imm.signExtend 64
  | _ => 0

/-- The address word of a scratchpad operand: base word, index, displacement (R154). -/
def spAddr (r : Regs) (f : Fields) (scale lane : Nat) : Word :=
  src32 r f f.a lane |> fun a => BitVec.ofNat 32 a + BitVec.ofInt 32 (idxTerm r f scale lane) + f.imm

/-- SCALE must be 0 with no index (R153). -/
def scaleBad (f : Fields) : Bool := f.c == 0 && f.x.extractLsb' 10 2 != 0

/-- The base of a scratchpad operand: a scalar register or the constant 0 (R153). -/
def spBaseOk (k : Kernel) (spec : BitVec 10) : Bool := spec == 656 || sregOk k 18 spec

/-- The team's scratchpad allocation base. -/
def State.spBase (s : State) : Nat := match s.team? s.w.team with | some t => t.base | none => 0

/-- The absolute form of a scratchpad word (R162). -/
def absSp (s : State) (w : Word) : Word :=
  if w.getLsbD 31 then w
  else BitVec.ofNat 32 (2 ^ 31 + s.w.core * 2 ^ 19 + (s.spBase + w.toNat % 2 ^ 19) % 2 ^ 19)

/-- The fields of `lea`. -/
def leaSpec (f : Fields) : Spec :=
  let sp := f.x.getLsbD 0
  { vals := fun f => if f.mod = 0 ∧ f.x.extractLsb' 1 9 = 0 ∧ scaleBad f = false then none else some 0x0103,
    useD := true, useA := true, useC := true, idxC := true, useImm := true,
    wA := fun _ => if sp then 1 else 2, wC := fun _ => 1,
    ok := fun k f =>
      let t := if sp then 18 else 19
      (if f.uni then sregOk k t f.d else vregOk k t f.d) &&
      (if sp then spBaseOk k f.a else pairOk k f.a) && idxOk k f.c }

/-- `lea` (R162): an address without an access. -/
def execLea (f : Fields) (s : State) : Ans :=
  let sp := f.x.getLsbD 0
  run (leaSpec f) (.lea f) f
    (fun slot s => .ok (s.result slot 1 (perLane s f fun l =>
      if sp then dstWr 18 f.d l (absSp s (spAddr s.w.r f (scaleX f) l)).toNat
      else dstWr 19 f.d l (memAddr s.w.r f (scaleX f) l).toNat)) none) s

/-- The fields of `addw`. -/
def addwSpec : Spec :=
  { ty := fun t => t == 0 || t == 1, vals := valsZero, useD := true, useA := true, useB := true,
    wA := fun _ => 2,
    ok := fun k f => f.d != 731 && dstFree k 19 f.d [f.a, f.b] && (vregOk k 19 f.a || sregOk k 19 f.a) && srcOk k f 18 f.b }

/-- `addw` (R163). -/
def execAddw (f : Fields) (s : State) : Ans :=
  run addwSpec (.addw f) f
    (fun slot s => .ok (s.result slot 1 (perLane s f fun l =>
      let b := src32 s.w.r f f.b l
      let d : Int := if f.ty = 0 then sext 32 b else (b : Int)
      dstWr 19 f.d l (wrap 64 ((srcVal s.w.r f 19 f.a l : Nat) + d)))) none) s

/-- A special register is 64 bits wide (R144). -/
def specialWide (n : Nat) : Bool := n == 7 || n == 8

/-- The value of a special register other than `%lane` (R144). -/
def specialVal (s : State) (n : Nat) : Nat :=
  match n with
  | 1 => s.w.idx
  | 2 => s.w.lteam % 2 ^ 32
  | 3 => s.w.lwave % 2 ^ 32
  | 4 => s.w.chip
  | 5 => match s.wctx with | some c => c.gen.toNat | none => 0
  | 6 => s.w.core
  | 7 => s.clock % 2 ^ 64
  | _ => match s.wctx with | some c => c.seed.toNat | none => 0

/-- The fields of `sget`. -/
def sgetSpec (f : Fields) : Spec :=
  let n := f.x.toNat
  let t := if specialWide n then 19 else 18
  { vals := valsX 9, useD := true, uni := if n = 0 then .no6 else .yes,
    ok := fun k f => match Opd.of f.d with
      | .v m => vGroup k t m
      | .s m => n != 0 && sGroup k t m
      | .sink => true
      | _ => false }

/-- `sget` (R164): `%lane` goes to a vector register only, any other also to a scalar, once per wave. -/
def execSget (f : Fields) (s : State) : Ans :=
  let n := f.x.toNat
  let t := if specialWide n then 19 else 18
  run (sgetSpec f) (.sget f) f
    (fun slot s => .ok (s.result slot 1 (match Opd.of f.d with
      | .s _ => dstWr t f.d 0 (specialVal s n)
      | _ => perLane s f fun l => dstWr t f.d l (if n = 0 then l else specialVal s n))) none) s

/-- The fields of `sset`. -/
def ssetSpec (f : Fields) : Spec :=
  let t := if f.x = 8 then 19 else 18
  { minLen := 1, vals := fun f => if f.mod = 0 ∧ (f.x = 5 ∨ f.x = 8) then none else some 0x0103,
    privVals := fun s _ => if s.priv then none else some 0x010A,
    holdAhead := fun _ => true, useA := true, wA := fun _ => tyRegs t,
    ok := fun k f => match Opd.of f.a with
      | .s m => sGroup k t m
      | .int _ => true
      | .fp _ => true
      | .imm => f.len == .l128
      | _ => false }

/-- `sset` (R164): `%gen` and `%seed`, privileged; every other number is refused. -/
def execSset (f : Fields) (s : State) : Ans :=
  let n := f.x.toNat
  let t := if n = 8 then 19 else 18
  run (ssetSpec f) (.sset f) f
    (fun _ s =>
      let v := srcVal s.w.r f t f.a 0
      .ok (s.mapCtx s.w.ctx fun c =>
        if n = 5 then { c with gen := BitVec.ofNat 32 v } else { c with seed := BitVec.ofNat 64 v }) none) s

end Sys2Proof.Machine
end

