-- ==== Sys2Proof/Machine/Control.lean ====
section
/-! DEFINITION. Jumps, divergence, full regions and hardware loops (R301 to R317 of spec/15_control_flow.md), and `nop`,
`wait` and `yield` (R41, R298, R299). -/

namespace Sys2Proof.Machine

/-- The issuing arm, changed. -/
def State.withArm (s : State) (f : Arm → Arm) : State :=
  s.withR fun r => { r with ctl := { r.ctl with arm := f r.ctl.arm } }

/-- The control state, changed. -/
def State.withCtl (s : State) (f : Ctl → Ctl) : State := s.withR fun r => { r with ctl := f r.ctl }

/-- The target of OFFSET (R25, R303). -/
def State.target (s : State) (f : Fields) : DWord := s.pc + BitVec.ofInt 64 (4 * f.off.toInt)

/-- The address after the instruction. -/
def State.nextPc (s : State) (f : Fields) : DWord := s.pc + BitVec.ofNat 64 f.len.bytes

/-- The address of the last byte of the fetch block at an address (R39). -/
def blockEnd (a : DWord) : DWord := BitVec.ofNat 64 (a.toNat / 32 * 32 + 31)

/-- The checks the control instructions share: PRED 7, UNI, TY and MOD 0 (R302, R303). -/
def ctlSpec (xs : Nat) : Spec :=
  { uni := .no4, pred7 := true, vals := fun f => if f.mod = 0 ∧ f.x.toNat < xs then none else some 0x0103 }

/-- A scalar register or integer constant, and IMM32 where it is accepted (R303). -/
def idxSrcOk (k : Kernel) (imm : Bool) (f : Fields) (spec : BitVec 10) : Bool :=
  match Opd.of spec with
  | .s n => sGroup k 18 n
  | .int _ => true
  | .imm => imm && f.len == .l128
  | _ => false

/-- A scalar register or any constant, read as u32 (R28, R30). -/
def numSrcOk (k : Kernel) (spec : BitVec 10) : Bool :=
  match Opd.of spec with
  | .s n => sGroup k 18 n
  | .int _ => true
  | .fp _ => true
  | _ => false

/-! ### nop, wait, yield -/

/-- The fields of `nop`. -/
def nopSpec : Spec :=
  { uni := .no4 }

/-- `nop` (R41). -/
def execNop (f : Fields) (s : State) : Ans :=
  run nopSpec (.nop f) f (fun _ s => .ok s none) s

/-- The fields of `wait`. -/
def waitFlagSpec : Spec :=
  { vals := fun f => if f.mod = 0 ∧ f.x.toNat < 12 then none else some 0x0103, useA := true, wA := fun _ => 1,
    ok := fun k f => idxSrcOk k true f f.a &&
      (match Opd.of f.a with | .int x => decide (0 ≤ x ∧ x ≤ 47) | _ => true) }

/-- `wait` (R298): holds at issue until the flag's count is at most K, then raises 0x0120 for its error. -/
def execWaitFlag (f : Fields) (s : State) : Ans :=
  run waitFlagSpec (.waitFlag f) f
    (fun _ s =>
      let fl := f.x.toNat
      if s.w.count fl > src32 s.w.r f f.a 0 then .stall s
      else match s.w.errOf fl with
      | some e => .trap 0x0120 e.addr (errDetail fl e)
      | none => .ok s none) s

/-- The fields of `yield`. -/
def yieldSpec : Spec :=
  { useA := true, wA := fun _ => 1, ok := fun k f => idxSrcOk k true f f.a }

/-- `yield` (R299): the wave is not ready in the next min(n, 4096) issue slots. -/
def execYield (f : Fields) (s : State) : Ans :=
  run yieldSpec (.yield f) f
    (fun slot s => .ok (s.withW fun w => { w with notBefore := slot + 1 + min (src32 s.w.r f f.a 0) 4096 }) none) s

/-- `YIELD_EXPIRY` (R299): the slots of a yield have passed. -/
def execYieldExpiry (w : Nat) (s : State) : Ans := .next (s.mapWave w fun w => { w with notBefore := 0 })

/-! ### Jumps, calls and tables -/

/-- The fields of `br`. -/
def brSpec : Spec :=
  { ctlSpec 1 with offset := true }

/-- `br` (R304). -/
def execBr (f : Fields) (s : State) : Ans :=
  runCtl brSpec (.br f) f (fun _ s => .ok s (some (s.target f))) s

/-- The condition of `bu` (R304). -/
def buTaken (r : Regs) (f : Fields) : Bool :=
  match f.x.toNat with
  | 0 => src32 r f f.c 0 != 0
  | 1 => src32 r f f.c 0 == 0
  | 2 => maskVal r f.c &&& r.em != 0
  | _ => maskVal r f.c &&& r.em == r.em

/-- The fields of `bu`. -/
def buSpec : Spec :=
  { ctlSpec 4 with
    minLen := 1, offset := true, useC := true, wC := fun _ => 1, maskUni := true,
    ok := fun k f => if f.x.toNat < 2 then sregOk k 18 f.c else maskOk f.c }

/-- `bu` (R304). -/
def execBu (f : Fields) (s : State) : Ans :=
  runCtl buSpec (.bu f) f
    (fun _ s => .ok s (if buTaken s.w.r f then some (s.target f) else none)) s

/-- The fields of `call`. -/
def callSpec : Spec :=
  { ctlSpec 1 with minLen := 1, offset := true, useC := true, wC := fun _ => 0, ok := fun k f => pairOk k f.c }

/-- `call` (R305): the link pair has λ = 1 (R302). -/
def execCall (f : Fields) (s : State) : Ans :=
  runCtl callSpec (.call f) f
    (fun slot s => .ok (s.result slot 1 (dstWr 19 f.c 0 (s.nextPc f).toNat)) (some (s.target f))) s

/-- The fields of `ret`. -/
def retSpec : Spec :=
  { ctlSpec 1 with useA := true, wA := fun _ => 2, ok := fun k f => pairOk k f.a }

/-- `ret` (R305). -/
def execRet (f : Fields) (s : State) : Ans :=
  runCtl retSpec (.ret f) f
    (fun _ s =>
      let t : DWord := BitVec.ofNat 64 (srcVal s.w.r f 19 f.a 0)
      if t.toNat % 4 ≠ 0 then .trap 0x0109 s.pc (blockEnd s.pc) else .ok s (some t)) s

/-- The kernel's entry point (R51). -/
def Kernel.entry (k : Kernel) : DWord := k.hdr + 64

/-- Bytes from an address lie outside the kernel's code range (R159, R306). -/
def Kernel.outside (k : Kernel) (ea : DWord) (size : Nat) : Bool :=
  decide (ea.toNat < k.entry.toNat ∨ ea.toNat + size > k.entry.toNat + k.codeSize)

/-- The fields of `jtab`. -/
def jtabSpec : Spec :=
  { ctlSpec 4096 with minLen := 1, offset := true, useC := true, wC := fun _ => 1
                      ok := fun k f => idxSrcOk k false f f.c }

/-- `jtab` (R306). -/
def execJtab (f : Fields) (s : State) : Ans :=
  runCtl jtabSpec (.jtab f) f
    (fun _ s =>
      let i := src32 s.w.r f f.c 0
      if i ≥ f.x.toNat then .ok s none
      else
        let tab := s.target f
        let ea := tab + BitVec.ofNat 64 (4 * i)
        if s.w.k.outside ea 4 then .trap 0x0211 ea (xlDetail 0 .fetch 7)
        else match s.iread ea with
        | .fault c a d => .trap c a d
        | .bad c a s => .trapIn s c a s.openDetail
        | .wait s => .stall s
        | .ok bs s =>
          let t := tab + BitVec.ofInt 64 (sext 32 (ofBytes (bs.take 4)))
          if t.toNat % 4 ≠ 0 then .trap 0x0109 s.pc (blockEnd s.pc) else .ok s (some t)) s

/-! ### Divergence -/

/-- The entry of a serialised divergence (R311). -/
def Arm.pushDiv (a : Arm) (j fpc : DWord) (fall : Lanes) : DivEntry :=
  { j := j, fpc := fpc, fmask := fall, rmask := a.em, la0 := a.lp0.active, la1 := a.lp1.active, fdone := false }

/-- `bc` splits the lanes: dual-path from a convergent wave outside a full region, else serialised (R307, R309, R311). A
divergent `bc` is no transfer, so the end action of its own address stays open (R315). -/
def bcDiverge (s : State) (f : Fields) (slot : Nat) (take fall : Lanes) : Try :=
  let c := s.w.r.ctl
  let j := s.pc + BitVec.ofInt 64 f.imm.toInt
  let next := s.nextPc f
  if c.other.isNone && c.full.isEmpty then
    let base : Arm := { c.arm with last := slot, free := false, stack := [], parked := false, atFull := 0, stalled := false }
    let taken : Arm := { base with taken := true, pc := s.target f, em := take, done := none }
    let fallA : Arm := { base with taken := false, pc := next, em := fall, done := some s.pc }
    .moved (s.withW fun w => { w with
      ops := w.ops.map fun o => { o with inT := true, inF := true },
      r := { w.r with ctl :=
        { w.r.ctl with arm := fallA, other := some taken, join := j, la0 := c.arm.lp0.active, la1 := c.arm.lp1.active } } })
  else if c.arm.stack.length ≥ 16 then .trap 0x0115 s.pc (instrLow (.bc f))
  else .moved (s.withArm fun a =>
    { a with stack := a.pushDiv j next fall :: a.stack, em := take, pc := s.target f, last := slot, free := false,
             done := some s.pc, stalled := false })

/-- The fields of `bc`. -/
def bcSpec : Spec :=
  { ctlSpec 1 with
    pred7 := false, minLen := 2, offset := true, useImm := true,
    vals := fun f => if f.mod = 0 ∧ f.x = 0 ∧ f.imm.toNat % 4 = 0 then none else some 0x0103 }

/-- `bc` (R307). -/
def execBc (f : Fields) (s : State) : Ans :=
  runCtl bcSpec (.bc f) f
    (fun slot s =>
      let take := activeMask s.w.r f
      let fall := s.w.r.em &&& ~~~ guardMask s.w.r f
      if fall = 0 then .ok s (some (s.target f))
      else if take = 0 then .ok s none
      else bcDiverge s f slot take fall) s

/-- The arms, the other one now issuing. -/
def Ctl.swap (c : Ctl) : Ctl := match c.other with | none => c | some o => { c with arm := o, other := some c.arm }

/-- A boundary of the wave may be acted on: it runs and no fault is held (R322). -/
def Wave.atBoundary (w : Wave) : Bool :=
  w.status == .run && !w.preempted && !(match w.ahead with | some a => a.fault.isSome | none => false)

/-- The arm has reached J of its innermost open divergence (R311). -/
def Arm.popsNow (a : Arm) : Bool := match a.stack with | [] => false | e :: _ => a.pc == e.j

/-- A counter is active that was not when the divergence was made (R317). -/
def Arm.leaks (a : Arm) (la0 la1 : Bool) : Bool := (a.lp0.active && !la0) || (a.lp1.active && !la1)

/-- `DIVERGENCE_POP` (R311, R317): at J the fall-through lanes run, or the divergence joins. -/
def execDivergencePop (w : Nat) (s : State) : Ans :=
  let s := s.select w
  let a := s.w.r.ctl.arm
  if s.w.uid ≠ w ∨ s.w.atBoundary = false then .next s
  else match a.stack with
  | [] => .next s
  | e :: rest =>
    if a.pc ≠ e.j then .next s
    else if !e.fdone then
      .next (s.withArm fun a => { a with em := e.fmask &&& s.w.r.ctl.live, pc := e.fpc, stack := { e with fdone := true } :: rest })
    else if a.leaks e.la0 e.la1 then .next (s.trapAt 0x0114 e.j 3 (actionOf 0x0114))
    else
      let em := e.rmask &&& s.w.r.ctl.live
      .next (s.withArm fun a =>
        { a with em := em, stack := rest, parked := em == 0 && rest.isEmpty && s.w.r.ctl.other.isSome })

/-- An arm is parked: it has stopped for good, or stands at JOIN with no open divergence (R310). -/
def Ctl.parkedArm (c : Ctl) (a : Arm) : Bool := a.parked || (a.pc == c.join && a.stack.isEmpty)

/-- An arm stands at JOIN with a full region it opened still open (R310). -/
def Ctl.openFull (c : Ctl) (a : Arm) : Bool :=
  !a.parked && a.pc == c.join && a.stack.isEmpty && c.full.any fun e => e.taken == a.taken

/-- Error states merged at a join: the fall-through bank's, else the taken bank's (R309). -/
def mergeErrs (fall taken : List (Nat × FErr)) : List (Nat × FErr) :=
  taken.foldl (fun acc e => match lookup acc e.1 with | some _ => acc | none => assign e.1 e.2 acc) fall

/-- The wave returns to convergent mode (R310, R317). -/
def State.join (s : State) (fall taken : Arm) : State :=
  s.withW fun w => { w with
    ops := w.ops.map fun o => { o with inF := o.inF || o.inT, inT := false },
    r := { w.r with ctl :=
      { w.r.ctl with
        other := none
        arm := { fall with
          taken := false, pc := w.r.ctl.join, em := (fall.em ||| taken.em) &&& w.r.ctl.live,
          errs := mergeErrs fall.errs taken.errs, last := max fall.last taken.last, free := fall.free && taken.free,
          done := none, parked := false, atFull := 0, stalled := false, stack := [] } } } }

/-- The taken and the fall-through arm of a dual-path wave, in that order. -/
def Ctl.arms (c : Ctl) : Option (Arm × Arm) :=
  c.other.map fun o => if c.arm.taken then (c.arm, o) else (o, c.arm)

/-- `ARM_JOIN` (R310, R317): the arms have both parked; or one stands at the join as it may not. -/
def execArmJoin (w : Nat) (s : State) : Ans :=
  let s := s.select w
  let c := s.w.r.ctl
  if s.w.uid ≠ w ∨ s.w.atBoundary = false then .next s
  else match c.arms with
  | none => .next s
  | some (t, n) =>
    let bad (a : Arm) (sub : DWord) : State :=
      (((if c.arm.taken == a.taken then s else s.withCtl Ctl.swap).withArm fun a => { a with pc := c.join }).trapAt 0x0114 c.join sub (actionOf 0x0114))
    if c.openFull t then .next (bad t 6)
    else if c.openFull n then .next (bad n 6)
    else if !(c.parkedArm t && c.parkedArm n) then .next s
    else if n.leaks c.la0 c.la1 then .next (bad n 3)
    else if t.leaks c.la0 c.la1 then .next (bad t 3)
    else .next (s.join n t)

/-! ### end -/

/-- `end` waits while the engine holds a block of the member or an engine instruction's operation is outstanding (R222). A
block handed over that no load yet names is held too (R207). -/
def State.endWaits (s : State) : Bool :=
  s.quadClaims s.w && (s.w.ops.any (·.eng) || match s.engine? s.w.core with
    | none => false
    | some e => (e.claim.toList ++ e.pending).any fun q =>
        q.team == s.w.team && q.quad == s.w.quad && decide (nth 0 q.rdy (s.w.idx % 4) > q.iloads))

/-- The leader of a quad has ended: its claim is released, its stacks discarded without a drain (R222). -/
def State.leaderGone (s : State) (w : Wave) : State :=
  if w.idx % 4 = 0 ∧ s.quadClaims w = true then s.dropQuad w.core w.team w.quad none else s

/-- The arm whose lanes have all ended goes on as if at J of its top entry, or parks (R312). -/
def Arm.ended (a : Arm) (dual : Bool) (slot : Nat) (next : DWord) : Arm :=
  let a := { a with em := 0, last := slot, free := false, done := none, stalled := false }
  match a.stack with
  | e :: _ => { a with pc := e.j }
  | [] => if dual then { a with parked := true } else { a with pc := next }

/-- The fields of `end`. -/
def endWaveSpec : Spec :=
  { ctlSpec 1 with holdAhead := fun _ => true }

/-- `end` (R312). -/
def execEndWave (f : Fields) (s : State) : Ans :=
  runCtl endWaveSpec (.endWave f) f
    (fun slot s =>
      let c := s.w.r.ctl
      let live := c.live &&& ~~~ c.arm.em
      if live = 0 ∧ s.endWaits = true then .stall s
      else
        let s := s.leaveSets s.w.uid
        if live = 0 then
          .moved ((s.withW fun w => { w with status := .ended, frame := none, r := { w.r with ctl := w.r.ctl.dead } }).leaderGone s.w)
        else .moved (s.withCtl fun c => { c with live := live, arm := c.arm.ended c.other.isSome slot (s.nextPc f) })) s

/-! ### full and endfull -/

/-- A `full` waits: the other arm is neither parked nor at a `full` of its own that goes after this one (R313). Within a full region of
its own arm the other arm already issues nothing, and within one of the other arm's this arm does not. -/
def Ctl.fullWaits (c : Ctl) : Bool :=
  match c.other with
  | none => false
  | some o =>
    if c.full.any fun e => e.taken == c.arm.taken then false
    else !c.full.isEmpty || !(c.parkedArm o || (if c.arm.taken then o.atFull == 1 else o.atFull != 0 && c.arm.atFull == 2))

/-- The arm waits at a `full`; as it comes to wait, the other arm, which may wait for just that, looks again (R313). -/
def Ctl.waitFull (c : Ctl) : Ctl :=
  { c with
    arm := { c.arm with atFull := max c.arm.atFull 1 }
    other := if c.arm.atFull = 0 then c.other.map fun o => { o with stalled := false } else c.other }

/-- `full` (R313). -/
def execFull (f : Fields) (s : State) : Ans :=
  runCtl (ctlSpec 1) (.full f) f
    (fun _ s =>
      let c := s.w.r.ctl
      if c.fullWaits then .stall (s.withCtl Ctl.waitFull)
      else if c.full.length ≥ 4 then .trap 0x0115 s.pc (instrLow (.full f))
      else .ok (s.withCtl fun c =>
        { c with full := { em := c.arm.em, depth := c.arm.stack.length, taken := c.arm.taken } :: c.full,
                 other := c.other.map fun o => if o.atFull = 1 ∧ c.arm.taken = true then { o with atFull := 2 } else o,
                 arm := { c.arm with em := allLanes, atFull := 0 } }) none) s

/-- `endfull` (R313). -/
def execEndfull (f : Fields) (s : State) : Ans :=
  runCtl (ctlSpec 1) (.endfull f) f
    (fun _ s =>
      let c := s.w.r.ctl
      match c.full with
      | [] => .trap 0x0114 s.pc 5
      | e :: rest =>
        if e.depth ≠ c.arm.stack.length then .trap 0x0114 s.pc 5
        else .ok (s.withCtl fun c => { c with full := rest, arm := { c.arm with em := e.em &&& c.live } }) none) s

/-! ### Hardware loops -/

/-- Loop record n of an arm. -/
def Arm.lp (a : Arm) (n : Nat) : LoopRec := if n = 0 then a.lp0 else a.lp1

/-- Put a loop record. -/
def Arm.setLp (a : Arm) (n : Nat) (l : LoopRec) : Arm := if n = 0 then { a with lp0 := l } else { a with lp1 := l }

/-- LA of a counter in the innermost open divergence: the top entry's, else the arms' (R317). -/
def Ctl.locked (c : Ctl) (n : Nat) : Bool :=
  match c.arm.stack with
  | e :: _ => if n = 0 then e.la0 else e.la1
  | [] => c.other.isSome && (if n = 0 then c.la0 else c.la1)

/-- LEN of the word at an address, as the device reads it to step over an instruction (R314, R316). -/
def lenAt (bs : List Byte) : Nat := match Len.ofCode ((bs.headD 0).extractLsb' 0 2) with | some l => l.bytes | none => 4

/-- The fields of `loop`. -/
def loopSpec : Spec :=
  { ctlSpec 2 with
    minLen := 1, offset := true, useC := true, wC := fun _ => 1,
    vals := fun f =>
      if f.mod = 0 ∧ f.x.toNat < 2 ∧ 4 * f.off.toInt ≥ f.len.bytes then none else some 0x0103,
    ok := fun k f => idxSrcOk k true f f.c }

/-- The address whose end actions stay open after a `loop` with a count of 0: the `loop`'s own where the other record ends there, since the
`loop` completes without being a transfer (R315), else END (R314). -/
def Arm.skipDone (a : Arm) (n : Nat) (pc stop : DWord) : DWord :=
  if (a.lp (1 - n)).active && (a.lp (1 - n)).stop == pc then pc else stop

/-- `loop` (R314, R317). With a count of 0 the end actions of the other record stay open for the boundary (R315). -/
def execLoop (f : Fields) (s : State) : Ans :=
  let n := f.x.toNat % 2
  runCtl loopSpec (.loop f) f
    (fun slot s =>
      let c := s.w.r.ctl
      let cnt : Word := BitVec.ofNat 32 (src32 s.w.r f f.c 0)
      let stop := s.target f
      let next := s.nextPc f
      if c.locked n then .trap 0x0114 s.pc 1
      else if cnt ≠ 0 then
        .ok (s.withArm fun a => a.setLp n { active := true, cnt := cnt, start := next, stop := stop }) none
      else match s.iread stop with
      | .fault code a d => .trap code a d
      | .bad code a s => .trapIn s code a s.openDetail
      | .wait s => .stall s
      | .ok bs s =>
        .moved (s.withArm fun a =>
          { a.setLp n LoopRec.none with
            pc := stop + BitVec.ofNat 64 (lenAt bs), last := slot, free := false, done := some (a.skipDone n s.pc stop),
            stalled := false })) s

/-- `brk` (R316, R317). It counts as a transfer even on an inactive record (R315). -/
def execBrk (f : Fields) (s : State) : Ans :=
  let n := f.x.toNat % 2
  runCtl (ctlSpec 2) (.brk f) f
    (fun _ s =>
      let c := s.w.r.ctl
      let l := c.arm.lp n
      if c.locked n then .trap 0x0114 s.pc 1
      else if !l.active then .ok s (some (s.nextPc f))
      else match s.iread l.stop with
      | .fault code a d => .trap code a d
      | .bad code a s => .trapIn s code a s.openDetail
      | .wait s => .stall s
      | .ok bs s => .ok (s.withArm fun a => a.setLp n LoopRec.none) (some (l.stop + BitVec.ofNat 64 (lenAt bs)))) s

/-- What an end action of one record does (R315, R317). -/
inductive EndAct where
  | none | trap | jump (a : Arm) | drop (a : Arm)

/-- The end action of record n for an instruction that completed at an address. -/
def Ctl.endAct (c : Ctl) (a : Arm) (n : Nat) (addr : DWord) : EndAct :=
  let l := a.lp n
  if !(l.active && l.stop == addr) then .none
  else if c.locked n then .trap
  else if l.cnt = 1 then .drop (a.setLp n LoopRec.none)
  else .jump { a.setLp n { l with cnt := l.cnt - 1 } with pc := l.start }

/-- Some record of the issuing arm has an end action open (R315). -/
def Arm.endsNow (a : Arm) : Bool :=
  match a.done with
  | none => false
  | some d => (a.lp0.active && a.lp0.stop == d) || (a.lp1.active && a.lp1.stop == d)

/-- `LOOP_END_ACTION` (R315, R317): inner record first, in one step. -/
def execLoopEndAction (w : Nat) (addr : DWord) (s : State) : Ans :=
  let s := s.select w
  let c := s.w.r.ctl
  if s.w.uid ≠ w ∨ s.w.atBoundary = false ∨ c.arm.done ≠ some addr then .next s
  else
    let fail (s : State) : State :=
      let s := if s.w.ahead.isSome then s else s.withArm fun a => { a with done := none }
      s.trapAt 0x0114 addr 2 (actionOf 0x0114)
    let put (a : Arm) : State := s.withArm fun _ => { a with done := none }
    match c.endAct c.arm 1 addr with
    | .trap => .next (fail s)
    | .jump a => .next (put a)
    | .none => match c.endAct c.arm 0 addr with
      | .trap => .next (fail s)
      | .jump a => .next (put a)
      | .drop a => .next (put a)
      | .none => .next (put c.arm)
    | .drop a => match c.endAct a 0 addr with
      | .trap => .next (fail (s.withArm fun _ => a))
      | .jump b => .next (put b)
      | .drop b => .next (put b)
      | .none => .next (put a)

end Sys2Proof.Machine
end

