-- ==== Sys2Proof/Machine/Trans.lean ====
section
/-! DEFINITION. The transcendental functions of R59: the exact mathematical value rounded once. A value is computed as
a fixed-point number with a bound on its error, at rising precision, until both ends of the bound round alike. -/

namespace Sys2Proof.Machine

/-- Sum of the terms t, t*r, t*r*r, ... with a term's share chosen by `share`, at most `fuel` of them. -/
def seriesLoop (nextTerm : Nat → Nat → Nat) (share : Nat → Nat → Int) : Nat → Nat → Nat → Int → Int
  | 0, _, _, acc => acc
  | fuel + 1, k, t, acc => if t = 0 then acc else seriesLoop nextTerm share fuel (k + 1) (nextTerm k t) (acc + share k t)

/-- atanh (n / d) at scale 2^p. -/
def atanhFix (p n d : Nat) : Nat :=
  (seriesLoop (fun _ t => t * n * n / (d * d)) (fun k t => ((t / (2 * k + 1) : Nat) : Int)) (p + 8) 0
    (n * 2 ^ p / d) 0).toNat

/-- atan (1 / d) at scale 2^p. -/
def atanFix (p d : Nat) : Int :=
  seriesLoop (fun _ t => t / (d * d)) (fun k t => (if k % 2 = 0 then 1 else -1) * ((t / (2 * k + 1) : Nat) : Int))
    (p + 8) 0 (2 ^ p / d) 0

/-- ln 2 at scale 2^p. -/
def ln2Fix (p : Nat) : Nat := 2 * atanhFix p 1 3

/-- pi / 2 at scale 2^p. -/
def halfPiFix (p : Nat) : Nat := (8 * atanFix p 5 - 2 * atanFix p 239).toNat

/-- exp x at scale 2^p, 0 ≤ x < 1. -/
def expFix (p x : Nat) : Nat :=
  (seriesLoop (fun k t => t * x / 2 ^ p / (k + 1)) (fun _ t => (t : Int)) (p + 8) 0 (2 ^ p) 0).toNat

/-- sin x at scale 2^p, 0 ≤ x < 2. -/
def sinFix (p x : Nat) : Int :=
  seriesLoop (fun k t => t * x / 2 ^ p * x / 2 ^ p / ((2 * k + 2) * (2 * k + 3)))
    (fun k t => if k % 2 = 0 then (t : Int) else -(t : Int)) (p + 8) 0 x 0

/-- cos x at scale 2^p, 0 ≤ x < 2. -/
def cosFix (p x : Nat) : Int :=
  seriesLoop (fun k t => t * x / 2 ^ p * x / 2 ^ p / ((2 * k + 1) * (2 * k + 2)))
    (fun k t => if k % 2 = 0 then (t : Int) else -(t : Int)) (p + 8) 0 (2 ^ p) 0

/-- The bound on the error of every fixed-point value below, in its last places. -/
def fixErr : Int := 2 ^ 24

/-- m times 2^e at scale 2^p, rounded down. -/
def toFix (p m : Nat) (e : Int) : Nat :=
  let s := e + (p : Int)
  if s ≥ 0 then m * 2 ^ s.toNat else m / 2 ^ (-s).toNat

/-- Round v times 2^-p, v known within `fixErr`, if both ends of the bound round alike. -/
def decideFix (f : Fmt) (c : RCtl) (v : Int) (e : Int) : Option (Nat × FFlags) :=
  let neg := decide (v < 0)
  let a := v.natAbs
  let w := fixErr.toNat
  if a ≤ w + 2 ^ 80 then none
  else
    let lo := rnd f c neg (a - w) e true
    let hi := rnd f c neg (a + w - 1) e true
    if lo = hi then some lo else none

/-- The precisions tried, in turn. -/
def precisions : List Nat := [200, 420, 1700, 4000]

/-- Try the precisions in turn; after the last, its nearest value. -/
def tryPrecisions (f : Fmt) (c : RCtl) (val : Nat → Int × Int) : List Nat → Nat × FFlags
  | [] => (f.nanBits, {})
  | [p] => let (v, e) := val p; rnd f c (decide (v < 0)) v.natAbs e true
  | p :: ps =>
    let (v, e) := val p
    match decideFix f c v e with
    | some r => r
    | none => tryPrecisions f c val ps

/-- 2 to the a (R59). -/
def fexp2 (f : Fmt) (c : RCtl) (a : FVal) : Nat × FFlags :=
  match a with
  | .nan => (f.nanBits, {})
  | .inf n => if n then (0, {}) else (f.infBits, {})
  | .fin n m e =>
    if m = 0 then (Exact.mag false 1 0 false).round f c
    else if (bitLen m : Int) + e < -70 then
      -- between 1 and 1 ± 2^-70
      if n then rnd f c false (2 ^ 66 - 1) (-66) true else rnd f c false (2 ^ 66) (-66) true
    else if (bitLen m : Int) + e > 40 then
      if n then rnd f c false 1 (-(2 ^ 40)) else rnd f c false 1 (2 ^ 40)
    else
      -- a = whole + frac / 2^fb, 0 ≤ frac
      let fb := (-e).toNat
      let x : Int := sgn n (m * 2 ^ e.toNat)
      let whole := x / (2 ^ fb : Nat)
      let frac := (x % (2 ^ fb : Nat)).toNat
      if frac = 0 then rnd f c false 1 whole
      else tryPrecisions f c (fun p =>
        ((expFix p (toFix p frac (-(fb : Int)) * ln2Fix p / 2 ^ p) : Nat), whole - (p : Int))) precisions

/-- log2 a (R59). -/
def flog2 (f : Fmt) (c : RCtl) (a : FVal) : Nat × FFlags :=
  match a with
  | .nan => (f.nanBits, {})
  | .inf n => if n then (f.nanBits, { inv := true }) else (f.infBits, {})
  | .fin n m e =>
    if m = 0 then (f.withSign true f.infBits, { dz := true })
    else if n then (f.nanBits, { inv := true })
    else
      let l := bitLen m - 1
      let whole : Int := (l : Int) + e
      if m = 2 ^ l then
        if whole = 0 then (0, {}) else rnd f c (decide (whole < 0)) whole.natAbs 0
      else tryPrecisions f c (fun p =>
        let ln := 2 * atanhFix p (m - 2 ^ l) (m + 2 ^ l)
        (whole * (2 ^ p : Nat) + ((ln * 2 ^ p / ln2Fix p : Nat) : Int), -(p : Int))) precisions

/-- sin or cos of a finite non-zero argument, reduced by whole quarter turns (R59). -/
def sinCosFix (isCos : Bool) (n : Bool) (m : Nat) (e : Int) (p : Nat) : Int × Int :=
  let big := p + (bitLen m + e.toNat) + 8
  let x := toFix big m e
  let hp := halfPiFix (big + (bitLen m + e.toNat) + 8)
  let hpb := hp / 2 ^ (bitLen m + e.toNat + 8)
  let k := x / hpb
  -- the remainder from the finer constant, then cut to scale p
  let fine := bitLen m + e.toNat + 8
  let r := ((x * 2 ^ fine : Nat) : Int) - ((k * hp : Nat) : Int)
  let rp := (r.toNat) / 2 ^ (fine + (big - p))
  let quad := (k + (if isCos then 1 else 0)) % 4
  let v := match quad with
    | 0 => sinFix p rp
    | 1 => cosFix p rp
    | 2 => -sinFix p rp
    | _ => -cosFix p rp
  ((if n && !isCos then -v else v), -(p : Int))

/-- sin a (R59). -/
def fsin (f : Fmt) (c : RCtl) (a : FVal) : Nat × FFlags :=
  match a with
  | .nan => (f.nanBits, {})
  | .inf _ => (f.nanBits, { inv := true })
  | .fin n m e =>
    if m = 0 then (f.withSign n 0, {})
    else if (bitLen m : Int) + e < -40 then
      -- just below the argument
      let s := 54 - bitLen m
      rnd f c n (m * 2 ^ (s + 28) - 1) (e - (s + 28 : Nat)) true
    else tryPrecisions f c (sinCosFix false n m e) precisions

/-- cos a (R59). -/
def fcos (f : Fmt) (c : RCtl) (a : FVal) : Nat × FFlags :=
  match a with
  | .nan => (f.nanBits, {})
  | .inf _ => (f.nanBits, { inv := true })
  | .fin n m e =>
    if m = 0 then (Exact.mag false 1 0 false).round f c
    else if (bitLen m : Int) + e < -40 then rnd f c false (2 ^ 70 - 1) (-70) true
    else tryPrecisions f c (sinCosFix true n m e) precisions

end Sys2Proof.Machine
end

