-- ==== Sys2Proof/Machine/Float.lean ====
section
/-! DEFINITION. The floating-point group, `cvt`, `fscl` and `vopt` (R177 to R183, R191, R192 of spec/08_vector_scalar.md). -/

namespace Sys2Proof.Machine

/-- Results by lane with the status bits they set: the lanes an instruction acts in, once with UNI (R21, R169). -/
def perLaneF (s : State) (f : Fields) (fn : Nat → List Wr × Word) : List Wr × Word :=
  let rs := if f.uni then [fn 0] else (lanesOf (activeMask s.w.r f)).map fn
  (rs.flatMap (·.1), rs.foldl (fun acc q => acc ||| q.2) 0)

/-- Set status bits in NSTAT now (R170). -/
def State.setNstat (s : State) (bits : Word) : State := s.withR fun r => { r with nstat := r.nstat ||| bits }

/-- A long-latency operation whose result is fixed at issue: it finishes with what it will write when it retires (R170,
R196, R297). -/
def State.longDone (s : State) (f : Fields) (wrs : List Wr) (nstat : Word) : State :=
  let (id, s) := s.startOp f false false
  s.finishOp s.w.uid id wrs nstat none

/-- λ of a short floating-point instruction (R295). -/
def lamFp (f : Fields) (wide : Bool) : Nat := if wide then 8 else if f.uni then 1 else 2

/-- MOD bits an instruction does not use, and X, are 0 (R34, R35, R177). -/
def valsMod (used : Nat) (f : Fields) : Option (BitVec 16) :=
  if f.mod.toNat &&& used = f.mod.toNat ∧ f.x = 0 then none else some 0x0103

/-- 8 to 13. -/
def tysFp : List Nat := [8, 9, 10, 11, 12, 13]

/-- A floating-point instruction with sources of TY (R177). -/
def fpSpec (used : Nat) (long useB useC : Bool) : Spec :=
  { ty := tyIn tysFp, vals := valsMod used, long := long, useD := true, useA := true, useB := useB, useC := useC,
    minLen := if useC then 1 else 0,
    ok := fun k f =>
      let t := f.ty.toNat
      dstOk k f t f.d && srcOk k f t f.a && (!useB || srcOk k f t f.b) && (!useC || srcOk k f t f.c) }

/-- The format of TY. -/
def fmtOf (t : Nat) : Fmt := (tyFmt t).getD .f32

/-- Results of a function of the elements of TY, with their flags. -/
def fpWrs (s : State) (f : Fields) (fn : Fmt → RCtl → Nat → Nat → Nat → Nat × FFlags) : List Wr × Word :=
  let t := f.ty.toNat
  let r := s.w.r
  perLaneF s f fun l =>
    let (v, fl) := mapElems t (fn (fmtOf t) (rctl r f)) (srcVal r f t f.a l) (srcVal r f t f.b l) (srcVal r f t f.c l)
    (dstWr t f.d l v, fl.bits)

/-- The effect of a short floating-point instruction. -/
def fpShort (f : Fields) (fn : Fmt → RCtl → Nat → Nat → Nat → Nat × FFlags) (slot : Nat) (s : State) : Try :=
  let (wrs, st) := fpWrs s f fn
  .ok ((s.setNstat st).result slot (lamFp f (f.ty == 9)) wrs) none

/-- The effect of a transcendental instruction. -/
def fpLong (f : Fields) (fn : Fmt → RCtl → Nat → Nat → Nat → Nat × FFlags) (_ : Nat) (s : State) : Try :=
  let (wrs, st) := fpWrs s f fn
  .ok (s.longDone f wrs st) none

/-- The value of an element, its subnormals flushed where flushing is in force (R179). -/
def fpIn (fm : Fmt) (c : RCtl) (x : Nat) : FVal := fm.decode c.fz x

/-- `fadd` (R178, R179). -/
def execFadd (f : Fields) (s : State) : Ans :=
  run (fpSpec 15 false true false) (.fadd f) f
    (fpShort f fun fm c x y _ => (exactAdd c.mode (fpIn fm c x) (fpIn fm c y)).round fm c) s

/-- `fsub` (R178, R179). -/
def execFsub (f : Fields) (s : State) : Ans :=
  run (fpSpec 15 false true false) (.fsub f) f
    (fpShort f fun fm c x y _ => (exactAdd c.mode (fpIn fm c x) (fpIn fm c y).neg).round fm c) s

/-- `fmul` (R178, R179). -/
def execFmul (f : Fields) (s : State) : Ans :=
  run (fpSpec 15 false true false) (.fmul f) f
    (fpShort f fun fm c x y _ => (exactMul (fpIn fm c x) (fpIn fm c y)).round fm c) s

/-- `ffma` (R178, R179). -/
def execFfma (f : Fields) (s : State) : Ans :=
  run (fpSpec 15 false true true) (.ffma f) f
    (fpShort f fun fm c x y z => (exactFma c.mode (fpIn fm c x) (fpIn fm c y) (fpIn fm c z)).round fm c) s

/-- `fmin` (R180). -/
def execFmin (f : Fields) (s : State) : Ans :=
  run (fpSpec 8 false true false) (.fmin f) f (fpShort f fun fm c x y _ => (minMaxBits fm false c.fz x y, {})) s

/-- `fmax` (R180). -/
def execFmax (f : Fields) (s : State) : Ans :=
  run (fpSpec 8 false true false) (.fmax f) f (fpShort f fun fm c x y _ => (minMaxBits fm true c.fz x y, {})) s

/-- The eight conditions of `fcmp` (R180). -/
def fcondHolds (x : Nat) (a b : FVal) : Bool :=
  let un := a == .nan || b == .nan
  match x with
  | 6 => !un
  | 7 => un
  | 1 => un || a.cmp b != .eq
  | x => !un && condHolds x (a.cmp b)

/-- The fields of `fcmp`. -/
def fcmpSpec (f : Fields) : Spec :=
  let t := f.ty.toNat
  { fpSpec 8 false true false with
    ty := tyIn [8, 9, 10, 11],
    vals := fun f => if f.mod.toNat % 8 = 0 ∧ f.x.toNat < 8 then none else some 0x0103,
    ok := fun k f => cmpDstOk k f && srcOk k f t f.a && srcOk k f t f.b }

/-- `fcmp` (R180). -/
def execFcmp (f : Fields) (s : State) : Ans :=
  let t := f.ty.toNat
  run (fcmpSpec f) (.fcmp f) f
    (fun slot s =>
      let c := rctl s.w.r f
      let fm := fmtOf t
      .ok (s.result slot (lamFp f (f.ty == 9)) (cmpWrs s f fun l =>
        fcondHolds f.x.toNat (fpIn fm c (srcVal s.w.r f t f.a l)) (fpIn fm c (srcVal s.w.r f t f.b l)))) none) s

/-- The fields of `fclass`. -/
def fclassSpec (f : Fields) : Spec :=
  let t := f.ty.toNat
  { fpSpec 0 false false false with
    ty := tyIn [8, 9, 10, 11],
    vals := fun f => if f.mod = 0 ∧ (if predOk f.d then f.x.toNat < 512 else f.x = 0) then none else some 0x0103,
    ok := fun k f => cmpDstOk k f && srcOk k f t f.a }

/-- `fclass` (R180): a predicate takes the class test of X, a vector or scalar the mask. -/
def execFclass (f : Fields) (s : State) : Ans :=
  let t := f.ty.toNat
  run (fclassSpec f) (.fclass f) f
    (fun slot s =>
      let mask := fun l => classMask (fmtOf t) (srcVal s.w.r f t f.a l)
      .ok (s.result slot (lamFp f (f.ty == 9)) (match Opd.of f.d with
        | .p _ => cmpWrs s f fun l => mask l &&& f.x.toNat != 0
        | _ => perLane s f fun l => dstWr 18 f.d l (mask l))) none) s

/-- An element rounded to an integral value of its format (R180). -/
def frndBits (fm : Fmt) (c : RCtl) (x : Nat) : Nat :=
  match fpIn fm c x with
  | .fin neg m e =>
    let (n, _) := roundInt c.mode neg m e
    if e ≥ 0 ∨ m = 0 then ((FVal.fin neg m e).exact.round fm {}).1 else ((FVal.fin neg n.natAbs 0).exact.round fm {}).1
  | v => (v.exact.round fm {}).1

/-- `frnd` (R180). -/
def execFrnd (f : Fields) (s : State) : Ans :=
  run (fpSpec 11 false false false) (.frnd f) f (fpShort f fun fm c x _ _ => (frndBits fm c x, {})) s

/-- `fdiv` (R178, R179). -/
def execFdiv (f : Fields) (s : State) : Ans :=
  run (fpSpec 15 true true false) (.fdiv f) f
    (fpLong f fun fm c x y _ => (exactDiv (fpIn fm c x) (fpIn fm c y)).round fm c) s

/-- `fsqrt` (R59). -/
def execFsqrt (f : Fields) (s : State) : Ans :=
  run (fpSpec 15 true false false) (.fsqrt f) f (fpLong f fun fm c x _ _ => (exactSqrt (fpIn fm c x)).round fm c) s

/-- `frcp` (R59). -/
def execFrcp (f : Fields) (s : State) : Ans :=
  run (fpSpec 15 true false false) (.frcp f) f (fpLong f fun fm c x _ _ => (exactRcp (fpIn fm c x)).round fm c) s

/-- `frsq` (R59). -/
def execFrsq (f : Fields) (s : State) : Ans :=
  run (fpSpec 15 true false false) (.frsq f) f (fpLong f fun fm c x _ _ => (exactRsq (fpIn fm c x)).round fm c) s

/-- `fexp2` (R59). -/
def execFexp2 (f : Fields) (s : State) : Ans :=
  run (fpSpec 15 true false false) (.fexp2 f) f (fpLong f fun fm c x _ _ => fexp2 fm c (fpIn fm c x)) s

/-- `flog2` (R59). -/
def execFlog2 (f : Fields) (s : State) : Ans :=
  run (fpSpec 15 true false false) (.flog2 f) f (fpLong f fun fm c x _ _ => flog2 fm c (fpIn fm c x)) s

/-- `fsin` (R59). -/
def execFsin (f : Fields) (s : State) : Ans :=
  run (fpSpec 15 true false false) (.fsin f) f (fpLong f fun fm c x _ _ => fsin fm c (fpIn fm c x)) s

/-- `fcos` (R59). -/
def execFcos (f : Fields) (s : State) : Ans :=
  run (fpSpec 15 true false false) (.fcos f) f (fpLong f fun fm c x _ _ => fcos fm c (fpIn fm c x)) s

/-! ### cvt -/

/-- The exact value of an element of a type (R182). -/
def elemVal (t : Nat) (fz : Bool) (x : Nat) : FVal :=
  match tyFmt t with
  | some fm => fm.decode fz x
  | none => if t = 14 ∨ t = 15 then dx8Decode x else intVal (elemInt t x)

/-- A value that is not of an integer type, made one of an integer type (R61): out of range is the bound, NaN 0. -/
def toIntTy (t : Nat) (mode : RMode) (v : FVal) : Nat × FFlags :=
  match v with
  | .nan => (0, { inv := true })
  | .inf n => (wrap (tyElem t) (clampTy t (if n then -(2 ^ 64 : Nat) else (2 ^ 64 : Nat))), { inv := true })
  | .fin n m e =>
    if bitLen m + e > 66 then
      (wrap (tyElem t) (clampTy t (if n then -(2 ^ 66 : Nat) else (2 ^ 66 : Nat))), { inv := true })
    else
      let (x, lost) := roundInt mode n m e
      let y := clampTy t x
      (wrap (tyElem t) y, if x = y then { inx := lost } else { inv := true })

/-- One element converted (R182). -/
def cvtElem (ts td : Nat) (c : RCtl) (x : Nat) : Nat × FFlags :=
  let v := elemVal ts c.fz x
  if td = 14 ∨ td = 15 then dx8Encode v c.sat
  else match tyFmt td with
  | some fm => v.exact.round fm c
  | none =>
    if (tyFmt ts).isSome ∨ ts = 14 ∨ ts = 15 then toIntTy td c.mode v
    else (narrow td c.sat (elemInt ts x), {})

/-- The source type of a `cvt` (R181). -/
def cvtSrc (f : Fields) : Nat := f.x.toNat % 64

/-- The value checks of `cvt` (R181, R182): X, the rounding of a DX8 result, then the pairing of element counts. -/
def cvtVals (f : Fields) : Option (BitVec 16) :=
  let t := f.ty.toNat
  let ts := cvtSrc f
  if f.x.toNat ≥ 16 ∨ ((t = 14 ∨ t = 15) ∧ f.mod.toNat % 4 ≠ 0) then some 0x0103
  else if tyCount ts ≠ tyCount t ∧ tyCount ts ≠ 1 ∧ tyCount t ≠ 1 then some 0x0108
  else none

/-- The operands of `cvt` (R181): the operand with fewer elements is a run of aligned groups. -/
def cvtOk (k : Kernel) (f : Fields) : Bool :=
  let t := f.ty.toNat
  let ts := cvtSrc f
  let ga := tyRegs ts * (if tyCount ts < tyCount t then tyCount t else 1)
  let gd := tyRegs t * (if tyCount t < tyCount ts then tyCount ts else 1)
  (match Opd.of f.d with
    | .v n => groupOk n gd k.vregs
    | .s n => f.uni && groupOk n gd k.sregs
    | .sink => true
    | _ => false) &&
  (match Opd.of f.a with
    | .v n => groupOk n ga k.vregs
    | .s n => groupOk n ga k.sregs
    | _ => srcOk k f ts f.a)

/-- The specifier j groups on from a register; a constant stays itself (R181). -/
def specStep (spec : BitVec 10) (n : Nat) : BitVec 10 :=
  match Opd.of spec with
  | .v _ => spec + BitVec.ofNat 10 n
  | .s _ => spec + BitVec.ofNat 10 n
  | _ => spec

/-- What `cvt` writes in a lane and its flags (R181, R182). -/
def cvtLane (r : Regs) (f : Fields) (l : Nat) : List Wr × Word :=
  let t := f.ty.toNat
  let ts := cvtSrc f
  let c := rctl r f
  let ns := tyCount ts
  let nd := tyCount t
  let isReg := match Opd.of f.a with | .v _ => true | .s _ => true | _ => false
  let src (j : Nat) : Nat :=
    if ns < nd then
      let v := srcVal r f ts (specStep f.a (j * tyRegs ts)) l
      if isReg then elemOf ts 0 v else elemOf ts 0 (srcVal r f ts f.a l)
    else elemOf ts j (srcVal r f ts f.a l)
  let es := (List.range (max ns nd)).map fun j => cvtElem ts t c (src j)
  let fl := (es.foldl (fun acc q => acc.or q.2) ({} : FFlags)).bits
  if nd < ns then (es.zipIdx.flatMap fun (q, j) => dstWr t (specStep f.d (j * tyRegs t)) l q.1, fl)
  else (dstWr t f.d l (ofElems t (es.map (·.1))), fl)

/-- The fields of `cvt`. -/
def cvtSpec (f : Fields) : Spec :=
  let ts := cvtSrc f
  { ty := fun t => decide (t < 16), vals := cvtVals, useD := true, useA := true, ok := cvtOk,
    wA := fun t => tyRegs ts * (if tyCount ts < tyCount t then tyCount t else 1),
    late := fun s _ => if ts = 9 ∧ s.pkg.cap.fp64 = false then some 0x0111 else none }

/-- `cvt` (R181, R182). -/
def execCvt (f : Fields) (s : State) : Ans :=
  let ts := cvtSrc f
  run (cvtSpec f) (.cvt f) f
    (fun slot s =>
      let (wrs, st) := perLaneF s f (cvtLane s.w.r f)
      .ok ((s.setNstat st).result slot (lamFp f (f.ty == 9 || ts == 9)) wrs) none) s

/-- An element scaled by a power of two; a result that is an infinity or NaN sets NF (R183). -/
def fsclElem (fm : Fmt) (c : RCtl) (n : Int) (x : Nat) : Nat × FFlags :=
  (exactScale (fpIn fm c x) (max (-4200) (min 4200 n))).round fm c

/-- The fields of `fscl`. -/
def fsclSpec (f : Fields) : Spec :=
  let t := f.ty.toNat
  { fpSpec 15 false true false with
    wB := fun _ => 1
    ok := fun k f => dstOk k f t f.d && srcOk k f t f.a && srcOk k f 18 f.b }

/-- `fscl` (R183). -/
def execFscl (f : Fields) (s : State) : Ans :=
  let t := f.ty.toNat
  run (fsclSpec f) (.fscl f) f
    (fun slot s =>
      let r := s.w.r
      let fm := fmtOf t
      let (wrs, st) := perLaneF s f fun l =>
        let n := sext 32 (src32 r f f.b l)
        let (v, fl) := mapElems t (fun x _ _ => fsclElem fm (rctl r f) n x) (srcVal r f t f.a l) 0 0
        let nf := (List.range (tyCount t)).any fun j => classMask fm (elemOf t j v) &&& 0x181 != 0
        (dstWr t f.d l v, fl.bits ||| (if nf then nstatNF else 0))
      .ok ((s.setNstat st).result slot (lamFp f (f.ty == 9)) wrs) none) s

/-! ### vopt -/

/-- One rounding of the update sequence (R192). -/
def voR (fz : Bool) (e : Exact) : FVal × FFlags :=
  let (b, fl) := e.round .f32 { fz := fz }
  (Fmt.f32.decode false b, fl)

/-- The number's FP32 pattern. -/
def voBits (v : FVal) : Nat := (v.exact.round .f32 {}).1

/-- The update of one lane: weight, first and second moments, or none where the gradient is not finite (R192). -/
def voptLane (fz : Bool) (h : Nat → FVal) (w g m v : FVal) : Option (FVal × FVal × FVal) × FFlags :=
  let fma (a b c : FVal) : FVal × FFlags := voR fz (exactFma .rne a b c)
  let mulR (a b : FVal) : FVal × FFlags := voR fz (exactMul a b)
  let (gs, f0) := mulR g (h 7)
  match gs with
  | .fin .. =>
    let (a1, f1) := mulR (h 2) gs
    let (m1, f2) := fma (h 1) m a1
    let (q, f3) := mulR gs gs
    let (a2, f4) := mulR (h 4) q
    let (v1, f5) := fma (h 3) v a2
    let (vc, f6) := mulR v1 (h 9)
    let (rt, f7) := voR fz (exactSqrt vc)
    let (den, f8) := voR fz (exactAdd .rne rt (h 5))
    let (mc, f9) := mulR m1 (h 8)
    let (u, f10) := voR fz (exactDiv mc den)
    let (wd, f11) := fma (h 6) w u
    let (w1, f12) := fma (h 0).neg wd w
    (some (w1, m1, v1), [f0, f1, f2, f3, f4, f5, f6, f7, f8, f9, f10, f11, f12].foldl FFlags.or {})
  | _ => (none, {})

/-- The fields of `vopt`. -/
def voptSpec (f : Fields) : Spec :=
  let k := f.x.toNat % 512
  { minLen := 1, long := true, ty := fun t => t == 8, uni := .no6,
    vals := fun f => if f.mod.toNat % 8 = 0 ∧ f.x.toNat < 512 then none else some 0x0103,
    useD := true, readD := true, useA := true, useB := true, useC := true,
    ok := fun kn f => vregOk kn 8 f.d && vregOk kn 8 f.a && vregOk kn 8 f.b && vregOk kn 8 f.c &&
      decide (k % 2 = 0 ∧ k + 9 < kn.sregs) }

/-- `vopt` (R191, R192). -/
def execVopt (f : Fields) (s : State) : Ans :=
  let k := f.x.toNat % 512
  run (voptSpec f) (.vopt f) f
    (fun _ s =>
      let r := s.w.r
      if srcBad r 10 allLanes (BitVec.ofNat 10 (256 + k)) then .trap 0x0513 s.pc 0 else
      let fz := f.mod.getLsbD 3 || r.ftz
      let h := fun i => Fmt.f32.decode fz (r.sget (k + i)).toNat
      let lane := fun spec l => Fmt.f32.decode fz (srcVal r f 8 spec l)
      let ls := (lanesOf (activeMask r f)).map fun l =>
        (l, voptLane fz h (lane f.d l) (lane f.a l) (lane f.b l) (lane f.c l))
      let put (spec : BitVec 10) (part : FVal × FVal × FVal → FVal) : List Wr :=
        ls.flatMap fun (l, res, _) => match res with | none => [] | some q => dstWr 8 spec l (voBits (part q))
      let st := ls.foldl (fun acc (_, res, fl) =>
        acc ||| (if res.isNone then nstatNF ||| nstatSkip else fl.bits)) (0 : Word)
      .ok (s.longDone f (put f.b (·.2.1) ++ put f.c (·.2.2) ++ put f.d (·.1)) st) none) s

end Sys2Proof.Machine
end

