-- ==== Sys2Proof/Machine/Mem.lean ====
section
/-! DEFINITION. Loads, stores, literal reads and atomics (R96 to R98 of spec/04_main_memory.md, R145, R146, R153 to R159 of
spec/07_core_storage.md), and the held stores of a run-ahead (R323). -/

namespace Sys2Proof.Machine

/-! ### Fields -/

/-- ORD of `ld`, `st`, `ldsp` and `stsp` (R153). -/
def ordX (f : Fields) : Nat := (f.x.extractLsb' 8 2).toNat

/-- The scope entry of an ordered access (R96, R153, R157). -/
def scopeX (f : Fields) : Nat := (f.x.extractLsb' 0 5).toNat

/-- The value checks of `ld`, `st`, `ldsp` and `stsp` (R153); `ord` is the order the instruction admits. -/
def memVals (sp : Bool) (ord : Nat) (f : Fields) : Option (BitVec 16) :=
  if (if sp then f.mod = 0 else f.mod.toNat < 4) ∧ f.x.extractLsb' 5 3 = 0 ∧ scaleBad f = false ∧
      (ordX f = ord ∨ (ordX f = 0 ∧ scopeX f = 0)) then none else some 0x0103

/-- The lanes a memory instruction acts in: lane 0 alone with UNI (R154). -/
def memLanes (s : State) (f : Fields) : List Nat := if f.uni then [0] else lanesOf (activeMask s.w.r f)

/-- The value operand of a store or atomic is any source: specifier 729 is the IMM32 that is the displacement too (R28, R31, R153). -/
def memSrcOk (k : Kernel) (f : Fields) (t : Nat) : Bool := srcOk k f t f.b

/-- An address word names a core that is absent (R14, R146). -/
def State.absentCore (s : State) (w : Word) : Bool :=
  field w.toNat 27 4 == 0 && w.getLsbD 31 && !s.corePresent (w.toNat / 2 ^ 19 % 256)

/-- The absent core of a scratchpad address carried in the instruction itself: base 656, no index and ABS set in IMM32 (R40 step 13,
R145, R146). -/
def coreLate (s : State) (f : Fields) : Option (BitVec 16) :=
  if f.a = 656 ∧ f.c = 0 ∧ s.absentCore f.imm = true then some 0x0110 else none

/-- `ld` and `ldsp` (R153). -/
def loadSpec (sp : Bool) : Spec :=
  { long := true, ord := true, ty := fun _ => true, vals := memVals sp 1, useD := true, useA := true, useC := true, idxC := true,
    useImm := true, wA := fun _ => if sp then 1 else 2, wC := fun _ => 1, holdAhead := fun f => ordX f != 0,
    late := fun s f => if sp then coreLate s f else none,
    ok := fun k f => dstOk k f f.ty.toNat f.d && (if sp then spBaseOk k f.a else pairOk k f.a) && idxOk k f.c }

/-- `st` and `stsp` (R153). -/
def storeSpec (sp : Bool) : Spec :=
  { long := true, ord := true, ty := fun _ => true, vals := memVals sp 2, useA := true, useB := true, useC := true, idxC := true,
    useImm := true, wA := fun _ => if sp then 1 else 2, wC := fun _ => 1, holdAhead := fun f => ordX f != 0,
    late := fun s f => if sp then coreLate s f else none,
    ok := fun k f => memSrcOk k f f.ty.toNat && (if sp then spBaseOk k f.a else pairOk k f.a) && idxOk k f.c }

/-! ### Addresses -/

/-- An access resolved: its lane, address, place and class (R74, R145). -/
structure Loc where
  lane : Nat
  va   : DWord
  pa   : Nat
  peer : Option Nat
  cls  : Nat

/-- The job chip number at an index of the wave's launch. -/
def State.chipAt (s : State) (w : Wave) (c : Nat) : Nat :=
  match s.launch? w.key with | some l => nth s.pkg.chipNo l.chips c | none => s.pkg.chipNo

/-- Where a translated address lies (R74). -/
def State.locate (s : State) (lane : Nat) (va : DWord) (h : Hit) : Loc :=
  match s.placeOf s.w.chip h.pa with
  | .hbm p => { lane := lane, va := va, pa := p, peer := none, cls := h.cls }
  | .peer c lo => { lane := lane, va := va, pa := lo, peer := some (s.chipAt s.w c), cls := h.cls }
  | _ => { lane := lane, va := va, pa := h.pa, peer := none, cls := h.cls }

/-- What resolving every lane of an instruction gives. -/
inductive Located where
  | fault (code : BitVec 16) (addr detail : DWord)
  | wait (s : State)
  | ok (ls : List Loc)

/-- Resolve the memory addresses of an instruction's lanes (R91, R154). -/
def memLocate (s : State) (kind : Kind) (size : Nat) (vas : List (Nat × DWord)) : Located :=
  match xlateLanes s kind size vas with
  | .fault c a d => .fault c a d
  | .wait s => .wait s
  | .ok hs => .ok (hs.map fun (l, va, h) => s.locate l va h)

/-- The check of R146 an address word fails: its rank and code. The unit-absent check is one of R40's and comes first (R349). -/
def State.spFault (s : State) (size : Nat) (w : Word) : Option (Nat × BitVec 16) :=
  let off := w.toNat % 2 ^ 19
  let core := w.toNat / 2 ^ 19 % 256
  if s.absentCore w then some (0, 0x0110)
  else if field w.toNat 27 4 ≠ 0 then some (1, 0x0210)
  else if !w.getLsbD 31 then
    if core ≠ 0 ∨ off + size > s.w.k.scratch then some (2, 0x0210)
    else if (s.spBase + off) % size ≠ 0 then some (6, 0x020A) else none
  else if off + size > 2 ^ 19 then some (4, 0x0210)
  else if !s.spAllocated s.w.key core off size then some (5, 0x0210)
  else if off % size ≠ 0 then some (6, 0x020A) else none

/-- The place of a checked address word: core times 2^19 plus offset (R146). -/
def State.spPlace (s : State) (w : Word) : Nat :=
  if w.getLsbD 31 then w.toNat / 2 ^ 19 % 256 * 2 ^ 19 + w.toNat % 2 ^ 19
  else s.w.core * 2 ^ 19 + s.spBase + w.toNat % 2 ^ 19

/-- Check and resolve the scratchpad addresses of an instruction's lanes (R146); `low` is its first 64 bits (R39). -/
def spLocate (s : State) (kind : Kind) (size : Nat) (low : DWord) (ws : List (Nat × Word)) : Located :=
  let faults := ws.filterMap fun (l, w) => (s.spFault size w).map fun (r, c) => (l, w.setWidth 64, r, c, 7)
  match worstFault faults with
  | some (l, va, _, c, _) => if c = 0x0110 then .fault c s.pc low else .fault c va (xlDetail l kind 7)
  | none => .ok (ws.map fun (l, w) => { lane := l, va := w.setWidth 64, pa := s.spPlace w, peer := none, cls := 0 })

/-- Resolve a load's, store's or atomic's lanes. -/
def locateLanes (s : State) (f : Fields) (i : Instr) (sp : Bool) (kind : Kind) (scale : Nat) : Located :=
  let size := tyBits f.ty.toNat / 8
  let lanes := memLanes s f
  if sp then spLocate s kind size (instrLow i) (lanes.map fun l => (l, spAddr s.w.r f scale l))
  else memLocate s kind size (lanes.map fun l => (l, memAddr s.w.r f scale l))

/-- A lane of a scratchpad instruction names an absent core: that check is made as the register is read and comes before the instruction's
own (R40, R349). -/
def absentLane (s : State) (f : Fields) (sp : Bool) (scale : Nat) : Bool :=
  sp && (memLanes s f).any fun l => s.absentCore (spAddr s.w.r f scale l)

/-! ### Making accesses -/

/-- The registers a memory instruction's destination names: vector n as n, scalar n as 256 + n. -/
def dstOf (spec : BitVec 10) : Option Nat :=
  match Opd.of spec with | .v n => some n | .s n => some (256 + n) | _ => none

/-- An access of the wave on the issue port at a resolved place. -/
def State.newAcc (s : State) (op : Nat) (sp : Bool) (l : Loc) (size : Nat) (kind : AKind) : Acc :=
  { id := s.nextId, op := op, wave := s.w.uid, core := s.w.core, ctx := s.w.ctx, kind := kind, sp := sp, pa := l.pa, va := l.va,
    size := size, parts := [], dst := none, sub := 0, cls := l.cls, slot := s.slotFor s.w.ctx l.cls,
    tenant := s.tenantOf s.w.ctx, hint := 0, acq := false, rel := false, scope := 0, l1 := false, stage := .port,
    peer := l.peer, launch := s.w.key, fenced := s.w.relFence }

/-- Put an access into the core's port. -/
def State.pushAcc (s : State) (a : Acc) : State :=
  { s with nextId := s.nextId + 1, m := { s.m with port := s.m.port ++ [{ a with id := s.nextId }] } }

/-- What a store writes. -/
def Acc.value (a : Acc) : Nat := match a.parts with | p :: _ => p.data.toNat | [] => 0

/-- The pieces of an operand: one, or two 8-byte halves of 16 bytes (R155): register offset, byte offset and size. -/
def pieces (size : Nat) : List (Nat × Nat × Nat) := if size = 16 then [(0, 0, 8), (2, 8, 8)] else [(0, 0, size)]

/-- The bytes held stores of a run-ahead hold over a range, the newest winning: their value and mask (R323). -/
def heldOver (held : List Acc) (sp : Bool) (peer : Option Nat) (pa size : Nat) : Nat × Nat :=
  held.foldl (fun acc a =>
    if a.sp != sp || a.peer != peer then acc
    else (List.range size).foldl (fun (v, m) i =>
      if a.pa ≤ pa + i ∧ pa + i < a.pa + a.size then
        let b := field a.value (8 * (pa + i - a.pa)) 8
        (v - field v (8 * i) 8 * 2 ^ (8 * i) + b * 2 ^ (8 * i), if natBit m i then m else m + 2 ^ i)
      else (v, m)) acc) (0, 0)

/-- The stores the wave on the issue port holds (R323). -/
def State.held (s : State) : List Acc := match s.w.ahead with | some a => a.stores.flatten | none => []

/-- Complete an operation of the wave on the issue port at once if no access of it is under way. -/
def State.closeOp (s : State) (op : Nat) : State :=
  if s.m.port.any fun b => b.op == op then s else s.finishOp s.w.uid op [] 0 none

/-- One piece of a load: from a valid L1 sector now, or an access (R149). -/
def State.loadPiece (s : State) (f : Fields) (sp : Bool) (op : Nat) (wide : Bool) (l : Loc) (p : Nat × Nat × Nat) : State :=
  let (sub, off, size) := p
  let l := { l with pa := l.pa + off, va := l.va + BitVec.ofNat 64 off }
  let (v, m) := heldOver s.held sp l.peer l.pa size
  let part : Part := { lane := l.lane, data := BitVec.ofNat 128 v, cmp := BitVec.ofNat 128 m }
  let hint := if sp then 0 else f.mod.toNat % 4
  let cached := !sp && l.cls == 0 && hint != 3 && !wide
  let a := { s.newAcc op sp l size .load with
    parts := [part], dst := dstOf f.d, sub := sub, hint := hint, acq := ordX f == 1, scope := scopeX f, l1 := cached }
  match (if cached then s.m.l1Find s.w.core a.slot (l1Addr l.peer l.pa) else none) with
  | some bs =>
    let x := ofBytes ((bs.drop (l.pa % 256)).take size)
    (s.withM fun m => m.l1Touch s.w.core (l1Addr l.peer l.pa) hint).mapWave s.w.uid fun w =>
      w.mapOp op fun o => { o with wrs := o.wrs ++ a.wrs [(l.lane, overlay size x part)] }
  | none => s.pushAcc a

/-- The effect of `ld` and `ldsp` (R154). -/
def loadEff (i : Instr) (f : Fields) (sp : Bool) (_ : Nat) (s : State) : Try :=
  if absentLane s f sp (scaleX f) then .trap 0x0110 s.pc (instrLow i)
  else if !s.scopeValid s.w.ctx (scopeX f) then .trap 0x0121 s.pc (instrLow i)
  else match locateLanes s f i sp .read (scaleX f) with
  | .fault c a d => .trap c a d
  | .wait s => .stall s
  | .ok ls =>
    let (op, s) := s.startOp f (ordX f == 1) true
    let wide := ordX f == 1 && scopeX f != 0
    let size := tyBits f.ty.toNat / 8
    let s := ls.foldl (fun s l => (pieces size).foldl (fun s p => s.loadPiece f sp op wide l p) s) s
    .ok (s.closeOp op) none

/-- The accesses of a store, in ascending lane order (R155). -/
def storeAccs (s : State) (f : Fields) (sp : Bool) (op : Nat) (ls : List Loc) : List Acc :=
  let size := tyBits f.ty.toNat / 8
  ls.flatMap fun l => (pieces size).map fun (_, off, n) =>
    let v := srcVal s.w.r f f.ty.toNat f.b l.lane / 2 ^ (8 * off)
    let l := { l with pa := l.pa + off, va := l.va + BitVec.ofNat 64 off }
    { s.newAcc op sp l n .store with
      parts := [{ lane := l.lane, data := BitVec.ofNat 128 (v % 2 ^ (8 * n)), cmp := 0 }],
      hint := if sp then 0 else f.mod.toNat % 4, rel := ordX f == 2, scope := scopeX f }

/-- A store issues: it updates its core's L1 and enters the port (R149). -/
def State.issueStore (s : State) (a : Acc) : State :=
  let s := if !a.sp && a.cls == 0 then s.withM fun m => m.l1Store a.core (l1Addr a.peer a.pa) (natBytes a.size a.value) else s
  s.pushAcc a

/-- The held-store entries a store takes: the aligned 256-byte blocks it writes (R323). -/
def heldBlocks (as : List Acc) : Nat := (as.map fun a => (a.sp, a.peer, a.pa / 256)).eraseDups.length

/-- The effect of `st` and `stsp` (R154, R323). -/
def storeEff (i : Instr) (f : Fields) (sp : Bool) (_ : Nat) (s : State) : Try :=
  if absentLane s f sp (scaleX f) then .trap 0x0110 s.pc (instrLow i)
  else if !s.scopeValid s.w.ctx (scopeX f) then .trap 0x0121 s.pc (instrLow i)
  else match locateLanes s f i sp .write (scaleX f) with
  | .fault c a d => .trap c a d
  | .wait s => .stall s
  | .ok ls =>
    match s.w.ahead with
    | some ah =>
      let new := heldBlocks (storeAccs s f sp 0 ls)
      if (ah.stores.map heldBlocks).sum + new > 32 then .stall s
      else
        let (op, s) := s.startOp f false false
        .ok (s.withW fun w => { w with ahead := w.ahead.map fun a => { a with stores := a.stores ++ [storeAccs s f sp op ls] } }) none
    | none =>
      let (op, s) := s.startOp f false false
      .ok (((storeAccs s f sp op ls).foldl State.issueStore s).closeOp op) none

/-- `ld` (R153 to R156). -/
def execLd (f : Fields) (s : State) : Ans := run (loadSpec false) (.ld f) f (loadEff (.ld f) f false) s

/-- `st` (R153 to R156). -/
def execSt (f : Fields) (s : State) : Ans := run (storeSpec false) (.st f) f (storeEff (.st f) f false) s

/-- `ldsp` (R153 to R156). -/
def execLdsp (f : Fields) (s : State) : Ans := run (loadSpec true) (.ldsp f) f (loadEff (.ldsp f) f true) s

/-- `stsp` (R153 to R156). -/
def execStsp (f : Fields) (s : State) : Ans := run (storeSpec true) (.stsp f) f (storeEff (.stsp f) f true) s

/-! ### ldlit -/

/-- Read a literal in each lane through the instruction cache; a lane whose sector returns no data has an undefined result, and the first
such is the failure (R76, R156). -/
def litReads (t : Nat) (f : Fields) : State → List (Nat × DWord) → List Wr → Option (BitVec 16 × DWord) →
    Sum (State × List Wr × Option (BitVec 16 × DWord)) Try
  | s, [], wrs, bad => .inl (s, wrs, bad)
  | s, (l, ea) :: rest, wrs, bad => match s.iread ea with
    | .fault c a d => .inr (.trap c a d)
    | .bad c a s =>
      litReads t f { s with free := s.free + 1 } rest (wrs ++ dstWr t f.d l (Config.freeDWord (s.free * 64 + l)).toNat) (bad <|> some (c, a))
    | .wait s => .inr (.stall s)
    | .ok bs s => litReads t f s rest (wrs ++ dstWr t f.d l (ofBytes (bs.take (tyBits t / 8)))) bad

/-- The fields of `ldlit`. -/
def ldlitSpec (f : Fields) : Spec :=
  let t := f.ty.toNat
  { minLen := 2, long := true, ord := true, ty := fun t => t == 18 || t == 19, useD := true, useA := true, useImm := true,
    wA := fun _ => 1,
    ok := fun k f => dstFree k t f.d [f.a] && (match Opd.of f.a with
      | .v n => vGroup k 18 n | .s n => sGroup k 18 n | .int _ => true | _ => false) }

/-- `ldlit` (R159). -/
def execLdlit (f : Fields) (s : State) : Ans :=
  let t := f.ty.toNat
  run (ldlitSpec f) (.ldlit f) f
    (fun _ s =>
      let size := tyBits t / 8
      let eas := (memLanes s f).map fun l =>
        (l, s.pc + f.imm.signExtend 64 + BitVec.ofInt 64 (sext 32 (src32 s.w.r f f.a l) * size))
      match eas.find? fun (_, ea) => s.w.k.outside ea size with
      | some (l, ea) => .trap 0x0211 ea (xlDetail l .fetch 7)
      | none => match xlateLanes s .fetch size eas with
        | .fault c a d => .trap c a d
        | .wait s => .stall s
        | .ok _ => match litReads t f s eas [] none with
          | .inr x => x
          | .inl (s, wrs, bad) =>
            let (op, s) := s.startOp f false true
            let s := match bad with
              | none => s
              | some (c, a) => s.opFail s.w.uid op { engine := if c = 0x0511 then 4 else 5, code := c, addr := a, detail := 0 }
            .ok (s.finishOp s.w.uid op wrs 0 none) none) s

/-! ### Atomics -/

/-- The combinations of operation and type of R97. -/
def opxTy (opx ty : Nat) : Bool :=
  match opx with
  | 0 => decide (ty < 4)
  | 1 => decide (ty < 4) || tyIn [8, 9, 10, 11] ty
  | 2 => decide (ty < 4) || tyIn [8, 9, 10, 11] ty
  | 3 => ty == 18 || ty == 19
  | 4 => ty == 18 || ty == 19
  | 5 => ty == 18 || ty == 19
  | 6 => decide (ty < 4) || tyIn [8, 9, 10, 11, 18, 19] ty
  | 7 => decide (ty < 4) || tyIn [8, 9, 10, 11, 18, 19] ty
  | 8 => ty == 1 || ty == 3
  | 9 => ty == 1 || ty == 3
  | _ => false

/-- OPX of X (R96). -/
def opxX (f : Fields) : Nat := (f.x.extractLsb' 5 4).toNat

/-- The operation and type checks of an atomic: 0x0105, then 0x0103 (R38, R97). -/
def opxVals (cas : Bool) (f : Fields) : Option (BitVec 16) :=
  let t := f.ty.toNat
  if opxX f = 0 ∧ 8 ≤ t ∧ t ≤ 15 then some 0x0105
  else if opxTy (opxX f) t = false ∨ (cas = false ∧ opxX f = 7) then some 0x0103 else none

/-- The types of an atomic (R96). -/
def tysAtomic : List Nat := [0, 1, 2, 3, 8, 9, 10, 11, 12, 13, 14, 15, 18, 19]

/-- `atom`, `atomr` and `red` (R96). -/
def atomSpec (ret : Bool) (f : Fields) : Spec :=
  { long := true, ord := true, ty := tyIn tysAtomic, holdAhead := fun _ => true,
    vals := fun f => match opxVals ret f with
      | some c => some c
      | none => if f.mod.toNat < 4 ∧ (f.c ≠ 0 ∨ f.x.getLsbD 11 = false) then none else some 0x0103,
    useD := ret, readD := ret && opxX f == 7, useA := true, useB := true, useC := true, idxC := true, useImm := true,
    wA := fun _ => 2, wC := fun _ => 1,
    ok := fun k f =>
      let t := f.ty.toNat
      (!ret || (dstOk k f t f.d && (opxX f != 7 || f.d != 731))) && memSrcOk k f t && pairOk k f.a && idxOk k f.c }

/-- The lanes of an atomic grouped by the word they name, words in the order their first lanes come (R98). -/
def groupWords : List (Loc × Part) → List (Loc × List Part)
  | [] => []
  | (l, p) :: rest =>
    let gs := groupWords rest
    let same (g : Loc × List Part) : Bool := g.1.pa == l.pa && g.1.peer == l.peer
    match gs.find? same with
    | none => (l, [p]) :: gs
    | some g => (l, p :: g.2) :: gs.filter fun x => !same x

/-- Issue the words of an atomic: each invalidates its sector in the core's own L1 (R98). -/
def State.issueAtomics (s : State) (f : Fields) (sp : Bool) (op : Nat) (ret : Nat) (acq rel : Bool) (ls : List Loc) : State :=
  let t := f.ty.toNat
  let part (l : Loc) : Part :=
    { lane := l.lane, data := BitVec.ofNat 128 (srcVal s.w.r f t f.b l.lane),
      cmp := if opxX f = 7 then BitVec.ofNat 128 (srcVal s.w.r f t f.d l.lane) else 0 }
  let words := groupWords (ls.map fun l => (l, part l))
  let s := words.foldl (fun s (l, ps) =>
    let a := { s.newAcc op sp l (tyBits t / 8) (.atomic (opxX f) t ret) with
      parts := ps, dst := if ret = 0 then none else dstOf f.d, hint := if sp then 0 else f.mod.toNat % 4,
      acq := acq, rel := rel, scope := scopeX f }
    ((if sp then s else s.withM fun m => m.l1Drop s.w.core (l1Addr l.peer l.pa)).pushAcc a)) s
  s.closeOp op

/-- The effect of `atom`, `atomr` and `red` (R98); `ret` 0 returns nothing, 1 the old value and 2 the new. -/
def atomEff (i : Instr) (f : Fields) (ret : Nat) (_ : Nat) (s : State) : Try :=
  let ord := (f.x.extractLsb' 9 2).toNat
  if !s.scopeValid s.w.ctx (scopeX f) then .trap 0x0121 s.pc (instrLow i)
  else match locateLanes s f i false .atomic (if f.x.getLsbD 11 then tyBits f.ty.toNat / 8 else 1) with
  | .fault c a d => .trap c a d
  | .wait s => .stall s
  | .ok ls =>
    let (op, s) := s.startOp f (natBit ord 0) (ret != 0)
    .ok (s.issueAtomics f false op ret (natBit ord 0) (natBit ord 1) ls) none

/-- `atom` (R96 to R98). -/
def execAtom (f : Fields) (s : State) : Ans := run (atomSpec true f) (.atom f) f (atomEff (.atom f) f 1) s

/-- `atomr` (R96 to R98). -/
def execAtomr (f : Fields) (s : State) : Ans := run (atomSpec true f) (.atomr f) f (atomEff (.atomr f) f 2) s

/-- `red` (R96 to R98). -/
def execRed (f : Fields) (s : State) : Ans := run (atomSpec false f) (.red f) f (atomEff (.red f) f 0) s

/-- The fields of `spatom`. -/
def spatomSpec (f : Fields) : Spec :=
  let ord := (f.x.extractLsb' 10 2).toNat
  let t := f.ty.toNat
  { long := true, ord := true, ty := tyIn tysAtomic, holdAhead := fun _ => true,
    vals := fun f => match opxVals true f with
      | some c => some c
      | none => if f.mod = 0 ∧ f.x.getLsbD 9 = false ∧ (ord ≠ 0 ∨ scopeX f = 0) then none else some 0x0103,
    useD := true, readD := opxX f == 7, useA := true, useB := true, useC := true, idxC := true, useImm := true,
    wA := fun _ => 1, wC := fun _ => 1, late := coreLate,
    ok := fun k f => dstOk k f t f.d && (opxX f != 7 || f.d != 731) && memSrcOk k f t && spBaseOk k f.a && idxOk k f.c }

/-- `spatom` (R157, R158). -/
def execSpatom (f : Fields) (s : State) : Ans :=
  let ord := (f.x.extractLsb' 10 2).toNat
  let t := f.ty.toNat
  run (spatomSpec f)
    (.spatom f) f
    (fun _ s =>
      if absentLane s f true (tyBits t / 8) then .trap 0x0110 s.pc (instrLow (.spatom f))
      else if !s.scopeValid s.w.ctx (scopeX f) then .trap 0x0121 s.pc (instrLow (.spatom f))
      else match locateLanes s f (.spatom f) true .atomic (tyBits t / 8) with
      | .fault c a d => .trap c a d
      | .wait s => .stall s
      | .ok ls =>
        let (op, s) := s.startOp f (natBit ord 0) true
        .ok (s.issueAtomics f true op (if f.d = 731 then 0 else 1) (natBit ord 0) (natBit ord 1) ls) none) s

end Sys2Proof.Machine
end

