-- ==== Sys2Proof/Machine/Cache.lean ====
section
/-! DEFINITION. `pf`, `cinv` and `cwb` (R119 to R122 of spec/05_shared_cache.md). -/

namespace Sys2Proof.Machine

/-- The fields the three share; `addr` says that the form takes an address, `hold` that it waits for a run-ahead to resolve
(R322). -/
def cacheSpec (addr hold : Bool) (mods : Nat) (xs : Nat → Bool) : Spec :=
  { long := true, ord := true, holdAhead := fun _ => hold, useA := addr, useC := addr, idxC := addr, useImm := addr, wA := fun _ => 2, wC := fun _ => 1,
    vals := fun f => if f.mod.toNat < mods ∧ f.x.extractLsb' 2 8 = 0 ∧ xs (f.x.toNat % 4) = true ∧ scaleBad f = false ∧
        (addr = true ∨ f.x.toNat < 4) then none else some 0x0103,
    ok := fun k f => !addr || (pairOk k f.a && idxOk k f.c) }

/-- The lanes' addresses (R120). -/
def cacheAddrs (s : State) (f : Fields) : List (Nat × DWord) :=
  (memLanes s f).map fun l => (l, memAddr s.w.r f (scaleX f) l)

/-! ### pf -/

/-- The sectors `pf` fills for an address: its own, or those of its line. -/
def pfSectors (mode pa : Nat) : List Nat :=
  if mode = 2 then (List.range 4).map fun i => lineOf pa * 1024 + 256 * i else [pa / 256 * 256]

/-- The access by which `pf` fills the L1: with X = 0 and a page of class 0, under a hint other than 3 (R120, R149). -/
def State.fillAcc (s : State) (f : Fields) (l : Loc) (pa : Nat) : Acc :=
  let hint := f.mod.toNat % 4
  { s.newAcc 0 false { l with pa := pa } 1 .load with hint := hint, l1 := f.x.toNat % 4 == 0 && l.cls == 0 && hint != 3 }

/-- `pf` at one address (R120): nothing where it does not translate to a readable page of class 0 or 2; a page in the peer window is
filled in its own package's home slice, from where the sector comes to the L1. -/
def State.prefetch (s : State) (f : Fields) (lane : Nat) (va : DWord) : State :=
  let mode := f.x.toNat % 4
  let hint := f.mod.toNat % 4
  match s.xlate va with
  | .hit h =>
    let slot := s.slotFor s.w.ctx h.cls
    let l := s.locate lane va h
    if (accessFault (s.reachable s.w h.pa) s.priv .read 1 va.toNat h).isSome || !(h.cls == 0 || h.cls == 2) ||
        (l.peer.isNone && (if l.pa ≥ 2 ^ 51 then !s.cxlUp else !s.keyLoaded slot)) then s
    else match l.peer with
    | some chip => (pfSectors mode l.pa).foldl (fun s pa =>
        s.peerSend (some (.fill (s.fillAcc f l pa))) chip
          { id := 0, src := 0, ctx := s.w.ctx, cls := h.cls, addr := pa, size := 256, write := none, atomic := none, acq := false, hint := hint }) s
    | none =>
      let s := (pfSectors mode l.pa).foldl (fun s pa => s.passSlice h.cls slot (s.tenantOf s.w.ctx) hint false false pa) s
      if s.m.poisoned l.pa 1 then s
      else { s.l1Bring (s.fillAcc f l l.pa) (s.m.bytes s.free slot (l.pa / 256 * 256) 256) with free := s.free + 1 }
  | _ => s

/-- `pf` (R91, R120): it waits while an address misses, and then its fills are performed or dropped at once. -/
def execPf (f : Fields) (s : State) : Ans :=
  run (cacheSpec true false 4 fun x => x != 3) (.pf f) f
    (fun _ s =>
      let vas := cacheAddrs s f
      match vas.filter fun x => s.xlate x.2 == .miss with
      | x :: xs => .stall ((((x :: xs).map fun x => x.2.toNat / 2 ^ 16).eraseDups).foldl State.joinWalk s)
      | [] =>
        let s' := (vas.foldl (fun s (l, va) => s.prefetch f l va) s).dropFaults s.w.uid
        .ok (s'.longDone f [] 0) none) s

/-! ### cinv -/

/-- `cinv` of the whole L1 (R120). X = 2 and 3 come here, and are refused. -/
def execCinv (f : Fields) (s : State) : Ans :=
  run (cacheSpec false true 1 fun x => x == 0) (.cinv f) f
    (fun _ s => .ok ((s.withM fun m => m.l1Clear s.w.core).longDone f [] 0) none) s

/-- `cinv` of the lanes' sectors (R120). Its addresses are checked as a read's, which the spec leaves open (log 27). -/
def execCinvSector (f : Fields) (s : State) : Ans :=
  run (cacheSpec true true 1 fun x => x == 1) (.cinvSector f) f
    (fun _ s => match memLocate s .read 1 (cacheAddrs s f) with
      | .fault c a d => .trap c a d
      | .wait s => .stall s
      | .ok ls =>
        let s := ls.foldl (fun s l => if l.cls == 1 || l.cls == 3 || l.peer.isSome then s
          else s.withM fun m => m.l1Drop s.w.core l.pa) s
        .ok (s.longDone f [] 0) none) s

/-! ### cwb -/

/-- A write-back on its way to the slices. -/
def State.pushClean (s : State) (op mode : Nat) (l : Loc) : State := s.pushAcc (s.newAcc op false l 1 (.clean mode))

/-- The effect of `cwb` by address (R120, R121): it follows the wave's stores to the home slice. Its addresses are checked as a
read's, which the spec leaves open (log 27). -/
def cwbEff (f : Fields) (mode : Nat) (_ : Nat) (s : State) : Try :=
  match memLocate s .read 1 (cacheAddrs s f) with
  | .fault c a d => .trap c a d
  | .wait s => .stall s
  | .ok ls =>
    let (op, s) := s.startOp f false false
    .ok (((ls.filter fun l => (l.cls == 0 || l.cls == 2) && l.peer.isNone).foldl (fun s l => s.pushClean op mode l) s).closeOp op) none

/-- `cwb` of sectors (R120). X = 3 comes here, and is refused. -/
def execCwb (f : Fields) (s : State) : Ans := run (cacheSpec true true 1 fun x => x == 0) (.cwb f) f (cwbEff f 0) s

/-- `cwb.inv` (R120). -/
def execCwbInv (f : Fields) (s : State) : Ans := run (cacheSpec true true 1 fun x => x == 1) (.cwbInv f) f (cwbEff f 1) s

/-- `cwb.ctx` (R120): every dirty line of the context's key slot. -/
def execCwbCtx (f : Fields) (s : State) : Ans :=
  run (cacheSpec false true 1 fun x => x == 2) (.cwbCtx f) f
    (fun _ s =>
      let (op, s) := s.startOp f false false
      .ok (s.pushClean op 2 { lane := 0, va := 0, pa := 0, peer := none, cls := 0 }) none) s

end Sys2Proof.Machine
end

