-- ==== Sys2Proof/Machine/Lane.lean ====
section
/-! DEFINITION. Lane instructions, mask instructions and the lane generator (R184 to R190 of spec/08_vector_scalar.md). -/

namespace Sys2Proof.Machine

/-- X within its lowest values, MOD 0, as R184 to R187 give it. -/
def valsXMod (n used : Nat) (f : Fields) : Option (BitVec 16) :=
  if f.mod.toNat &&& used = f.mod.toNat ∧ f.x.toNat < n then none else some 0x0103

/-- The input bit of a lane (R184). -/
def voteBit (r : Regs) (f : Fields) (l : Nat) : Bool :=
  if maskOk f.a then (maskVal r f.a).getLsbD l else srcVal r f 18 f.a l != 0

/-- What `vote` writes (R184). -/
def voteWrs (r : Regs) (f : Fields) : List Wr :=
  let act := activeMask r f
  let ls := lanesOf act
  let anyB := ls.any (voteBit r f)
  let allB := ls.all (voteBit r f)
  let ballot := maskOf (fun l => act.getLsbD l && voteBit r f l)
  let truth := match f.x.toNat with | 0 => anyB | 1 => allB | _ => allB || !anyB
  if f.x = 2 then
    match Opd.of f.d with
    | .p n => [.p n act ballot]
    | _ => dstWr 19 f.d 0 ballot.toNat
  else
    match Opd.of f.d with
    | .p n => [.p n act (if truth then allLanes else 0)]
    | .s _ => dstWr 18 f.d 0 (if truth then 1 else 0)
    | _ => ls.flatMap fun l => dstWr 18 f.d l (if truth then 1 else 0)

/-- The fields of `vote`. -/
def voteSpec : Spec :=
  { long := true, ty := fun t => t == 8, uni := .no6, vals := valsX 4, useD := true, useA := true,
    ok := fun k f => (maskOk f.a || vregOk k 18 f.a) &&
      (match Opd.of f.d with
        | .p _ => true
        | .s n => if f.x = 2 then sGroup k 19 n else sGroup k 18 n
        | .v n => f.x != 2 && vGroup k 18 n
        | .sink => true
        | _ => false) }

/-- `vote` (R184): over no lane any is 0 and all 1, which a scalar D receives too. -/
def execVote (f : Fields) (s : State) : Ans :=
  runOnce voteSpec (.vote f) f
    (fun _ s => .ok (s.longDone f (voteWrs s.w.r f) 0) none) s

/-- The source lane of a shuffle (R185). -/
def shflSrc (x l b : Nat) : Nat :=
  let sz := 64 / 2 ^ (x / 4)
  let base := l - l % sz
  match x % 4 with
  | 0 => base + b % sz
  | 1 => if l % sz ≥ b then l - b else l
  | 2 => if l % sz + b < sz then l + b else l
  | _ => base + (l % sz ^^^ b % sz)

/-- The fields of `shfl`. B's 'constant' takes in IMM32, which R43 makes of any other literal; the lane index is none (DEDUCED, log 17). -/
def shflSpec (f : Fields) : Spec :=
  let t := f.ty.toNat
  { long := true, ty := fun t => tyRegs t ≤ 2 && tyBits t ≥ 32, uni := .no6,
    vals := fun f => if f.mod = 0 ∧ f.x.toNat < 24 then none else some 0x0103,
    useD := true, useA := true, useB := true, wA := fun _ => 0, wB := fun _ => 1,
    ok := fun k f => vregOk k t f.d && vregOk k t f.a && srcOk k f 18 f.b && f.b != 730 }

/-- `shfl` (R185): a value one lane holds as it stood before, active or not (R167). -/
def execShfl (f : Fields) (s : State) : Ans :=
  let t := f.ty.toNat
  run (shflSpec f) (.shfl f) f
    (fun _ s =>
      let r := s.w.r
      let ls := lanesOf (activeMask r f)
      let src := fun l => shflSrc f.x.toNat l (src32 r f f.b l)
      if ls.any fun l => srcBad r (tyRegs t) (1#64 <<< src l) f.a then .trap 0x0513 s.pc 0
      else .ok (s.longDone f (ls.flatMap fun l => dstWr t f.d l (srcVal r f t f.a (src l))) 0) none) s

/-- The root of `wred` over the active lanes and its flags (R71, R186). -/
def wredRoot (r : Regs) (f : Fields) : Nat × FFlags :=
  let t := f.ty.toNat
  let act := activeMask r f
  let opr := f.x.toNat
  match tyFmt t with
  | some fm =>
    let fz := (rctl r f).fz
    let leaves := (List.range 64).map fun l =>
      if act.getLsbD l then some (fpLeaf fm fz (srcVal r f t f.a l)) else none
    let (v, fl) := treeRoot (combineFp fm opr (f.mod.getLsbD 2) fz) 6 leaves
    (v.getD (identFp fm opr), fl)
  | none =>
    let leaves := (List.range 64).map fun l => if act.getLsbD l then some (srcVal r f t f.a l) else none
    let (v, fl) := treeRoot (combineInt (tyElem t) (tySigned t) opr) 6 leaves
    (v.getD (identInt (tyElem t) (tySigned t) opr), fl)

/-- The fields of `wred`. -/
def wredSpec (f : Fields) : Spec :=
  let t := f.ty.toNat
  { long := true, ty := tyIn [0, 1, 2, 3, 8, 9, 10, 11], uni := .no6,
    vals := valsXMod 3 (if t < 4 then 0 else 12), useD := true, useA := true,
    ok := fun k f => vregOk k t f.a && (vregOk k t f.d || sregOrNull k t f.d) }

/-- `wred` (R186): with no active lane a scalar D receives the identity. -/
def execWred (f : Fields) (s : State) : Ans :=
  let t := f.ty.toNat
  runOnce (wredSpec f) (.wred f) f
    (fun _ s =>
      let (v, fl) := wredRoot s.w.r f
      let wrs := match Opd.of f.d with
        | .s _ => dstWr t f.d 0 v
        | _ => (lanesOf (activeMask s.w.r f)).flatMap fun l => dstWr t f.d l v
      .ok (s.longDone f wrs fl.bits) none) s

/-- The combination of two masks `pset` makes (R187). -/
def psetBits (x : Nat) (a b : Lanes) : Lanes :=
  match x with
  | 0 => a &&& b | 1 => a ||| b | 2 => a ^^^ b | 3 => a &&& ~~~ b | 4 => a | _ => ~~~ a

/-- The fields of `pset`. -/
def psetSpec (f : Fields) : Spec :=
  let two := decide (f.x.toNat < 4)
  { ty := fun t => t == 8, vals := valsX 6, useD := true, useA := true, useB := two, maskUni := true,
    ok := fun _ f => predOk f.d && maskOk f.a && (!two || maskOk f.b) }

/-- `pset` (R187): operations 4 and 5 take no B. -/
def execPset (f : Fields) (s : State) : Ans :=
  run (psetSpec f) (.pset f) f
    (fun slot s =>
      let r := s.w.r
      .ok (s.result slot 1 (match Opd.of f.d with
        | .p n => [.p n (activeMask r f) (psetBits f.x.toNat (maskVal r f.a) (maskVal r f.b))]
        | _ => [])) none) s

/-- What `pop` writes (R187). -/
def popWrs (r : Regs) (f : Fields) : List Wr :=
  let m := maskVal r f.a &&& activeMask r f
  let ls := lanesOf m
  match f.x.toNat with
  | 0 => dstWr 18 f.d 0 ls.length
  | 1 => dstWr 18 f.d 0 (ls.headD 64)
  | 2 => dstWr 18 f.d 0 (ls.getLast?.getD 64)
  | _ => (lanesOf (activeMask r f)).flatMap fun l => dstWr 18 f.d l (ls.filter (· < l)).length

/-- The fields of `pop`. -/
def popSpec : Spec :=
  { ty := fun t => t == 8, vals := valsX 4, useD := true, useA := true, maskUni := true,
    ok := fun k f => maskOk f.a && (if f.x = 3 then vregOk k 18 f.d else sregOrNull k 18 f.d) }

/-- `pop` (R187). -/
def execPop (f : Fields) (s : State) : Ans :=
  run popSpec (.pop f) f
    (fun slot s => .ok (s.result slot 1 (popWrs s.w.r f)) none) s

/-! ### The lane generator -/

/-- The 32 bits of a draw (R190). -/
def drawBits (seed : DWord) (stream lwave lane rngc : Nat) : Nat :=
  let m := 2 ^ 64
  let g := (stream % 2 ^ 32 * 2 ^ 32 + (lwave * 64 + lane) % 2 ^ 32) % m
  let x := seed.toNat ^^^ (g * 0xA24BAED4963EE407 % m)
  let x := x ^^^ (rngc * 0x9FB21C651E98DF25 % m)
  let x := (x ^^^ (x / 2 ^ 31)) * 0xC6BC279692B5C323 % m
  let x := (x ^^^ (x / 2 ^ 29)) * 0xD6E8FEB86659FD93 % m
  (x ^^^ (x / 2 ^ 32)) % 2 ^ 32

/-- A draw as FP32: the upper 24 bits times 2^-24, exactly (R190). -/
def drawF32 (out : Nat) : Nat := ((FVal.fin false (out / 256) (-24)).exact.round .f32 {}).1

/-- The fields of `rng`. The stream's 'constant' takes in IMM32, which R43 makes of any other literal; the lane index is none (DEDUCED, log
17). -/
def rngDrawSpec : Spec :=
  { ty := fun t => t == 1 || t == 8, uni := .no6, vals := valsX 1, useD := true, useA := true, wA := fun _ => 1,
    ok := fun k f => vregOk k 18 f.d && srcOk k f 18 f.a && f.a != 730 }

/-- `rng` draw (R189, R190). X = 3 comes here, and is refused. -/
def execRngDraw (f : Fields) (s : State) : Ans :=
  run rngDrawSpec (.rngDraw f) f
    (fun slot s =>
      let r := s.w.r
      let ls := lanesOf (activeMask r f)
      let seed := match s.wctx with | some c => c.seed | none => 0
      let wrs := ls.flatMap fun l =>
        let out := drawBits seed (src32 r f f.a l) (s.w.lwave % 2 ^ 32) l (r.rget l).toNat
        dstWr 18 f.d l (if f.ty = 8 then drawF32 out else out)
      .ok ((s.withR fun r => { r with rng := ls.foldl (fun c l => cset 0 (r.rget l + 1) c l) r.rng }).result slot 3 wrs) none) s

/-- The fields of `rng.setc`. -/
def rngSetcSpec : Spec :=
  { ty := fun t => t == 1, uni := .no6, vals := fun f => if f.mod = 0 ∧ f.x = 1 then none else some 0x0103,
    useA := true, ok := fun k f => srcOk k f 18 f.a }

/-- `rng.setc` (R189). -/
def execRngSetc (f : Fields) (s : State) : Ans :=
  run rngSetcSpec (.rngSetc f) f
    (fun _ s => .ok (s.withR fun r =>
      { r with rng := (lanesOf (activeMask r f)).foldl (fun c l => cset 0 (BitVec.ofNat 32 (src32 r f f.a l)) c l) r.rng })
      none) s

/-- The fields of `rng.getc`. -/
def rngGetcSpec : Spec :=
  { ty := fun t => t == 1, uni := .no6, vals := fun f => if f.mod = 0 ∧ f.x = 2 then none else some 0x0103,
    useD := true, ok := fun k f => vregOk k 18 f.d }

/-- `rng.getc` (R189). -/
def execRngGetc (f : Fields) (s : State) : Ans :=
  run rngGetcSpec (.rngGetc f) f
    (fun slot s => .ok (s.result slot 3 ((lanesOf (activeMask s.w.r f)).flatMap fun l =>
      dstWr 18 f.d l (s.w.r.rget l).toNat)) none) s

end Sys2Proof.Machine
end

