-- ==== Sys2Proof/Machine/Cbranch.lean ====
section
/-! DEFINITION. Membership sets and the collective branch (R318 to R326 of spec/15_control_flow.md). -/

namespace Sys2Proof.Machine

/-! ### A set's home (R319) -/

/-- EXPECT of a set (R318): its entry's, or the waves of the launch for set 0. -/
def State.setExpect (s : State) (r : SetRef) : Nat :=
  match r.key with
  | some k => match s.launch? k with
    | none => 0
    | some l => l.gx * l.gy * l.gz * (match l.k with | some k => k.waves | none => 1)
  | none => match s.ctx? r.ctx with
    | none => 0
    | some c => match lookup c.msets r.set with | some e => e.expect | none => 0

/-- A set before its first member joins. -/
def SetHome.fresh (r : SetRef) : SetHome :=
  { ref := r, njoin := 0, formed := false, cur := 0, votes := [], gone := [], early := [], chips := [] }

/-- The home state of a set. -/
def State.home (s : State) (r : SetRef) : SetHome :=
  match s.ctx? r.ctx with
  | none => SetHome.fresh r
  | some c => (c.setHomes.find? fun h => h.ref == r).getD (SetHome.fresh r)

/-- Put the home state of a set. -/
def State.putHome (s : State) (h : SetHome) : State :=
  s.mapCtx h.ref.ctx fun c => { c with
    setHomes := if c.setHomes.any (fun x => x.ref == h.ref) then updateFirst (fun x => x.ref == h.ref) (fun _ => h) c.setHomes
      else c.setHomes ++ [h] }

/-- The outcome of an instance's votes: taken, and disagreement (R321). -/
def outcomeOf (vs : List Vote) : Bool × Bool :=
  match vs with
  | [] => (false, false)
  | v :: _ =>
    if vs.any fun x => x.func != v.func || x.thr != v.thr then (false, true)
    else match v.func with
    | 0 => (vs.any fun x => x.value != 0, false)
    | 1 => (vs.all fun x => x.value != 0, false)
    | _ => (decide ((vs.map (·.value)).sum ≥ v.thr.toNat), false)

/-- Resolve the lowest instances for as long as they are complete (R319); one with no contribution is not. -/
def State.resolveSet : Nat → State → SetRef → State
  | 0, s, _ => s
  | n + 1, s, r =>
    let h := s.home r
    if !h.formed || h.votes.length != h.njoin || (h.votes.isEmpty && h.gone.isEmpty) then s
    else
      let (taken, err) := outcomeOf ((h.votes.map (·.2) ++ h.gone).filterMap id)
      let s := h.chips.foldl (fun s c => s.send c (.outcome r h.cur taken err)) s
      let cur := h.cur + 1
      let s := s.putHome { h with
        cur := cur, gone := [],
        votes := (h.early.filter fun e => e.1 == cur).map (·.2),
        early := h.early.filter fun e => e.1 != cur }
      State.resolveSet n s r

/-- Resolve what a message completed. -/
def State.settleSet (s : State) (r : SetRef) : State := State.resolveSet ((s.home r).early.length + 1) s r

/-- `VOTE_ARRIVAL` (R319, R321, R325): a vote, or an exclusion, reaches the home. -/
def execVoteArrival (r : SetRef) (inst : Word) (m : Member) (v : Option Vote) (s : State) : Ans :=
  let h := s.home r
  .next ((s.putHome (if inst = h.cur then { h with votes := h.votes ++ [(m, v)] }
    else { h with early := h.early ++ [(inst, m, v)] })).settleSet r)

/-- `JOIN_ARRIVAL` (R318 to R320): a member joins; one of sets 1 to 15 is told CUR. -/
def execJoinArrival (r : SetRef) (m : Member) (s : State) : Ans :=
  let h := s.home r
  let n := h.njoin + 1
  let s := s.putHome { h with
    njoin := n, formed := h.formed || n == s.setExpect r,
    chips := if h.chips.contains m.chip then h.chips else h.chips ++ [m.chip] }
  .next ((if r.set = 0 then s else s.send m.chip (.joinReply r m h.cur)).settleSet r)

/-- `LEAVE_ARRIVAL` (R319, R320): a member leaves; what it gave CUR stays. -/
def execLeaveArrival (r : SetRef) (m : Member) (s : State) : Ans :=
  let h := s.home r
  let mine := h.votes.filter fun x => x.1 == m
  let s := s.putHome { h with
    njoin := h.njoin - 1, votes := h.votes.filter fun x => x.1 != m, gone := h.gone ++ mine.map (·.2),
    early := h.early.filter fun e => e.2.1 != m }
  .next ((s.send m.chip (.leaveAck r m)).settleSet r)

/-! ### The chip's side -/

/-- The outcome of an instance, if the chip still holds it (R319). -/
def State.outcome? (s : State) (r : SetRef) (inst : Word) : Option Outc :=
  match s.ctx? r.ctx with
  | none => none
  | some c => c.outcomes.find? fun o => o.ref == r && o.inst == inst

/-- The chip has seen the outcome of a later instance and no longer holds this one's (R325). -/
def State.outcomeLost (s : State) (r : SetRef) (inst : Word) : Bool :=
  (s.outcome? r inst).isNone && match s.ctx? r.ctx with
    | none => false
    | some c => c.outcomes.any fun o => o.ref == r && decide ((o.inst - inst).toNat < 2 ^ 31)

/-- The last 256 outcomes of a set among a list (R319). -/
def keepOutcomes (r : SetRef) (os : List Outc) : List Outc :=
  let n := (os.filter fun o => o.ref == r).length
  if n ≤ 256 then os else match os.findIdx? fun o => o.ref == r with | none => os | some i => os.eraseIdx i

/-- An outcome reaches the chip (R319). -/
def State.storeOutcome (s : State) (r : SetRef) (inst : Word) (taken err : Bool) : State :=
  s.mapCtx r.ctx fun c => { c with
    outcomes := keepOutcomes r (c.outcomes ++ [{ ref := r, inst := inst, taken := taken, err := err }]) }

/-- The operation of a wave's `cmjoin` completes with CUR in D (R320). -/
def Wave.endJoin (w : Wave) (set : Nat) (cur : Word) : Wave :=
  match w.ops.find? fun o => o.memb == some (set, true) && !o.fin with
  | none => w
  | some o => w.mapOp o.id fun o => ({ o with wrs := o.wrs.map fun x => match x with | Wr.s n _ => Wr.s n cur | y => y }).finish [] 0 none

/-- A wave learns that it has joined (R320): one that has ended leaves again. -/
def State.joined (s : State) (r : SetRef) (m : Member) (cur : Word) : State :=
  match s.wave m.uid with
  | none => s.send (s.setHome r) (.leave r m)
  | some w =>
    if w.status = .ended then (s.send (s.setHome r) (.leave r m)).mapWave m.uid fun w => w.endJoin r.set cur
    else if !(w.ops.any fun o => o.memb == some (r.set, true) && !o.fin) then s
    else
      let set (x : Regs) : Regs := { x with cmm := x.cmm ||| (1#16 <<< r.set), next := cset 0 cur x.next r.set }
      s.mapWave m.uid fun w => { w.endJoin r.set cur with r := set w.r, ahead := w.ahead.map fun a => { a with ckpt := set a.ckpt } }

/-- The home has applied a leave (R320). -/
def State.left (s : State) (r : SetRef) (m : Member) : State :=
  s.mapWave m.uid fun w => match w.ops.find? fun o => o.memb == some (r.set, false) && !o.fin with
    | none => w
    | some o => w.mapOp o.id fun o => o.finish [] 0 none

/-- Detail of 0x0430 to 0x0434: the set and the instance (R327). -/
def setDetail (set : Nat) (inst : Word) : DWord := BitVec.ofNat 64 (set + inst.toNat * 2 ^ 32)

/-- An operation of the wave on the issue port takes an error of this chapter, with its record (R321, R325, R326). -/
def State.setFail (s : State) (op : Nat) (engine : Nat) (code : BitVec 16) (set : Nat) (inst : Word) : State :=
  (s.failAsync s.w engine code s.openAddr (setDetail set inst)).finishOp s.w.uid op [] 0 (some { code := code, later := 0, addr := s.openAddr })

/-- The held stores of a run-ahead are performed, in program order (R324). -/
def State.performHeld (s : State) (stores : List (List Acc)) : State :=
  stores.foldl (fun s as =>
    let s := as.foldl State.issueStore s
    match as with | a :: _ => s.closeOp a.op | [] => s) s

/-- The state restored from the checkpoint (R324): operations of the run-ahead leave the counts, and those before it count in the bank of
the one arm the `cbr` issued from. A `cbr` that in the end falls through performs the end action of its address (R315). -/
def Wave.restore (w : Wave) (a : Ahead) (pc : DWord) (done : Option DWord) : Wave :=
  { w with
    ahead := none
    ops := (w.ops.filter fun o => decide (o.id ≤ a.op) || o.eng).map fun o => { o with
      inT := (o.inT || o.inF) && a.ckpt.ctl.arm.taken, inF := (o.inT || o.inF) && !a.ckpt.ctl.arm.taken }
    r := { a.ckpt with ctl := { a.ckpt.ctl with arm := { a.ckpt.ctl.arm with pc := pc, done := done } } } }

/-- The run-ahead of the wave on the issue port resolves, taken or not (R324). -/
def State.resolve (s : State) (taken : Bool) : State :=
  match s.w.ahead with
  | none => s
  | some a =>
    if taken = a.pred then
      (a.fails.foldl (fun s r => (s.record r).2) (s.withW fun w => { w with ahead := none })).performHeld a.stores
    else (s.withW fun w => w.restore a (if taken then a.takenPc else a.fallPc)
        (if taken then none else some (a.fallPc - 16))).dropFaults s.w.uid

/-- The `cbr`'s own operation ends with an outcome (R321). -/
def State.endCbr (s : State) (op set : Nat) (inst : Word) (err : Bool) : State :=
  if err then s.setFail op 0 0x0432 set inst else s.finishOp s.w.uid op [] 0 none

/-- `OUTCOME_ARRIVAL` (R324, R325): the outcome a wave runs ahead of is known to its chip, or no longer is. -/
def execOutcomeArrival (w : Nat) (s : State) : Ans :=
  let s := s.select w
  if s.w.uid ≠ w then .next s
  else match s.w.ahead with
  | none => .next s
  | some a =>
    let r := s.w.setRef a.set
    match s.outcome? r a.inst with
    | some o => .next ((s.resolve o.taken).endCbr a.op a.set a.inst o.err)
    | none =>
      if s.outcomeLost r a.inst then .next ((s.resolve false).setFail a.op 0 0x0433 a.set a.inst) else .next s

/-- The home of a set became unreachable for a wave (R326). -/
def State.loseSet (s : State) (uid : Nat) (r : SetRef) : State :=
  let t := s.select uid
  if t.w.uid ≠ uid ∨ t.w.ctx ≠ r.ctx ∨ t.w.setRef r.set ≠ r then s
  else
    let waits := t.w.ops.filter fun o => !o.fin && (match o.memb with | some (n, _) => n == r.set | none => false)
    let t := waits.foldl (fun t o => t.setFail o.id 13 0x0434 r.set (cget 0 t.w.r.next r.set)) t
    match t.w.ahead with
    | none => t
    | some a => if a.set = r.set then (t.resolve false).setFail a.op 13 0x0434 a.set a.inst else t

/-- `SET_HOME_UNREACHABLE` (R326): every member here with something outstanding takes 0x0434. -/
def execSetHomeUnreachable (r : SetRef) (s : State) : Ans :=
  let keep := s.w.uid
  .next (((s.waves.map (·.uid)).foldl (fun s u => s.loseSet u r) s).select keep)

/-- A run-ahead is abandoned for a cancel (R326): as on a misprediction, but pc is the predicted target; the operation
carries 0x0630 and no record. -/
def State.abandon (s : State) (uid : Nat) : State :=
  match s.wave uid with
  | none => s
  | some w => match w.ahead with
    | none => s
    | some a =>
      ((s.mapWave uid fun w => w.restore a (if a.pred then a.takenPc else a.fallPc)
        (if a.pred then none else some (a.fallPc - 16))).dropFaults uid).finishOp uid a.op [] 0
          (some { code := 0x0630, later := 0, addr := 0 })

/-! ### cbr, cmjoin, cmleave -/

/-- The checks of R320, in its order: `zero` refuses set 0, `member` is the membership asked for, if it is known. -/
def State.setCheck (s : State) (set : Nat) (zero : Bool) (member : Option Bool) : Option (BitVec 16 × DWord) :=
  let d := setDetail set (cget 0 s.w.r.next set)
  let c := s.w.r.ctl
  if c.other.isSome || !c.arm.stack.isEmpty then some (0x0114, 4)
  else if zero && set == 0 then some (0x0431, d)
  else if set != 0 && (match s.wctx with | none => true | some x => (lookup x.msets set).isNone) then some (0x0430, d)
  else if (match member with | some m => s.w.memberOf set != m | none => false) then some (0x0431, d)
  else none

/-- A `cmjoin` or `cmleave` of the wave on the set is outstanding (R320). -/
def Wave.membWaits (w : Wave) (set : Nat) : Bool :=
  w.ops.any fun o => !o.fin && match o.memb with | some (n, _) => n == set | none => false

/-- The vote of the wave (R184, R321). -/
def cbrVote (r : Regs) (f : Fields) : Nat :=
  let bit (l : Nat) : Bool := if maskOk f.c then (maskVal r f.c).getLsbD l else srcVal r f 18 f.c l != 0
  let bits := (lanesOf r.em).map bit
  match f.x.toNat % 4 with
  | 0 => if bits.any id then 1 else 0
  | 1 => if bits.all id then 1 else 0
  | _ => (bits.filter id).length

/-- SET of `cbr` (R303). -/
def cbrSet (f : Fields) : Nat := (f.x.extractLsb' 2 4).toNat

/-- A `cbr` that knows its direction continues there. -/
def State.cbrGo (s : State) (f : Fields) (taken : Bool) : Try := .ok s (if taken then some (s.target f) else none)

/-- The wave runs ahead at the predicted target (R321, R322): the checkpoint is its state once the `cbr` has issued. -/
def State.runAhead (s : State) (f : Fields) (slot op set : Nat) (k : Word) (voted : Bool) : State :=
  let pt := f.x.getLsbD 6
  let taken := s.target f
  let fall := s.nextPc f
  let s := s.withArm fun a => a.after slot 16 (if pt then some taken else none)
  s.withW fun w => { w with
    ahead := some { set := set, inst := k, pred := pt, takenPc := taken, fallPc := fall, ckpt := w.r, count := 0,
                    stores := [], fault := none, fails := [], op := op, voted := voted } }

/-- The fields of `cbr`. -/
def cbrSpec (f : Fields) : Spec :=
  { minLen := 2, uni := .no4, pred7 := true, long := true, offset := true, useC := true, wC := fun _ => 1, maskUni := true,
    useImm := f.x.toNat % 4 == 2, holdAhead := fun _ => true,
    vals := fun f => if f.mod = 0 ∧ f.x.toNat < 128 ∧ f.x.toNat % 4 ≠ 3 then none else some 0x0103,
    ok := fun k f => (maskOk f.c || vregOk k 18 f.c) && natBit k.msetMask (cbrSet f) }

/-- `cbr` (R321). -/
def execCbr (f : Fields) (s : State) : Ans :=
  runCtl (cbrSpec f) (.cbr f) f
    (fun slot s =>
      let set := cbrSet f
      let r := s.w.setRef set
      match s.setCheck set false (if s.w.membWaits set then none else some true) with
      | some (c, d) => .trap c s.pc d
      | none =>
        if s.w.membWaits set then .stall s
        else
          let k := cget 0 s.w.r.next set
          let vote : Vote := { func := f.x.toNat % 4, thr := f.imm, value := cbrVote s.w.r f }
          let excl := s.w.excl.contains (set, k)
          let (op, s) := s.startOp f false false
          let s := s.withW fun w => { w with
            r := { w.r with next := cset 0 (k + 1) w.r.next set }, excl := w.excl.filter fun x => x != (set, k) }
          match s.outcome? r k with
          | some o => (s.endCbr op set k o.err).cbrGo f o.taken
          | none =>
            if excl then
              if s.outcomeLost r k then (s.setFail op 0 0x0433 set k).cbrGo f false
              else .moved (s.runAhead f slot op set k false)
            else if !s.routed (s.setHome r) then (s.setFail op 13 0x0434 set k).cbrGo f false
            else .moved ((s.send (s.setHome r) (.vote r k (s.member s.w) (some vote))).runAhead f slot op set k true)) s

/-- The fields `cmjoin` and `cmleave` share. -/
def cmSpec (d : Bool) : Spec :=
  { minLen := 1, uni := .no4, pred7 := true, long := true, useD := d, holdAhead := fun _ => true,
    vals := fun f => if f.mod = 0 ∧ f.x.toNat < 16 then none else some 0x0103,
    ok := fun k f => (!d || sregOrNull k 18 f.d) && natBit k.msetMask f.x.toNat }

/-- An operation of the wave, marked as a `cmjoin` or `cmleave`. -/
def State.markMemb (s : State) (op set : Nat) (join : Bool) (wrs : List Wr) : State :=
  s.withW fun w => w.mapOp op fun o => { o with memb := some (set, join), wrs := wrs }

/-- `cmjoin` (R320). -/
def execCmjoin (f : Fields) (s : State) : Ans :=
  runCtl (cmSpec true) (.cmjoin f) f
    (fun _ s =>
      let set := f.x.toNat
      let r := s.w.setRef set
      match s.setCheck set true (some false) with
      | some (c, d) => .trap c s.pc d
      | none =>
        let (op, s) := s.startOp f false false
        let s := s.markMemb op set true (dstWr 18 f.d 0 0)
        if !s.routed (s.setHome r) then .ok (s.setFail op 13 0x0434 set (cget 0 s.w.r.next set)) none
        else .ok (s.send (s.setHome r) (.join r (s.member s.w))) none) s

/-- `cmleave` (R320): the bit clears at once, the flag when the home has applied the leave. -/
def execCmleave (f : Fields) (s : State) : Ans :=
  runCtl (cmSpec false) (.cmleave f) f
    (fun _ s =>
      let set := f.x.toNat
      let r := s.w.setRef set
      match s.setCheck set true (some true) with
      | some (c, d) => .trap c s.pc d
      | none =>
        let (op, s) := s.startOp f false false
        let s := (s.markMemb op set false []).withR fun x => { x with cmm := x.cmm &&& ~~~ (1#16 <<< set) }
        if !s.routed (s.setHome r) then .ok (s.setFail op 13 0x0434 set (cget 0 s.w.r.next set)) none
        else .ok (s.send (s.setHome r) (.leave r (s.member s.w))) none) s

end Sys2Proof.Machine
end

