-- ==== Sys2Proof/Machine/Engine.lean ====
section
/-! DEFINITION. How an engine or the dispatch processor reaches memory: its own translation, pins, checks and bytes at the
point (R74, R76, R77, R80, R91 to R93 of spec/04_main_memory.md). -/

namespace Sys2Proof.Machine

/-- Who makes an engine transfer: the owner of its pins, its die, context and privilege, its package's index in its launch
(4096 with no launch) and the launch's number of chips. -/
structure Eng where
  owner : Nat
  die   : Nat
  ctx   : Nat
  priv  : Bool
  own   : Nat
  chips : Nat
deriving DecidableEq, Repr

/-- The engine identity of a wave's operation. -/
def State.engOf (s : State) (owner : Nat) (w : Wave) : Eng :=
  { owner := owner, die := dieOf w.core, ctx := w.ctx, priv := s.ctxPriv w.ctx, own := w.chip,
    chips := match s.launch? w.key with | some l => l.chips.length | none => 0 }

/-- The dispatch processor or firmware acting for a context: a hardware engine and no wave, so neither U = 0 nor class 3 stops it
(R80, R92). It has no launch: the peer window names no chip for it, not even this one (DESIGN CHOICE, log 49). -/
def engFor (owner ctx : Nat) : Eng := { owner := owner, die := 0, ctx := ctx, priv := true, own := 4096, chips := 0 }

/-- An engine acting for the waves of a context, with their privilege. -/
def State.engAs (s : State) (owner ctx : Nat) : Eng := { engFor owner ctx with priv := s.ctxPriv ctx }

/-- A piece of a transfer, resolved. -/
inductive EngLoc where
  | here (pa cls n : Nat)
  | peer (chip pa cls n : Nat)
deriving DecidableEq, Repr

/-- Split a range of addresses at the smallest pages' boundaries: address and length of each piece. -/
def pageSplit : Nat → DWord → Nat → List (DWord × Nat)
  | 0, _, _ => []
  | k + 1, va, n =>
    if n = 0 then []
    else
      let m := min n (2 ^ 16 - va.toNat % 2 ^ 16)
      (va, m) :: pageSplit k (va + BitVec.ofNat 64 m) (n - m)

/-- Translate for a transfer: under its pin if it has one, else now, and pin the whole page (R93). -/
def State.pinXlate (s : State) (e : Eng) (va : DWord) : Xl × State :=
  match s.m.pins.find? fun p => p.owner == e.owner && p.ctx == e.ctx && decide (p.va ≤ va.toNat ∧ va.toNat < p.va + p.size) with
  | some p => (.hit { pa := p.pa + (va.toNat - p.va), cls := p.cls % 4, u := natBit p.cls 2, x := false, w := natBit p.cls 3 }, s)
  | none =>
    match s.engXlate e.die e.ctx va with
    | (.hit h, s) =>
      let (base, size) := match s.tlbFind none e.die e.ctx va.toNat with | some x => (x.va, x.size) | none => (va.toNat, 1)
      let pin : Pin := { owner := e.owner, ctx := e.ctx, va := base, size := size, pa := h.pa - (va.toNat - base),
                         cls := h.cls + (if h.u then 4 else 0) + (if h.w then 8 else 0) }
      (.hit h, { s with m := { s.m with pins := pin :: s.m.pins } })
    | x => x

/-- Drop the pins of a transfer that has ended, or moved off its pages: those that hold none of some addresses. -/
def State.dropPins (s : State) (owner : Nat) (keep : List DWord) : State :=
  s.withM fun m => { m with pins := m.pins.filter fun p =>
    p.owner != owner || keep.any fun va => decide (p.va ≤ va.toNat ∧ va.toNat < p.va + p.size) }

/-- The check of R411 a translated address fails for an engine. While the link runs no CXL.cache nothing backs the host window (R374; log
43). -/
def State.engFault (s : State) (e : Eng) (write : Bool) (h : Hit) : Option (BitVec 16) :=
  let place := s.placeOf e.own h.pa
  let backed := match place with | .unbacked => false | .peer c _ => decide (c < e.chips) | .host _ => s.cxlUp | .hbm _ => true
  (accessFault backed e.priv (if write then .write else .read) 1 0 h).map (·.2)

/-- The detail word of R91 for a translation an engine failed: the level at which its walk ends, 7 where a TLB entry is found or the
walk succeeds. -/
def State.engDetail (s : State) (e : Eng) (lane : Nat) (kind : Kind) (va : DWord) : DWord :=
  if !canonicalVa va || (s.tlbFind none e.die e.ctx va.toNat).isSome then xlDetail lane kind 7
  else match (s.walk e.die e.ctx va.toNat).1 with
    | .fail level _ => xlDetail lane kind level
    | .leaf _ _ => xlDetail lane kind 7

/-- The piece of a translated address (R74). -/
def State.engPlace (s : State) (e : Eng) (h : Hit) (n : Nat) : EngLoc :=
  match s.placeOf e.own h.pa with
  | .hbm p => .here p h.cls n
  | .peer c lo => .peer c lo h.cls n
  | _ => .here h.pa h.cls n

/-- Resolve the pieces of a transfer: where they lie, or the first that faults with its code and address. -/
def State.engPieces (s : State) (e : Eng) (write : Bool) : List (DWord × Nat) → Sum (BitVec 16 × DWord) (List EngLoc) × State
  | [] => (.inr [], s)
  | (va, n) :: rest =>
    match s.pinXlate e va with
    | (.hit h, s) =>
      match s.engFault e write h with
      | some c => (.inl (c, va), s)
      | none => match s.engPieces e write rest with
        | (.inl x, s) => (.inl x, s)
        | (.inr ls, s) => (.inr (s.engPlace e h n :: ls), s)
    | (.fail _ c, s) => (.inl (c, va), s)
    | (.miss, s) => (.inl (0x0202, va), s)

/-- A piece that cannot be read or partly written: an unreadable sector or a key slot not loaded (R76, R362). -/
def State.engBad (s : State) (e : Eng) (write : Bool) : EngLoc → Option (BitVec 16 × DWord)
  | .peer _ _ _ _ => none
  | .here pa cls n =>
    let slot := s.slotFor e.ctx cls
    if decide (pa < 2 ^ 51) && !s.keyLoaded slot then some (0x0801, BitVec.ofNat 64 (pa / 256 * 256))
    else if !write then (if s.m.poisoned pa n then some (s.m.badCode pa n, BitVec.ofNat 64 (s.m.badSector pa n)) else none)
    else (s.m.poison.find? fun x => decide (sectorOf pa ≤ x ∧ x ≤ sectorOf (pa + n - 1)) &&
        !(decide (pa ≤ x * 256 ∧ x * 256 + 256 ≤ pa + n))).map fun x => (0x0502, BitVec.ofNat 64 (x * 256))

/-- Resolve a range for an engine, every check made (R91, R411). -/
def State.engResolve (s : State) (e : Eng) (write : Bool) (va : DWord) (n : Nat) : Sum (BitVec 16 × DWord) (List EngLoc) × State :=
  match s.engPieces e write (pageSplit (n / 2 ^ 16 + 2) va n) with
  | (.inl x, s) => (.inl x, s)
  | (.inr ls, s) => match ls.findSome? fun l => s.engBad e write l with
    | some x => (.inl x, if x.1 = 0x0511 then s.withM fun m => m.badRead x.2.toNat 1 else s)
    | none => (.inr ls, s)

/-- The bytes of resolved pieces, each read through its home slice. Those of another package are inputs the model does not hold: free
values (log 1). -/
def State.engBytes (s : State) (ctx : Nat) (ls : List EngLoc) (hint : Nat := 0) : List Byte × State :=
  let bs := ls.flatMap fun l => match l with
    | .here pa cls n => s.engRead (s.slotFor ctx cls) pa n
    | .peer c pa _ n => (List.range n).map fun i => Config.freeByte (s.free * 2 ^ 56 + c * 2 ^ 46 + pa + i)
  let pass (s : State) (l : EngLoc) : State := match l with
    | .here pa cls n => s.passSlices cls (s.slotFor ctx cls) (s.tenantOf ctx) hint false pa n
    | .peer _ _ _ _ => s
  let t := ls.foldl pass s
  (bs, { t with free := t.free + 1 })

/-- The classes of resolved pieces. -/
def EngLoc.cls : EngLoc → Nat
  | .here _ c _ => c
  | .peer _ _ c _ => c

/-- Send bytes to a peer as its write requests (R74). -/
def State.peerWrites (s : State) (whose : Option PeerFor) (ctx chip cls : Nat) : Nat → Nat → List Byte → State
  | 0, _, _ => s
  | k + 1, pa, bs =>
    if bs.isEmpty then s
    else
      let now := bs.take 16
      let r : PeerReq := { id := 0, src := 0, ctx := ctx, cls := cls, addr := pa, size := now.length,
                           write := some (BitVec.ofNat 128 (ofBytes now)), atomic := none, acq := false }
      (s.peerSend whose chip r).peerWrites whose ctx chip cls k (pa + 16) (bs.drop 16)

/-- The job chip number at an index of an engine's launch; the index itself without one. -/
def State.engChip (s : State) (chips : List Nat) (c : Nat) : Nat := nth s.pkg.chipNo chips c

/-- Write bytes to resolved pieces at their points. -/
def State.engStore (s : State) (ctx : Nat) (chips : List Nat) (ls : List EngLoc) (bs : List Byte) (hint : Nat := 0)
    (whose : Option PeerFor := none) : State :=
  match ls with
  | [] => s
  | .here pa cls n :: rest =>
    (s.engWrite (s.slotFor ctx cls) cls pa (bs.take n) (s.tenantOf ctx) hint whose).engStore ctx chips rest (bs.drop n) hint whose
  | .peer c pa cls n :: rest =>
    (s.peerWrites whose ctx (s.engChip chips c) cls (n / 16 + 1) pa (bs.take n)).engStore ctx chips rest (bs.drop n) hint whose

/-- The chips of a launch, for an engine's peer writes. -/
def State.launchChips (s : State) (k : LKey) : List Nat := match s.launch? k with | some l => l.chips | none => []

/-- The dispatch processor or firmware reads bytes for a context: their value, or the code and address. -/
def State.dpRead (s : State) (ctx : Nat) (va : DWord) (n : Nat) : Sum (BitVec 16 × DWord) (List Byte) × State :=
  let e := engFor 0 ctx
  match s.engResolve e false va n with
  | (.inl x, s) => (.inl x, s.dropPins 0 [])
  | (.inr ls, s) =>
    let (bs, s) := s.engBytes ctx ls
    (.inr bs, s.dropPins 0 [])

/-- The dispatch processor writes bytes for a context: the code and address where it cannot. -/
def State.dpWrite (s : State) (ctx : Nat) (va : DWord) (bs : List Byte) : Option (BitVec 16 × DWord) × State :=
  let e := engFor 0 ctx
  match s.engResolve e true va bs.length with
  | (.inl x, s) => (some x, s.dropPins 0 [])
  | (.inr ls, s) => (none, (s.engStore ctx [] ls bs).dropPins 0 [])

/-- A little-endian number the dispatch processor reads. -/
def State.dpNum (s : State) (ctx : Nat) (va : DWord) (n : Nat) : Sum (BitVec 16 × DWord) Nat × State :=
  match s.dpRead ctx va n with
  | (.inl x, s) => (.inl x, s)
  | (.inr bs, s) => (.inr (ofBytes bs), s)

/-- The engine that writes a counter, with the packages its peer window names: those of its launch, or without a launch the job's
own chip numbers (R74, R413; log 49). -/
def State.deviceEng (s : State) (ctx : Nat) (key : Option LKey) : Eng × List Nat :=
  match key.bind s.launch? with
  | some l => ({ engFor 0 ctx with own := l.index, chips := l.chips.length }, l.chips)
  | none => ({ engFor 0 ctx with own := s.pkg.chipNo, chips := 64 }, List.range 64)

/-- Write a u64 the device keeps for a context, from its old value (R413): one that cannot be written leaves one record,
and everything else stands; the answer says whether it was written. A word on another chip is changed there; one the host may hold is changed once the host has answered (R375). -/
def State.deviceWrite (s : State) (ctx engine : Nat) (key : Option LKey) (va : DWord) (add : Bool) (v : Nat) : Bool × State :=
  let fail (s : State) (c : BitVec 16) : Bool × State := (false, s.failNoWave (s.ctxRecord ctx key engine c va 0) key)
  let (e, chips) := s.deviceEng ctx key
  match s.engPieces e false (pageSplit 2 va 8) with
  | (.inl (c, _), s) => fail (s.dropPins 0 []) c
  | (.inr ls, s) =>
    if ls.any fun l => l.cls ≥ 2 then fail (s.dropPins 0 []) 0x0209
    else match s.engResolve e true va 8 with
    | (.inl (c, _), s) => fail (s.dropPins 0 []) c
    | (.inr ls, s) =>
      let s := s.dropPins 0 []
      match ls with
      | [.peer c pa cls _] =>
        (true, s.peerSend (some (.device ctx engine key va)) (s.engChip chips c)
          { id := 0, src := 0, ctx := ctx, cls := cls, addr := pa, size := 8,
            write := if add then none else some (BitVec.ofNat 128 v),
            atomic := if add then some (0, 3, [(BitVec.ofNat 128 v, 0)]) else none, acq := false })
      | [.here pa cls _] =>
        (true, s.engWrite (s.slotFor ctx cls) cls pa (natBytes 8 (v % 2 ^ 64)) (s.tenantOf ctx) 0 none add true)
      | _ =>
        let (bs, s) := s.engBytes ctx ls
        (true, s.engStore ctx chips ls (natBytes 8 (if add then (ofBytes bs + v) % 2 ^ 64 else v)))

/-- Write a u64 the device keeps, whether or not it can. -/
def State.deviceWord (s : State) (ctx engine : Nat) (key : Option LKey) (va : DWord) (add : Bool) (v : Nat) : State :=
  (s.deviceWrite ctx engine key va add v).2

/-- Increment a u64 counter as a release, the engines' work being complete (R124, R247, R270, R279); 0 is no counter. -/
def State.bump (s : State) (ctx engine : Nat) (key : Option LKey) (va : DWord) : State :=
  if va = 0 then s else s.deviceWord ctx engine key va true 1

end Sys2Proof.Machine
end

