-- ==== Sys2Proof/Machine/Copy.lean ====
section
/-! DEFINITION. The copy engine, stride patterns, queue instructions and completion objects (R85 to R87 of
spec/04_main_memory.md, R132 to R138 of spec/06_copy_engine.md, and the moves of R218 of spec/09_matrix_engine.md). -/

namespace Sys2Proof.Machine

/-! ### Ranges -/

/-- A scratchpad range an address word names, as core times 2^19 plus offset, or the code that refuses it (R133, R146). -/
def State.spRange (s : State) (w : Word) (n : Nat) : Sum (BitVec 16) Nat :=
  let off := w.toNat % 2 ^ 19
  let core := w.toNat / 2 ^ 19 % 256
  if field w.toNat 27 4 ≠ 0 then .inl 0x0621
  else if !w.getLsbD 31 then
    if core ≠ 0 ∨ off + n > s.w.k.scratch then .inl 0x0621 else .inr (s.spPlace w)
  else if !s.corePresent core then .inl 0x0110
  else if off + n > 2 ^ 19 ∨ s.spAllocated s.w.key core off n = false then .inl 0x0621
  else .inr (s.spPlace w)

/-- A completion object an address word names (R133). -/
def State.objRange (s : State) (w : Word) : Sum (BitVec 16) Nat :=
  match s.spRange w 16 with
  | .inl c => .inl c
  | .inr p => if p % 16 ≠ 0 then .inl 0x0624 else .inr p

/-! ### Stride patterns (R85 to R87) -/

/-- A stride pattern: element size, counts and strides. -/
structure Pattern where
  esize   : Nat
  counts  : List Nat
  strides : List Int

/-- The sector of a pattern entry that cannot be read, if it is so (R76, R86). -/
def State.patternBad (s : State) (ctx n : Nat) : Option Nat :=
  match s.ctx? ctx with
  | none => none
  | some c => let at_ := c.patBase.toNat + 64 * n; if s.m.poisoned at_ 64 then some (at_ / 256 * 256) else none

/-- A read of a pattern entry passes the home slice of its line (R81). -/
def State.patternPass (s : State) (ctx n : Nat) : State :=
  match s.ctx? ctx with
  | none => s
  | some c => s.sysPass (c.patBase.toNat + 64 * n) 64

/-- A pattern of the wave's context, as it reads now; none where it breaks R86. -/
def State.pattern (s : State) (ctx n : Nat) : Option Pattern :=
  match s.ctx? ctx with
  | none => none
  | some c =>
    let at_ := c.patBase.toNat + 64 * n
    let w0 := s.readPa 0 at_ 8
    let ndim := field w0 2 3
    let esize : Nat := 2 ^ (w0 % 4)
    let counts := (List.range 4).map fun d => s.readPa 0 (at_ + 0x10 + 4 * d) 4
    let strides := (List.range 4).map fun d => sext 64 (s.readPa 0 (at_ + 0x20 + 8 * d) 8)
    let used := counts.take ndim
    if natBit w0 63 && field w0 5 58 == 0 && decide (1 ≤ ndim ∧ ndim ≤ 4) && s.readPa 0 (at_ + 8) 8 == 0 &&
        (used.all fun x => decide (1 ≤ x ∧ x ≤ 2 ^ 24)) && ((counts.drop ndim).all (· == 0)) &&
        ((strides.drop ndim).all (· == 0)) && ((strides.take ndim).all fun x => x % (esize : Int) == 0) &&
        decide (used.foldl (· * ·) 1 ≤ 2 ^ 32) then
      some { esize := esize, counts := used, strides := strides.take ndim }
    else none

/-- The offset of element e from the base (R87). -/
def patOffset : Nat → List Nat → List Int → Int
  | e, c :: cs, x :: xs => ((e % c : Nat) : Int) * x + patOffset (e / c) cs xs
  | _, _, _ => 0

/-! ### Progress -/

/-- Put a copy. -/
def State.putCopy (s : State) (c : Copy) : State := { s with copies := updateFirst (fun x => x.id == c.id) (fun _ => c) s.copies }

/-- A packet's work is done, well or not: its end is the event of R124. Stage 2 is success, 3 failure. -/
def State.packetDone (s : State) (queue slot : Nat) (ok : Bool) : State :=
  let mark (p : Packet) : Packet := if p.stage = 3 then p else { p with stage := if ok then 2 else 3 }
  { s with queues := updateFirst (fun q => q.num == queue) (fun q =>
      { q with packets := updateFirst (fun p => p.slot == slot) mark q.packets }) s.queues }

/-- The objects a copy decrements: its own, or the one at the same offset of each core served (R133). -/
def Copy.objs (c : Copy) : List Nat :=
  match c.obj with
  | none => []
  | some p => if c.multi.isEmpty then [p] else c.multi.map fun at_ => at_ + p % 2 ^ 19 - match c.dst with | .sp _ off => off | _ => 0

/-- Decrement a copy's objects. One that no allocation of the launch covers, or covers any longer, is not changed: the copy's flag takes
0x0210 (R165, R279; for a core that `cpym` serves, log 29), with the offset as DETAIL (R135; log 29). Nor is one whose words cannot be read:
the flag takes 0x0512 (R148). -/
def State.copyMoved (s : State) (c : Copy) (n : Nat) (err : Bool) : State :=
  let fail (s : State) (code : BitVec 16) (p : Nat) : State :=
    match c.wave with
    | some (w, op) => s.opFail w op { engine := 1, code := code, addr := BitVec.ofNat 64 (2 ^ 31 + p), detail := BitVec.ofNat 64 c.off }
    | none => s
  c.objs.foldl (fun s p =>
    if !s.spAllocated c.launch (p / 2 ^ 19) (p % 2 ^ 19) 16 then fail s 0x0210 p
    else if s.m.spPoisoned p 16 then fail s 0x0512 p
    else s.objMoved c.ctx p n err) s

/-- A copy ends: its flag operation, or its packet (R128, R134). -/
def State.copyEnd (s : State) (c : Copy) (fail : Option Failure) : State :=
  let s := { s with copies := s.copies.filter fun x => x.id != c.id }.dropPins c.id []
  match c.wave, c.packet with
  | some (w, op), _ =>
    let s := match fail with | none => s | some x => s.opFail w op x
    s.finishOp w op [] 0 none
  | none, some (q, slot) =>
    let s := match fail with
      | none => s
      | some x => s.failNoWave (s.ctxRecord c.ctx none 8 x.code (if x.code = 0x0112 then s.openAddr else s.recAddr x.code x.addr) x.detail) none
    s.packetDone q slot fail.isNone
  | none, none => s

/-- A copy stops at a fault: its objects receive the rest as a decrement with ERR (R135). -/
def State.copyFail (s : State) (c : Copy) (code : BitVec 16) (addr detail : DWord) : State :=
  (s.copyMoved c (c.total - c.off) true).copyEnd c (some { engine := 1, code := code, addr := addr, detail := detail })

/-- The engine identity of a copy. A COPY packet has no launch: the peer window names no chip for it, not even this one (DESIGN CHOICE, log 49). -/
def State.copyEng (s : State) (c : Copy) : Eng :=
  let l := s.launch? c.launch
  { owner := c.id, die := if c.core < 256 then dieOf c.core else 0, ctx := c.ctx, priv := c.priv,
    own := match l with | some l => l.index | none => 4096, chips := match l with | some l => l.chips.length | none => 0 }

/-- The address of byte `off` of a memory side: rows `pitch` apart for accumulator moves. -/
def Copy.memAt (c : Copy) (va : DWord) : DWord :=
  if c.pitch = 0 then va + BitVec.ofNat 64 c.off else va + BitVec.ofNat 64 (c.off / 256 * c.pitch)

/-- The offset of byte `off` of a scratchpad side. -/
def Copy.spAt (c : Copy) (base : Nat) : Nat := if c.pitch = 0 then base + c.off else base + c.off / 256 * c.pitch

/-- The key of a word of the accumulator store. -/
def accKey (core row col : Nat) : Nat := core * 65536 + row * 64 + col

/-- The bytes of the next n bytes of a copy's source, or what stops it. -/
def State.copySrc (s : State) (c : Copy) (n : Nat) : Sum (BitVec 16 × DWord) (List Byte) × State :=
  match c.src with
  | .mem va =>
    match s.engResolve (s.copyEng c) false (c.memAt va) n with
    | (.inl x, s) => (.inl x, s)
    | (.inr ls, s) => let (bs, s) := s.engBytes c.ctx ls c.hint; (.inr bs, s)
  | .sp core off =>
    let pa := core * 2 ^ 19 + c.spAt off
    if !s.spAllocated c.launch core (c.spAt off) n then (.inl (0x0210, BitVec.ofNat 64 (2 ^ 31 + pa)), s)
    else if s.m.spPoisoned pa n then (.inl (0x0512, 0), s) else (.inr (cgetMany 0 s.m.sp pa n), s)
  | .acc core row =>
    (.inr ((List.range (n / 4)).flatMap fun i => natBytes 4 (cget 0 s.m.acc (accKey core (row + c.off / 256) i)).toNat), s)

/-- An engine acting for a context writes bytes to a core's scratchpad. -/
def State.spPut (s : State) (ctx pa : Nat) (bs : List Byte) : State :=
  (s.withM fun m => (m.dropPromos none true pa bs.length).spWrite pa bs).spWake ctx pa bs.length

/-- Write the next bytes of a copy to its destination, or what stops it before any is written (R135). -/
def State.copyDst (s : State) (c : Copy) (bs : List Byte) : Option (BitVec 16 × DWord) × State :=
  match c.dst with
  | .mem va =>
    match s.engResolve (s.copyEng c) true (c.memAt va) bs.length with
    | (.inl x, s) => (some x, s)
    | (.inr ls, s) => (none, s.engStore c.ctx (s.launchChips c.launch) ls bs c.hint (some (.copy c.id)))
  | .sp core off =>
    let places := if c.multi.isEmpty then [core * 2 ^ 19 + c.spAt off] else c.multi.map (· + c.off)
    match places.find? fun pa => !s.spAllocated c.launch (pa / 2 ^ 19) (pa % 2 ^ 19) bs.length with
    | some pa => (some (0x0210, BitVec.ofNat 64 (2 ^ 31 + pa)), s)
    | none => (none, places.foldl (fun s pa => s.spPut c.ctx pa bs) s)
  | .acc core row =>
    let words := (List.range (bs.length / 4)).map fun i => BitVec.ofNat 32 (ofBytes ((bs.drop (4 * i)).take 4))
    (none, s.withM fun m => { m with acc := csetMany 0 m.acc (accKey core (row + c.off / 256) 0) words })

/-- An address on each page of a memory side with bytes yet to move: both ends of every row of an accumulator move, else the next byte. -/
def Copy.rowsAhead (c : Copy) (va : DWord) : List DWord :=
  if c.pitch = 0 then [c.memAt va]
  else (List.range (c.total / 256 - c.off / 256)).flatMap fun i =>
    let row := va + BitVec.ofNat 64 ((c.off / 256 + i) * c.pitch)
    [row, row + 255]

/-- An address on each page of a copy's source that it has yet to read from: of every element to come of a stride pattern, of every
row to come of an accumulator move, else of the next byte (R93). -/
def Copy.srcAhead (c : Copy) (va : DWord) : List DWord :=
  match c.pat with
  | some (_, esize, counts, strides) =>
    (List.range (c.total / esize - c.off / esize)).map fun i => va + BitVec.ofInt 64 (patOffset (c.off / esize + i) counts strides)
  | none => c.rowsAhead va

/-- The pages a copy still needs pinned: those with bytes yet to move (R93). -/
def Copy.keeps (c : Copy) : List DWord :=
  (match c.src with | .mem va => c.srcAhead va | _ => []) ++ (match c.dst with | .mem va => c.rowsAhead va | _ => [])

/-- The bytes a copy has moved are at their points: the decrement, and the pins of pages it is done with go, all of them where it
suspends (R93, R133, R134, R136). -/
def State.copyLand (s : State) (c : Copy) (n : Nat) : State :=
  let c' := { c with off := c.off + n, moving := 0 }
  ((s.copyMoved c n false).putCopy c').dropPins c.id (if c.suspended then [] else c'.keeps)

/-- Bytes of a copy have gone out: they are at their points, or on their way to another package, whose answer the copy awaits (R134). -/
def State.copySent (s : State) (c : Copy) (n : Nat) : State :=
  if s.peerWaits (.copy c.id) then s.putCopy { c with moving := n } else s.copyLand c n

/-- The next element of a stride-pattern copy (R87): the first that does not translate to a readable page of class 0 or 1 ends the copy
with 0x0220, whose DETAIL is R87's pattern and element (log 29). Its read is Kettle-bound (R81); one that returns no data fails as
R76 has it. -/
def State.copyElem (s : State) (c : Copy) (pat esize : Nat) (counts : List Nat) (strides : List Int) : State :=
  let e := c.off / esize
  let fail (s : State) (va : DWord) : State := s.copyFail c 0x0220 va (BitVec.ofNat 64 (pat + e % 2 ^ 32 * 2 ^ 32))
  match c.src with
  | .mem base =>
    let va := base + BitVec.ofInt 64 (patOffset e counts strides)
    if va.toNat % esize ≠ 0 then fail s va
    else match s.engResolve (s.copyEng c) false va esize with
    | (.inl (code, a), s) =>
      if code = 0x0501 ∨ code = 0x0511 ∨ code = 0x0801 then s.copyFail c code a (BitVec.ofNat 64 c.off) else fail s va
    | (.inr ls, s) =>
      if ls.any fun l => l.cls ≥ 2 then fail s va
      else
        let (bs, s) := s.engBytes c.ctx (ls.map fun l => match l with | .here pa _ n => .here pa 1 n | x => x)
        match s.copyDst c bs with
        | (some (code, addr), s) => s.copyFail c code addr (BitVec.ofNat 64 c.off)
        | (none, s) => s.copySent c esize
  | _ => s

/-- The offset a fault of a copy reports (R135): in bytes, or in rows for an accumulator move. -/
def Copy.detail (c : Copy) : DWord := BitVec.ofNat 64 (if c.pitch = 0 then c.off else c.off / 256)

/-- The places of the 4-byte units of the next n bytes of a side of a copy: package or core, and address. -/
def State.unitPlaces (s : State) (c : Copy) (write : Bool) (n : Nat) : CEnd → List (Nat × Nat)
  | .mem va => match (s.engResolve (s.copyEng c) write (c.memAt va) n).1 with
    | .inl _ => []
    | .inr ls => ls.flatMap fun l => match l with
      | .here pa _ n => (List.range (n / 4)).map fun i => (0, pa + 4 * i)
      | .peer k pa _ n => (List.range (n / 4)).map fun i => (k + 1, pa + 4 * i)
  | .sp core off => (List.range (n / 4)).map fun i => (2 ^ 16 + core, c.spAt off + 4 * i)
  | .acc _ _ => []

/-- The units a group writes when they move one by one, ascending: a unit read from a place that an earlier one of the group has been
written to takes that one's bytes (R9, R133). -/
def ripple : List ((Nat × Nat) × (Nat × Nat)) → List Byte → List ((Nat × Nat) × List Byte) → List Byte
  | [], bs, _ => bs
  | (src, dst) :: rest, bs, done =>
    let unit := match done.find? fun x => x.1 == src with | some x => x.2 | none => bs.take 4
    unit ++ ripple rest (bs.drop 4) ((dst, unit) :: done)

/-- The bytes a group of a copy writes, from those its source held before it (R133). -/
def State.groupBytes (s : State) (c : Copy) (n : Nat) (bs : List Byte) : List Byte :=
  match c.src, c.dst with
  | .mem _, .mem _ => ripple ((s.unitPlaces c false n c.src).zip (s.unitPlaces c true n c.dst)) bs []
  | .sp _ _, .sp _ _ => ripple ((s.unitPlaces c false n c.src).zip (s.unitPlaces c true n c.dst)) bs []
  | _, _ => bs

/-- The next group of up to 256 bytes of a copy (R133). -/
def State.copyGroup (s : State) (c : Copy) : State :=
  let n := min (256 - c.off % 256) (c.total - c.off)
  match s.copySrc c n with
  | (.inl (code, addr), s) => s.copyFail c code addr c.detail
  | (.inr bs, s) =>
    match s.copyDst c (s.groupBytes c n bs) with
    | (some (code, addr), s) => s.copyFail c code addr c.detail
    | (none, s) => s.copySent c n

/-- A copy waits: it is suspended between groups, another package has not answered its writes, or accesses its core issued before it
have not been performed: its own wave's (R134, R147), and the other waves', which may happen before it at core scope (R335). -/
def State.copyWaits (s : State) (c : Copy) : Bool :=
  (c.suspended && c.moving == 0) || s.peerWaits (.copy c.id) || match c.wave with
    | none => false
    | some _ => s.m.port.any fun a => a.core == c.core && decide (a.id < c.after)

/-- A copy's next piece: what another package has answered for, an element, or a group. -/
def State.copyStep (s : State) (c : Copy) : State :=
  match c.peerFail with
  | some code => s.copyFail c code (match c.dst with | .mem va => c.memAt va | _ => 0) c.detail
  | none =>
    if c.moving ≠ 0 then s.copyLand c c.moving
    else if c.off ≥ c.total then s
    else match c.pat with
      | some (p, esize, counts, strides) => s.copyElem c p esize counts strides
      | none => s.copyGroup c

/-- `COPY_PROGRESS` (R133 to R135): the copy engine performs a group of units, or an element, with its decrement. -/
def execCopyProgress (id : Nat) (s : State) : Ans :=
  match s.copies.find? fun c => c.id == id with
  | none => .next s
  | some c =>
    if s.copyWaits c then .next s
    else
      let s := s.copyStep c
      match s.copies.find? fun c => c.id == id with
      | none => .next s
      | some c =>
        if c.off < c.total then .next s
        else .next (s.copyEnd c (if c.skipped then some { engine := 1, code := 0x0622, addr := 0, detail := 0 } else none))

/-! ### cpy, cpys, cpym -/

/-- CO of X (R132). -/
def coX (f : Fields) : Bool := f.x.getLsbD 5

/-- The count of a copy: a scalar, a constant from 0 to 47 or IMM32 (R132). -/
def countOk (k : Kernel) (f : Fields) (spec : BitVec 10) : Bool :=
  idxSrcOk k true f spec && match Opd.of spec with | .int x => decide (0 ≤ x) | _ => true

/-- The fields the three share; `dm` and `sm` say that D and A name memory. -/
def cpySpec (f : Fields) (dm sm : Bool) (xs : Fields → Bool) : Spec :=
  { minLen := 1, uni := .no4, long := true, ord := true, holdAhead := fun _ => true, useD := true, readD := true, useA := true,
    useB := true, useC := coX f, wD := fun _ => if dm then 2 else 1, wA := fun _ => if sm then 2 else 1, wB := fun _ => 1, wC := fun _ => 1,
    vals := fun f => if f.mod.toNat < 4 ∧ xs f = true then none else some 0x0103,
    ok := fun k f => sregOk k (if dm then 19 else 18) f.d && sregOk k (if sm then 19 else 18) f.a && countOk k f f.b &&
      (!coX f || sregOk k 18 f.c) }

/-- A side of a copy: memory by a pair, or a scratchpad range of n bytes. -/
def copySide (s : State) (f : Fields) (mem : Bool) (spec : BitVec 10) (n : Nat) : Sum (BitVec 16) CEnd :=
  if mem then
    let va := BitVec.ofNat 64 (srcVal s.w.r f 19 spec 0)
    if va.toNat % 4 ≠ 0 then .inl 0x0620 else .inr (.mem va)
  else
    let w : Word := BitVec.ofNat 32 (src32 s.w.r f spec 0)
    if w.toNat % 4 ≠ 0 then .inl 0x0620
    else match s.spRange w n with
    | .inl c => .inl c
    | .inr p => .inr (.sp (p / 2 ^ 19) (p % 2 ^ 19))

/-- The precise checks of a copy of n bytes (R133): its sides and its object, or the code that refuses it. The unit-absent check of the
words it reads comes first (R40 step 13, R349). -/
def copyChecks (s : State) (f : Fields) (dm sm : Bool) (n : Nat) : Sum (BitVec 16) (CEnd × CEnd × Option Nat) :=
  let aligned (r : Sum (BitVec 16) CEnd) : Bool := match r with | .inl c => c != 0x0620 | .inr _ => true
  let src := copySide s f sm f.a n
  let dst := copySide s f dm f.d n
  let word (spec : BitVec 10) : Word := BitVec.ofNat 32 (src32 s.w.r f spec 0)
  if (!sm && s.absentCore (word f.a)) || (!dm && s.absentCore (word f.d)) || (coX f && s.absentCore (word f.c)) then .inl 0x0110
  else if n % 4 ≠ 0 ∨ n > 2 ^ 32 - 4 ∨ aligned src = false ∨ aligned dst = false then .inl 0x0620
  else match src, dst with
  | .inl c, _ => .inl c
  | _, .inl c => .inl c
  | .inr a, .inr d =>
    if coX f then
      match s.objRange (BitVec.ofNat 32 (src32 s.w.r f f.c 0)) with
      | .inl c => .inl c
      | .inr p => .inr (a, d, some p)
    else .inr (a, d, none)

/-- A copy of the wave on the issue port. -/
def State.newCopy (s : State) (op : Nat) (src dst : CEnd) (total : Nat) (obj : Option Nat) (hint : Nat) : Copy :=
  { id := s.nextId, core := s.w.core, wave := some (s.w.uid, op), packet := none, ctx := s.w.ctx, priv := s.priv, src := src,
    dst := dst, pitch := 0, multi := [], skipped := false, pat := none, total := total, off := 0, obj := obj, hint := hint,
    launch := s.w.key, after := s.nextId, suspended := false, moving := 0, peerFail := none }

/-- Add a copy, or complete one of no bytes at once (R133). -/
def State.addCopy (s : State) (c : Copy) : State :=
  if c.total = 0 then match c.wave with | some (w, op) => s.finishOp w op [] 0 none | none => s
  else { s with nextId := s.nextId + 1, copies := s.copies ++ [c] }

/-- A core runs 16 copies at once (R134). -/
def State.copyFull (s : State) : Bool := decide ((s.copies.filter fun c => c.core == s.w.core && c.wave.isSome).length ≥ 16)

/-- `cpy` (R132 to R135). -/
def execCpy (f : Fields) (s : State) : Ans :=
  let dir := f.x.toNat % 4
  let dm := dir = 1 ∨ dir = 2
  let sm := dir = 0 ∨ dir = 2
  run (cpySpec f dm sm fun f => f.x.toNat &&& 0x23 == f.x.toNat) (.cpy f) f
    (fun _ s =>
      let n := src32 s.w.r f f.b 0
      match copyChecks s f dm sm n with
      | .inl c => .trap c s.pc (instrLow (.cpy f))
      | .inr (a, d, obj) =>
        if s.copyFull then .stall s
        else
          let (op, s) := s.startOp f false false
          .ok (s.addCopy (s.newCopy op a d n obj (f.mod.toNat % 4))) none) s

/-- The fields of `cpys`. -/
def cpysSpec (f : Fields) : Spec :=
  { cpySpec f false true (fun f => f.x.getLsbD 11 == false && f.x.toNat % 32 == 0) with
    late := fun s _ => if s.pkg.cap.sgather then none else some 0x0112 }

/-- `cpys` (R87, R132, R133): the pattern is read as the copy starts. With an invalid entry, whose element size the spec does not give, the
precise checks take 4 bytes an element (log 29). -/
def execCpys (f : Fields) (s : State) : Ans :=
  let p := (f.x.extractLsb' 6 5).toNat
  run (cpysSpec f) (.cpys f) f
    (fun _ s =>
      let n := src32 s.w.r f f.b 0
      let bad := s.patternBad s.w.ctx p
      let s := s.patternPass s.w.ctx p
      let pat := s.pattern s.w.ctx p
      let size := match pat with | some x => x.esize | none => 4
      match copyChecks s f false true (n * size) with
      | .inl c => .trap c s.pc (instrLow (.cpys f))
      | .inr (a, d, obj) =>
        if s.copyFull then .stall s
        else
          let (op, s) := s.startOp f false false
          let c := s.newCopy op a d (n * size) obj (f.mod.toNat % 4)
          if n = 0 then .ok (s.addCopy c) none
          else match bad, pat with
          | some sec, _ => .ok ({ s with nextId := s.nextId + 1 }.copyFail c 0x0501 (BitVec.ofNat 64 sec) 0) none
          | none, none => .ok ({ s with nextId := s.nextId + 1 }.copyFail c 0x0221 0 0) none
          | none, some x =>
            if n > x.counts.foldl (· * ·) 1 then .ok ({ s with nextId := s.nextId + 1 }.copyFail c 0x0221 0 0) none
            else .ok (s.addCopy { c with pat := some (p, x.esize, x.counts, x.strides) }) none) s

/-- `cpym` (R132, R133, R145): the same offset in every core of a set. -/
def execCpym (f : Fields) (s : State) : Ans :=
  let scope := f.x.toNat % 32
  run (cpySpec f false true fun f => decide (f.x.toNat < 64) && f.x.toNat % 32 != 2 && f.x.toNat % 32 != 3) (.cpym f) f
    (fun _ s =>
      let n := src32 s.w.r f f.b 0
      let word (spec : BitVec 10) : Word := BitVec.ofNat 32 (src32 s.w.r f spec 0)
      if s.absentCore (word f.d) || (coX f && s.absentCore (word f.c)) then .trap 0x0110 s.pc (instrLow (.cpym f))
      else if !s.scopeValid s.w.ctx scope then .trap 0x0121 s.pc (instrLow (.cpym f))
      else match copyChecks s f false true n with
      | .inl c => .trap c s.pc (instrLow (.cpym f))
      | .inr (a, d, obj) =>
        if s.copyFull then .stall s
        else
          let off := match d with | .sp _ o => o | _ => 0
          let set := (List.range 256).filter fun k => s.corePresent k && s.scopeCovers s.w.ctx scope s.w.core k
          let serve := set.filter fun k => s.spAllocated s.w.key k off n
          let (op, s) := s.startOp f false false
          let c := { s.newCopy op a d n obj (f.mod.toNat % 4) with multi := serve.map (· * 2 ^ 19 + off), skipped := serve.length != set.length }
          .ok (if serve.isEmpty && n != 0 then
              { s with nextId := s.nextId + 1 }.copyEnd c (some { engine := 1, code := 0x0622, addr := 0, detail := 0 })
            else s.addCopy c) none) s

/-! ### qclaim and qpost -/

/-- Translate a queue address and check its class (R137): 0x0623 for one the instruction does not take. -/
def queueAddr (s : State) (i : Instr) (kind : Kind) (va : DWord) (ok : Nat → Bool) : Located :=
  match xlateLanes s .read 1 [(0, va)] with
  | .fault c a d => .fault c a d
  | .wait s => .wait s
  | .ok hs =>
    if hs.any fun h => !ok h.2.2.cls then .fault 0x0623 s.pc (instrLow i)
    else memLocate s kind 8 [(0, va)]

/-- The fields of `qclaim`; any constant is a count, one out of range 0x0103 (R30, R137). -/
def qclaimSpec : Spec :=
  { uni := .no4, long := true, ord := true, holdAhead := fun _ => true, useD := true, useA := true, useB := true,
    wA := fun _ => 2, wB := fun _ => 1,
    vals := fun f => if f.mod = 0 ∧ f.x.toNat < 32 then none else some 0x0103,
    ok := fun k f => pairOk k f.d && pairOk k f.a && scalarOk k f f.b }

/-- `qclaim` (R137): an atomic add at the Kettle. -/
def execQclaim (f : Fields) (s : State) : Ans :=
  let scope := f.x.toNat % 32
  run qclaimSpec (.qclaim f) f
    (fun _ s =>
      let n := src32 s.w.r f f.b 0
      let va : DWord := BitVec.ofNat 64 (srcVal s.w.r f 19 f.a 0)
      if n = 0 ∨ n > 16 then .trap 0x0103 s.pc (instrLow (.qclaim f))
      else if !s.scopeValid s.w.ctx scope then .trap 0x0121 s.pc (instrLow (.qclaim f))
      else match queueAddr s (.qclaim f) .atomic va (· == 1) with
      | .fault c a d => .trap c a d
      | .wait s => .stall s
      | .ok ls =>
        let (op, s) := s.startOp f false true
        let s := ls.foldl (fun s l => s.pushAcc { s.newAcc op false l 8 (.atomic 0 3 1) with
          parts := [{ lane := 0, data := BitVec.ofNat 128 n, cmp := 0 }], dst := dstOf f.d, scope := scope }) s
        .ok (s.closeOp op) none) s

/-- A store of 8 bytes by the wave at an offset from a resolved place. -/
def State.store8 (s : State) (op : Nat) (l : Loc) (off v : Nat) : Acc :=
  { s.newAcc op false { l with pa := l.pa + off, va := l.va + BitVec.ofNat 64 off } 8 .store with
    parts := [{ lane := 0, data := BitVec.ofNat 128 v, cmp := 0 }] }

/-- The fields of `qpost`. -/
def qpostSpec : Spec :=
  { minLen := 1, uni := .no4, long := true, ord := true, holdAhead := fun _ => true, useA := true, useB := true, useC := true,
    wA := fun _ => 2, wB := fun _ => 2, wC := fun _ => 16,
    vals := fun f => if f.mod = 0 ∧ f.x.toNat < 32 then none else some 0x0103,
    ok := fun k f => pairOk k f.a && pairOk k f.b && (match Opd.of f.c with | .s n => groupOk n 16 k.sregs | _ => false) }

/-- `qpost` (R125, R137): the payload, then the header with the claimed index, as a release. -/
def execQpost (f : Fields) (s : State) : Ans :=
  let scope := f.x.toNat % 32
  run qpostSpec (.qpost f) f
    (fun _ s =>
      let va : DWord := BitVec.ofNat 64 (srcVal s.w.r f 19 f.a 0)
      let base := match Opd.of f.c with | .s n => n | _ => 0
      if !s.scopeValid s.w.ctx scope then .trap 0x0121 s.pc (instrLow (.qpost f))
      else if va.toNat % 64 ≠ 0 then .trap 0x0623 s.pc (instrLow (.qpost f))
      else match queueAddr s (.qpost f) .write va (fun c => decide (c ≤ 1)) with
      | .fault c a d => .trap c a d
      | .wait s => .stall s
      | .ok ls =>
        let hdr := (s.w.r.pair base).toNat % 2 ^ 16 + srcVal s.w.r f 19 f.b 0 % 2 ^ 48 * 2 ^ 16
        let (op, s) := s.startOp f false false
        let s := ls.foldl (fun s l =>
          let s := (List.range 7).foldl (fun s i => s.issueStore (s.store8 op l (8 + 8 * i) (s.w.r.pair (base + 2 + 2 * i)).toNat)) s
          s.issueStore { s.store8 op l 0 hdr with rel := true, scope := scope }) s
        .ok (s.closeOp op) none) s

/-! ### Completion-object instructions (R138) -/

/-- The fields they share; `d` the destinations accepted. B is a scalar or any constant (R28, R30). -/
def objSpec (xs : Nat) (d : Option (Kernel → BitVec 10 → Bool)) : Spec :=
  { uni := .no4, long := true, ord := true, holdAhead := fun _ => true, useD := d.isSome, useA := true, useB := true,
    wA := fun _ => 1, wB := fun _ => 1,
    vals := fun f => if f.mod = 0 ∧ f.x.toNat < xs then none else some 0x0103,
    ok := fun k f => sregOk k 18 f.a && scalarOk k f f.b && (match d with | some p => p k f.d | none => true) }

/-- The effect they share: `opn` of R138, a limit on B, and whether it acquires or releases. -/
def objEff (i : Instr) (f : Fields) (opn : Nat) (limit : Bool) (acq rel : Bool) (_ : Nat) (s : State) : Try :=
  let b := src32 s.w.r f f.b 0
  let w : Word := BitVec.ofNat 32 (src32 s.w.r f f.a 0)
  if s.absentCore w then .trap 0x0110 s.pc (instrLow i)
  else if limit ∧ (b = 0 ∨ b > 65535) then .trap 0x0103 s.pc (instrLow i)
  else if opn = 0 ∧ s.scopeValid s.w.ctx (f.x.toNat % 32) = false then .trap 0x0121 s.pc (instrLow i)
  else match s.objRange w with
  | .inl c => .trap c s.pc (instrLow i)
  | .inr p =>
    let (op, s) := s.startOp f acq false
    let l : Loc := { lane := 0, va := w.setWidth 64, pa := p, peer := none, cls := 0 }
    .ok (s.pushAcc { s.newAcc op true l 16 (.obj opn b) with
      parts := [{ lane := 0, data := 0, cmp := 0 }], dst := if opn = 1 ∨ opn = 3 then dstOf f.d else none, rel := rel,
      scope := f.x.toNat % 32 }) none

/-- `cinit` (R138). -/
def execCinit (f : Fields) (s : State) : Ans := run (objSpec 32 none) (.cinit f) f (objEff (.cinit f) f 0 true false false) s

/-- `carr` (R130, R138). -/
def execCarr (f : Fields) (s : State) : Ans :=
  run (objSpec 1 (some fun k d => sregOrNull k 18 d)) (.carr f) f (objEff (.carr f) f 1 true false true) s

/-- `cexp` (R138). -/
def execCexp (f : Fields) (s : State) : Ans := run (objSpec 1 none) (.cexp f) f (objEff (.cexp f) f 2 false false false) s

/-- `cwait` (R131, R138). -/
def execCwait (f : Fields) (s : State) : Ans := run (objSpec 1 none) (.cwait f) f (objEff (.cwait f) f 4 false true false) s

/-- `ctest` (R138, R139). -/
def execCtest (f : Fields) (s : State) : Ans :=
  run (objSpec 1 (some fun k d => sregOk k 18 d)) (.ctest f) f (objEff (.ctest f) f 3 false true false) s

/-! ### accld and accst (R218) -/

/-- The first physical row of the wave's window, if its quad has one (R204, R206). -/
def State.window (s : State) (w : Wave) : Option Nat :=
  match s.team? w.team with
  | none => none
  | some t => (t.wins.drop w.quad).head?.map (256 * ·)

/-- A wave outside every declared quad is refused as an operand is (R204). -/
def inQuad (s : State) (_ : Fields) : Option (BitVec 16) := if s.w.quad < s.w.k.quads then none else some 0x0107

/-- The fields `accld` and `accst` share (R218). -/
def accMoveSpec (f : Fields) : Spec :=
  let sp := f.x.getLsbD 0
  { minLen := 1, uni := .no4, long := true, ord := true, holdAhead := fun _ => true, ty := fun t => t == 18, useA := true, useB := true,
    useC := true, useImm := true, wA := fun _ => if sp then 1 else 2, wB := fun _ => 1, wC := fun _ => 1, late := inQuad,
    vals := fun f => if f.x.toNat < 2 ∧ (if sp then f.mod = 0 else f.mod.toNat < 4) ∧ f.imm.toNat % 4 = 0 ∧ 4 ≤ f.imm.toNat ∧
        f.imm.toNat ≤ 2 ^ 20 then none else some 0x0103,
    ok := fun k f => sregOk k (if sp then 18 else 19) f.a && numSrcOk k f.b && numSrcOk k f.c }

/-- The check of R146 that a row of 256 bytes in scratchpad fails, and the address word of the part that fails. -/
def State.spRowFault (s : State) (w : Word) (d : Nat) : Option (BitVec 16 × Word) :=
  let w' := w + BitVec.ofNat 32 d
  if s.absentCore w then some (0x0110, w)
  else if w.toNat % 2 ^ 19 + d + 256 > 2 ^ 19 then some (0x0210, w')
  else match s.spFault 4 w' with
  | some (_, c) => some (c, w')
  | none => (s.spFault 4 (w' + 252)).map fun (_, c) => (c, w' + 252)

/-- The effect of `accld` and `accst` (R218). -/
def accMoveEff (i : Instr) (f : Fields) (load : Bool) (_ : Nat) (s : State) : Try :=
  let sp := f.x.getLsbD 0
  let n := src32 s.w.r f f.c 0
  let row := src32 s.w.r f f.b 0
  let pitch := f.imm.toNat
  let low := instrLow i
  if sp && s.absentCore (BitVec.ofNat 32 (src32 s.w.r f f.a 0)) then .trap 0x0110 s.pc low
  else if n = 0 ∨ n > 256 then .trap 0x0103 s.pc low
  else if row + n > 256 then .trap 0x0137 s.pc low
  else
    let win := (s.window s.w).getD 0
    let word : Word := BitVec.ofNat 32 (src32 s.w.r f f.a 0)
    let va : DWord := BitVec.ofNat 64 (srcVal s.w.r f 19 f.a 0)
    let fault : Option (BitVec 16 × DWord × DWord) :=
      if sp then (((List.range n).filterMap fun r => s.spRowFault word (r * pitch)).head?).map fun (c, w) =>
        if c = 0x0110 then (c, s.pc, low) else (c, w.setWidth 64, xlDetail 0 (if load then .read else .write) 7)
      else if va.toNat % 4 ≠ 0 then some (0x0620, s.pc, low) else none
    match fault with
    | some (c, a, d) => .trap c a d
    | none =>
      let x : CEnd := if sp then .sp (s.spPlace word / 2 ^ 19) (s.spPlace word % 2 ^ 19) else .mem va
      if s.copyFull then .stall s
      else
        let (op, s) := s.startOp f false load
        let acc : CEnd := .acc s.w.core (win + row)
        let c := s.newCopy op (if load then x else acc) (if load then acc else x) (256 * n) none (f.mod.toNat % 4)
        .ok (s.addCopy { c with pitch := pitch }) none

/-- `accld` (R218). -/
def execAccld (f : Fields) (s : State) : Ans := run (accMoveSpec f) (.accld f) f (accMoveEff (.accld f) f true) s

/-- `accst` (R218). -/
def execAccst (f : Fields) (s : State) : Ans := run (accMoveSpec f) (.accst f) f (accMoveEff (.accst f) f false) s

end Sys2Proof.Machine
end

