-- ==== Sys2Proof/Machine/Disp.lean ====
section
/-! DEFINITION. Queues and packets (R123 to R128 and R414 of spec/06_copy_engine.md). -/

namespace Sys2Proof.Machine

/-! ### Queues -/

/-- A registered queue. -/
def State.queue? (s : State) (n : Nat) : Option Queue := s.queues.find? fun q => q.num == n

/-- Change a queue. -/
def State.mapQueue (s : State) (n : Nat) (f : Queue → Queue) : State :=
  { s with queues := updateFirst (fun q => q.num == n) f s.queues }

/-- The address of slot index j. -/
def Queue.slotVa (q : Queue) (j : Nat) : DWord := q.ring + BitVec.ofNat 64 (64 * (j % 2 ^ q.log2))

/-- A word of a packet. -/
def word (ws : List DWord) (i : Nat) : Nat := (nth 0 ws i).toNat

/-- Eight words from 64 bytes. -/
def dwords (bs : List Byte) : List DWord := (List.range (bs.length / 8)).map fun i => BitVec.ofNat 64 (ofBytes ((bs.drop (8 * i)).take 8))

/-- A packet's TYPE, SCOPE and COMPL (R124). -/
def Packet.type (p : Packet) : Nat := word p.words 0 % 256
def Packet.scope (p : Packet) : Nat := field (word p.words 0) 11 5
def Packet.compl (p : Packet) : DWord := nth 0 p.words 1

/-- The bits of each payload word a packet type reserves (R128, R277, R280, R269), words 2 to 7. -/
def reservedBits (type : Nat) : List Nat :=
  let all := 2 ^ 64 - 1
  match type with
  | 0 => [all, all, all, all, all, all]
  | 1 => [0, 0, 0, 0, all - 0x7F, all]
  | 2 => [0, 0, 0, all - 0x39F, all, all]
  | 3 => [0, all - 0x100001FFF, all - 0xFFFFFFFF, all, all, all]
  | 4 => [0, 0, 0, all - 7, all, all]
  | 5 => [0, 0, all - 1, all, all, all]
  | 6 => [0, all - 0xF, all, all, all, all]
  | _ => []

/-- A value of a defined field that its table does not allow (R128, R280). -/
def badValue (ws : List DWord) : Bool :=
  match word ws 0 % 256 with
  | 2 => word ws 4 == 0 || decide (word ws 4 > 2 ^ 40) || word ws 4 % 4 != 0
  | 3 => word ws 2 % 128 != 0 || word ws 3 % 2 ^ 13 == 0 || decide (word ws 3 % 2 ^ 13 > 4096)
  | 4 => word ws 2 % 8 != 0 || decide (word ws 5 % 8 > 3)
  | 5 => word ws 2 % 8 != 0
  | _ => false

/-- A taken packet is malformed (R127). -/
def malformed (ws : List DWord) : Bool :=
  decide (word ws 0 % 256 > 6) || field (word ws 0) 8 2 != 0 || word ws 1 % 8 != 0 ||
    ((reservedBits (word ws 0 % 256)).zipIdx.any fun (m, i) => word ws (i + 2) &&& m != 0) || badValue ws

/-- A record of the dispatch processor about a packet, its action not enacted: the packet has failed (R127, R288). -/
def State.packetRecord (s : State) (ctx : Nat) (code : BitVec 16) (addr : DWord) (detail : Nat) : State :=
  (s.record (s.ctxRecord ctx none 8 code addr (BitVec.ofNat 64 detail))).2

/-- A queue's access for slot j faults: one record for the slot (R414). -/
def State.queueFault (s : State) (q : Queue) (j : Nat) (code : BitVec 16) (addr : DWord) : State :=
  let s := if q.fault = some j then s else s.failNoWave (s.ctxRecord q.ctx none 8 code addr (BitVec.ofNat 64 j)) none
  s.mapQueue q.num fun q => { q with fault := some j, reread := some s.clock }

/-- Write RIDX (R126). -/
def State.writeRidx (s : State) (q : Queue) (j : Nat) : State :=
  match s.dpWrite q.ctx q.ridx (natBytes 8 (j + 1)) with
  | (none, s) => s.mapQueue q.num fun q => { q with fault := none, reread := none }
  | (some (c, a), s) => s.queueFault q j c a

/-- What a slot's stamp says of slot index j (R126, R127): 0 taken, 1 the producer has overrun it, 2 not yet posted. Stamps are taken modulo
2^48, and one is ahead of j by k ring sizes only while the difference is below 2^47 (DESIGN CHOICE, log 52). -/
def stampCase (log2 stamp j : Nat) : Nat :=
  let d := (stamp + 2 ^ 48 - j % 2 ^ 48) % 2 ^ 48
  if d = 0 then 0 else if d < 2 ^ 47 ∧ d % 2 ^ log2 = 0 then 1 else 2

/-- Read a graph's node table: bytes of a class 0 or class 1 page (R280). -/
def State.readNodes (s : State) (ctx : Nat) (va : DWord) (n : Nat) : Sum (BitVec 16 × DWord) (List Byte) × State :=
  match s.engResolve (engFor 0 ctx) false va n with
  | (.inl x, s) => (.inl x, s.dropPins 0 [])
  | (.inr ls, s) =>
    let s := s.dropPins 0 []
    if ls.any fun l => l.cls ≥ 2 then (.inl (0x0209, va), s) else let (bs, s) := s.engBytes ctx ls; (.inr bs, s)

/-- A packet as it is taken: the node table of a graph is read now, once (R280). -/
def State.takePacket (s : State) (ctx queue slot : Nat) (ws : List DWord) : Packet × State :=
  let p : Packet := { queue := queue, slot := slot, words := ws, stage := 0, table := none, dropped := [] }
  if p.type = 3 then let (t, s) := s.readNodes ctx (nth 0 ws 2) (128 * (word ws 3 % 2 ^ 13)); ({ p with table := some t }, s) else (p, s)

/-- WIDX as the dispatch processor reads it (R126): at its Kettle, or through the queue's context where it lies outside this chip's HBM. -/
def State.widxNow (s : State) (q : Queue) : Sum (BitVec 16 × DWord) Nat × State :=
  if q.widxPa < s.hbmBytes then (.inr (s.readPa (s.slotFor q.ctx 1) q.widxPa 8), s) else s.dpNum q.ctx q.widx 8

/-- Read the slot a queue is at, and take it if it is posted (R126, R127, R414). -/
def State.readSlot (s : State) (q : Queue) : State :=
  let j := q.next
  let va := q.slotVa j
  match s.widxNow q with
  | (.inl (c, a), s) => s.queueFault q j c a
  | (.inr w, s) =>
  if w ≤ j then s.mapQueue q.num fun q => { q with looking := false }
  else match s.dpRead q.ctx va 64 with
  | (.inl (c, a), s) => s.queueFault q j c a
  | (.inr bs, s) =>
    let ws := dwords bs
    let (turn, s) := s.fresh
    let s := s.mapQueue q.num fun q => { q with fault := none, served := turn }
    match stampCase q.log2 (word ws 0 / 2 ^ 16) j with
    | 0 =>
      let bad := malformed ws
      let (p, s) := if bad then (none, s) else let (p, s) := s.takePacket q.ctx q.num j ws; (some p, s)
      let s := s.mapQueue q.num fun q => { q with next := j + 1, reread := none, packets := q.packets ++ p.toList }
      let s := if bad then s.packetRecord q.ctx 0x0601 va j else s
      s.writeRidx q j
    | 1 =>
      let s := s.mapQueue q.num fun q => { q with stopped := true }
      s.failNoWave (s.ctxRecord q.ctx none 8 0x0602 va (BitVec.ofNat 64 j)) none
    | _ => s.mapQueue q.num fun q => { q with reread := some s.clock }

/-- The dispatch processor serves a queue: told of it, not stopped, not being unregistered. -/
def Queue.open (q : Queue) : Bool := !q.stopped && !q.unreg

/-- `WATCH_SIGNAL` (R126): the watch unit tells the dispatch processor of a queue whose WIDX was written. -/
def execWatchSignal (queue : Nat) (s : State) : Ans :=
  .next (s.mapQueue queue fun q => if q.signalled then { q with signalled := false, looking := true } else q)

/-- `SLOT_TAKE` (R126): the next slot of a queue is read. -/
def execSlotTake (queue : Nat) (s : State) : Ans :=
  match s.queue? queue with
  | none => .next s
  | some q => .next (if q.open && q.looking && q.reread.isNone && q.fault.isNone then s.readSlot q else s)

/-- `SLOT_REREAD` (R126): a slot not yet stamped is read again. -/
def execSlotReread (queue : Nat) (s : State) : Ans :=
  match s.queue? queue with
  | none => .next s
  | some q => .next (if q.open && q.looking && q.reread.isSome && q.fault.isNone then s.readSlot q else s)

/-- `QUEUE_ACCESS_RETRY` (R414): the failed access of a queue is made again. -/
def execQueueAccessRetry (queue : Nat) (s : State) : Ans :=
  match s.queue? queue with
  | none => .next s
  | some q => match q.fault with
    | none => .next s
    | some j => .next (if j < q.next && !q.stopped then s.writeRidx q (q.next - 1) else if q.open then s.readSlot q else s)

/-! ### Packets (R128) -/

/-- A packet of a queue that has been taken and not removed. -/
def State.packet? (s : State) (queue slot : Nat) : Option (Queue × Packet) :=
  match s.queue? queue with
  | none => none
  | some q => (q.packets.find? fun p => p.slot == slot).map fun p => (q, p)

/-- A context takes no further work: it is stopped for pre-emption or its job is ending (R363, R286). -/
def State.ctxHeld (s : State) (ctx : Nat) : Bool := match s.ctx? ctx with | none => true | some c => c.stopped || c.ending || c.restoring.isSome

/-- A packet may begin (R124, R128): those before it have begun, and are complete if it waits for them. -/
def State.mayBegin (s : State) (q : Queue) (p : Packet) : Bool :=
  let before := q.packets.takeWhile fun x => x.slot != p.slot
  let waits := natBit (word p.words 0) 10 || p.type == 4 || p.type == 5
  p.stage == 0 && !s.ctxHeld q.ctx && (if waits then before.isEmpty else before.all fun x => x.stage != 0)

/-- A packet of a type that may begin. -/
def State.ready (s : State) (queue slot type : Nat) : Option (Queue × Packet) :=
  match s.packet? queue slot with
  | none => none
  | some (q, p) => if p.type = type && s.mayBegin q p then some (q, p) else none

/-- Give a packet its stage. -/
def State.stagePacket (s : State) (queue slot stage : Nat) : State :=
  s.mapQueue queue fun q => { q with packets := updateFirst (fun p => p.slot == slot) (fun p => { p with stage := stage }) q.packets }

/-- `NOP_PACKET` (R128): complete at once. -/
def execNopPacket (queue slot : Nat) (s : State) : Ans :=
  match s.ready queue slot 0 with
  | none => .next s
  | some _ => .next (s.packetDone queue slot true)

/-- The condition of a WAIT packet (R128). -/
def waitHolds (ws : List DWord) (v : Nat) : Bool :=
  let x := v &&& word ws 4
  let y := word ws 3
  match word ws 5 % 8 with | 0 => x == y | 1 => x != y | 2 => decide (x ≥ y) | _ => decide (x < y)

/-- Read a WAIT packet's word, as an acquire at SCOPE (R128, R336): a release kept at core scope is first promoted. -/
def State.waitRead (s : State) (q : Queue) (p : Packet) : State :=
  let va := nth 0 p.words 2
  match s.engResolve (engFor 0 q.ctx) false va 8 with
  | (.inl (c, a), s) =>
    let s := s.dropPins 0 []
    (s.failNoWave (s.ctxRecord q.ctx none 8 c (s.recAddr c a) (s.recDetail c (s.engDetail (engFor 0 q.ctx) 0 .read a))) none).packetDone q.num p.slot false
  | (.inr ls, s) =>
    let s := s.dropPins 0 []
    let hold := match ls with
      | [.here pa _ n] => s.promoAt q.ctx p.scope 256 false pa n
      | _ => none
    match hold with
    | some r => if s.m.promoReqs.any fun x => x.sp == r.sp && x.loc == r.loc && x.core == r.core then s else s.askPromo r none
    | none =>
      let (bs, s) := s.engBytes q.ctx ls
      if waitHolds p.words (ofBytes bs) then s.packetDone q.num p.slot true else s

/-- `WAIT_PACKET` (R128). -/
def execWaitPacket (queue slot : Nat) (s : State) : Ans :=
  match s.ready queue slot 4 with
  | none => .next s
  | some (q, p) => .next ((s.stagePacket queue slot 1).waitRead q p)

/-- `WAIT_PACKET_REREAD` (R128). -/
def execWaitPacketReread (queue slot : Nat) (s : State) : Ans :=
  match s.packet? queue slot with
  | none => .next s
  | some (q, p) => .next (if p.type = 4 ∧ p.stage = 1 then s.waitRead q p else s)

/-- `SIGNAL_PACKET` (R128, R413): a write or an atomic add, every earlier packet being complete. -/
def execSignalPacket (queue slot : Nat) (s : State) : Ans :=
  match s.ready queue slot 5 with
  | none => .next s
  | some (q, p) =>
    let (ok, s) := s.deviceWrite q.ctx 8 none (nth 0 p.words 2) (natBit (word p.words 4) 0) (word p.words 3)
    .next (s.packetDone queue slot ok)

/-- `COPY_PACKET` (R85 to R87, R128): a copy of memory to memory, its pattern read as it starts. BYTES that is no multiple of ESIZE, or more
than the pattern's elements, raises 0x0221; the copy reaches memory with its context's privilege (DESIGN CHOICE, log 53). -/
def execCopyPacket (queue slot : Nat) (s : State) : Ans :=
  match s.ready queue slot 2 with
  | none => .next s
  | some (q, p) =>
    let s := s.stagePacket queue slot 1
    let w5 := word p.words 5
    let n := w5 % 32
    let total := word p.words 4
    let c : Copy := { id := s.nextId, core := 256, wave := none, packet := some (queue, slot), ctx := q.ctx, priv := s.ctxPriv q.ctx,
                      src := .mem (nth 0 p.words 2), dst := .mem (nth 0 p.words 3), pitch := 0, multi := [], skipped := false, pat := none,
                      total := total, off := 0, obj := none, hint := field w5 8 2, launch := LKey.none, after := 0, suspended := false, moving := 0,
                      peerFail := none }
    let s := { s with nextId := s.nextId + 1 }
    let fail (code : BitVec 16) : Ans := .next (s.copyFail c code 0 0)
    if natBit w5 7 then
      if !s.pkg.cap.sgather then fail 0x0112
      else
      let bad := s.patternBad q.ctx n
      let s := s.patternPass q.ctx n
      match bad, s.pattern q.ctx n with
      | some sec, _ => .next (s.copyFail c 0x0501 (BitVec.ofNat 64 sec) 0)
      | none, none => .next (s.copyFail c 0x0221 0 0)
      | none, some x =>
        if total % x.esize ≠ 0 ∨ total / x.esize > x.counts.foldl (· * ·) 1 then .next (s.copyFail c 0x0221 0 0)
        else .next { s with copies := s.copies ++ [{ c with pat := some (n, x.esize, x.counts, x.strides) }] }
    else .next { s with copies := s.copies ++ [c] }

end Sys2Proof.Machine
end

