-- ==== Sys2Proof/Machine/Priv.lean ====
section
/-! DEFINITION. Traps by instruction, the return from a handler, retirement of operations, `esig` and `pmset` (R39, R286, R297, R351 to
R354 and R366 to R370 of spec/17_faults.md). -/

namespace Sys2Proof.Machine

/-! ### Words that are no instruction -/

/-- A decode trap of a word that is no instruction (R39, R40). -/
def State.trapWord (s : State) (code : BitVec 16) (word : DWord) : State :=
  if s.w.status ≠ .run ∨ s.w.preempted then s.waits else s.trapAt code s.pc word (actionOf code)

/-- `ALL_ZERO_WORD` (R24): 0x010C. -/
def execAllZeroWord (s : State) : Ans := .next (s.trapWord 0x010C 0)

/-- `RESERVED_OP` (R36), and a word with LEN = 3 (R17), which is checked first. -/
def execReservedOp (word : DWord) (s : State) : Ans :=
  .next (s.trapWord (if Len.ofCode (word.extractLsb' 0 2) = none then 0x0102 else 0x0101) word)

/-! ### trap, bkpt, halt -/

/-- The fields the instructions of R367 share: a limit on X, and what they read and write. -/
def trapSpec (xs : Nat → Bool) (useD useA : Bool) : Spec :=
  { uni := .no4, holdAhead := fun _ => true, useD := useD, useA := useA, wA := fun _ => 2,
    vals := fun f => if f.mod = 0 ∧ xs f.x.toNat = true then none else some 0x0103,
    ok := fun k f => (!useD || sregOk k 18 f.d) && (!useA || pairOk k f.a) }

/-- `trap n` (R367). -/
def execTrap (f : Fields) (s : State) : Ans :=
  run (trapSpec (fun x => decide (x < 1024)) false false) (.trap f) f (fun _ s => .trap 0x0140 s.pc (f.x.setWidth 64)) s

/-- `bkpt tag` (R367). -/
def execBkpt (f : Fields) (s : State) : Ans :=
  run (trapSpec (fun _ => true) false false) (.bkpt f) f (fun _ s => .trap 0x0143 s.pc (f.x.setWidth 64)) s

/-- The fields of `halt`. -/
def haltSpec : Spec :=
  { trapSpec (fun x => x == 0) false false with priv := true }

/-- `halt` (R367): the wave parks after this instruction. -/
def execHalt (f : Fields) (s : State) : Ans :=
  run haltSpec (.halt f) f
    (fun _ s => .ok (s.withW fun w => { w with status := .halted }) none) s

/-! ### The trap frame and rte -/

/-- A 32-bit item of the trap frame (R352). -/
def Frame.item (fr : Frame) (i : Nat) : Word :=
  match i with
  | 0 => fr.word0
  | 1 => fr.addr.setWidth 32
  | 2 => fr.addr.extractLsb' 32 32
  | 3 => fr.detail.setWidth 32
  | 4 => fr.detail.extractLsb' 32 32
  | 5 => fr.xpc.setWidth 32
  | 6 => fr.xpc.extractLsb' 32 32
  | 7 => fr.em.setWidth 32
  | 8 => fr.em.extractLsb' 32 32
  | _ => fr.seqNo

/-- The fields of `trap.rd d, item`. -/
def trapRdSpec : Spec :=
  { trapSpec (fun x => decide (1024 ≤ x ∧ x < 1034)) true false with minLen := 1 }

/-- `trap.rd d, item` (R352, R367). -/
def execTrapRd (f : Fields) (s : State) : Ans :=
  run trapRdSpec (.trapRd f) f
    (fun slot s =>
      match s.w.frame with
      | none => .trap 0x0141 s.pc (instrLow (.trapRd f))
      | some fr => .ok (s.result slot 1 (dstWr 18 f.d 0 (fr.item (f.x.toNat % 16)).toNat)) none) s

/-- Leave handler mode: the frozen control state resumes with the trapping arm at `pc` (R367). Lanes that ended in the
handler stay ended, and the handler's flag bank is the trapping arm's (R351). -/
def Wave.leaveHandler (w : Wave) (fr : Frame) (pc : DWord) : Wave :=
  let live := fr.ctl.live &&& w.r.ctl.live
  { w with
    frame := none
    ops := w.ops.map (Op.leave fr.ctl.arm.taken)
    r := { w.r with ctl :=
      { fr.ctl with
        live := live
        arm := { fr.ctl.arm with
          pc := pc, em := fr.ctl.arm.em &&& live, errs := w.r.ctl.arm.errs, free := true, done := none, stalled := false }
        other := fr.ctl.other.map fun o => { o with em := o.em &&& live, free := true, stalled := false } } } }

/-- What the length of the instruction at an address is read as for a skip (R354). -/
inductive SkipLen where
  | refused
  | wait (s : State)
  | ok (n : Nat) (s : State)

/-- The length of the instruction at an address, from its LEN field (R354). -/
def State.skipLen (s : State) (va : DWord) : SkipLen :=
  match s.iread va with
  | .fault _ _ _ => .refused
  | .bad _ _ _ => .refused
  | .wait s => .wait s
  | .ok bs s => match Len.ofCode ((bs.headD 0).extractLsb' 0 2) with | none => .refused | some l => .ok l.bytes s

/-- The effect of an `rte` that goes to `to`, or on from XPC when there is none; `skip` passes the instruction there (R367). -/
def rteEff (i : Instr) (skip : Bool) (dest : State → Option DWord) (_ : Nat) (s : State) : Try :=
  match s.w.frame with
  | none => .trap 0x0141 s.pc (instrLow i)
  | some fr =>
    if fr.code = 0x0630 then .moved (s.killWave s.w.uid)
    else match dest s with
    | some t => if t.toNat % 4 ≠ 0 then .trap 0x0109 s.pc (blockEnd s.pc) else .moved (s.withW fun w => w.leaveHandler fr t)
    | none =>
      if skip ∨ fr.code = 0x0143 then
        match s.skipLen fr.xpc with
        | .refused => .trap 0x0102 s.pc (instrLow i)
        | .wait s => .stall s
        | .ok n s => .moved (s.withW fun w => w.leaveHandler fr (fr.xpc + BitVec.ofNat 64 n))
      else .moved (s.withW fun w => w.leaveHandler fr fr.xpc)

/-- `rte` and `rte.retry` (R367): for a `bkpt` it continues after it, as skip does (R354). -/
def execRteRetry (f : Fields) (s : State) : Ans :=
  run (trapSpec (fun x => decide (x < 4)) false false) (.rteRetry f) f (rteEff (.rteRetry f) false fun _ => none) s

/-- `rte.skip` (R354, R367). -/
def execRteSkip (f : Fields) (s : State) : Ans :=
  run (trapSpec (fun x => decide (x < 4)) false false) (.rteSkip f) f (rteEff (.rteSkip f) true fun _ => none) s

/-- `rte.to` (R367). -/
def execRteTo (f : Fields) (s : State) : Ans :=
  run (trapSpec (fun x => decide (x < 4)) false true) (.rteTo f) f
    (rteEff (.rteTo f) false fun s => some (BitVec.ofNat 64 (srcVal s.w.r f 19 f.a 0))) s

/-- `rte.end` (R367): the wave ends as KILL-WAVE ends it. -/
def execRteEnd (f : Fields) (s : State) : Ans :=
  run (trapSpec (fun x => decide (x < 4)) false false) (.rteEnd f) f
    (fun _ s => match s.w.frame with
      | none => .trap 0x0141 s.pc (instrLow (.rteEnd f))
      | some _ => .moved (s.killWave s.w.uid)) s

/-! ### Taking a trap at a boundary -/

/-- The cancel trap is delivered to the wave on the issue port (R286, R351, R353): it abandons a run-ahead, and runs its
handler with the cancel's record in the frame, or ends. -/
def State.takeCancel (s : State) (r : Record) (seqNo : Word) : State :=
  let s := (s.abandon s.w.uid).withW fun w => { w with cancel := none }
  let s := (s.dropFaults s.w.uid).unsleep s.w.uid
  if s.w.frame.isSome ∨ s.w.k.trapOff = 0 then s.killWave s.w.uid
  else (s.excludeSets s.w.uid).enterHandler r seqNo

/-- `TRAP_TAKE` (R351): a wave takes a trap at its boundary. The cancel trap is the one it has pending; with none pending
there is none to take. -/
def execTrapTake (w : Nat) (code : BitVec 16) (addr detail : DWord) (s : State) : Ans :=
  let s := s.select w
  if s.w.uid ≠ w ∨ s.w.status = .ended ∨ s.w.preempted then .next s
  else if code = 0x0630 then
    match s.w.cancel with
    | none => .next s
    | some (r, n) => .next (s.takeCancel r n)
  else .next (s.trapBy code addr detail)

/-! ### Retirement (R297) -/

/-- The engine gives up what it held for an operation of a wave (R207). -/
def State.releaseBlock (s : State) (w : Wave) (op : Nat) : State :=
  match s.engine? w.core with
  | none => s
  | some e =>
    let hits := (e.plan.filter fun b => b.ops.contains (w.uid, op)).flatMap fun b => b.hit.filter fun x => x.1 == w.uid
    let plan := (e.plan.map fun b => { b with ops := b.ops.filter (· != (w.uid, op)) }).filter fun b => !b.ops.isEmpty
    ({ s with engines := assign w.core { e with plan := plan } s.engines }).freeHits hits

/-- The short results of a wave that are due by now reach its registers, and those its checkpoint still awaits reach that (R295, R322). -/
def State.ripen (s : State) (x : Wave) : State :=
  let slot := s.clock / 4
  (s.touchHeld x ((x.r.ripe slot).flatMap (·.wrs))).mapWave x.uid fun x => { x with
    r := x.r.settle slot, ahead := x.ahead.map fun a => { a with ckpt := a.ckpt.settle slot } }

/-- `OPERATION_RETIRE` (R297): the oldest operation of a flag that has finished retires. Its results replace those of short instructions that
could be read before (R296). -/
def execOperationRetire (w flag : Nat) (s : State) : Ans :=
  match s.wave w with
  | none => .next s
  | some x =>
    match retirable flag [] x.ops with
    | none => .next s
    | some o =>
      let s := ((s.ripen x).touchHeld x o.wrs).mapWave w fun x => x.retire o
      .next (if o.eng then s.releaseBlock x o.id else s)

/-! ### esig and pmset -/

/-- The fields of `esig`. -/
def esigSpec : Spec :=
  { minLen := 1, priv := true, long := true, ord := true, uni := .no4, holdAhead := fun _ => true, useA := true, useB := true,
    useC := true, wA := fun _ => 1, wB := fun _ => 2, wC := fun _ => 2,
    vals := fun f => if f.mod = 0 ∧ f.x.toNat < 6 then none else some 0x0103,
    ok := fun k f => sregOk k 18 f.a && pairOk k f.b && pairOk k f.c }

/-- `esig` (R368): a record whose action is never enacted. -/
def execEsig (f : Fields) (s : State) : Ans :=
  run esigSpec (.esig f) f
    (fun _ s =>
      let code : BitVec 16 := BitVec.ofNat 16 (src32 s.w.r f f.a 0)
      if code.toNat < 0xF000 then .trap 0x0103 s.pc (instrLow (.esig f))
      else
        let r := { s.waveRecord s.w 0 false code (BitVec.ofNat 64 (srcVal s.w.r f 19 f.b 0)) (BitVec.ofNat 64 (srcVal s.w.r f 19 f.c 0)) 0 with
                   action := f.x.toNat }
        let (_, s) := s.record r
        .ok (s.longDone f [] 0) none) s

/-- The weight of an energy class (R290). -/
def energyWeight (n : Nat) : Nat := nth 16 [1, 2, 3, 4, 6, 8, 12, 16] n

/-- A team is resident and has not ended (R279). -/
def State.teamLive (s : State) (t : Team) : Bool := s.waves.any fun w => w.team == t.uid && w.status != .ended

/-- USED of a core (R290, R291). -/
def State.used (s : State) (core : Nat) : Nat :=
  ((s.teams.filter fun t => t.core == core && s.teamLive t).map fun t => energyWeight t.k.energy).foldl (· + ·) 0

/-- BUDGET of a core (R290). -/
def State.budget (s : State) (core : Nat) : Nat := (lookup s.budgets core).getD 48

/-- CPWRCTL of a core (R290). -/
def State.cpwrctl (s : State) (core : Nat) : Nat := s.used core * 2 ^ 16 + s.budget core

/-- Write BUDGET: a value below 16 is ignored (R290). -/
def State.setBudget (s : State) (core v : Nat) : State :=
  if v % 256 < 16 ∨ !s.corePresent core then s else { s with budgets := assign core (v % 256) s.budgets }

/-- The fields of `pmset` (R369). -/
def pmsetSpec (read : Bool) : Spec :=
  { priv := true, uni := .no4, holdAhead := fun _ => true, useD := read, useA := true, useB := !read, wA := fun _ => 1, wB := fun _ => 1,
    vals := fun f => if f.mod = 0 ∧ f.x.toNat < 2 then none else some 0x0103,
    ok := fun k f => sregOk k 18 f.a && (if read then sregOk k 18 f.d else numSrcOk k f.b) }

/-- `pmset.budget` (R369). -/
def execPmsetBudget (f : Fields) (s : State) : Ans :=
  run (pmsetSpec false) (.pmsetBudget f) f
    (fun _ s =>
      let core := src32 s.w.r f f.a 0
      let v := src32 s.w.r f f.b 0
      if !s.corePresent core then .trap 0x0110 s.pc (instrLow (.pmsetBudget f))
      else if v < 16 ∨ v > 255 then .trap 0x0146 s.pc (instrLow (.pmsetBudget f))
      else .ok (s.setBudget core v) none) s

/-- `pmset.read` (R369). -/
def execPmsetRead (f : Fields) (s : State) : Ans :=
  run (pmsetSpec true) (.pmsetRead f) f
    (fun slot s =>
      let core := src32 s.w.r f f.a 0
      if !s.corePresent core then .trap 0x0110 s.pc (instrLow (.pmsetRead f))
      else .ok (s.result slot 1 (dstWr 18 f.d 0 (s.cpwrctl core))) none) s

/-- The power manager puts a core's BUDGET (R370). -/
def execBudgetRaise (core : Nat) (budget : BitVec 8) (s : State) : Ans :=
  .next (if s.budget core ≤ budget.toNat then s.setBudget core budget.toNat else s)

/-- `BUDGET_LOWER` (R370): a lower BUDGET, with a record of 0x0701 that names the core and the new value. -/
def execBudgetLower (core : Nat) (budget : BitVec 8) (s : State) : Ans :=
  if s.corePresent core ∧ 16 ≤ budget.toNat ∧ budget.toNat < s.budget core then
    let s := s.setBudget core budget.toNat
    .next (s.failNoWave (s.bareRecord 11 0x0701 s.openAddr (BitVec.ofNat 64 (core + budget.toNat * 2 ^ 8))) none)
  else .next s

end Sys2Proof.Machine
end

