-- ==== Sys2Proof/Machine/Launch.lean ====
section
/-! DEFINITION. Launches, admission, retirement, graphs and phases (R51, R52 of spec/02_encoding.md, R142, R143 of
spec/07_core_storage.md, R206 of spec/09_matrix_engine.md, R263, R264 of spec/12_fabric.md, R275 to R288 of
spec/13_execution_model.md, R289 to R292 of spec/14_scheduling.md). -/

namespace Sys2Proof.Machine

/-! ### Kernel headers (R51, R52) -/

/-- A kernel header's fields. -/
def Kernel.ofBytes (hdr : DWord) (bs : List Byte) : Kernel :=
  let n (at_ size : Nat) : Nat := Sys2Proof.ofBytes ((bs.drop at_).take size)
  { hdr := hdr, flags := n 6 2, vregs := n 8 2, sregs := n 0xA 2, scratch := n 0xC 4, waves := n 0x10 1, energy := n 0x11 1,
    quads := n 0x12 1, gridMask := n 0x13 1, msetMask := n 0x14 2, robjMask := n 0x18 8, fpmode := n 0x20 4,
    trapOff := n 0x24 4, codeSize := n 0x28 4 }

/-- The byte offset of the first header field that breaks R51. -/
def Kernel.bad (bs : List Byte) : Option Nat :=
  let n (at_ size : Nat) : Nat := Sys2Proof.ofBytes ((bs.drop at_).take size)
  let k := Kernel.ofBytes 0 bs
  if n 0 4 ≠ 0x4B4E4C44 then some 0
  else if n 4 2 ≠ 1 then some 4
  else if k.flags > 1 then some 6
  else if k.vregs < 8 ∨ k.vregs > 256 ∨ k.vregs % 8 ≠ 0 then some 8
  else if k.sregs < 8 ∨ k.sregs > 384 ∨ k.sregs % 8 ≠ 0 then some 0xA
  else if k.scratch > 524288 ∨ k.scratch % 256 ≠ 0 then some 0xC
  else if k.waves < 1 ∨ k.waves > 16 then some 0x10
  else if k.energy > 7 then some 0x11
  else if k.quads > 4 ∨ k.quads > k.waves / 4 then some 0x12
  else if n 0x16 2 ≠ 0 then some 0x16
  else if k.fpmode > 1 then some 0x20
  else if k.trapOff % 4 ≠ 0 ∨ (k.trapOff ≠ 0 ∧ k.trapOff ≥ k.codeSize) then some 0x24
  else if k.codeSize = 0 ∨ k.codeSize % 4 ≠ 0 then some 0x28
  else ((List.range 20).find? fun i => nth 0 (bs.drop 0x2C) i != 0).map fun _ => 0x2C

/-- The co-resident flag of a header (R51, R283). -/
def Kernel.coresident (k : Kernel) : Bool := natBit k.flags 0

/-! ### Fitting a team on a core (R142, R206, R290, R291) -/

/-- The teams resident on a core. -/
def State.teamsOn (s : State) (core : Nat) : List Team := s.teams.filter fun t => t.core == core

/-- The free wave slots of a core, ascending. -/
def State.freeSlots (s : State) (core : Nat) : List Nat :=
  (List.range 128).filter fun n => !(s.waves.any fun w => w.uid != 0 && w.core == core && w.slot == n)

/-- The free accumulator windows of a core. -/
def State.freeWins (s : State) (core : Nat) : List Nat :=
  (List.range 4).filter fun n => !((s.teamsOn core).any fun t => t.wins.contains n)

/-- A scratchpad allocation that overlaps no other of a core: the lowest (R142). -/
def State.freeScratch (s : State) (core size : Nat) : Option Nat :=
  let ts := (s.teamsOn core).filter fun t => t.k.scratch != 0
  let clear (b : Nat) : Bool := decide (b + size ≤ 524288) && ts.all fun t => decide (b + size ≤ t.base ∨ t.base + t.k.scratch ≤ b)
  if size = 0 then some 0 else leastBy id ((0 :: ts.map fun t => t.base + t.k.scratch).filter clear)

/-- What a team of a kernel would get on a core, if the core can admit it (R142, R206, R291): slots, base and windows. -/
def State.fits (s : State) (k : Kernel) (core : Nat) : Option (List Nat × Nat × List Nat) :=
  let slots := s.freeSlots core
  let wins := s.freeWins core
  let held := ((s.teamsOn core).map fun t => t.k.waves * t.k.vregs).foldl (· + ·) 0
  if !s.corePresent core ∨ held + k.waves * k.vregs > 6144 ∨ slots.length < k.waves ∨ wins.length < k.quads ∨
      s.used core + energyWeight k.energy > s.budget core then none
  else (s.freeScratch core k.scratch).map fun b => (slots.take k.waves, b, wins.take k.quads)

/-- The teams of a kernel that an empty core holds, its BUDGET counted (R283). -/
def State.capacity (s : State) (k : Kernel) (core : Nat) : Nat :=
  if !s.corePresent core then 0
  else
    let by_ (have_ each : Nat) : Nat := if each = 0 then 128 else have_ / each
    min (min (by_ 6144 (k.waves * k.vregs)) (by_ 128 k.waves))
      (min (by_ 524288 k.scratch) (min (by_ 4 k.quads) (by_ (s.budget core) (energyWeight k.energy))))

/-! ### Starting and failing a launch (R263, R264, R277) -/

/-- T of a launch (R277). -/
def Launch.total (l : Launch) : Nat := l.gx * l.gy * l.gz

/-- The number of teams a launch has on this chip (R278). -/
def Launch.mine (l : Launch) : Nat := if l.index ≥ l.chips.length then 0 else (l.total + l.chips.length - 1 - l.index) / l.chips.length

/-- The number of them it has yet to admit. -/
def Launch.left (l : Launch) : Nat := if l.next ≥ l.total then 0 else (l.total + l.chips.length - 1 - l.next) / l.chips.length

/-- A launch counts as in progress on a chip (R289): one of the chip's own from its beginning, a copy of another chip's once the chip has
arrived at its start barrier. -/
def Launch.counts (l : Launch) (me : Nat) : Bool := l.stage == 1 || (l.stage == 0 && (l.key.chip == me || l.k.isSome))

/-- A node of a graph has ended, well or not (R280, R281). -/
def State.nodeRetired (s : State) (key : LKey) (ok : Bool) : State :=
  match key.node, s.graphs.find? fun g => g.queue == key.queue && g.slot == key.slot with
  | some n, some g =>
    let mark (x : GNode) (i : Nat) : GNode := if i = n then { x with stage := 2 } else x
    let nodes := g.nodes.zipIdx.map fun (x, i) => mark x i
    let s : State := { s with graphs := updateFirst (fun x => x.id == g.id) (fun x => { x with nodes := nodes }) s.graphs }
    let s := if ok then match nth none (nodes.map fun x => some x) n with
      | some x => s.bump g.ctx 8 (some key) (nth 0 x.words 1)
      | none => s
      else s
    if nodes.all fun x => x.stage == 2 then
      ({ s with graphs := s.graphs.filter fun x => x.id != g.id }).packetDone g.queue g.slot true
    else s
  | _, _ => s

/-- A launch's packet, or its node, ends at the consuming chip. -/
def State.launchEnds (s : State) (key : LKey) (ok : Bool) : State :=
  match key.node with
  | none => s.packetDone key.queue key.slot ok
  | some _ => s.nodeRetired key ok

/-- The record of a launch's failure on this chip (R264, R281): a graph records its first only. The launch is over: of
the actions only one wider than it has something left to do (R354). -/
def State.failRecord (s : State) (key : LKey) (ctx : Nat) (code : BitVec 16) (addr : DWord) (detail : Nat) : State :=
  let r := s.ctxRecord ctx (some key) 8 code addr (BitVec.ofNat 64 detail)
  let write (s : State) : State := if r.action = 2 then (s.record r).2 else s.failNoWave r (some key)
  if key.chip = s.pkg.chipNo ∧ key.node.isSome then
    match s.graphs.find? fun g => g.queue == key.queue && g.slot == key.slot with
    | none => write s
    | some g => if g.failed then s
      else { write s with graphs := updateFirst (fun x => x.id == g.id) (fun x => { x with failed := true }) s.graphs }
  else write s

/-- A launch fails on this chip before any team of it runs (R264). `finder` is the chip that found the cause. -/
def State.failLaunch (s : State) (key : LKey) (code : BitVec 16) (addr : DWord) (detail finder : Nat) : State :=
  match s.launch? key with
  | none => s
  | some l =>
    if l.stage ≠ 0 then s
    else
      let me := s.pkg.chipNo
      let s := s.failRecord key l.ctx code (if finder = me then addr else 0) (if finder = me then detail else finder % 4096)
      let s := s.mapLaunch key fun l => { l with stage := 3 }
      if key.chip = me then
        let s := (l.chips.filter fun c => c != me && c != finder).foldl (fun s c => s.send c (.launchFail key code.toNat finder)) s
        s.launchEnds key false
      else if finder = me then s.send key.chip (.launchFail key code.toNat finder)
      else s

/-- The words a copy of a launch carries: its packet's eight, the slot's address, the queue's priority, the phase of a graph's node plus
one, and the chips (R263). -/
def launchWords (ws : List DWord) (slot : DWord) (prio : Nat) (phase : Option Nat) (chips : List Nat) : List DWord :=
  ws.take 8 ++ [slot, BitVec.ofNat 64 prio, match phase with | some p => BitVec.ofNat 64 (p + 1) | none => 0] ++
    chips.map fun c => BitVec.ofNat 64 c

/-- A launch as a chip first holds it (R263). -/
def State.newLaunch (s : State) (key : LKey) (ctx : Nat) (words : List DWord) (gen : Word) : Launch :=
  let chips := (words.drop 11).map fun w => w.toNat
  let index := chips.findIdx fun c => c == s.pkg.chipNo
  let w4 := word words 4
  { key := key, ctx := ctx, prio := word words 9, k := none, karg := nth 0 words 3, gx := w4 % 2 ^ 32, gy := field w4 32 16, gz := field w4 48 16,
    chips := chips, index := index, gen := gen, stage := 0, arrived := [], seqNo := 0, next := index, live := 0, retired := [],
    scope := field (word words 0) 11 5, compl := nth 0 words 1, since := s.clock, order := 0, overWeight := false, firstAdmitted := [],
    overdue := false, hdr := nth 0 words 2, slotVa := nth 0 words 8,
    phase := if word words 10 = 0 then none else some (word words 10 - 1), cancelled := false }

/-- Hold a new launch, in place of an old one of the same name. -/
def State.addLaunch (s : State) (l : Launch) : State :=
  ({ s with launches := (s.launches.filter fun (x : Launch) => x.key != l.key) ++ [l] }).mapCtx l.ctx fun c =>
    { c with setHomes := c.setHomes.filter (fun h => h.ref.key != some l.key), outcomes := c.outcomes.filter fun o => o.ref.key != some l.key }

/-- What a LAUNCH payload breaks of R277, its chip list read: true for a breach. -/
def payloadBad (ws : List DWord) (chips : List Nat) (waves : Nat) : Bool :=
  let w4 := word ws 4
  let t := w4 % 2 ^ 32 * field w4 32 16 * field w4 48 16
  let nch := word ws 6
  t == 0 || word ws 2 % 64 != 0 || nch == 0 || decide (nch > 64) || decide (nch > t) || decide (t * waves > 2 ^ 32) || word ws 7 != 0 ||
    word ws 5 % 2 != 0 || (word ws 5 == 0 && nch != 1) || decide (chips.eraseDups.length ≠ chips.length)

/-- A chip number a launch may name: in the context's job and reached by a route. -/
def State.reaches (s : State) (chip : Nat) : Bool := decide (chip < 4096) && s.routed chip

/-- Begin a launch at the consuming chip (R263, R277): checks, replication, and this chip's own copy. -/
def State.beginLaunch (s : State) (key : LKey) (ctx prio : Nat) (phase : Option Nat) (ws : List DWord) (slotVa : DWord) : State :=
  let nch := word ws 6
  let bad (s : State) : State := (s.failRecord key ctx 0x0614 slotVa key.slot).launchEnds key false
  let gen := match s.ctx? ctx with | some c => c.gen | none => 0
  if payloadBad ws [] 0 then bad s
  else
    let (cl, s) : Sum (BitVec 16 × DWord) (List Byte) × State :=
      if word ws 5 = 0 then (.inr (natBytes 2 s.pkg.chipNo), s) else s.dpRead ctx (nth 0 ws 5) (2 * nch)
    match cl with
    | .inl (c, a) => (s.failRecord key ctx c (s.recAddr c a) (s.recDetail c (s.engDetail (engFor 0 ctx) 0 .read a)).toNat).launchEnds key false
    | .inr bs =>
      let chips := (List.range nch).map fun i => ofBytes ((bs.drop (2 * i)).take 2)
      let (hd, s) := s.dpRead ctx (nth 0 ws 2) 64
      let waves := match hd with | .inr h => (Kernel.ofBytes 0 h).waves | .inl _ => 0
      if payloadBad ws chips waves then bad s
      else
        let words := launchWords ws slotVa prio phase chips
        let s := s.addLaunch (s.newLaunch key ctx words gen)
        match chips.find? fun c => !s.reaches c with
        | some _ => s.failLaunch key 0x0411 s.openAddr s.openDetail.toNat s.pkg.chipNo
        | none => (chips.filter fun c => c != s.pkg.chipNo).foldl (fun s c => s.send c (.launch key ctx words gen)) s

/-- A copy of a launch reaches a listed chip (R263, R264). -/
def State.launchCopy (s : State) (key : LKey) (ctx : Nat) (words : List DWord) (gen : Word) : State :=
  let s := s.addLaunch (s.newLaunch key ctx words gen)
  match s.ctx? ctx with
  | none => s.failLaunch key 0x0411 s.openAddr s.openDetail.toNat s.pkg.chipNo
  | some c => if c.gen = gen then s else s.failLaunch key 0x0410 s.openAddr s.openDetail.toNat s.pkg.chipNo

/-- The launches in progress on this chip (R289). -/
def State.inProgress (s : State) : Nat := (s.launches.filter fun l => l.counts s.pkg.chipNo).length

/-- Another chip's launch waits here to begin (R289). -/
def State.copyWaiting (s : State) (l : Launch) : Bool :=
  l.stage == 0 && l.k.isNone && decide (l.index < l.chips.length) && !l.counts s.pkg.chipNo && !s.ctxHeld l.ctx

/-- A launch of a priority may begin: a place is left beside those that wait with a higher one (R285, R289). -/
def State.placeFor (s : State) (prio : Nat) : Bool :=
  decide (s.inProgress + (s.launches.filter fun l => s.copyWaiting l && decide (l.prio > prio)).length < 256)

/-- `LAUNCH_PACKET` (R263, R277, R289). -/
def execLaunchPacket (queue slot : Nat) (s : State) : Ans :=
  match s.ready queue slot 1 with
  | none => .next s
  | some (q, p) =>
    if !s.placeFor q.prio then .next s
    else
      let s := s.stagePacket queue slot 1
      .next (s.beginLaunch { chip := s.pkg.chipNo, queue := queue, slot := slot, node := none } q.ctx q.prio none p.words (q.slotVa slot))

/-- This chip may arrive at a launch's start barrier: it has a place for one more launch in progress, or the launch counts already (R289). -/
def State.hasPlace (s : State) (l : Launch) : Bool := l.counts s.pkg.chipNo || s.placeFor l.prio

/-- `LAUNCH_ADMIT` (R52, R263, R283, R284, R289): a chip checks the kernel header of its copy and arrives at the start barrier. -/
def execLaunchAdmit (key : LKey) (s : State) : Ans :=
  match s.launch? key with
  | none => .next s
  | some l =>
    if l.stage ≠ 0 ∨ l.k.isSome ∨ l.index ≥ l.chips.length ∨ s.ctxHeld l.ctx ∨ s.hasPlace l = false then .next s
    else
      let me := s.pkg.chipNo
      match s.dpRead l.ctx l.hdr 64 with
      | (.inl (c, a), s) => .next (s.failLaunch key c (s.recAddr c a) (s.recDetail c (s.engDetail (engFor 0 l.ctx) 0 .read a)).toNat me)
      | (.inr bs, s) =>
        let k := Kernel.ofBytes l.hdr bs
        match Kernel.bad bs with
        | some off => .next (s.failLaunch key 0x0610 l.hdr off me)
        | none =>
          if k.msetMask ≠ 0 ∧ k.coresident = false then .next (s.failLaunch key 0x0613 l.slotVa key.slot me)
          else if k.coresident ∧ l.mine > ((List.range 256).map fun c => s.capacity k c).foldl (· + ·) 0 then
            .next (s.failLaunch key 0x0612 l.slotVa key.slot me)
          else
            let gen := match s.ctx? l.ctx with | some c => c.gen | none => 0
            .next ((s.mapLaunch key fun l => { l with k := some k }).send key.chip (.arrive key me gen))

/-- The start barrier has completed: the launch runs (R263). -/
def State.startLaunch (s : State) (key : LKey) (seqNo : Word) : State :=
  match s.launch? key with
  | none => s
  | some l =>
    if l.stage ≠ 0 then s
    else
      let (n, s) := s.fresh
      s.mapLaunch key fun l => { l with stage := 1, seqNo := seqNo, since := s.clock, order := n }

/-- `START_BARRIER_ARRIVAL` (R263, R264): at the consuming chip. -/
def execStartBarrierArrival (key : LKey) (chip : Nat) (stamp : Word) (s : State) : Ans :=
  match s.launch? key with
  | none => .next s
  | some l =>
    if l.stage ≠ 0 ∨ key.chip ≠ s.pkg.chipNo ∨ l.chips.contains chip = false then .next s
    else if l.arrived.isEmpty = false ∧ l.gen ≠ stamp then .next (s.failLaunch key 0x0410 s.openAddr s.openDetail.toNat s.pkg.chipNo)
    else
      let arrived := if l.arrived.contains chip then l.arrived else l.arrived ++ [chip]
      let s := s.mapLaunch key fun l => { l with gen := stamp, arrived := arrived }
      if arrived.length < l.chips.length then .next s
      else
        let n := s.pkg.launchSeq + 1
        let s := { s with pkg := { s.pkg with launchSeq := n } }
        let s := (l.chips.filter fun c => c != s.pkg.chipNo).foldl (fun s c => s.send c (.barrierDone key n)) s
        .next (s.startLaunch key n)

/-- `BARRIER_TIMEOUT` (R264): the barrier has not completed within BARTMO milliseconds of 1.9 GHz clocks. -/
def execBarrierTimeout (key : LKey) (s : State) : Ans :=
  match s.launch? key with
  | none => .next s
  | some l =>
    if l.stage = 0 ∧ key.chip = s.pkg.chipNo ∧ s.clock ≥ l.since + s.pkg.barTmo * 1900000 then
      .next (s.failLaunch key 0x0411 s.openAddr s.openDetail.toNat s.pkg.chipNo)
    else .next s

/-! ### Admission (R278, R283, R291, R292) -/

/-- The registers of a wave of a launch as it starts (R143). -/
def startRegs (l : Launch) (k : Kernel) (t w : Nat) : Regs :=
  let s := [l.karg.setWidth 32, (l.karg >>> 32).setWidth 32, BitVec.ofNat 32 t, BitVec.ofNat 32 (t * k.waves + w), BitVec.ofNat 32 l.index]
  { Regs.start (k.hdr + 64) with
    s := csetMany 0 [] 0 s
    v := csetMany 0 [] 0 ((List.range 64).map fun i => BitVec.ofNat 32 (64 * w + i))
    nstat := BitVec.ofNat 32 (k.fpmode % 2 * 2 ^ 16) }

/-- Invalidate a core's instruction-cache blocks of a kernel: its header and its code range (R19). `chip` is this chip's index in the
launch, under which the peer window names its own HBM (R74). -/
def State.dropCode (s : State) (core ctx chip : Nat) : List (DWord × Nat) → State
  | [] => s
  | (va, n) :: rest =>
    let s := match s.engXlate (dieOf core) ctx va with
      | (.hit h, s) =>
        let pa := match s.placeOf chip h.pa with | .hbm p => p | _ => h.pa
        s.withM fun m => { m with icache := m.icache.filter fun b => !(b.core == core && decide (pa / 32 ≤ b.block ∧ b.block ≤ (pa + n - 1) / 32)) }
      | (_, s) => s
    s.dropCode core ctx chip rest

/-- Place team t of a launch on a core (R142, R143, R206, R278): its waves join set 0 where the kernel declares it (R318). The launch's
first team on the core follows the packet's acquire, so no older L1 copy is read (R335, R339). -/
def State.place (s : State) (l : Launch) (k : Kernel) (t core : Nat) (p : List Nat × Nat × List Nat) : State :=
  let (slots, base, wins) := p
  let (uid, s) := s.fresh
  let team : Team := { uid := uid, core := core, ctx := l.ctx, key := l.key, idx := t, k := k, base := base, slot0 := slots.headD 0,
                       wins := wins, bars := [], saved := none }
  let wave (i slot : Nat) : Wave :=
    { Wave.idle with uid := s.nextId + i, core := core, slot := slot, team := uid, idx := i, lteam := t, lwave := t * k.waves + i,
                     chip := l.index, ctx := l.ctx, key := l.key, k := k, r := startRegs l k t i, status := .run }
  let first := !l.firstAdmitted.contains core
  let s := if first then s.dropCode core l.ctx l.index (pageSplit (k.codeSize / 2 ^ 16 + 2) k.hdr (64 + k.codeSize)) else s
  let s := if first && l.scope != 0 then s.withM fun m => m.l1Clear core else s
  let ws := slots.zipIdx.map fun (slot, i) => wave i slot
  let s := { s with nextId := s.nextId + slots.length, teams := s.teams ++ [team], others := s.others ++ ws }
  if natBit k.msetMask 0 then ws.foldl (fun s w => s.send (s.setHome (w.setRef 0)) (.join (w.setRef 0) (s.member w))) s else s

/-- Admit the next team of a launch to a core, if it fits there. -/
def State.admitTo (s : State) (key : LKey) (core : Nat) : Option State :=
  match s.launch? key with
  | none => none
  | some l => match l.k with
    | none => none
    | some k => match s.fits k core with
      | none => none
      | some p =>
        let s := s.place l k l.next core p
        some (s.mapLaunch key fun l => { l with
          next := l.next + l.chips.length, live := l.live + 1, since := s.clock, overdue := false,
          firstAdmitted := if l.firstAdmitted.contains core then l.firstAdmitted else l.firstAdmitted ++ [core] })

/-- A launch has teams it has not admitted. -/
def State.waiting (s : State) (l : Launch) : Bool :=
  l.stage == 1 && l.k.isSome && decide (l.index < l.chips.length ∧ l.next < l.total) && !s.ctxHeld l.ctx

/-- A launch ranks before another (R292). -/
def Launch.outranks (a b : Launch) : Bool := decide (a.prio > b.prio) || (a.prio == b.prio && decide (a.order < b.order))

/-- A launch is co-resident (R283). -/
def Launch.coresident (l : Launch) : Bool := match l.k with | some k => k.coresident | none => false

/-- The next team of a launch fits some core. -/
def State.fitsSome (s : State) (l : Launch) : Bool :=
  match l.k with | none => false | some k => (List.range 256).any fun c => (s.fits k c).isSome

/-- A launch may admit a team now (R283, R292): no co-resident launch waits, and of those that outrank it none fits a core
or has waited 65,536 clocks. -/
def State.mayAdmit (s : State) (l : Launch) : Bool :=
  s.waiting l && !l.coresident && s.launches.all fun x =>
    x.key == l.key || !s.waiting x || (!x.coresident && (!x.outranks l || (!x.overdue && !s.fitsSome x)))

/-- The dispatch processor writes 0x0616 once for a launch whose next team weighs more than every BUDGET (R292). -/
def State.noteOverweight (s : State) (l : Launch) : State :=
  match l.k with
  | none => s
  | some k =>
    if !l.overWeight && s.waiting l && (List.range 256).all fun c => !s.corePresent c || decide (energyWeight k.energy > s.budget c) then
      let (_, s) := s.record (s.ctxRecord l.ctx (some l.key) 8 0x0616 s.openAddr s.openDetail)
      s.mapLaunch l.key fun l => { l with overWeight := true }
    else s

/-- Admit every team of a co-resident launch, each to the first core it fits: none if one fits nowhere (R283). -/
def State.admitAll (key : LKey) : Nat → State → Option State
  | 0, s => some s
  | n + 1, s => match (List.range 256).findSome? fun c => s.admitTo key c with
    | some s => State.admitAll key n s
    | none => none

/-- A co-resident launch may place its teams now (R283). -/
def State.mayPlace (s : State) (l : Launch) : Bool :=
  s.waiting l && l.coresident && !(s.launches.any fun x => x.key != l.key && s.waiting x && x.coresident && x.outranks l)

/-- The next team of a co-resident launch goes to a core, where all the others then find a place too: they follow before anything else (R278,
R283; log 35). -/
def State.admitSome (s : State) (l : Launch) (core : Nat) : State :=
  match s.admitTo l.key core with
  | some t => if (State.admitAll l.key (l.left - 1) t).isSome then t else s
  | none => s

/-- `TEAM_ADMISSION` (R291, R292): the next team of a launch is offered to a core. -/
def execTeamAdmission (key : LKey) (core : Nat) (s : State) : Ans :=
  match s.launch? key with
  | none => .next s
  | some l =>
    if l.coresident then .next (if s.mayPlace l then s.admitSome l core else s)
    else if !s.mayAdmit l then .next s
    else match s.admitTo key core with
    | some s => .next s
    | none => .next (s.noteOverweight l)

/-- `COREASIDENT_ADMISSION` (R283): all the teams of this chip in one step, or none yet. -/
def execCoresidentAdmission (key : LKey) (s : State) : Ans :=
  match s.launch? key with
  | none => .next s
  | some l =>
    if !s.mayPlace l then .next s
    else match State.admitAll key l.left s with
    | some s => .next s
    | none => .next (s.noteOverweight l)

/-- `ADMISSION_WAIT_EXPIRY` (R292): a team has waited 65,536 clocks. -/
def execAdmissionWaitExpiry (key : LKey) (s : State) : Ans :=
  match s.launch? key with
  | none => .next s
  | some l => .next (if s.waiting l && decide (s.clock ≥ l.since + 65536) then s.mapLaunch key fun l => { l with overdue := true } else s)

/-! ### The end of teams and launches (R279) -/

/-- Drop a wave. -/
def State.dropWave (s : State) (uid : Nat) : State :=
  if s.w.uid = uid then { s with w := Wave.idle } else { s with others := s.others.filter fun w => w.uid != uid }

/-- The waves of a team. -/
def State.teamWaves (s : State) (team : Nat) : List Wave := s.waves.filter fun w => w.uid != 0 && w.team == team

/-- A team's waves have all ended and nothing they issued is still at work (R279). A `cwait` of a cancelled launch is not waited for: no
update may come any more (log 50). -/
def State.mayRelease (s : State) (t : Team) : Bool :=
  let ws := s.teamWaves t.uid
  let mine (u : Nat) : Bool := ws.any fun w => w.uid == u
  let cancelled := match s.launch? t.key with | some l => l.cancelled || l.stage == 3 | none => false
  (ws.all fun w => w.status == .ended && w.ops.all fun o => o.fin || (cancelled && s.cwaits.any fun c => c.op == o.id)) &&
    !(s.m.port.any fun a => mine a.wave) && !(s.copies.any fun c => match c.wave with | some (w, _) => mine w | none => false) &&
    !(s.lattices.any fun x => mine x.wave)

/-- Free what a team holds (R142, R206, R279, R232): its grid handles become unbound. -/
def State.freeTeam (s : State) (t : Team) : State :=
  let ws := s.teamWaves t.uid
  let s := { s with cwaits := s.cwaits.filter fun c => !(ws.any fun w => w.uid == c.wave),
                    grids := s.grids.filter fun g => g.1 / 8 != t.uid, teams := s.teams.filter fun x => x.uid != t.uid }
  ws.foldl (fun s w => s.dropWave w.uid) s

/-- `TEAM_RELEASE` (R279). -/
def execTeamRelease (team : Nat) (s : State) : Ans :=
  match s.team? team with
  | none => .next s
  | some t =>
    if !s.mayRelease t then .next s
    else .next ((s.freeTeam t).mapLaunch t.key fun l => { l with live := l.live - 1 })

/-- Every team of a launch on this chip has ended. -/
def Launch.over (l : Launch) : Bool := l.stage == 1 && decide (l.index < l.chips.length) && decide (l.next ≥ l.total) && l.live == 0

/-- `LAUNCH_RETIRE` (R279): the launch retires here and reports to the consuming chip. -/
def execLaunchRetire (key : LKey) (s : State) : Ans :=
  match s.launch? key with
  | none => .next s
  | some l =>
    if !l.over then .next s
    else
      let me := s.pkg.chipNo
      .next ((s.mapLaunch key fun l => { l with stage := 2 }).send key.chip (.retire key me))

/-- `RETIRE_REPORT` (R279): at the consuming chip; the last one retires the launch, without its COMPL where a cancel came first (R287). -/
def execRetireReport (key : LKey) (chip : Nat) (s : State) : Ans :=
  match s.launch? key with
  | none => .next s
  | some l =>
    if key.chip ≠ s.pkg.chipNo ∨ l.chips.contains chip = false ∨ l.retired.contains chip ∨ l.stage = 0 ∨ l.stage = 3 then .next s
    else
      let retired := l.retired ++ [chip]
      let s := s.mapLaunch key fun l => { l with retired := retired }
      if retired.length < l.chips.length then .next s
      else .next ((s.mapLaunch key fun l => { l with stage := 2 }).launchEnds key (!l.cancelled))

/-! ### Graphs and phases (R280 to R282) -/

/-- The byte offset of the first field of node n that breaks R280. -/
def nodeBad (n : Nat) (bs : List Byte) : Option Nat :=
  let u (at_ size : Nat) : Nat := ofBytes ((bs.drop at_).take size)
  let npred := u 0x40 4
  if u 0 8 % 256 ≠ 1 ∨ u 0 8 / 2 ^ 16 ≠ 0 ∨ field (u 0 8) 8 3 ≠ 0 then some 0
  else if u 8 8 % 8 ≠ 0 then some 8
  else if npred > 30 then some 0x40
  else ((List.range 30).find? fun m => if m < npred then decide (u (0x44 + 2 * m) 2 ≥ n) else u (0x44 + 2 * m) 2 != 0).map fun m => 0x44 + 2 * m

/-- A node of a table. -/
def nodeOf (bs : List Byte) : GNode :=
  let u (at_ size : Nat) : Nat := ofBytes ((bs.drop at_).take size)
  { words := dwords (bs.take 64), preds := (List.range (u 0x40 4)).map fun m => u (0x44 + 2 * m) 2, stage := 0 }

/-- PHASE of a GRAPH packet. -/
def Packet.phase (p : Packet) : Nat := word p.words 4 % 2 ^ 32

/-- `GRAPH_PACKET` (R280, R282): a graph of the current phase begins, one of an earlier phase is refused, one of a later waits. -/
def execGraphPacket (queue slot : Nat) (s : State) : Ans :=
  match s.ready queue slot 3 with
  | none => .next s
  | some (q, p) =>
    let cur := match s.ctx? q.ctx with | some c => c.cur | none => 0
    if p.phase > cur then .next s
    else if p.phase < cur then .next ((s.packetRecord q.ctx 0x0615 (q.slotVa slot) slot).packetDone queue slot false)
    else
      let s := s.stagePacket queue slot 1
      let w3 := word p.words 3
      let s := s.mapCtx q.ctx fun c => { c with closing := c.closing || natBit w3 32 }
      let n := w3 % 2 ^ 13
      match p.table.getD (.inr []) with
      | .inl (c, a) => .next ((s.packetRecord q.ctx c (s.recAddr c a) (s.recDetail c (s.engDetail (engFor 0 q.ctx) 0 .read a)).toNat).packetDone queue slot false)
      | .inr bs =>
        let node (i : Nat) : List Byte := (bs.drop (128 * i)).take 128
        match (List.range n).findSome? fun i => (nodeBad i (node i)).map fun off => (i, off) with
        | some (i, off) => .next ((s.packetRecord q.ctx 0x0611 (q.slotVa slot) (i + off * 2 ^ 16)).packetDone queue slot false)
        | none =>
          let (id, s) := s.fresh
          let g : Graph := { id := id, ctx := q.ctx, queue := queue, slot := slot, phase := p.phase, last := natBit w3 32, scope := p.scope,
                             compl := p.compl, nodes := (List.range n).map fun i => nodeOf (node i), failed := false }
          .next (p.dropped.foldl (fun s n => s.nodeRetired { chip := s.pkg.chipNo, queue := queue, slot := slot, node := some n } false)
            { s with graphs := s.graphs ++ [g] })

/-- A node waits and its predecessors have all retired (R281). -/
def Graph.nodeReady (g : Graph) (n : Nat) : Bool :=
  match g.nodes.drop n with
  | [] => false
  | x :: _ => x.stage == 0 && x.preds.all fun m => match g.nodes.drop m with | y :: _ => y.stage == 2 | [] => false

/-- The priority of a graph's queue (R126). -/
def State.graphPrio (s : State) (g : Graph) : Nat := match s.queue? g.queue with | some q => q.prio | none => 0

/-- `GRAPH_NODE_START` (R281, R289): ready nodes start in ascending order. -/
def execGraphNodeStart (graph node : Nat) (s : State) : Ans :=
  match s.graphs.find? fun g => g.id == graph with
  | none => .next s
  | some g =>
    match g.nodes.drop node with
    | [] => .next s
    | x :: _ =>
      if !g.nodeReady node || ((List.range node).any fun m => g.nodeReady m) || !s.placeFor (s.graphPrio g) || s.ctxHeld g.ctx then .next s
      else
        let nodes := g.nodes.zipIdx.map fun (y, i) => if i = node then { y with stage := 1 } else y
        let s : State := { s with graphs := updateFirst (fun y => y.id == graph) (fun y => { y with nodes := nodes }) s.graphs }
        let key : LKey := { chip := s.pkg.chipNo, queue := g.queue, slot := g.slot, node := some node }
        let va : DWord := match s.queue? g.queue with | some q => q.slotVa g.slot | none => 0
        .next (s.beginLaunch key g.ctx (s.graphPrio g) (some g.phase) x.words va)

/-- A graph packet of a context's phase that has been taken and is not over. -/
def State.phaseOpen (s : State) (ctx cur : Nat) : Bool :=
  s.queues.any fun q => q.ctx == ctx && q.packets.any fun p => p.type == 3 && p.phase == cur

/-- A graph of a phase has failed or been dropped: the phase will not complete (R282). -/
def State.breakPhase (s : State) (ctx phase : Nat) : State := s.mapCtx ctx fun c => { c with broken := phase :: c.broken }

/-- Phase CUR completes once a LAST graph of it has been taken and every graph of it has completed (R282). -/
def State.settlePhase (s : State) (ctx : Nat) : State :=
  match s.ctx? ctx with
  | none => s
  | some c =>
    if c.closing && !c.broken.contains c.cur && !s.phaseOpen ctx c.cur then
      (s.deviceWord ctx 8 none c.phaseCtr true 1).mapCtx ctx fun c => { c with cur := (c.cur + 1) % 2 ^ 32, closing := false }
    else s

/-- `PACKET_COMPLETE` (R124): a packet whose work is done leaves its queue, and its counter is incremented if it succeeded. -/
def execPacketComplete (queue slot : Nat) (s : State) : Ans :=
  match s.packet? queue slot with
  | none => .next s
  | some (q, p) =>
    if p.stage < 2 then .next s
    else
      let key : Option LKey := if p.type = 1 then some { chip := s.pkg.chipNo, queue := queue, slot := slot, node := none } else none
      let s := if p.stage = 2 then s.bump q.ctx 8 key p.compl else s
      let s := s.mapQueue queue fun q => { q with packets := q.packets.filter fun x => x.slot != slot }
      let cur := match s.ctx? q.ctx with | some c => c.cur | none => 0
      .next (if p.type ≠ 3 then s else if p.stage = 2 then s.settlePhase q.ctx else if p.phase = cur then s.breakPhase q.ctx p.phase else s)

end Sys2Proof.Machine
end

