-- ==== Sys2Proof/Machine/Reduce.lean ====
section
/-! DEFINITION. Pairing buffers, spill regions and reduction objects (R109 to R117 of spec/05_shared_cache.md, R239 to R257 of
spec/11_contribution.md). -/

namespace Sys2Proof.Machine

/-! ### Formats and tags -/

/-- The format of FMT (R239). -/
def fmtCode (n : Nat) : Fmt := match n with | 0 => .f32 | 1 => .bf16 | _ => .f64

/-- The bytes of an element of FMT (R239). DESIGN CHOICE (log 32): RBASE's alignment is checked before FMT (R240), and the reserved
FMT 3 counts as 8 bytes there. -/
def fmtBytes (n : Nat) : Nat := match n with | 0 => 4 | 1 => 2 | _ => 8

/-- COMBINE under an object's operation, format and modes (R68, R239). -/
def combineObj (opr fmt : Nat) (sat ftz : Bool) (l r : Nat) : Nat := (combineFp (fmtCode fmt) opr sat ftz l r).1

/-- The tag of a node (R69). -/
def tagOf (level index : Nat) : Nat := level * 2 ^ 58 + index

/-- A tag names a node of a sum of n leaves (R69). -/
def namesNode (n level index : Nat) : Bool := decide (level ≤ clog2 n ∧ index * 2 ^ level < n)

/-- Promotion by range (R111). -/
def promoteRange (n : Nat) : Nat → Nat → Nat → Nat × Nat
  | 0, level, index => (level, index)
  | k + 1, level, index =>
    let sib := if index % 2 = 0 then index + 1 else index - 1
    if level < clog2 n ∧ sib * 2 ^ level ≥ n then promoteRange n k (level + 1) (index / 2) else (level, index)

end Sys2Proof.Machine

namespace Sys2Proof
open Sys2Proof.Machine

/-- A partial promoted by range. -/
def Partial.up (p : Partial) : Partial :=
  let (l, i) := promoteRange p.n 60 p.level p.index
  { p with level := l, index := i }

/-- A partial is the root of its element (R111). -/
def Partial.isRoot (p : Partial) : Bool := decide (p.level ≥ clog2 p.n)

/-- The object and element of a partial. -/
def Partial.sameElem (p q : Partial) : Bool := p.ctx == q.ctx && p.idx == q.idx && p.elem == q.elem

/-- Two partials are siblings (R109, R242). -/
def Partial.sibling (p q : Partial) : Bool :=
  p.sameElem q && p.oseq == q.oseq && p.level == q.level && p.index / 2 == q.index / 2 && p.index != q.index

/-- Two partials have one identity (R110). -/
def Partial.same (p q : Partial) : Bool := p.sameElem q && p.oseq == q.oseq && p.level == q.level && p.index == q.index

/-- The parent of two siblings, the even one left (R110). -/
def Partial.pair (p q : Partial) : Partial :=
  let (l, r) := if p.index % 2 = 0 then (p, q) else (q, p)
  { p with level := p.level + 1, index := p.index / 2,
           val := BitVec.ofNat 64 (combineObj p.opr p.fmt p.sat p.ftz l.val.toNat r.val.toNat) }

/-- The entries and hold time of a non-home buffer (R109, R112). -/
def BufRef.limits : BufRef → Nat × Nat
  | .core _ => (32, 256)
  | .port _ => (256, 1024)

/-- key(p) of R115, from the parent's tag. -/
def Partial.key (p : Partial) : Nat := (p.elem * 0x9E3779B97F4A7C15 % 2 ^ 64) ^^^ tagOf (p.level + 1) (p.index / 2)

/-- Two nodes cover a common leaf. -/
def Partial.overlaps (p q : Partial) : Bool :=
  decide (p.index * 2 ^ p.level < (q.index + 1) * 2 ^ q.level ∧ q.index * 2 ^ q.level < (p.index + 1) * 2 ^ p.level)

end Sys2Proof

namespace Sys2Proof.Machine

/-! ### Non-home buffers (R112) -/

/-- What a non-home buffer holds. -/
def State.bufOf (s : State) (b : BufRef) : List Waiting :=
  match b with
  | .core n => (lookup s.coreBuf n).getD []
  | .port n => match lookup s.ports n with | some p => p.buf | none => []

/-- Put what a non-home buffer holds. -/
def State.setBuf (s : State) (b : BufRef) (ws : List Waiting) : State :=
  match b with
  | .core n => { s with coreBuf := assign n ws s.coreBuf }
  | .port n => match lookup s.ports n with | some p => { s with ports := assign n { p with buf := ws } s.ports } | none => s

/-- The object-table entry of a context (R241). -/
def State.robj? (s : State) (ctx idx : Nat) : Option RObj :=
  match s.ctx? ctx with | none => none | some c => c.robjs.find? fun o => o.idx == idx

/-- The address of an element's result (R239). -/
def RObj.addr (o : RObj) (e : Nat) : DWord := o.desc.rbase + BitVec.ofNat 64 (e * fmtBytes o.desc.fmt)

/-- The engine identity of an object. -/
def State.objEng (s : State) (ctx : Nat) (o : RObj) : Eng :=
  let l := s.launch? o.launch
  { s.engAs 0 ctx with
    own := match l with | some l => l.index | none => 4096, chips := match l with | some l => l.chips.length | none => 4096 }

/-- The place of an address range of an object's result; at the home chip every part of it is local (R239). -/
def State.objResolve (s : State) (ctx : Nat) (o : RObj) (va : DWord) (n : Nat) : Sum (BitVec 16 × DWord) (List EngLoc) × State :=
  match s.engResolve (s.objEng ctx o) true va n with
  | (.inl x, s) => (.inl x, s.dropPins 0 [])
  | (.inr ls, s) => (.inr (if o.home then ls.map fun l => match l with | .peer _ pa cls n => .here pa cls n | x => x else ls), s.dropPins 0 [])

/-- The slice an element is home to, or how the translation of its address faults: what lies there is not looked at (R109, R242). -/
def State.elemSlice (s : State) (ctx : Nat) (o : RObj) (e : Nat) (write : Bool := true) : Sum (BitVec 16 × DWord) Nat × State :=
  match s.engPieces (s.objEng ctx o) write (pageSplit 2 (o.addr e) (fmtBytes o.desc.fmt)) with
  | (.inl x, s) => (.inl x, s.dropPins 0 [])
  | (.inr ls, s) =>
    (.inr (match ls with | .here pa _ _ :: _ => homeSlice pa | .peer _ pa _ _ :: _ => homeSlice pa | [] => 0), s.dropPins 0 [])

/-- A partial goes on toward its home: from a core through its memory port onto the mesh (R390), to the link or the mesh from a port. -/
def State.forwardPart (s : State) (b : BufRef) (p : Partial) : State :=
  let slice (s : State) : Nat × State := match s.robj? p.ctx p.idx with
    | none => (0, s)
    | some o => match s.elemSlice p.ctx o p.elem with | (.inr n, s) => (n, s) | (.inl _, s) => (0, s)
  match b with
  | .core c =>
    let (n, s) := slice s
    let (id, s) := s.fresh
    { s with mesh := s.mesh ++ [.part n p (some (c, id))] }
  | .port _ =>
    if p.dst = s.pkg.chipNo then let (n, s) := slice s; { s with mesh := s.mesh ++ [.part n p none] }
    else s.send p.dst (.part p)

/-- A partial enters a non-home buffer (R112). A duplicate is not combined: both are discarded, and what goes on to the home in their
place poisons the element there (R110, R249; log 32). -/
def State.enterNonhome (b : BufRef) : Nat → State → Partial → State
  | 0, s, p => s.forwardPart b p
  | k + 1, s, p =>
    let p := p.up
    let held := s.bufOf b
    if p.isRoot || p.dup then s.forwardPart b p
    else match held.find? fun w => w.part.same p with
    | some _ => (s.setBuf b (held.filter fun x => !x.part.same p)).forwardPart b { p with dup := true }
    | none => match held.find? fun w => w.part.sibling p with
      | some w => State.enterNonhome b k (s.setBuf b (held.filter fun x => !x.part.same w.part)) (p.pair w.part)
      | none => if held.length < b.limits.1 then s.setBuf b (held ++ [{ part := p, since := s.clock }]) else s.forwardPart b p

/-- Forward every entry of a buffer that a test picks, in order. -/
def State.flushBuf (s : State) (b : BufRef) (f : Partial → Bool) : State :=
  let held := s.bufOf b
  let s := s.setBuf b (held.filter fun w => !f w.part)
  (held.filter fun w => f w.part).foldl (fun s w => s.forwardPart b w.part) s

/-- The buffer is bypassed (R112, R114, R261). -/
def State.bypassed (s : State) (b : BufRef) : Bool :=
  match b with
  | .core n => s.bypass.contains n
  | .port n => match lookup s.ports n with | some p => p.bypass | none => true

/-- A pre-empted, cancelled or ended context's partials stay in no buffer away from home (R112). -/
def State.ctxStopped (s : State) (n : Nat) : Bool := match s.ctx? n with | some c => c.stopped || c.ending | none => true

/-- A partial reaches a non-home buffer. -/
def State.nonhome (s : State) (b : BufRef) (p : Partial) : State :=
  if s.bypassed b || s.ctxStopped p.ctx then s.forwardPart b p else State.enterNonhome b 64 s p

/-- The port toward a chip (R260). -/
def State.portTo (s : State) (chip : Nat) : Nat := (lookup s.pkg.routes chip).getD 0

/-- Where an entry of the mesh goes: a home slice, or 1024 and the number of another chip. -/
def Mesh.home (me : Nat) : Mesh → Nat
  | .part n p _ => if p.dst = me then n else 1024 + p.dst
  | .closeOut dst _ _ _ _ _ => 1024 + dst
  | .close n _ _ _ _ _ _ => n

/-- A partial waits in its core's port for the older accesses there to its home slice (R390). -/
def State.meshHeld (s : State) : Mesh → Bool
  | .part n p (some (core, id)) => p.dst == s.pkg.chipNo &&
      s.m.port.any fun a => a.core == core && !a.sp && a.peer.isNone && decide (a.id < id) && homeSlice a.pa == n
  | _ => false

/-- The first entry a test picks that no earlier one to the same home comes before, and the rest: the mesh keeps the order to one home (R112). -/
def takeMesh (home : Mesh → Nat) (f : Mesh → Bool) : List Nat → List Mesh → Option (Mesh × List Mesh)
  | _, [] => none
  | seen, x :: rest =>
    if f x && !seen.contains (home x) then some (x, rest) else (takeMesh home f (home x :: seen) rest).map fun (y, l) => (y, x :: l)

/-- What may arrive next of the entries a test picks, and the state without it. -/
def State.fromMesh (s : State) (f : Mesh → Bool) : Option (Mesh × State) :=
  (takeMesh (Mesh.home s.pkg.chipNo) (fun x => f x && !s.meshHeld x) [] s.mesh).map fun (x, l) => (x, { s with mesh := l })

/-- A partial arrives: out of the mesh where it may leave it, or from outside; it waits where it may not. -/
def State.partArrives (s : State) (f : Mesh → Bool) (arrive : State → State) : State :=
  if s.mesh.any f then (match s.fromMesh f with | some (_, s) => arrive s | none => s) else arrive s

/-- `NONHOME_ARRIVAL` (R112): a partial reaches a core's or a port's buffer; it leaves the mesh if it came by it. -/
def execNonhomeArrival (buf : BufRef) (p : Partial) (s : State) : Ans :=
  .next (s.partArrives (fun x => match x with | .part _ q _ => q == p | _ => false) fun s => s.nonhome buf p)

/-- `HOLD_TIME_EXPIRY` (R112): an entry that has waited its hold time is forwarded unchanged. -/
def execHoldTimeExpiry (buf : BufRef) (p : Partial) (s : State) : Ans :=
  match (s.bufOf buf).find? fun w => w.part == p with
  | none => .next s
  | some w => if s.clock < w.since + buf.limits.2 then .next s else .next (s.flushBuf buf fun q => q == p)

/-! ### The home (R113, R242 to R251) -/

/-- What a home slice holds. -/
def State.homeBuf (s : State) (slice : Nat) : HomeBuf :=
  (s.homes.find? fun h => h.slice == slice).getD { slice := slice, entries := [], filters := [], loose := [] }

/-- Put what a home slice holds. -/
def State.setHomeBuf (s : State) (h : HomeBuf) : State :=
  { s with homes := if s.homes.any (fun x => x.slice == h.slice) then updateFirst (fun x => x.slice == h.slice) (fun _ => h) s.homes
                    else s.homes ++ [h] }

/-- Change an object-table entry. -/
def State.mapObj (s : State) (ctx idx : Nat) (f : RObj → RObj) : State :=
  s.mapCtx ctx fun c => { c with robjs := updateFirst (fun o => o.idx == idx) f c.robjs }

/-- A record of the reduction family names a context and a launch: the one whose contribution or close met the failure (R359, R395). -/
def State.objRecord (s : State) (ctx : Nat) (key : LKey) (code : BitVec 16) (addr detail : DWord) : State :=
  s.failNoWave (s.ctxRecord ctx (some key) 4 code addr detail) (some key)

/-- Write an element's bytes at its home, if its address translates to a writable page. -/
def State.writeElem (s : State) (ctx : Nat) (o : RObj) (e v : Nat) : Option (BitVec 16 × DWord) × State :=
  match s.objResolve ctx o (o.addr e) (fmtBytes o.desc.fmt) with
  | (.inl x, s) => (some x, s)
  | (.inr ls, s) => (none, s.engStore ctx (s.launchChips o.launch) ls (natBytes (fmtBytes o.desc.fmt) v))

/-- The partials of an object leave every pairing buffer, and its filters are released (R116, R117, R247). -/
def State.discardObj (s : State) (ctx idx : Nat) : State :=
  let mine (p : Partial) : Bool := p.ctx == ctx && p.idx == idx
  { s with
    coreBuf := s.coreBuf.map fun (n, ws) => (n, ws.filter fun w => !mine w.part)
    ports := s.ports.map fun (n, p) => (n, { p with buf := p.buf.filter fun w => !mine w.part })
    homes := s.homes.map fun h => { h with entries := h.entries.filter fun p => !mine p,
                                           filters := h.filters.filter fun x => !(x.ctx == ctx && x.idx == idx),
                                           loose := h.loose.filter (· != (ctx, idx)) } }

/-- An object aborts (R117, R251): elements not yet stored become the canonical NaN, the counter is incremented. -/
def State.abortObj (s : State) (ctx idx : Nat) (key : LKey) (code : BitVec 16) (addr detail : DWord) : State :=
  match s.robj? ctx idx with
  | none => s
  | some o =>
    if o.state ≠ 1 ∨ o.home = false then s
    else
      let nan := (fmtCode o.desc.fmt).nanBits
      let s := (List.range o.desc.m).foldl (fun s e => if o.doneElems.contains e then s else (s.writeElem ctx o e nan).2) s
      let s := (s.discardObj ctx idx).mapObj ctx idx fun o => { o with state := 3 }
      (s.deviceWord ctx 4 (some o.launch) o.desc.ccount true 1).objRecord ctx key code addr detail

/-- An element is poisoned (R249). DEDUCED (log 32): the partials involved are all those of the element in the home buffers; its spill
entries stay, to be met under R245 and R247; a result that cannot be written is left as it is and aborts nothing. -/
def State.poisonElem (s : State) (ctx idx e : Nat) (key : LKey) : State :=
  match s.robj? ctx idx with
  | none => s
  | some o =>
    let mine (p : Partial) : Bool := p.ctx == ctx && p.idx == idx && p.elem == e
    let (_, s) := s.writeElem ctx o e (fmtCode o.desc.fmt).nanBits
    let s : State := { s with homes := s.homes.map fun (h : HomeBuf) => { h with entries := h.entries.filter fun p => !mine p } }
    let s := s.mapObj ctx idx fun o => { o with
      poisoned := e :: o.poisoned.filter (· != e)
      doneElems := if o.doneElems.contains e then o.doneElems else e :: o.doneElems }
    s.objRecord ctx key 0x0303 (o.addr e) (BitVec.ofNat 64 e)

/-! ### The spill region (R115, R116) -/

/-- The slots of a partial's window (R115). -/
def spillWindow (log2s : Nat) (p : Partial) : List Nat :=
  let size := 2 ^ log2s
  let slot0 := p.key % size
  if size ≥ 8 then (List.range 8).map fun i => slot0 / 8 * 8 + i else List.range size

/-- The physical address of a spill slot: a writable class 3 page in local memory, else 0x0302 (R117). -/
def State.spillAt (s : State) (ctx : Nat) (o : RObj) (slot : Nat) : Option Nat × State :=
  let va := o.desc.spbase + BitVec.ofNat 64 (32 * slot)
  match s.engResolve { s.objEng ctx o with priv := true } true va 32 with
  | (.inr [.here pa 3 _], s) => (if s.m.poisoned pa 32 then none else some pa, s.dropPins 0 [])
  | (_, s) => (none, s.dropPins 0 [])

/-- A spill entry as it stands: tag, element, value and VALID. -/
def State.spillRead (s : State) (pa : Nat) : Nat × Nat × Nat × Bool :=
  (s.readPa 0 pa 8, s.readPa 0 (pa + 8) 8, s.readPa 0 (pa + 16) 8, natBit (s.readPa 0 (pa + 24) 8) 63)

/-- Write a spill entry. -/
def State.spillWrite (s : State) (pa tag elem val : Nat) (valid : Bool) : State :=
  s.engWrite 0 3 pa (natBytes 8 tag ++ natBytes 8 elem ++ natBytes 8 val ++ natBytes 8 (if valid then 2 ^ 63 else 0))

/-- Find the first slot of a window that a test accepts; `none` in the first place where a slot cannot be reached. -/
def State.spillFind (s : State) (ctx : Nat) (o : RObj) (f : Nat × Nat × Nat × Bool → Bool) : List Nat → Option (Option Nat) × State
  | [] => (some none, s)
  | n :: ns => match s.spillAt ctx o n with
    | (none, s) => (none, s)
    | (some pa, s) => if f (s.spillRead pa) then (some (some pa), s) else s.spillFind ctx o f ns

/-- The address of the spill sector that holds a slot (R115, R117). -/
def RObj.spillSector (o : RObj) (slot : Nat) : DWord := o.desc.spbase + BitVec.ofNat 64 (32 * slot / 256 * 256)

/-- The spill sector of a partial (R115, R117). -/
def RObj.sectorOf (o : RObj) (p : Partial) : DWord := o.spillSector (p.key % 2 ^ o.desc.log2s)

/-- Spill a partial (R115, R116, R117). -/
def State.spill (s : State) (slice : Nat) (o : RObj) (p : Partial) : State :=
  let sector := o.sectorOf p
  match s.spillFind p.ctx o (fun e => !e.2.2.2) (spillWindow o.desc.log2s p) with
  | (none, s) => s.abortObj p.ctx p.idx p.launch 0x0302 sector (BitVec.ofNat 64 p.elem)
  | (some none, s) => s.abortObj p.ctx p.idx p.launch 0x0301 sector (BitVec.ofNat 64 p.elem)
  | (some (some pa), s) =>
    let s := s.spillWrite pa (tagOf p.level p.index) p.elem p.val.toNat true
    let h := s.homeBuf slice
    let bit : BitVec 512 := 1#512 <<< (p.key % 512)
    let mine (x : Filter) : Bool := x.ctx == p.ctx && x.idx == p.idx
    if h.filters.any mine then
      s.setHomeBuf { h with filters := updateFirst mine (fun x => { x with bits := x.bits ||| bit }) h.filters }
    else if h.loose.contains (p.ctx, p.idx) then s
    else if h.filters.length < 256 then s.setHomeBuf { h with filters := h.filters ++ [{ ctx := p.ctx, idx := p.idx, bits := bit }] }
    else s.setHomeBuf { h with loose := (p.ctx, p.idx) :: h.loose }

/-- filter(p) is set (R113, R116): always for an object that spilled while no filter was free. -/
def HomeBuf.filterSet (h : HomeBuf) (p : Partial) : Bool :=
  h.loose.contains (p.ctx, p.idx) || match h.filters.find? fun x => x.ctx == p.ctx && x.idx == p.idx with
  | some x => x.bits.getLsbD (p.key % 512)
  | none => decide (h.filters.length ≥ 256)

/-- PAIRLIM of a slice (R108). -/
def State.pairLim (s : State) (slice : Nat) : Nat := match lookup s.slices slice with | some x => x.pairlim | none => 64

/-- Hold a partial at its home: in the buffer, or spilled (R113). -/
def State.holdHome (s : State) (slice : Nat) (o : RObj) (p : Partial) : State :=
  let h := s.homeBuf slice
  if h.entries.length < s.pairLim slice then s.setHomeBuf { h with entries := h.entries ++ [p] } else s.spill slice o p

/-- What reading an object's spill region gives: the partials, or the slot that cannot be read (R117). -/
inductive Drained where
  | ok (ps : List Partial)
  | bad (slot : Nat)

/-- Every spill entry of an object whose element a slice is home to, cleared as it is read (R245, R247); so is one whose element no
longer translates, whose root store then faults (R246). -/
def State.drainSpill (slice : Nat) (ctx : Nat) (o : RObj) (like : Partial) : List Nat → State → Drained × State
  | [], s => (.ok [], s)
  | n :: ns, s => match s.spillAt ctx o n with
    | (none, s) => (.bad n, s)
    | (some pa, s) =>
      let (tag, elem, val, valid) := s.spillRead pa
      let mine := valid && match (s.elemSlice ctx o elem false).1 with | .inr k => k == slice | .inl _ => true
      if mine then
        let s := s.spillWrite pa tag elem val false
        match State.drainSpill slice ctx o like ns s with
        | (.ok ps, s) => (.ok ({ like with elem := elem, level := tag / 2 ^ 58, index := tag % 2 ^ 58, val := BitVec.ofNat 64 val } :: ps), s)
        | x => x
      else State.drainSpill slice ctx o like ns s

/-- A partial of an object, for what a spill entry does not hold. -/
def RObj.blank (ctx : Nat) (o : RObj) : Partial :=
  { ctx := ctx, idx := o.idx, elem := 0, level := 0, index := 0, val := 0, oseq := o.oseq, kind := if o.desc.sparse then 1 else 0,
    opr := o.desc.opr, fmt := o.desc.fmt, ftz := o.desc.ftz, sat := o.desc.sat, n := o.desc.n, dst := 0, launch := o.launch,
    dup := false }

/-- What waits at a slice for an object: from the buffer, and from the spill region where the slice's filter is bound or none was
free (R116, R245, R247). A spill entry that cannot be read aborts the object, and nothing waits then (R117). -/
def State.gather (s : State) (slice ctx : Nat) (o : RObj) : List Partial × State :=
  let h := s.homeBuf slice
  let mine (p : Partial) : Bool := p.ctx == ctx && p.idx == o.idx
  let s := s.setHomeBuf { h with entries := h.entries.filter fun p => !mine p }
  if h.loose.contains (ctx, o.idx) || h.filters.any (fun x => x.ctx == ctx && x.idx == o.idx) || decide (h.filters.length ≥ 256) then
    match State.drainSpill slice ctx o (o.blank ctx) (List.range (2 ^ o.desc.log2s)) s with
    | (.ok ps, s) => ((h.entries.filter mine) ++ ps, s)
    | (.bad n, s) => ([], s.abortObj ctx o.idx o.launch 0x0302 (o.spillSector n) s.openDetail)
  else (h.entries.filter mine, s)

/-- Some two of a list overlap. -/
def anyOverlap : List Partial → Bool
  | [] => false
  | p :: ps => ps.any p.overlaps || anyOverlap ps

/-- value(h, i) of R67 over gathered nodes. -/
def nodeValue (comb : Nat → Nat → Nat) (ps : List Partial) : Nat → Nat → Option Nat
  | 0, i => (ps.find? fun p => p.level == 0 && p.index == i).map (·.val.toNat)
  | h + 1, i =>
    match ps.find? fun p => p.level == h + 1 && p.index == i with
    | some p => some p.val.toNat
    | none =>
      let inside := ps.filter fun p => decide (p.level ≤ h ∧ p.index / 2 ^ (h + 1 - p.level) = i)
      if inside.isEmpty then none
      else match nodeValue comb inside h (2 * i), nodeValue comb inside h (2 * i + 1) with
        | none, r => r
        | l, none => l
        | some l, some r => some (comb l r)

/-- The first partial of each element of a list. -/
def firstOfElems (ps : List Partial) : List Partial :=
  ps.foldl (fun acc p => if acc.any fun q => q.elem == p.elem then acc else acc ++ [p]) []

/-- The entry is open. -/
def State.objOpen (s : State) (ctx idx : Nat) : Bool := match s.robj? ctx idx with | some o => o.state == 1 | none => false

/-- An object completes (R247): what still waits is excess, then the counter, STATE and filters. One that has been aborted meanwhile
does not. -/
def State.completeObj (s : State) (ctx idx : Nat) : State :=
  match s.robj? ctx idx with
  | none => s
  | some o =>
    let (elems, s) := (List.range 128).foldl (fun (es, s) n => let (ps, s) := s.gather n ctx o; (es ++ ps, s))
      (([] : List Partial), s)
    if !s.objOpen ctx idx then s
    else
      let s := (firstOfElems elems).foldl (fun s p => s.poisonElem ctx idx p.elem p.launch) s
      let s := s.deviceWord ctx 4 (some o.launch) o.desc.ccount true 1
      { s.mapObj ctx idx fun o => { o with state := 2 } with
        homes := s.homes.map fun h => { h with filters := h.filters.filter fun x => !(x.ctx == ctx && x.idx == idx),
                                               loose := h.loose.filter (· != (ctx, idx)) } }

/-- A dense object whose elements have all completed is complete (R247). -/
def State.checkDense (s : State) (ctx idx : Nat) : State :=
  match s.robj? ctx idx with
  | none => s
  | some o => if o.state = 1 ∧ o.desc.sparse = false ∧ o.doneElems.length ≥ o.desc.m then s.completeObj ctx idx else s

/-- Store an element's root (R246): an element already complete has an excess partial (R249); an aborted object stores none (R251). -/
def State.storeRoot (s : State) (ctx idx e v : Nat) (key : LKey) : State :=
  match s.robj? ctx idx with
  | none => s
  | some o =>
    if o.state ≠ 1 then s
    else if o.doneElems.contains e then s.poisonElem ctx idx e key
    else
      let d := o.desc
      let n := fmtBytes d.fmt
      match s.objResolve ctx o (o.addr e) n with
      | (.inl (c, a), s) => s.abortObj ctx idx key c a (BitVec.ofNat 64 e)
      | (.inr ls, s) =>
        let (old, s) := s.engBytes ctx ls
        let v := if d.accum then combineObj d.opr d.fmt d.sat d.ftz (ofBytes old) v else v
        (s.engStore ctx (s.launchChips o.launch) ls (natBytes n v)).mapObj ctx idx fun o => { o with doneElems := e :: o.doneElems }

/-- A partial at its home slice pairs, completes its element or waits (R113). -/
def State.enterHome (slice : Nat) (o : RObj) : Nat → State → Partial → State
  | 0, s, p => s.holdHome slice o p
  | k + 1, s, p =>
    let p := p.up
    let h := s.homeBuf slice
    let drop (q : Partial) (s : State) : State := s.setHomeBuf { h with entries := h.entries.filter fun x => !x.same q }
    if p.dup || h.entries.any (fun q => q.same p) then (s.poisonElem p.ctx p.idx p.elem p.launch).checkDense p.ctx p.idx
    else if p.isRoot then
      if o.desc.sparse then s.holdHome slice o p else (s.storeRoot p.ctx p.idx p.elem p.val.toNat p.launch).checkDense p.ctx p.idx
    else match h.entries.find? fun q => q.sibling p with
    | some q => State.enterHome slice o k (drop q s) (p.pair q)
    | none =>
      if h.filterSet p then
        let sib := tagOf p.level (if p.index % 2 = 0 then p.index + 1 else p.index - 1)
        let win := spillWindow o.desc.log2s p
        match s.spillFind p.ctx o (fun e => e.2.2.2 && e.1 == tagOf p.level p.index && e.2.1 == p.elem) win with
        | (some (some pa), s) =>
          let (tag, elem, val, _) := s.spillRead pa
          ((s.spillWrite pa tag elem val false).poisonElem p.ctx p.idx p.elem p.launch).checkDense p.ctx p.idx
        | (_, s) => match s.spillFind p.ctx o (fun e => e.2.2.2 && e.1 == sib && e.2.1 == p.elem) win with
          | (none, s) => s.abortObj p.ctx p.idx p.launch 0x0302 (o.sectorOf p) (BitVec.ofNat 64 p.elem)
          | (some none, s) => s.holdHome slice o p
          | (some (some pa), s) =>
            let (tag, elem, val, _) := s.spillRead pa
            let s := s.spillWrite pa tag elem val false
            let q := { p with index := sib % 2 ^ 58, val := BitVec.ofNat 64 val }
            State.enterHome slice o k s (p.pair q)
      else s.holdHome slice o p

/-- A partial reaches its home (R242): discarded, the cause of an abort, or paired. -/
def State.homeArrive (s : State) (slice : Nat) (p : Partial) : State :=
  match s.robj? p.ctx p.idx with
  | none => s.objRecord p.ctx p.launch 0x0305 s.openAddr (BitVec.ofNat 64 p.elem)
  | some o =>
    if o.state = 0 ∨ o.home = false then s.objRecord p.ctx p.launch 0x0305 s.openAddr (BitVec.ofNat 64 p.elem)
    else if o.state ≠ 1 ∨ o.oseq ≠ p.oseq then s.objRecord p.ctx p.launch 0x0304 (o.addr p.elem) (BitVec.ofNat 64 p.elem)
    else if p.kind ≠ (if o.desc.sparse then 1 else 0) ∨ p.opr ≠ o.desc.opr ∨ p.fmt ≠ o.desc.fmt ∨ p.n ≠ o.desc.n then
      s.abortObj p.ctx p.idx p.launch 0x0307 (o.addr p.elem) (BitVec.ofNat 64 p.elem)
    else State.enterHome slice o 64 s p

/-- `HOME_PARTIAL_ARRIVAL` (R113, R242). -/
def execHomePartialArrival (slice : Nat) (p : Partial) (s : State) : Ans :=
  .next (s.partArrives (fun x => match x with | .part n q _ => n == slice && q == p | _ => false) fun s => s.homeArrive slice p)

/-- A slice has received a sparse object's last close (R245). -/
def State.closeSlice (s : State) (slice ctx idx : Nat) : State :=
  match s.robj? ctx idx with
  | none => s
  | some o =>
    let (ps, s) := s.gather slice ctx o
    let s := (firstOfElems ps).foldl (fun s p =>
      let e := p.elem
      let mine := ps.filter fun p => p.elem == e
      if !s.objOpen ctx idx then s
      else if anyOverlap mine then s.poisonElem ctx idx e p.launch
      else match nodeValue (combineObj o.desc.opr o.desc.fmt o.desc.sat o.desc.ftz) mine (clog2 o.desc.n) 0 with
        | none => s
        | some v => s.storeRoot ctx idx e v p.launch) s
    let s := s.mapObj ctx idx fun o => { o with finished := slice :: o.finished }
    match s.robj? ctx idx with
    | some o => if o.state = 1 ∧ o.finished.length ≥ 128 then s.completeObj ctx idx else s
    | none => s

/-- A close reaches a home slice (R244, R245, R250): a late one leaves one record for the chip, whichever chip `src` it came from.
DEDUCED (log 32): a close that finds its entry free, or not the home chip's, has the code 0x0304 of the late ones. -/
def State.closeArrive (s : State) (slice ctx idx oseq : Nat) (src : Option Nat) (op : Nat) (key : LKey) : State :=
  let name := (match src with | some c => c + 1 | none => 0, op)
  match s.robj? ctx idx with
  | none => if slice = 0 then s.objRecord ctx key 0x0304 s.openAddr s.openDetail else s
  | some o =>
    let n := (lookup o.closes slice).getD 0
    if o.state ≠ 1 ∨ o.home = false ∨ o.oseq ≠ oseq ∨ o.desc.sparse = false ∨ n ≥ o.desc.closes then
      if o.lateClose.contains name then s
      else (s.objRecord ctx key 0x0304 s.openAddr s.openDetail).mapObj ctx idx fun o => { o with lateClose := name :: o.lateClose }
    else
      let s := s.mapObj ctx idx fun o => { o with closes := assign slice (n + 1) o.closes }
      if n + 1 = o.desc.closes then s.closeSlice slice ctx idx else s

/-- The wave of an operation, by the operation's number. -/
def State.waveOfOp (s : State) (op : Nat) : Option Nat := (s.waves.find? fun w => w.ops.any fun o => o.id == op).map (·.uid)

/-- Finish an operation, whichever wave it is of. -/
def State.finishAny (s : State) (op : Nat) (err : Option FErr) : State :=
  match s.waveOfOp op with | none => s | some w => s.finishOp w op [] 0 err

/-- The last close of a `rclose` has been received: its operation completes, here or on its own chip (R254). -/
def State.closeDone (s : State) (src : Option Nat) (op : Nat) : State :=
  if s.mesh.any fun x => match x with | .close _ _ _ _ src' op' _ => op' == op && src' == src | _ => false then s
  else match src with
  | none => s.finishAny op none
  | some c => s.send c (.closeAck op)

/-- A close for each of the 128 slices, in order. -/
def closeAll (ctx idx oseq : Nat) (src : Option Nat) (op : Nat) (key : LKey) : List Mesh :=
  (List.range 128).map fun n => .close n ctx idx oseq src op key

/-- `CLOSE_ARRIVAL` (R244, R245): a close reaches a slice. One with slice 128 or more has reached the port toward chip slice
minus 128, which first forwards what it holds of the object. -/
def execCloseArrival (slice ctx idx oseq : Nat) (s : State) : Ans :=
  let mine (x : Mesh) : Bool := match x with
    | .close n c i q _ _ _ => n == slice && c == ctx && i == idx && q == oseq
    | .closeOut dst c i q _ _ => slice == 128 + dst && c == ctx && i == idx && q == oseq
    | _ => false
  match s.fromMesh mine with
  | some (.close _ _ _ _ src op key, s) => .next ((s.closeArrive slice ctx idx oseq src op key).closeDone src op)
  | some (.closeOut dst _ _ _ op key, s) =>
    let s := s.flushBuf (.port (s.portTo dst)) fun p => p.ctx == ctx && p.idx == idx
    .next (s.send dst (.close ctx idx oseq s.pkg.chipNo op key))
  | _ => .next (if slice < 128 && !s.mesh.any mine then s.closeArrive slice ctx idx oseq none 0 LKey.none else s)

/-! ### Sending -/

/-- A partial of an entry, from its sender (R242). -/
def State.partialOf (s : State) (ctx : Nat) (o : RObj) (e level index v : Nat) : Partial :=
  { o.blank ctx with elem := e, level := level, index := index, val := BitVec.ofNat 64 v, dst := if o.home then s.pkg.chipNo else o.chip }

/-- The launch of a wave that contributes; the object's own where the wave is gone. -/
def State.launchOf (s : State) (uid : Nat) (o : RObj) : LKey := match s.wave uid with | some w => w.key | none => o.launch

/-- Send one contribution from a core for a wave's operation (R112, R242, R253). DEDUCED (log 32): the sender's record of a fault holds
the element number in DETAIL, as the object's abort does (R117). -/
def State.contribute (s : State) (w op core ctx : Nat) (o : RObj) (e level index v : Nat) : State :=
  match s.elemSlice ctx o e with
  | (.inl (c, a), s) =>
    let s := s.opFail w op { engine := 4, code := c, addr := a, detail := BitVec.ofNat 64 e }
    if o.home then s.abortObj ctx o.idx (s.launchOf w o) c a (BitVec.ofNat 64 e) else s.send o.chip (.abortObj ctx o.idx c.toNat e (s.launchOf w o))
  | (.inr _, s) => s.nonhome (.core core) { s.partialOf ctx o e level index v with launch := s.launchOf w o }

/-- A contribution value in the object's format (R253), with the status flags of its conversion: its subnormals are flushed first
under the object's FTZ (R57, R239). -/
def contribVal (o : RObj) (ty v : Nat) : Nat × FFlags :=
  match tyFmt ty with
  | none => (v, {})
  | some f => ((f.decode o.desc.ftz v).exact).round (fmtCode o.desc.fmt) { mode := .rne, sat := o.desc.sat, fz := o.desc.ftz }

/-- An entry of the wave's context that is open. -/
def State.openObj (s : State) (idx : Nat) : Option RObj := (s.robj? s.w.ctx idx).bind fun o => if o.state = 1 then some o else none

/-- Table index of X (R252). -/
def robjX (f : Fields) : Nat := f.x.toNat % 64

/-- The entry is declared in the kernel header (R47). -/
def robjDeclared (k : Kernel) (f : Fields) : Bool := natBit k.robjMask (robjX f)

/-- The fields `ctb` and `ctbn` share (R252). -/
def ctbSpec : Spec :=
  { minLen := 1, long := true, ord := true, holdAhead := fun _ => true, ty := tyIn [8, 9, 10, 11], useA := true, useB := true, useC := true,
    wA := fun _ => 2, wB := fun _ => 2,
    vals := fun f => if f.mod = 0 ∧ f.x.toNat < 64 then none else some 0x0103,
    ok := fun k f => srcOk k f 3 f.a && srcOk k f 3 f.b && srcOk k f f.ty.toNat f.c && robjDeclared k f }

/-- The effect of `ctb` and `ctbn` (R253): every lane is checked before any is sent. -/
def ctbEff (i : Instr) (f : Fields) (tagged : Bool) (_ : Nat) (s : State) : Try :=
  match s.openObj (robjX f) with
  | none => .trap 0x030A s.pc (instrLow i)
  | some o =>
    let part (l : Nat) : Nat × Nat × Nat × Nat :=
      let b := srcVal s.w.r f 3 f.b l
      (srcVal s.w.r f 3 f.a l, if tagged then b / 2 ^ 58 else 0, if tagged then b % 2 ^ 58 else b, srcVal s.w.r f f.ty.toNat f.c l)
    let ls := memLanes s f
    let bad (l : Nat) : Bool := let (e, lev, ix, _) := part l; decide (e ≥ o.desc.m) || !namesNode o.desc.n lev ix
    match ls.find? bad with
    | some l =>
      let e := (part l).1
      .trap 0x0306 (if e < o.desc.m then o.addr e else s.openAddr) (BitVec.ofNat 64 e)
    | none =>
      let (op, s) := s.startOp f false false
      let w := s.w.uid
      let vals := ls.map fun l => let (e, lev, ix, v) := part l; (e, lev, ix, contribVal o f.ty.toNat v)
      let flags := vals.foldl (fun acc x => acc.or x.2.2.2.2) ({} : FFlags)
      let s := vals.foldl (fun s (e, lev, ix, v) => s.contribute w op s.w.core s.w.ctx o e lev ix v.1) s
      .ok (s.finishOp w op [] flags.bits none) none

/-- `ctb` (R252, R253). -/
def execCtb (f : Fields) (s : State) : Ans := run ctbSpec (.ctb f) f (ctbEff (.ctb f) f false) s

/-- `ctbn` (R252, R253). -/
def execCtbn (f : Fields) (s : State) : Ans := run ctbSpec (.ctbn f) f (ctbEff (.ctbn f) f true) s

/-- A `gsc` or `mdrnn` of the wave has leaves or nodes yet to send: its closes come after them (R216, R234). -/
def State.stillSends (s : State) : Bool :=
  (s.lattices.any fun x => x.wave == s.w.uid && x.grads.isSome) ||
    match s.engine? s.w.core with
    | none => false
    | some e => (e.claim.toList ++ e.pending).any fun q => q.queue.any fun x =>
        (match x.cmd with | .drnn _ _ _ _ => true | _ => false) && x.ops.any fun o => o.1 == s.w.uid

/-- The fields of `rclose`. -/
def rcloseSpec : Spec :=
  { uni := .no4, long := true, ord := true, holdAhead := fun _ => true,
    vals := fun f => if f.mod = 0 ∧ f.x.toNat < 64 then none else some 0x0103, ok := robjDeclared }

/-- `rclose` (R244, R254): the core's entries of the object leave first, then a close for every slice of the home chip. -/
def execRclose (f : Fields) (s : State) : Ans :=
  run rcloseSpec (.rclose f) f
    (fun _ s =>
      match s.openObj (robjX f) with
      | none => .trap 0x030A s.pc (instrLow (.rclose f))
      | some o =>
        if !o.desc.sparse then .trap 0x030B s.pc (instrLow (.rclose f))
        else if s.stillSends then .stall s
        else
          let (op, s) := s.startOp f false false
          let s := s.flushBuf (.core s.w.core) fun p => p.ctx == s.w.ctx && p.idx == o.idx
          let new := if o.home then closeAll s.w.ctx o.idx o.oseq none op s.w.key else [.closeOut o.chip s.w.ctx o.idx o.oseq op s.w.key]
          .ok { s with mesh := s.mesh ++ new } none) s

/-! ### ropen (R239, R240, R255) -/

/-- A descriptor from its 64 bytes. -/
def RDesc.ofBytes (bs : List Byte) : RDesc :=
  let w (i : Nat) : Nat := Sys2Proof.ofBytes ((bs.drop i).take 8)
  let x := w 0x18
  { rbase := BitVec.ofNat 64 (w 0), m := field (w 8) 0 48, n := field (w 0x10) 0 59, closes := field x 32 32, cscope := field x 11 5,
    accum := natBit x 7, sat := natBit x 6, ftz := natBit x 5, fmt := field x 3 2, opr := field x 1 2, sparse := natBit x 0,
    ccount := BitVec.ofNat 64 (w 0x20), spbase := BitVec.ofNat 64 (w 0x28 / 4096 * 4096), log2s := field (w 0x28) 0 6 }

/-- The code and byte offset of the first descriptor field that fails, in the order of R240. DEDUCED (log 32): M is the 48-bit field as
it stands, so M = 0 fails and R239's 2^48 cannot be written. -/
def RDesc.bad (fp64 : Bool) (bs : List Byte) : Option (BitVec 16 × Nat) :=
  let w (i : Nat) : Nat := Sys2Proof.ofBytes ((bs.drop i).take 8)
  let d := RDesc.ofBytes bs
  let x := w 0x18
  if w 0 % fmtBytes d.fmt ≠ 0 then some (0x0308, 0)
  else if d.m = 0 ∨ w 8 / 2 ^ 48 ≠ 0 then some (0x0308, 8)
  else if d.n = 0 ∨ d.n > 2 ^ 58 ∨ w 0x10 / 2 ^ 59 ≠ 0 then some (0x0308, 0x10)
  else if field x 16 16 ≠ 0 ∨ field x 8 3 ≠ 0 ∨ (d.sparse = false ∧ d.closes ≠ 0) ∨ (d.sparse = true ∧ d.closes = 0) ∨ d.opr = 3 ∨ d.fmt = 3 then some (0x0308, 0x18)
  else if d.fmt = 2 ∧ fp64 = false then some (0x0111, 0x18)
  else if w 0x20 % 8 ≠ 0 then some (0x0308, 0x20)
  else if field (w 0x28) 6 6 ≠ 0 ∨ d.log2s > 32 then some (0x0308, 0x28)
  else if w 0x30 ≠ 0 then some (0x0308, 0x30)
  else if w 0x38 ≠ 0 then some (0x0308, 0x38)
  else none

/-- The home of a result range: this chip, or a chip of the launch by its index; none where its ends do not agree. -/
def State.rangeHome (s : State) (e : Eng) (d : RDesc) : Option (Option Nat) × State :=
  let size := fmtBytes d.fmt
  match s.engPieces e false [(d.rbase, 1)] with
  | (.inr [a], s) =>
    match s.engPieces e false [(d.rbase + BitVec.ofNat 64 (d.m * size - 1), 1)] with
    | (.inr [b], s) =>
      let chip : EngLoc → Option Nat := fun l => match l with | .peer c _ _ _ => some c | .here _ _ _ => none
      let host : EngLoc → Bool := fun l => match l with | .here pa _ _ => decide (pa ≥ 2 ^ 51) | _ => false
      if a.cls ≤ 2 ∧ b.cls ≤ 2 ∧ chip a = chip b ∧ host a = false ∧ host b = false then (some (chip a), s.dropPins 0 []) else (none, s.dropPins 0 [])
    | (_, s) => (none, s.dropPins 0 [])
  | (_, s) => (none, s.dropPins 0 [])

/-- Write zeros into a spill region, or refuse it: every page must be writable and of class 3 (R255 step 4). -/
def State.clearSpill (s : State) (e : Eng) (d : RDesc) : Option State :=
  match s.engPieces { e with priv := true } true (pageSplit (2 ^ d.log2s) d.spbase (32 * 2 ^ d.log2s)) with
  | (.inr ls, s) => if ls.all fun l => l.cls == 3 then some ((s.engStore e.ctx [] ls (List.replicate (32 * 2 ^ d.log2s) 0)).dropPins 0 []) else none
  | (.inl _, _) => none

/-- A context notes the modes of a reduction in MODES (R383): ACCUM, SAT, FTZ, OPR and FMT. -/
def State.noteModes (s : State) (ctx : Nat) (accum sat ftz : Bool) (opr fmt : Nat) : State :=
  let n (b : Bool) : Nat := if b then 1 else 0
  s.mapCtx ctx fun c => { c with modes := c.modes ||| (1#128 <<< (((n accum * 2 + n sat) * 2 + n ftz) * 12 + opr * 4 + fmt)) }

/-- Open an entry (R255 step 5), its modes noted (R383). -/
def State.openEntry (s : State) (idx bind : Nat) (d : RDesc) (home : Option Nat) : State :=
  let w := s.w
  let old := match s.robj? w.ctx idx with | some o => o.oseq | none => 0
  let o : RObj := { idx := idx, state := 1, home := home.isNone, chip := match home with | none => s.pkg.chipNo | some c => s.chipAt w c,
                    oseq := (old + 1) % 256, bind := bind, launch := w.key, desc := d, closes := [], finished := [], doneElems := [],
                    poisoned := [], lateClose := [], phase := (s.launch? w.key).bind (·.phase) }
  (s.noteModes w.ctx d.accum d.sat d.ftz d.opr d.fmt).mapCtx w.ctx fun c => { c with
    robjs := if c.robjs.any (fun x => x.idx == idx) then updateFirst (fun x => x.idx == idx) (fun _ => o) c.robjs else c.robjs ++ [o] }

/-- The wave has stores that have not been performed. -/
def State.storesPending (s : State) : Bool := s.m.port.any fun a => a.wave == s.w.uid && a.kind.writes && !a.sp

/-- The fields of `ropen`. -/
def ropenSpec : Spec :=
  { uni := .no4, long := true, ord := true, holdAhead := fun _ => true, useA := true, wA := fun _ => 2,
    vals := fun f => if f.mod = 0 ∧ f.x.toNat < 512 then none else some 0x0103,
    ok := fun k f => pairOk k f.a && robjDeclared k f }

/-- `ropen` (R240, R255). -/
def execRopen (f : Fields) (s : State) : Ans :=
  run ropenSpec (.ropen f) f
    (fun _ s =>
      let idx := robjX f
      let va : DWord := BitVec.ofNat 64 (srcVal s.w.r f 19 f.a 0)
      if (match s.robj? s.w.ctx idx with | some o => o.state == 1 && o.home | none => false) then .trap 0x0309 s.pc (instrLow (.ropen f))
      else if !canonicalVa va then .trap 0x0201 va (xlDetail 0 .read 7)
      else if va.toNat % 64 ≠ 0 then .trap 0x020A va (xlDetail 0 .read 7)
      else if s.storesPending then .stall s
      else
        let w := s.w.uid
        let e := s.engOf 0 s.w
        let (op, s) := s.startOp f false false
        let fail (s : State) (c : BitVec 16) (a d : DWord) : Try :=
          .ok ((s.opFail w op { engine := 4, code := c, addr := a, detail := d }).finishOp w op [] 0 none) none
        match s.engResolve e false va 64 with
        | (.inl (c, a), s) => fail (s.dropPins 0 []) c a (s.engDetail e 0 .read a)
        | (.inr ls, s) =>
          let (bs, s) := s.engBytes s.w.ctx ls
          let s := s.dropPins 0 []
          let d := RDesc.ofBytes bs
          match RDesc.bad s.pkg.cap.fp64 bs with
          | some (c, n) => fail s c (if c = 0x0111 then s.openAddr else va) (BitVec.ofNat 64 n)
          | none => match s.rangeHome e d with
          | (none, s) => fail s 0x0308 va 0
          | (some home, s) =>
            let bind := field f.x.toNat 7 2
            if f.x.getLsbD 6 then
              match s.clearSpill e d with
              | none => fail s 0x0308 va 0x28
              | some s => .ok ((s.openEntry idx bind d home).finishOp w op [] 0 none) none
            else .ok ((s.openEntry idx bind d home).finishOp w op [] 0 none) none) s

/-- The word of `rstat` (R256). -/
def rstatWord (o : Option RObj) (item : Nat) : Nat :=
  match o with
  | none => 0
  | some o => match item with
    | 0 => o.state * 2 ^ 30 + (if o.home then 2 ^ 29 else 0) + o.bind * 2 ^ 27 + (if o.desc.sparse then 2 ^ 26 else 0) + o.oseq
    | 1 => if o.home then ((List.range 128).map fun n => (lookup o.closes n).getD 0).foldl min (2 ^ 32 - 1) else 0
    | 2 => if o.home then o.doneElems.length % 2 ^ 32 else 0
    | _ => if o.home then o.doneElems.length / 2 ^ 32 % 2 ^ 16 else 0

/-- The fields of `rstat`. -/
def rstatSpec : Spec :=
  { uni := .no4, long := true, ord := true, holdAhead := fun _ => true, useD := true,
    vals := fun f => if f.mod = 0 ∧ f.x.toNat < 256 then none else some 0x0103,
    ok := fun k f => sregOk k 18 f.d && robjDeclared k f }

/-- `rstat` (R256). -/
def execRstat (f : Fields) (s : State) : Ans :=
  run rstatSpec (.rstat f) f
    (fun _ s => .ok (s.longDone f (dstWr 18 f.d 0 (rstatWord (s.robj? s.w.ctx (robjX f)) (field f.x.toNat 6 2))) 0) none) s

end Sys2Proof.Machine
end

