-- ==== Sys2Proof/Machine/Coll.lean ====
section
/-! DEFINITION. Communicators, collectives and Nimbus (R265 to R274 of spec/12_fabric.md). -/

namespace Sys2Proof.Machine

/-! ### Layouts (R266, R267) -/

/-- The axes a mask names, ascending. -/
def axesIn (mask : Nat) : List Nat := (List.range 4).filter fun a => natBit mask a

/-- SIZE of an axis. -/
def Comm.size (c : Comm) (a : Nat) : Nat := nth 1 c.sizes a

/-- The product of the sizes of some axes. -/
def Comm.span (c : Comm) (axes : List Nat) : Nat := (axes.map c.size).foldl (· * ·) 1

/-- The coordinates of a rank: axis 0 varies fastest (R265). -/
def meshCoords : List Nat → Nat → List Nat
  | [], _ => []
  | n :: ns, r => r % n :: meshCoords ns (r / n)

/-- The rank at some coordinates. -/
def rankAt : List Nat → List Nat → Nat
  | n :: ns, x :: xs => x + n * rankAt ns xs
  | _, _ => 0

/-- The axes that shard dimension t in a layout map. -/
def mapAxes (map t : Nat) : List Nat := axesIn (field map (4 * t) 4)

/-- A rank's shard number over some axes: the lowest is most significant (R267). -/
def Comm.shard (c : Comm) (xs axes : List Nat) : Nat := axes.foldl (fun acc a => acc * c.size a + nth 0 xs a) 0

/-- The block sizes of a layout, by dimension. -/
def CDesc.blocks (d : CDesc) (c : Comm) (map : Nat) : List Nat :=
  (List.range d.ndim).map fun t => nth 0 d.extents t / c.span (mapAxes map t)

/-- The number of elements of a rank's block in a layout. -/
def CDesc.count (d : CDesc) (c : Comm) (map : Nat) : Nat := (d.blocks c map).foldl (· * ·) 1

/-- The global index of local element e of a rank's block (R267). -/
def CDesc.global (d : CDesc) (c : Comm) (map rank e : Nat) : List Nat :=
  let bs := d.blocks c map
  let xs := meshCoords c.sizes rank
  (List.range d.ndim).map fun t =>
    c.shard xs (mapAxes map t) * nth 0 bs t + e / (bs.take t).foldl (· * ·) 1 % nth 1 bs t

/-- The local element of a rank's block at a global index. -/
def CDesc.localOf (d : CDesc) (c : Comm) (map : Nat) (g : List Nat) : Nat :=
  let bs := d.blocks c map
  (List.range d.ndim).foldl (fun acc t => acc + nth 0 g t % nth 1 bs t * (bs.take t).foldl (· * ·) 1) 0

/-- A global index as one number. -/
def CDesc.flat (d : CDesc) (g : List Nat) : Nat :=
  (List.range d.ndim).foldl (fun acc t => acc + nth 0 g t * (d.extents.take t).foldl (· * ·) 1) 0

/-- The rank that holds partial r of the element at a global index (R268). -/
def CDesc.holder (d : CDesc) (c : Comm) (r : Nat) (g : List Nat) : Nat :=
  let ps := axesIn d.part
  let x (a : Nat) : Nat :=
    if ps.contains a then r / c.span (ps.filter (· < a)) % c.size a
    else match (List.range d.ndim).find? fun t => (mapAxes d.inmap t).contains a with
      | none => 0
      | some t => nth 0 g t / nth 1 (d.blocks c d.inmap) t / c.span ((mapAxes d.inmap t).filter fun b => decide (b > a)) % c.size a
  rankAt c.sizes ((List.range c.sizes.length).map x)

/-- The number of partials of an element (R268). -/
def CDesc.parts (d : CDesc) (c : Comm) : Nat := c.span (axesIn d.part)

/-- Bytes of an element (R266). -/
def CDesc.esize (d : CDesc) : Nat := match d.fmt with | 1 => 2 | 2 => 8 | _ => 4

/-- The elements a rank's output needs: holder and global index, for each of its elements in order. -/
def CDesc.needs (d : CDesc) (c : Comm) (rank : Nat) : List (Nat × Nat × List Nat) :=
  (List.range (d.count c d.outmap)).flatMap fun e =>
    let g := d.global c d.outmap rank e
    (List.range (d.parts c)).map fun r => (d.holder c r g, r, g)

/-! ### Values (R268) -/

/-- A bare node of the tree. -/
def treeNode (level index v : Nat) : Partial :=
  { ctx := 0, idx := 0, elem := 0, level := level, index := index, val := BitVec.ofNat 64 v, oseq := 0, kind := 0, opr := 0, fmt := 0,
    ftz := false, sat := false, n := 0, dst := 0, launch := LKey.none, dup := false }

/-- COMBINE of a collective. -/
def CDesc.comb (d : CDesc) (x y : Nat) : Nat :=
  if d.fmt = 3 then (combineInt 32 true d.opr x y).1 else combineObj d.opr d.fmt d.sat d.ftz x y

/-- Y of an element from the values of its partials, in order of r (R268). -/
def CDesc.value (d : CDesc) (vs : List Nat) : Nat :=
  if d.part = 0 then vs.headD 0
  else
    let leaf (v : Nat) : Nat := if d.fmt = 3 then v else fpLeaf (fmtCode d.fmt) false v
    let n := vs.length * 2 ^ d.log2lpr
    (nodeValue d.comb (vs.zipIdx.map fun (v, r) => treeNode d.log2lpr r (leaf v)) (clog2 n) 0).getD 0

/-! ### Descriptors (R266) -/

/-- A descriptor from its 64 bytes. -/
def CDesc.ofBytes (bs : List Byte) : CDesc :=
  let u (at_ size : Nat) : Nat := Sys2Proof.ofBytes ((bs.drop at_).take size)
  let x := u 0x10 8
  let m := u 0x30 8
  { src := BitVec.ofNat 64 (u 0 8), dst := BitVec.ofNat 64 (u 8 8), ndim := field x 24 3, log2lpr := field x 16 8, cscope := field x 11 5,
    sat := natBit x 6, ftz := natBit x 5, fmt := field x 3 2, opr := field x 1 2, ccount := BitVec.ofNat 64 (u 0x18 8),
    extents := (List.range 4).map fun t => u (0x20 + 4 * t) 4, part := field m 32 4, outmap := field m 16 16, inmap := m % 2 ^ 16 }

/-- A list has no value twice. -/
def noRepeat (l : List Nat) : Bool := l.eraseDups.length == l.length

/-- A descriptor breaks R266 for a communicator. -/
def CDesc.bad (d : CDesc) (c : Comm) (bs : List Byte) : Bool :=
  let u (at_ size : Nat) : Nat := Sys2Proof.ofBytes ((bs.drop at_).take size)
  let x := u 0x10 8
  let all := List.range 4
  let ins := all.flatMap fun t => mapAxes d.inmap t
  let outs := all.flatMap fun t => mapAxes d.outmap t
  let naxes := c.sizes.length
  d.src.toNat % d.esize != 0 || d.dst.toNat % d.esize != 0 || x / 2 ^ 27 != 0 || field x 7 4 != 0 || natBit x 0 ||
    d.ndim == 0 || decide (d.ndim > 4) || decide (d.log2lpr > 58) || d.opr == 3 || d.ccount.toNat % 8 != 0 ||
    (all.any fun t => (nth 0 d.extents t == 0) == decide (t < d.ndim)) || u 0x30 8 / 2 ^ 36 != 0 || u 0x38 8 != 0 ||
    !noRepeat (ins ++ axesIn d.part) || !noRepeat outs || ((ins ++ outs ++ axesIn d.part).any fun a => decide (a ≥ naxes)) ||
    (all.any fun t => decide (t ≥ d.ndim) && (field d.inmap (4 * t) 4 != 0 || field d.outmap (4 * t) 4 != 0)) ||
    (all.any fun t => [d.inmap, d.outmap].any fun m => nth 0 d.extents t % c.span (mapAxes m t) != 0) ||
    (if d.part = 0 then d.log2lpr != 0 else decide (d.parts c * 2 ^ d.log2lpr > 2 ^ 58)) || (d.fmt == 3 && (d.sat || d.ftz))

/-- What the ranks' entries and descriptors must agree in (R265, R269). -/
def digestOf (c : Comm) (d : CDesc) : CollDigest :=
  let n (b : Bool) : Nat := if b then 1 else 0
  { comm := [c.sizes.length, c.prio, c.bufKib] ++ c.sizes ++ c.ranks
    desc := [d.ndim] ++ d.extents ++ [d.inmap, d.outmap, d.part, d.fmt, d.opr, d.log2lpr, n d.sat, n d.ftz] }

/-! ### Instances -/

/-- An instance nothing has reached. -/
def Coll.fresh (comm : Nat) (inst : Word) : Coll :=
  { comm := comm, inst := inst, started := false, desc := none, wave := none, packet := none, launch := none, starts := [], inputs := [],
    sent := 0, written := 0, stage := 0, code := 0, after := 0 }

/-- A communicator entry that a context of this chip may use: valid, and naming this chip (R273). -/
def State.comm? (s : State) (ctx comm : Nat) : Option Comm :=
  match s.ctx? ctx with
  | none => none
  | some c => match lookup c.comms comm with
    | none => none
    | some e => if e.ranks.contains s.pkg.chipNo then some e else none

/-- An instance of a communicator. -/
def State.coll? (s : State) (ctx comm : Nat) (inst : Word) : Option Coll :=
  match s.ctx? ctx with | none => none | some c => c.colls.find? fun x => x.comm == comm && x.inst == inst

/-- Change an instance, making it if nothing has reached it. -/
def State.mapColl (s : State) (ctx comm : Nat) (inst : Word) (f : Coll → Coll) : State :=
  let mine (x : Coll) : Bool := x.comm == comm && x.inst == inst
  s.mapCtx ctx fun c => { c with
    colls := if c.colls.any mine then updateFirst mine f c.colls else c.colls ++ [f (Coll.fresh comm inst)] }

/-- The detail word of a code of R274: for 0x0423 the R92 code stands in bits [31:16]. -/
def collDetail (comm : Nat) (inst : Word) (cause : Nat) : DWord := BitVec.ofNat 64 (comm + cause * 2 ^ 16 + inst.toNat * 2 ^ 32)

/-- The watch on an instance's input ends. -/
def State.dropInWatch (s : State) (ctx comm : Nat) (inst : Word) : State :=
  s.withM fun m => { m with inWatch := m.inWatch.filter fun x => !(x.ctx == ctx && x.comm == comm && x.inst == inst) }

/-- The byte ranges of an instance's input written since it started (R268). -/
def State.inputHits (s : State) (ctx comm : Nat) (inst : Word) : List (Nat × Nat) :=
  (s.m.inWatch.filter fun x => x.ctx == ctx && x.comm == comm && x.inst == inst).flatMap (·.hits)

/-- A local input element has been written. -/
def elemHit (hits : List (Nat × Nat)) (size e : Nat) : Bool := hits.any fun h => decide (h.1 < size * e + size ∧ size * e < h.1 + h.2)

/-- The engine identity of a collective. -/
def State.collEng (s : State) (ctx : Nat) (x : Coll) : Eng :=
  match x.launch with
  | none => s.engAs 0 ctx
  | some k => match s.launch? k with
    | none => s.engAs 0 ctx
    | some l => { s.engAs 0 ctx with own := l.index, chips := l.chips.length }

/-- The chips of the launch of a collective. -/
def State.collChips (s : State) (x : Coll) : List Nat := match x.launch with | none => [] | some k => s.launchChips k

/-- The value of a needed element, once its holder has sent it. -/
def Coll.input (x : Coll) (c : Comm) (d : CDesc) (holder : Nat) (g : List Nat) : Option Nat :=
  (x.inputs.find? fun i => i.1 == nth 0 c.ranks holder && i.2.1 == d.flat g).map fun i => i.2.2.toNat

/-- The bytes of a rank's output. -/
def CDesc.total (d : CDesc) (c : Comm) : Nat := d.esize * d.count c d.outmap

/-- An element has come from its holder a second time: its input has been written since it was sent, and it is undefined (R268). -/
def Coll.twice (x : Coll) (c : Comm) (d : CDesc) (holder : Nat) (g : List Nat) : Bool :=
  decide ((x.inputs.filter fun i => i.1 == nth 0 c.ranks holder && i.2.1 == d.flat g).length > 1)

/-- A local output element depends on an input element that has been written since the start, here or at the rank that holds it: it is
undefined (R268). -/
def Coll.outHit (x : Coll) (d : CDesc) (c : Comm) (hits : List (Nat × Nat)) (rank e : Nat) : Bool :=
  let g := d.global c d.outmap rank e
  (List.range (d.parts c)).any fun r =>
    (d.holder c r g == rank && elemHit hits d.esize (d.localOf c d.inmap g)) || x.twice c d (d.holder c r g) g

/-- The instance is complete at this rank: its flag or packet, then its counter (R270). -/
def State.collDone (s : State) (ctx : Nat) (x : Coll) (d : CDesc) : State :=
  let s := (s.mapColl ctx x.comm x.inst fun x => { x with stage := 1 }).dropInWatch ctx x.comm x.inst
  let s := match x.wave, x.packet with
    | some (w, op), _ => s.finishOp w op [] 0 none
    | none, some (q, slot) => s.packetDone q slot true
    | none, none => s
  s.bump ctx 7 x.launch d.ccount

/-- What every rank but this one needs of the input elements a test picks (R268). -/
def State.collSpread (s : State) (ctx : Nat) (x : Coll) (d : CDesc) (c : Comm) (rank : Nat) (pick : Nat → Bool) (value : Nat → DWord) : State :=
  c.ranks.zipIdx.foldl (fun s (chip, j) =>
    let vs := ((d.needs c j).filter fun y => y.1 == rank && pick (d.localOf c d.inmap y.2.2)).map fun y =>
      (d.flat y.2.2, value (d.localOf c d.inmap y.2.2))
    if j = rank ∨ vs.isEmpty then s else s.send chip (.collData ctx x.comm x.inst s.pkg.chipNo vs)) s

/-- Input bytes written since they were sent leave undefined the output elements that depend on them, those already written too: here
they are written again as free values, and the other ranks are told (R268). -/
def State.collLoosen (s : State) (ctx : Nat) (x : Coll) (d : CDesc) (c : Comm) : State :=
  let rank := c.ranks.findIdx fun r => r == s.pkg.chipNo
  let size := d.esize
  let hits := s.inputHits ctx x.comm x.inst
  let free := s.free
  let s := if hits.isEmpty then s
    else ({ s with free := s.free + 1 }).collSpread ctx x d c rank (elemHit hits size) fun e => Config.freeDWord (free * 2 ^ 40 + e)
  ((List.range (x.written / size)).filter fun e => x.outHit d c hits rank e).foldl (fun s e =>
    match s.engResolve (s.collEng ctx x) true (d.dst + BitVec.ofNat 64 (size * e)) size with
    | (.inl _, s) => s.dropPins 0 []
    | (.inr ls, s) =>
      (({ s with free := s.free + 1 }).engStore ctx (s.collChips x) ls ((List.range size).map fun j => Config.freeByte (s.free * 2 ^ 56 + j)) 0
        none).dropPins 0 []) s

/-- An instance ends complete (R268, R270). -/
def State.collEnd (s : State) (ctx : Nat) (x : Coll) (d : CDesc) (c : Comm) : State := (s.collLoosen ctx x d c).collDone ctx x d

/-- The last output sector of an instance has been written at its point (R271). -/
def State.collWritten (s : State) (ctx : Nat) (x : Coll) (d : CDesc) (c : Comm) : Bool :=
  decide (0 < d.total c ∧ d.total c ≤ x.written) && !s.peerWaits (.coll ctx x.comm x.inst)

/-- The instance ends at this rank, aborted, with the record of its cause, or complete where its last sector had been written (R271). One
not started is marked, with its cause. -/
def State.abortHere (s : State) (ctx comm : Nat) (inst : Word) (code : Nat) (addr : DWord) (cause : Nat) : State :=
  let fail (s : State) (x : Coll) : State :=
    let s := (s.mapColl ctx comm inst fun x => { x with stage := 2, code := code + cause * 2 ^ 16 }).dropInWatch ctx comm inst
    let c := BitVec.ofNat 16 code
    let detail := collDetail comm inst cause
    match x.wave, x.packet with
    | some (w, op), _ => (s.opFail w op { engine := 7, code := c, addr := addr, detail := detail }).finishOp w op [] 0 none
    | none, some (q, slot) => (s.failNoWave (s.ctxRecord ctx none 7 c (s.recAddr c addr) detail) none).packetDone q slot false
    | none, none => s
  let x := (s.coll? ctx comm inst).getD (Coll.fresh comm inst)
  if x.stage ≠ 0 then s
  else match x.desc, s.comm? ctx comm with
  | some d, some c => if s.collWritten ctx x d c then s.collEnd ctx x d c else fail s x
  | _, _ => fail s x

/-- The instance is aborted on every rank this chip's entry names (R265, R271). -/
def State.abortColl (s : State) (ctx comm : Nat) (inst : Word) (code : Nat) (addr : DWord) (cause : Nat) : State :=
  let s := s.abortHere ctx comm inst code addr cause
  match s.comm? ctx comm with
  | none => s
  | some c => (c.ranks.filter fun r => r != s.pkg.chipNo).foldl (fun s r => s.send r (.collAbort ctx comm inst ((if code = 0x0111 then 0x0421 else code) + cause * 2 ^ 16))) s

/-- `COLL_ABORT` (R271, R274): an abort reaches this rank; above its code stands the R92 code of a 0x0423. -/
def execCollAbort (ctx comm : Nat) (inst : Word) (code : Nat) (s : State) : Ans :=
  .next (s.abortHere ctx comm inst (code % 2 ^ 16) 0 (code / 2 ^ 16))

/-- `COLL_START_MESSAGE` (R265, R269): another rank has started an instance. -/
def execCollStartMessage (ctx comm : Nat) (inst : Word) (src : Nat) (g : CollDigest) (s : State) : Ans :=
  let s := s.mapColl ctx comm inst fun x => { x with starts := assign src g x.starts }
  match s.comm? ctx comm with
  | none => .next s
  | some c =>
    let x := (s.coll? ctx comm inst).getD (Coll.fresh comm inst)
    let mine := digestOf c (x.desc.getD (CDesc.ofBytes []))
    if c.ranks.contains src = false ∨ g.comm ≠ mine.comm ∨ (x.desc.isSome ∧ g.desc ≠ mine.desc) then
      .next (s.abortColl ctx comm inst 0x0421 0 0)
    else .next s

/-- The pieces of a range that lie in this package, as watches on a collective's input. -/
def inWatches (ctx comm : Nat) (inst : Word) : Nat → List EngLoc → List InWatch
  | _, [] => []
  | off, .here pa _ n :: ls => { ctx := ctx, comm := comm, inst := inst, off := off, pa := pa, n := n, hits := [] } :: inWatches ctx comm inst (off + n) ls
  | off, .peer _ _ _ n :: ls => inWatches ctx comm inst (off + n) ls

/-- From its start on, writes to a collective's input are seen (R268). -/
def State.watchInput (s : State) (ctx comm : Nat) (inst : Word) (e : Eng) (va : DWord) (n : Nat) : State :=
  match s.engPieces e false (pageSplit (n / 2 ^ 16 + 2) va n) with
  | (.inl _, s) => s.dropPins 0 []
  | (.inr ls, s) => (s.dropPins 0 []).withM fun m => { m with inWatch := m.inWatch ++ inWatches ctx comm inst 0 ls }

/-- An instance starts on this chip (R269, R273): its descriptor is read once, checked and announced, its modes
noted (R383). -/
def State.startColl (s : State) (ctx comm : Nat) (inst : Word) (va : DWord) (e : Eng) (c : Comm) : State :=
  let x := (s.coll? ctx comm inst).getD (Coll.fresh comm inst)
  let me := s.pkg.chipNo
  if x.code ≠ 0 then (s.mapColl ctx comm inst fun x => { x with stage := 0 }).abortColl ctx comm inst (x.code % 2 ^ 16) 0 (x.code / 2 ^ 16)
  else
    let fault (s : State) (code : BitVec 16) (a : DWord) : State := s.abortColl ctx comm inst 0x0423 a code.toNat
    match s.engResolve e false va 64 with
    | (.inl (code, a), s) => fault (s.dropPins 0 []) code a
    | (.inr ls, s) =>
      if ls.any fun l => l.cls != 0 then fault (s.dropPins 0 []) 0x0209 va
      else
        let (bs, s) := s.engBytes ctx ls
        let s := s.dropPins 0 []
        let d := CDesc.ofBytes bs
        if d.bad c bs then s.abortColl ctx comm inst 0x0421 0 0
        else if d.fmt = 2 ∧ s.pkg.cap.fp64 = false then s.abortColl ctx comm inst 0x0111 0 0
        else
          let g := digestOf c d
          let s := (s.noteModes ctx false d.sat d.ftz d.opr d.fmt).mapColl ctx comm inst fun x => { x with desc := some d, starts := assign me g x.starts }
          if c.ranks.any fun r => !s.routed r then s.abortColl ctx comm inst 0x0425 0 0
          else
            let s := (c.ranks.filter fun r => r != me).foldl (fun s r => s.send r (.collStart ctx comm inst me g)) s
            let s := s.watchInput ctx comm inst e d.src (d.esize * d.count c d.inmap)
            if x.starts.any fun y => y.2 != g || !c.ranks.contains y.1 then s.abortColl ctx comm inst 0x0421 0 0 else s

/-- The number of the next instance of a communicator on this chip (R269). -/
def State.nextInst (s : State) (ctx comm : Nat) : Word :=
  match s.ctx? ctx with | none => 0 | some c => (lookup c.collNext comm).getD 0

/-- Number an instance. -/
def State.takeInst (s : State) (ctx comm : Nat) : State :=
  s.mapCtx ctx fun c => { c with collNext := assign comm ((lookup c.collNext comm).getD 0 + 1) c.collNext }

/-! ### Nimbus (R270) -/

/-- An instance is the oldest of its communicator in flight on this chip, and its context is not stopped (R270, R272). -/
def State.collTurn (s : State) (ctx : Nat) (x : Coll) : Bool :=
  match s.ctx? ctx with
  | none => false
  | some c => !c.stopped && c.restoring.isNone && x.started && x.stage == 0 && x.desc.isSome &&
      c.colls.all fun y => y.comm != x.comm || !y.started || y.stage != 0 || y.inst == x.inst || decide ((x.inst - y.inst).toNat ≥ 2 ^ 31)

/-- The bytes of the next chunk of a transfer: up to the next 64 KiB boundary (R270). -/
def chunkLen (va : DWord) (done total : Nat) : Nat := min (2 ^ 16 - (va.toNat + done) % 2 ^ 16) (total - done)

/-- Read the next chunk of this rank's input block and send every rank the elements of it that it needs (R268, R270); an element written
since the start counts as undefined. -/
def State.collSend (s : State) (ctx : Nat) (x : Coll) (d : CDesc) (c : Comm) : State :=
  let me := s.pkg.chipNo
  let rank := c.ranks.findIdx fun r => r == me
  let size := d.esize
  let n := chunkLen d.src x.sent (size * d.count c d.inmap)
  match s.engResolve (s.collEng ctx x) false (d.src + BitVec.ofNat 64 x.sent) n with
  | (.inl (code, a), s) => (s.dropPins 0 []).abortColl ctx x.comm x.inst 0x0423 a code.toNat
  | (.inr ls, s) =>
    let hits := s.inputHits ctx x.comm x.inst
    let free := s.free
    let (bs, s) := s.engBytes ctx ls
    let s := s.dropPins 0 []
    let value (e : Nat) : DWord :=
      if elemHit hits size e then Config.freeDWord (free * 2 ^ 40 + e)
      else BitVec.ofNat 64 (ofBytes ((bs.drop (size * e - x.sent)).take size))
    let now (e : Nat) : Bool := decide (x.sent ≤ size * e ∧ size * e < x.sent + n)
    let mine := ((d.needs c rank).filter fun y => y.1 == rank && now (d.localOf c d.inmap y.2.2)).map
      fun y => (me, d.flat y.2.2, value (d.localOf c d.inmap y.2.2))
    let s := (s.mapColl ctx x.comm x.inst fun x => { x with inputs := x.inputs ++ mine }).collSpread ctx x d c rank now value
    s.mapColl ctx x.comm x.inst fun x => { x with sent := x.sent + n }

/-- Local output element e, once every partial of it has come. -/
def Coll.output (x : Coll) (c : Comm) (d : CDesc) (rank e : Nat) : Option Nat :=
  let g := d.global c d.outmap rank e
  let vs := (List.range (d.parts c)).map fun r => x.input c d (d.holder c r g) g
  if vs.all (·.isSome) then some (d.value (vs.map fun v => v.getD 0)) else none

/-- The dimension an axis shards in a layout. -/
def CDesc.shards (d : CDesc) (map a : Nat) : Option Nat := (List.range d.ndim).find? fun t => (mapAxes map t).contains a

/-- Input and output blocks overlap where R268 does not allow it: the output is undefined. -/
def CDesc.clash (d : CDesc) (c : Comm) : Bool :=
  let size := d.esize
  let (a, b) := (d.src.toNat, d.dst.toNat)
  decide (a < b + size * d.count c d.outmap ∧ b < a + size * d.count c d.inmap) &&
    !(a == b && (List.range c.sizes.length).all fun x =>
      if natBit d.part x then (d.shards d.outmap x).isNone else d.shards d.inmap x == d.shards d.outmap x)

/-- A rank whose blocks lie in one place with no exchange along any axis copies nothing of its own (R268). -/
def CDesc.still (d : CDesc) (c : Comm) : Bool :=
  d.src == d.dst && d.part == 0 && (List.range c.sizes.length).all fun a => d.shards d.inmap a == d.shards d.outmap a

/-- The elements of the next chunk of this rank's output, none where a partial of one has not come (R270). -/
def Coll.chunk (x : Coll) (c : Comm) (d : CDesc) (rank : Nat) : List (Option Nat) :=
  (List.range (chunkLen d.dst x.written (d.total c) / d.esize)).map fun i => x.output c d rank (x.written / d.esize + i)

/-- Write the next chunk of this rank's output: the whole sectors up to the next 64 KiB boundary (R270). Its own writes do not count as
writes to its own input. -/
def State.collWrite (s : State) (ctx : Nat) (x : Coll) (d : CDesc) (c : Comm) : State :=
  let rank := c.ranks.findIdx fun r => r == s.pkg.chipNo
  let size := d.esize
  let at_ := d.dst + BitVec.ofNat 64 x.written
  let n := chunkLen d.dst x.written (d.total c)
  let vs := x.chunk c d rank
  if vs.all (·.isSome) then
    match s.engResolve (s.collEng ctx x) true at_ n with
    | (.inl (code, a), s) => (s.dropPins 0 []).abortColl ctx x.comm x.inst 0x0423 a code.toNat
    | (.inr ls, s) =>
      let hits := s.inputHits ctx x.comm x.inst
      let loose (e : Nat) : Bool := d.clash c || x.outHit d c hits rank e
      let bs := vs.zipIdx.flatMap fun (v, i) =>
        if loose (x.written / size + i) then (List.range size).map fun j => Config.freeByte (s.free * 2 ^ 56 + i * size + j)
        else natBytes size (v.getD 0)
      let seen := s.m.inWatch
      let s := (({ s with free := s.free + 1 }).engStore ctx (s.collChips x) ls bs 0 (some (.coll ctx x.comm x.inst))).dropPins 0 []
      (s.withM fun m => { m with inWatch := m.inWatch.map fun y =>
          if y.ctx = ctx ∧ y.comm = x.comm ∧ y.inst = x.inst then (seen.find? fun z => z.ctx == ctx && z.comm == x.comm && z.inst == x.inst && z.off == y.off).getD y
          else y }).mapColl ctx x.comm x.inst fun x => { x with written := x.written + n }
  else s

/-- Stores its wave issued before a `coll` have yet to be performed (R273). -/
def State.collWaits (s : State) (x : Coll) : Bool :=
  match x.wave with
  | none => false
  | some (w, _) => s.m.port.any fun a => a.wave == w && a.kind.writes && decide (a.id < x.after)

/-- What Nimbus does next with an instance. -/
inductive CollStep where
  | wait | done | send | write
deriving DecidableEq, Repr

/-- Some other rank needs an element of this one. -/
def State.collNeeded (s : State) (d : CDesc) (c : Comm) : Bool :=
  let rank := c.ranks.findIdx fun r => r == s.pkg.chipNo
  (List.range c.ranks.length).any fun j => j != rank && (d.needs c j).any fun y => y.1 == rank

/-- The next step of an instance (R268, R270): once every rank has started it sends its input, then writes its output as its partials
come, and completes when every output byte is at its point. -/
def State.collNextStep (s : State) (ctx : Nat) (x : Coll) (d : CDesc) (c : Comm) : CollStep :=
  if !s.collTurn ctx x || s.collWaits x || (c.ranks.any fun r => (lookup x.starts r).isNone) then .wait
  else if x.sent < d.esize * d.count c d.inmap ∧ !(d.still c && !s.collNeeded d c) then .send
  else if d.still c then .done
  else if x.written < d.total c then
    (if (x.chunk c d (c.ranks.findIdx fun r => r == s.pkg.chipNo)).all (·.isSome) then .write else .wait)
  else if s.peerWaits (.coll ctx x.comm x.inst) then .wait else .done

/-- A communicator has been served: it comes after the others of its PRIO (R270). -/
def State.serveColl (s : State) (ctx comm : Nat) : State :=
  let (n, s) := s.fresh
  s.mapCtx ctx fun c => { c with collServed := assign comm n c.collServed }

/-- `NIMBUS_CHUNK` (R268, R270): an instance sends a chunk of its input, writes a chunk of its output, or completes. -/
def execNimbusChunk (ctx comm : Nat) (inst : Word) (s : State) : Ans :=
  match s.coll? ctx comm inst, s.comm? ctx comm with
  | some x, some c => match x.desc with
    | none => .next s
    | some d => match s.collNextStep ctx x d c with
      | .wait => .next s
      | .done => .next ((s.serveColl ctx comm).collEnd ctx x d c)
      | .send => .next ((s.serveColl ctx comm).collSend ctx x d c)
      | .write => .next ((s.serveColl ctx comm).collWrite ctx x d c)
  | _, _ => .next s

/-- Elements from another rank have come. -/
def State.collData (s : State) (ctx comm : Nat) (inst : Word) (src : Nat) (vals : List (Nat × DWord)) : State :=
  s.mapColl ctx comm inst fun x => { x with inputs := x.inputs ++ vals.map fun v => (src, v) }

/-! ### coll, collx and the COLL packet -/

/-- The communicator of X (R273). -/
def commX (f : Fields) : Nat := f.x.toNat % 16

/-- The fields `coll` and `collx` share. -/
def collSpec (len : Nat) : Spec :=
  { minLen := len, uni := .no4, long := true, ord := true, holdAhead := fun _ => true, useD := true, useA := true,
    vals := fun f => if f.mod = 0 ∧ f.x.toNat < 16 then none else some 0x0103 }

/-- The fields of `coll`. -/
def collFields : Spec :=
  { collSpec 1 with wA := fun _ => 2, ok := fun k f => pairOk k f.a && sregOrNull k 18 f.d }

/-- `coll` (R269, R273). -/
def execColl (f : Fields) (s : State) : Ans :=
  run collFields (.coll f) f
    (fun _ s =>
      let comm := commX f
      let ctx := s.w.ctx
      let inst := s.nextInst ctx comm
      let va : DWord := BitVec.ofNat 64 (srcVal s.w.r f 19 f.a 0)
      match s.comm? ctx comm with
      | none => .trap 0x0422 s.pc (collDetail comm inst 0)
      | some c =>
        if !canonicalVa va then .trap 0x0201 va (xlDetail 0 .read 7)
        else if va.toNat % 64 ≠ 0 then .trap 0x020A va (xlDetail 0 .read 7)
        else if s.storesPending then .stall s
        else
          let w := s.w
          let e := s.engOf 0 w
          let (op, s) := s.startOp f false false
          let s := (s.takeInst ctx comm).withR fun r => r.puts (dstWr 18 f.d 0 inst.toNat)
          let s := s.mapColl ctx comm inst fun x => { x with started := true, wave := some (w.uid, op), launch := some w.key, after := s.nextId }
          .ok (s.startColl ctx comm inst va e c) none) s

/-- The fields of `collx`. -/
def collxSpec : Spec :=
  { collSpec 0 with wA := fun _ => 1, ok := fun k f => scalarOk k f f.a && sregOrNull k 18 f.d }

/-- `collx` (R273). -/
def execCollx (f : Fields) (s : State) : Ans :=
  run collxSpec (.collx f) f
    (fun _ s =>
      let comm := commX f
      let ctx := s.w.ctx
      let k : Word := BitVec.ofNat 32 (src32 s.w.r f f.a 0)
      match s.comm? ctx comm with
      | none => .trap 0x0422 s.pc (collDetail comm k 0)
      | some _ =>
        let newest := s.nextInst ctx comm - 1
        let ahead := (k - newest).toNat
        let behind := (newest - k).toNat
        let done (s : State) (v : Nat) : Try := .ok (s.longDone f (dstWr 18 f.d 0 v) 0) none
        if 1 ≤ ahead ∧ ahead ≤ 255 then
          done (s.mapColl ctx comm k fun x => if x.stage = 0 then { x with stage := 2, code := 0x0420 } else x) 2
        else if behind > 255 then done s 3
        else match s.coll? ctx comm k with
        | none => done s 3
        | some x => match x.stage with
          | 0 =>
            let s := s.abortColl ctx comm k 0x0420 0 0
            done s (if (s.coll? ctx comm k).any (·.stage == 1) then 0 else 1)
          | 1 => done s 0
          | _ => done s 1) s

/-- `COLL_PACKET` (R269): a collective bound to the packet's job. -/
def execCollPacket (queue slot : Nat) (s : State) : Ans :=
  match s.ready queue slot 6 with
  | none => .next s
  | some (q, p) =>
    let s := s.stagePacket queue slot 1
    let comm := word p.words 3 % 16
    let va := nth 0 p.words 2
    let inst := s.nextInst q.ctx comm
    let fail (code : BitVec 16) (addr detail : DWord) : Ans :=
      .next ((s.failNoWave (s.ctxRecord q.ctx none 8 code addr detail) none).packetDone queue slot false)
    match s.comm? q.ctx comm with
    | none => fail 0x0422 s.openAddr (collDetail comm inst 0)
    | some c =>
      if !canonicalVa va then fail 0x0201 va (xlDetail 0 .read 7)
      else if va.toNat % 64 ≠ 0 then fail 0x020A va (xlDetail 0 .read 7)
      else
        let s := (s.takeInst q.ctx comm).mapColl q.ctx comm inst fun x => { x with started := true, packet := some (queue, slot) }
        .next (s.startColl q.ctx comm inst va (s.engAs 0 q.ctx) c)

end Sys2Proof.Machine
end

