-- ==== Sys2Proof/Machine/Codec.lean ====
section
/-! DEFINITION. How the state of waves, teams, engines and contexts is written as bytes in a saved image, a save area and a dump, and read back
(R200, R301, R363 to R365, R373). The spec gives these parts no layout (log 12). -/

namespace Sys2Proof.Machine

/-- How a part of something is written as numbers, and what is made of the numbers read back with those that follow. -/
structure Rec (α β : Type) where
  put : α → List Nat
  get : List Nat → Option (β × List Nat)

/-- How a value is written as numbers and read back. -/
abbrev Codec (α : Type) := Rec α α

/-- A record of which nothing is written yet. -/
def Rec.start {α β : Type} (mk : β) : Rec α β := { put := fun _ => [], get := fun t => some (mk, t) }

/-- The record's next field. -/
def Rec.field {α β γ : Type} (r : Rec α (γ → β)) (c : Codec γ) (f : α → γ) : Rec α β :=
  { put := fun a => r.put a ++ c.put (f a), get := fun t => (r.get t).bind fun (g, t) => (c.get t).map fun (x, t) => (g x, t) }

/-- A value seen as another. -/
def Codec.as {α β : Type} (c : Codec α) (f : β → α) (g : α → β) : Codec β :=
  { put := fun b => c.put (f b), get := fun t => (c.get t).map fun (a, t) => (g a, t) }

/-- A number. -/
def Codec.nat : Codec Nat := { put := fun n => [n], get := fun | [] => none | n :: t => some (n, t) }

/-- A truth value. -/
def Codec.bool : Codec Bool := Codec.nat.as (fun b => if b then 1 else 0) (· != 0)

/-- Bits. -/
def Codec.bv (w : Nat) : Codec (BitVec w) := Codec.nat.as BitVec.toNat (BitVec.ofNat w)

/-- An integer, its sign in the lowest bit. -/
def Codec.int : Codec Int :=
  Codec.nat.as (fun i => if i < 0 then 2 * (-i).toNat + 1 else 2 * i.toNat) fun n => if n % 2 = 1 then -((n / 2 : Nat) : Int) else ((n / 2 : Nat) : Int)

/-- Two values. -/
def Codec.and {α β : Type} (a : Codec α) (b : Codec β) : Codec (α × β) := Rec.start Prod.mk |>.field a (·.1) |>.field b (·.2)

/-- A value that may be absent. -/
def Codec.option {α : Type} (c : Codec α) : Codec (Option α) :=
  { put := fun | none => [0] | some a => 1 :: c.put a
    get := fun | 1 :: t => (c.get t).map (fun (a, t) => (some a, t)) | _ :: t => some (none, t) | [] => none }

/-- The next n values. -/
def Codec.many {α : Type} (c : Codec α) : Nat → List Nat → Option (List α × List Nat)
  | 0, t => some ([], t)
  | n + 1, t => (c.get t).bind fun (a, t) => (c.many n t).map fun (as, t) => (a :: as, t)

/-- A list, its length first. -/
def Codec.list {α : Type} (c : Codec α) : Codec (List α) :=
  { put := fun as => as.length :: as.flatMap c.put, get := fun | [] => none | n :: t => c.many n t }

/-- Sparse storage. -/
def Codec.cells (w : Nat) : Codec (Cells w) := Codec.list (Codec.nat.and (Codec.bv w))

/-! ### Bytes -/

/-- A number as bytes: how many follow, then the number. -/
def numBytes (n : Nat) : List Byte :=
  let k := if n = 0 then 0 else Nat.log2 n / 8 + 1
  BitVec.ofNat 8 k :: natBytes k n

/-- Numbers as bytes. -/
def tokenBytes (ts : List Nat) : List Byte := ts.flatMap numBytes

/-- The numbers that bytes hold. -/
def bytesTokens : Nat → List Byte → List Nat
  | 0, _ => []
  | _, [] => []
  | n + 1, b :: bs => ofBytes (bs.take b.toNat) :: bytesTokens n (bs.drop b.toNat)

/-- A value as bytes. -/
def Codec.bytes {α : Type} (c : Codec α) (a : α) : List Byte := tokenBytes (c.put a)

/-- A value from bytes; none where they hold none. -/
def Codec.ofBytes {α : Type} (c : Codec α) (bs : List Byte) : Option α := (c.get (bytesTokens bs.length bs)).map (·.1)

/-! ### Waves -/

/-- The identity of a launch. -/
def LKey.codec : Codec LKey :=
  Rec.start LKey.mk |>.field .nat (·.chip) |>.field .nat (·.queue) |>.field .nat (·.slot) |>.field (.option .nat) (·.node)

/-- A register write: its kind, register, lane and value, or a predicate's mask and bits. -/
def Wr.codec : Codec Wr :=
  Codec.as (Codec.nat.and (Codec.nat.and (Codec.nat.and .nat)))
    (fun | .v r l x => (0, r, l, x.toNat) | .s r x => (1, r, 0, x.toNat) | .p r m b => (2, r, m.toNat, b.toNat) | .em x => (3, 0, 0, x.toNat))
    fun | (0, r, l, x) => .v r l (BitVec.ofNat 32 x) | (1, r, _, x) => .s r (BitVec.ofNat 32 x)
        | (2, r, m, b) => .p r (BitVec.ofNat 64 m) (BitVec.ofNat 64 b) | (_, _, _, x) => .em (BitVec.ofNat 64 x)

/-- A short result on its way. -/
def Pend.codec : Codec Pend :=
  Rec.start Pend.mk |>.field .nat (·.due) |>.field (.list Wr.codec) (·.wrs)

/-- The error state of a flag. -/
def FErr.codec : Codec FErr :=
  Rec.start FErr.mk |>.field (.bv 16) (·.code) |>.field .nat (·.later) |>.field (.bv 64) (·.addr)

/-- A loop record. -/
def LoopRec.codec : Codec LoopRec :=
  Rec.start LoopRec.mk |>.field .bool (·.active) |>.field (.bv 32) (·.cnt) |>.field (.bv 64) (·.start) |>.field (.bv 64) (·.stop)

/-- An entry of a divergence stack. -/
def DivEntry.codec : Codec DivEntry :=
  Rec.start DivEntry.mk |>.field (.bv 64) (·.j) |>.field (.bv 64) (·.fpc) |>.field (.bv 64) (·.fmask) |>.field (.bv 64) (·.rmask)
    |>.field .bool (·.la0) |>.field .bool (·.la1) |>.field .bool (·.fdone)

/-- An entry of the full stack. -/
def FullEntry.codec : Codec FullEntry :=
  Rec.start FullEntry.mk |>.field (.bv 64) (·.em) |>.field .nat (·.depth) |>.field .bool (·.taken)

/-- An arm of the control state. -/
def Arm.codec : Codec Arm :=
  Rec.start Arm.mk |>.field .bool (·.taken) |>.field (.bv 64) (·.pc) |>.field (.bv 64) (·.em)
    |>.field (.list (.and .nat FErr.codec)) (·.errs) |>.field LoopRec.codec (·.lp0) |>.field LoopRec.codec (·.lp1)
    |>.field (.list DivEntry.codec) (·.stack) |>.field .nat (·.last) |>.field .bool (·.free) |>.field (.option (.bv 64)) (·.done)
    |>.field .bool (·.parked) |>.field .nat (·.atFull) |>.field .bool (·.stalled)

/-- The control state. -/
def Ctl.codec : Codec Ctl :=
  Rec.start Ctl.mk |>.field (.bv 64) (·.live) |>.field Arm.codec (·.arm) |>.field (.option Arm.codec) (·.other)
    |>.field (.bv 64) (·.join) |>.field .bool (·.la0) |>.field .bool (·.la1) |>.field (.list FullEntry.codec) (·.full)

/-- The registers of a wave. -/
def Regs.codec : Codec Regs :=
  Rec.start Regs.mk |>.field (.cells 32) (·.v) |>.field (.cells 32) (·.s) |>.field (.cells 64) (·.p) |>.field (.cells 32) (·.rng)
    |>.field (.bv 32) (·.nstat) |>.field (.bv 32) (·.lsa) |>.field (.bv 32) (·.lsb) |>.field Ctl.codec (·.ctl) |>.field (.bv 16) (·.cmm)
    |>.field (.cells 32) (·.next) |>.field (.list Pend.codec) (·.pend) |>.field (.list .nat) (·.bad)

/-- An operation outstanding on a flag. -/
def Op.codec : Codec Op :=
  Rec.start Op.mk |>.field .nat (·.id) |>.field .nat (·.flag) |>.field .bool (·.inT) |>.field .bool (·.inF) |>.field .bool (·.fin)
    |>.field (.list Wr.codec) (·.wrs) |>.field (.bv 32) (·.nstat) |>.field (.option FErr.codec) (·.err) |>.field .bool (·.acq)
    |>.field .bool (·.load) |>.field (.option (.and .nat .bool)) (·.memb) |>.field .bool (·.eng) |>.field (.list .nat) (·.dst)
    |>.field (.option (.and .bool .bool)) (·.outer)

/-- A kernel header. -/
def Kernel.codec : Codec Kernel :=
  Rec.start Kernel.mk |>.field (.bv 64) (·.hdr) |>.field .nat (·.flags) |>.field .nat (·.vregs) |>.field .nat (·.sregs)
    |>.field .nat (·.scratch) |>.field .nat (·.waves) |>.field .nat (·.energy) |>.field .nat (·.quads) |>.field .nat (·.gridMask)
    |>.field .nat (·.msetMask) |>.field .nat (·.robjMask) |>.field .nat (·.fpmode) |>.field .nat (·.trapOff) |>.field .nat (·.codeSize)

/-- An error record. -/
def Record.codec : Codec Record :=
  Rec.start Record.mk |>.field .nat (·.chip) |>.field .nat (·.ctx) |>.field .nat (·.engine) |>.field .bool (·.precise)
    |>.field .nat (·.action) |>.field (.bv 16) (·.code) |>.field .nat (·.launch)
    |>.field (.option (.and .nat (.and .nat (.and .nat .nat)))) (·.wave) |>.field (.bv 64) (·.addr) |>.field (.bv 64) (·.detail)
    |>.field (.bv 64) (·.pc) |>.field (.bv 32) (·.gen) |>.field .bool (·.ovf)

/-- A trap frame. -/
def Frame.codec : Codec Frame :=
  Rec.start Frame.mk |>.field (.bv 32) (·.word0) |>.field (.bv 16) (·.code) |>.field (.bv 64) (·.addr) |>.field (.bv 64) (·.detail)
    |>.field (.bv 64) (·.xpc) |>.field (.bv 64) (·.em) |>.field (.bv 32) (·.seqNo) |>.field Ctl.codec (·.ctl)

/-- A lane of an access. -/
def Part.codec : Codec Part :=
  Rec.start Part.mk |>.field .nat (·.lane) |>.field (.bv 128) (·.data) |>.field (.bv 128) (·.cmp)

/-- What an access does. -/
def AKind.codec : Codec AKind :=
  Codec.as (Codec.nat.and (Codec.nat.and (Codec.nat.and .nat)))
    (fun | .load => (0, 0, 0, 0) | .store => (1, 0, 0, 0) | .atomic o t r => (2, o, t, r) | .barrier n w => (3, n, if w then 1 else 0, 0)
         | .obj o b => (4, o, b, 0) | .clean m => (5, m, 0, 0))
    fun | (0, _) => .load | (1, _) => .store | (2, o, t, r) => .atomic o t r | (3, n, w, _) => .barrier n (w != 0) | (4, o, b, _) => .obj o b
        | (_, m, _) => .clean m

/-- Where an access stands: a saved one is held by a run-ahead, before its port. -/
def AStage.codec : Codec AStage := Codec.as .bool (fun _ => false) fun _ => .port

/-- An access. -/
def Acc.codec : Codec Acc :=
  Rec.start Acc.mk |>.field .nat (·.id) |>.field .nat (·.op) |>.field .nat (·.wave) |>.field .nat (·.core) |>.field .nat (·.ctx)
    |>.field AKind.codec (·.kind) |>.field .bool (·.sp) |>.field .nat (·.pa) |>.field (.bv 64) (·.va) |>.field .nat (·.size)
    |>.field (.list Part.codec) (·.parts) |>.field (.option .nat) (·.dst) |>.field .nat (·.sub) |>.field .nat (·.cls)
    |>.field .nat (·.slot) |>.field .bool (·.tenant) |>.field .nat (·.hint) |>.field .bool (·.acq) |>.field .bool (·.rel)
    |>.field .nat (·.scope) |>.field .bool (·.l1) |>.field AStage.codec (·.stage) |>.field (.option .nat) (·.peer)
    |>.field LKey.codec (·.launch) |>.field .bool (·.fenced)

/-- A run-ahead. -/
def Ahead.codec : Codec Ahead :=
  Rec.start Ahead.mk |>.field .nat (·.set) |>.field (.bv 32) (·.inst) |>.field .bool (·.pred) |>.field (.bv 64) (·.takenPc)
    |>.field (.bv 64) (·.fallPc) |>.field Regs.codec (·.ckpt) |>.field .nat (·.count) |>.field (.list (.list Acc.codec)) (·.stores)
    |>.field (.option (.and (.bv 16) (.and (.bv 64) (.bv 64)))) (·.fault) |>.field (.list Record.codec) (·.fails) |>.field .nat (·.op)
    |>.field .bool (·.voted)

/-- What a wave is doing. -/
def Status.codec : Codec Status :=
  Codec.as (Codec.nat.and (Codec.nat.and (Codec.nat.and (Codec.nat.and .bool))))
    (fun | .run => (0, 0, 0, 0, false) | .parked c => (1, c.toNat, 0, 0, false) | .halted => (2, 0, 0, 0, false) | .stopped => (3, 0, 0, 0, false)
         | .sleepBar b op => (4, b, op, 0, false) | .sleepWord va sc op tok => (5, va.toNat, sc, op, tok) | .ended => (6, 0, 0, 0, false))
    fun | (0, _) => .run | (1, c, _) => .parked (BitVec.ofNat 16 c) | (2, _) => .halted | (3, _) => .stopped | (4, b, op, _) => .sleepBar b op
        | (5, va, sc, op, tok) => .sleepWord (BitVec.ofNat 64 va) sc op tok | _ => .ended

/-- A wave. -/
def Wave.codec : Codec Wave :=
  Rec.start Wave.mk |>.field .nat (·.uid) |>.field .nat (·.core) |>.field .nat (·.slot) |>.field .nat (·.team) |>.field .nat (·.idx)
    |>.field .nat (·.lteam) |>.field .nat (·.lwave) |>.field .nat (·.chip) |>.field .nat (·.ctx) |>.field LKey.codec (·.key)
    |>.field Kernel.codec (·.k) |>.field Regs.codec (·.r) |>.field (.list Op.codec) (·.ops) |>.field Status.codec (·.status)
    |>.field .bool (·.preempted) |>.field (.option Ahead.codec) (·.ahead) |>.field (.option Frame.codec) (·.frame)
    |>.field (.option (.and Record.codec (.bv 32))) (·.cancel) |>.field (.list (.and .nat (.bv 32))) (·.excl) |>.field .nat (·.notBefore)
    |>.field (.option .nat) (·.last) |>.field .bool (·.relFence) |>.field (.list (.and .nat .nat)) (·.seen)
    |>.field (.list .nat) (·.peersRead)

/-! ### Teams and their transfers -/

/-- A side of a copy. -/
def CEnd.codec : Codec CEnd :=
  Codec.as (Codec.nat.and (Codec.nat.and .nat))
    (fun | .mem va => (0, va.toNat, 0) | .sp c o => (1, c, o) | .acc c r => (2, c, r))
    fun | (0, va, _) => .mem (BitVec.ofNat 64 va) | (1, c, o) => .sp c o | (_, c, r) => .acc c r

/-- A copy. -/
def Copy.codec : Codec Copy :=
  Rec.start Copy.mk |>.field .nat (·.id) |>.field .nat (·.core) |>.field (.option (.and .nat .nat)) (·.wave)
    |>.field (.option (.and .nat .nat)) (·.packet) |>.field .nat (·.ctx) |>.field .bool (·.priv) |>.field CEnd.codec (·.src)
    |>.field CEnd.codec (·.dst) |>.field .nat (·.pitch) |>.field (.list .nat) (·.multi) |>.field .bool (·.skipped)
    |>.field (.option (.and .nat (.and .nat (.and (.list .nat) (.list .int))))) (·.pat) |>.field .nat (·.total) |>.field .nat (·.off)
    |>.field (.option .nat) (·.obj) |>.field .nat (·.hint) |>.field LKey.codec (·.launch) |>.field .nat (·.after)
    |>.field .bool (·.suspended) |>.field .nat (·.moving) |>.field (.option (.bv 16)) (·.peerFail)

/-- A wait on a completion object. -/
def CWait.codec : Codec CWait :=
  Rec.start CWait.mk |>.field .nat (·.core) |>.field .nat (·.off) |>.field .bool (·.parity) |>.field .nat (·.wave) |>.field .nat (·.op)

/-- A grid descriptor. -/
def Grid.codec : Codec Grid :=
  Rec.start Grid.mk |>.field .nat (·.robj) |>.field .nat (·.log2t) |>.field .nat (·.efmt) |>.field .nat (·.log2f)
    |>.field .nat (·.levels) |>.field .nat (·.dims) |>.field (.bv 64) (·.base) |>.field (.list .nat) (·.res)
    |>.field (.list (.bv 32)) (·.mults)

/-- A lattice instruction. -/
def Lattice.codec : Codec Lattice :=
  Rec.start Lattice.mk |>.field .nat (·.id) |>.field .nat (·.core) |>.field .nat (·.wave) |>.field .nat (·.op) |>.field .nat (·.team)
    |>.field .nat (·.ctx) |>.field .bool (·.priv) |>.field (.option Grid.codec) (·.grid)
    |>.field (.option (.and .nat (.bv 64))) (·.bindTo) |>.field (.bv 64) (·.lanes) |>.field .nat (·.dst) |>.field (.cells 32) (·.coords)
    |>.field (.option (.cells 32)) (·.grads) |>.field (.cells 32) (·.samples) |>.field .nat (·.group) |>.field .nat (·.level)
    |>.field .nat (·.after) |>.field .bool (·.suspended) |>.field .nat (·.lane) |>.field (.list (.option (.list (.bv 8)))) (·.got)

/-- A node of the cell stacks. -/
def MNode.codec : Codec MNode :=
  Rec.start MNode.mk |>.field .nat (·.level) |>.field .nat (·.index) |>.field (.list (.bv 32)) (·.vals)

/-- A bank. -/
def Bank.codec : Codec Bank :=
  Rec.start Bank.mk |>.field .nat (·.fmt) |>.field (.cells 16) (·.vals)

/-- An engine instruction. -/
def MCmd.codec : Codec MCmd :=
  Codec.as (Codec.nat.and (Codec.list .int))
    (fun | .zero i k f => (0, [if i then 1 else 0, k, f]) | .fmt t => (1, [(t : Int)]) | .bank b => (2, [(b : Int)])
         | .loop b a n l0 ai bi af d => (3, [(b : Int), a, n, l0, ai, bi, af, d])
         | .drn t m ftz addc rel d c => (4, [(t : Int), m.toNat, if ftz then 1 else 0, if addc then 1 else 0, if rel then 1 else 0, d, c])
         | .drnn e st o rel => (5, [(e.toNat : Int), st, o, if rel then 1 else 0]))
    fun (n, xs) =>
      let i (k : Nat) : Int := nth 0 xs k
      let u (k : Nat) : Nat := (i k).toNat
      match n with
      | 0 => .zero (u 0 != 0) (u 1) (u 2)
      | 1 => .fmt (u 0)
      | 2 => .bank (u 0)
      | 3 => .loop (u 0) (u 1) (u 2) (u 3) (i 4) (i 5) (u 6) (u 7)
      | 4 => .drn (u 0) (BitVec.ofNat 4 (u 1)) (u 2 != 0) (u 3 != 0) (u 4 != 0) (u 5) (u 6)
      | _ => .drnn (BitVec.ofNat 64 (u 0)) (i 1) (u 2) (u 3 != 0)

/-- A queued engine instruction. -/
def MEntry.codec : Codec MEntry :=
  Rec.start MEntry.mk |>.field MCmd.codec (·.cmd) |>.field (.list (.and .nat .nat)) (·.ops)

/-- What the engine holds for a quad. -/
def QuadSt.codec : Codec QuadSt :=
  Rec.start QuadSt.mk |>.field .nat (·.team) |>.field .nat (·.quad) |>.field (.list MEntry.codec) (·.queue) |>.field .bool (·.ikind)
    |>.field .nat (·.ik) |>.field .nat (·.iF) |>.field .nat (·.inext) |>.field .nat (·.istart) |>.field .nat (·.ibfmt)
    |>.field (.option .nat) (·.ibpre) |>.field (.list .nat) (·.rdy) |>.field .nat (·.loads) |>.field .nat (·.iloads)
    |>.field .bool (·.irel) |>.field (.list (.and .nat (.and .nat .nat))) (·.early)

/-- The register block of a bank load. -/
def HeldBlock.codec : Codec HeldBlock :=
  Rec.start HeldBlock.mk |>.field .nat (·.team) |>.field .nat (·.quad) |>.field .nat (·.num) |>.field .nat (·.reg) |>.field .nat (·.n)
    |>.field (.list (.and .nat .nat)) (·.ops) |>.field (.list (.and .nat .nat)) (·.hit) |>.field .nat (·.zeros) |>.field .bool (·.old)

/-- A matrix engine. -/
def Engine.codec : Codec Engine :=
  Rec.start Engine.mk |>.field (.option QuadSt.codec) (·.claim) |>.field (.list QuadSt.codec) (·.pending)
    |>.field (.option (.and .nat .nat)) (·.lastQuad) |>.field .bool (·.kind) |>.field .nat (·.k) |>.field .nat (·.f)
    |>.field .nat (·.next) |>.field .nat (·.start) |>.field .nat (·.bfmt) |>.field Bank.codec (·.bank0) |>.field Bank.codec (·.bank1)
    |>.field .bool (·.nb) |>.field .bool (·.bpre) |>.field .bool (·.poison) |>.field .bool (·.taint)
    |>.field (.list HeldBlock.codec) (·.plan) |>.field (.list MNode.codec) (·.stack)

/-- A team barrier. -/
def Bar.codec : Codec Bar :=
  Rec.start Bar.mk |>.field .bool (·.phase) |>.field .nat (·.arrived) |>.field .nat (·.expect) |>.field (.bv 16) (·.waiters)

/-- A team. -/
def Team.codec : Codec Team :=
  Rec.start Team.mk |>.field .nat (·.uid) |>.field .nat (·.core) |>.field .nat (·.ctx) |>.field LKey.codec (·.key) |>.field .nat (·.idx)
    |>.field Kernel.codec (·.k) |>.field .nat (·.base) |>.field .nat (·.slot0) |>.field (.list .nat) (·.wins)
    |>.field (.list (.and .nat Bar.codec)) (·.bars) |>.field (.option Engine.codec) (·.saved)

/-! ### Contexts -/

/-- A member of a membership set. -/
def Member.codec : Codec Member :=
  Rec.start Member.mk |>.field .nat (·.chip) |>.field .nat (·.uid)

/-- A membership set. -/
def SetRef.codec : Codec SetRef :=
  Rec.start SetRef.mk |>.field .nat (·.ctx) |>.field .nat (·.set) |>.field (.option LKey.codec) (·.key)

/-- A vote. -/
def Vote.codec : Codec Vote :=
  Rec.start Vote.mk |>.field .nat (·.func) |>.field (.bv 32) (·.thr) |>.field .nat (·.value)

/-- A membership set at its home. -/
def SetHome.codec : Codec SetHome :=
  Rec.start SetHome.mk |>.field SetRef.codec (·.ref) |>.field .nat (·.njoin) |>.field .bool (·.formed) |>.field (.bv 32) (·.cur)
    |>.field (.list (.and Member.codec (.option Vote.codec))) (·.votes) |>.field (.list (.option Vote.codec)) (·.gone)
    |>.field (.list (.and (.bv 32) (.and Member.codec (.option Vote.codec)))) (·.early) |>.field (.list .nat) (·.chips)

/-- An outcome. -/
def Outc.codec : Codec Outc :=
  Rec.start Outc.mk |>.field SetRef.codec (·.ref) |>.field (.bv 32) (·.inst) |>.field .bool (·.taken) |>.field .bool (·.err)

/-- A reduction object's descriptor. -/
def RDesc.codec : Codec RDesc :=
  Rec.start RDesc.mk |>.field (.bv 64) (·.rbase) |>.field .nat (·.m) |>.field .nat (·.n) |>.field .nat (·.closes)
    |>.field .nat (·.cscope) |>.field .bool (·.accum) |>.field .bool (·.sat) |>.field .bool (·.ftz) |>.field .nat (·.fmt)
    |>.field .nat (·.opr) |>.field .bool (·.sparse) |>.field (.bv 64) (·.ccount) |>.field (.bv 64) (·.spbase) |>.field .nat (·.log2s)

/-- An entry of a reduction-object table. -/
def RObj.codec : Codec RObj :=
  Rec.start RObj.mk |>.field .nat (·.idx) |>.field .nat (·.state) |>.field .bool (·.home) |>.field .nat (·.chip) |>.field .nat (·.oseq)
    |>.field .nat (·.bind) |>.field LKey.codec (·.launch) |>.field RDesc.codec (·.desc) |>.field (.list (.and .nat .nat)) (·.closes)
    |>.field (.list .nat) (·.finished) |>.field (.list .nat) (·.doneElems) |>.field (.list .nat) (·.poisoned)
    |>.field (.list (.and .nat .nat)) (·.lateClose) |>.field (.option .nat) (·.phase)

/-- A partial. -/
def Partial.codec : Codec Partial :=
  Rec.start Partial.mk |>.field .nat (·.ctx) |>.field .nat (·.idx) |>.field .nat (·.elem) |>.field .nat (·.level) |>.field .nat (·.index)
    |>.field (.bv 64) (·.val) |>.field .nat (·.oseq) |>.field .nat (·.kind) |>.field .nat (·.opr) |>.field .nat (·.fmt)
    |>.field .bool (·.ftz) |>.field .bool (·.sat) |>.field .nat (·.n) |>.field .nat (·.dst) |>.field LKey.codec (·.launch)
    |>.field .bool (·.dup)

/-- A partial in a pairing buffer. -/
def Waiting.codec : Codec Waiting :=
  Rec.start Waiting.mk |>.field Partial.codec (·.part) |>.field .nat (·.since)

/-- A presence filter. -/
def Filter.codec : Codec Filter :=
  Rec.start Filter.mk |>.field .nat (·.ctx) |>.field .nat (·.idx) |>.field (.bv 512) (·.bits)

/-- A home slice's pairing state. -/
def HomeBuf.codec : Codec HomeBuf :=
  Rec.start HomeBuf.mk |>.field .nat (·.slice) |>.field (.list Partial.codec) (·.entries) |>.field (.list Filter.codec) (·.filters)
    |>.field (.list (.and .nat .nat)) (·.loose)

/-- A membership-set table entry. -/
def MSet.codec : Codec MSet :=
  Rec.start MSet.mk |>.field .nat (·.home) |>.field .nat (·.expect) |>.field .bool (·.exclude)

/-- A communicator entry. -/
def Comm.codec : Codec Comm :=
  Rec.start Comm.mk |>.field .nat (·.prio) |>.field (.list .nat) (·.sizes) |>.field .nat (·.bufKib) |>.field (.list .nat) (·.ranks)

/-- A collective descriptor. -/
def CDesc.codec : Codec CDesc :=
  Rec.start CDesc.mk |>.field (.bv 64) (·.src) |>.field (.bv 64) (·.dst) |>.field .nat (·.ndim) |>.field .nat (·.log2lpr)
    |>.field .nat (·.cscope) |>.field .bool (·.sat) |>.field .bool (·.ftz) |>.field .nat (·.fmt) |>.field .nat (·.opr)
    |>.field (.bv 64) (·.ccount) |>.field (.list .nat) (·.extents) |>.field .nat (·.part) |>.field .nat (·.outmap)
    |>.field .nat (·.inmap)

/-- A start message's digests. -/
def CollDigest.codec : Codec CollDigest :=
  Rec.start CollDigest.mk |>.field (.list .nat) (·.comm) |>.field (.list .nat) (·.desc)

/-- A collective instance. -/
def Coll.codec : Codec Coll :=
  Rec.start Coll.mk |>.field .nat (·.comm) |>.field (.bv 32) (·.inst) |>.field .bool (·.started) |>.field (.option CDesc.codec) (·.desc)
    |>.field (.option (.and .nat .nat)) (·.wave) |>.field (.option (.and .nat .nat)) (·.packet) |>.field (.option LKey.codec) (·.launch)
    |>.field (.list (.and .nat CollDigest.codec)) (·.starts) |>.field (.list (.and .nat (.and .nat (.bv 64)))) (·.inputs)
    |>.field .nat (·.sent) |>.field .nat (·.written) |>.field .nat (·.stage) |>.field .nat (·.code) |>.field .nat (·.after)

/-- A context. -/
def Ctx.codec : Codec Ctx :=
  Rec.start Ctx.mk |>.field .nat (·.ctx) |>.field .bool (·.tenant) |>.field .nat (·.keySlot) |>.field .bool (·.system)
    |>.field (.bv 32) (·.transRev) |>.field (.bv 64) (·.ptRoot) |>.field (.bv 64) (·.patBase) |>.field .nat (·.commTab)
    |>.field (.bv 64) (·.errRing) |>.field (.bv 64) (·.saveArea) |>.field (.bv 64) (·.phaseCtr) |>.field (.bv 64) (·.jobCtr)
    |>.field (.bv 32) (·.gen) |>.field (.bv 64) (·.seed) |>.field (.list (.and .nat (.bv 256))) (·.scopes)
    |>.field (.list (.and .nat MSet.codec)) (·.msets) |>.field (.list (.and .nat Comm.codec)) (·.comms) |>.field .nat (·.cur)
    |>.field .bool (·.closing) |>.field (.list .nat) (·.broken) |>.field (.list RObj.codec) (·.robjs)
    |>.field (.list SetHome.codec) (·.setHomes) |>.field (.list Outc.codec) (·.outcomes) |>.field (.list Coll.codec) (·.colls)
    |>.field (.list (.and .nat (.bv 32))) (·.collNext) |>.field (.list (.and .nat .nat)) (·.collServed) |>.field (.bv 128) (·.modes)
    |>.field .bool (·.ringOvf) |>.field .bool (·.stopped) |>.field .bool (·.saved)
    |>.field (.option (.list (.and .nat (.bv 32)))) (·.restoring) |>.field .bool (·.ending) |>.field (.list .nat) (·.chipsOver)

end Sys2Proof.Machine
end

