-- ==== Sys2Proof/Machine/Matrix.lean ====
section
/-! DEFINITION. The matrix engine, quads, claims and the accumulator store (R198 to R222 of spec/09_matrix_engine.md). -/

namespace Sys2Proof.Machine

/-! ### Formats and leaves -/

/-- Bytes of an element of an input format (R202). -/
def matSize (ty : Nat) : Nat := if ty = 10 ∨ ty = 11 then 2 else 1

/-- Registers of a B block in each member (R203). -/
def matRegs (ty : Nat) : Nat := matSize ty

/-- The input format is of the integer kind (R198). -/
def matInt (ty : Nat) : Bool := ty == 6 || ty == 7

/-- A format of the engine (R209). -/
def matFmt (ty : Nat) : Bool := ty == 6 || ty == 7 || ty == 10 || ty == 11 || ty == 14

/-- The value of a floating-point element (R63, R70): nothing is flushed. -/
def matVal (ty bits : Nat) : FVal :=
  match ty with | 10 => Fmt.f16.decode false bits | 11 => Fmt.bf16.decode false bits | _ => dx8Decode bits

/-- The value of an integer element (R198). -/
def matNum (ty bits : Nat) : Int := if ty = 6 then sext 8 bits else ((bits % 256 : Nat) : Int)

/-- An exact result as a value. -/
def Exact.val : Exact → FVal
  | .nan _ => .nan
  | .inf n _ => .inf n
  | .zero n => .fin n 0 0
  | .mag n m e _ => .fin n m e

/-- RNE32 of the exact sum of a leaf's products (R70). -/
def floatLeaf (as bs : List FVal) : Word :=
  match List.zipWith (fun a b => (exactMul a b).val) as bs with
  | [] => 0
  | p :: ps => BitVec.ofNat 32 ((ps.foldl (fun acc x => (exactAdd .rne acc x).val) p).exact.round .f32 {}).1

/-- The exact sum of a leaf's products (R62). -/
def intLeaf (as bs : List Int) : Word := BitVec.ofInt 32 ((List.zipWith (· * ·) as bs).foldl (· + ·) 0)

/-- COMBINE inside a cell (R198). -/
def cellComb (int : Bool) (l r : Word) : Word :=
  if int then l + r else BitVec.ofNat 32 (combineFp .f32 0 false false l.toNat r.toNat).1

/-- Merge the two top nodes of the stacks while they are siblings (R199). -/
def mergeTop (int : Bool) : Nat → List MNode → List MNode
  | k + 1, r :: l :: rest =>
    if r.level = l.level ∧ l.index % 2 = 0 ∧ r.index = l.index + 1 then
      mergeTop int k ({ level := r.level + 1, index := l.index / 2, vals := List.zipWith (cellComb int) l.vals r.vals } :: rest)
    else r :: l :: rest
  | _, st => st

/-- Push a leaf on every cell's stack (R199). -/
def pushLeaf (int : Bool) (j : Nat) (vals : List Word) (st : List MNode) : List MNode :=
  mergeTop int 64 ({ level := 0, index := j, vals := vals } :: st)

/-- Number of nodes of the aligned decomposition of [a, b) (R199, R214). -/
def decompCount : Nat → Nat → Nat → Nat
  | 0, _, _ => 0
  | k + 1, a, b =>
    if b ≤ a then 0
    else
      let fits (h : Nat) : Bool := a % 2 ^ h == 0 && decide (a + 2 ^ h ≤ b)
      let h := ((List.range 26).filter fits).foldl max 0
      1 + decompCount k (a + 2 ^ h) b

/-- Some stack of the leaves to come would exceed 24 nodes (R214). -/
def stackOverflows (start next steps : Nat) : Bool :=
  if start = 0 ∨ next + steps - start ≤ 2 ^ 12 then false
  else (List.range steps).any fun i => decide (decompCount 64 start (next + i + 1) > 24)

/-! ### The engine's state -/

/-- The bank of a package reset, and of a new claim: zero in bf16 (R210). -/
def Bank.zero : Bank := { fmt := 11, vals := [] }

/-- An engine after package reset (R210). -/
def Engine.reset : Engine :=
  { claim := none, pending := [], lastQuad := none, kind := false, k := 1, f := 0, next := 0, start := 0, bfmt := 11,
    bank0 := Bank.zero, bank1 := Bank.zero, nb := false, bpre := false, poison := false, taint := false, plan := [], stack := [] }

/-- The engine of a core. -/
def State.engine (s : State) (core : Nat) : Engine := (s.engine? core).getD Engine.reset

/-- Put a core's engine. -/
def State.putEngine (s : State) (core : Nat) (e : Engine) : State := { s with engines := assign core e s.engines }

/-- The quad's entry as of its latest instruction: none once that was one that releases the claim (R205, R217). -/
def State.quadCur (s : State) (w : Wave) : Option QuadSt :=
  let e := s.engine w.core
  match ((e.claim.toList ++ e.pending).filter fun q => q.ofWave w).getLast? with
  | none => none
  | some q => if q.irel then none else some q

/-- The entry is the claim itself, not a pending one. -/
def State.quadHolds (s : State) (w : Wave) : Bool :=
  let e := s.engine w.core
  !(e.pending.any fun q => q.ofWave w) && match e.claim with | some q => q.ofWave w && !q.irel | none => false

/-- Change the quad's current entry. -/
def State.mapQuad (s : State) (w : Wave) (f : QuadSt → QuadSt) : State :=
  let e := s.engine w.core
  s.putEngine w.core (if e.pending.any fun q => q.ofWave w
    then { e with pending := (updateFirst (fun q => q.ofWave w) f e.pending.reverse).reverse }
    else { e with claim := e.claim.map fun q => if q.ofWave w then f q else q })

/-- A member of a team's quad, by its index j. -/
def State.quadWave (s : State) (team quad j : Nat) : Option Wave := s.waves.find? fun w => w.team == team && w.idx == 4 * quad + j

/-- The other members of a wave's quad that have not ended (R208, R222). -/
def State.quadMates (s : State) (w : Wave) : List Wave :=
  s.waves.filter fun x => x.team == w.team && x.quad == w.quad && x.uid != w.uid && x.status != .ended

/-! ### Issue -/

/-- The checks of R204 and R205 at issue. -/
def matTurn (s : State) (leader claim : Bool) : Option (BitVec 16) :=
  if leader && s.w.idx % 4 != 0 then some 0x0134
  else if claim && (s.quadCur s.w).isNone then some 0x0130
  else none

/-- The fields the engine instructions share (R209). -/
def matSpec : Spec := { uni := .no4, long := true, holdAhead := fun _ => true, late := inQuad }

/-- A member has 63 operations on the instruction's flag (R208). -/
def State.matesFull (s : State) (f : Fields) : Bool :=
  match setFlag f with
  | none => false
  | some fl => (s.quadMates s.w).any fun w => decide (w.countBoth fl ≥ 63)

/-- An operation of an engine instruction in another member, behind those already on its flag; a dual-path member counts it in both
banks (R208). -/
def State.mateOp (s : State) (f : Fields) (uid : Nat) : (Nat × Nat) × State :=
  let (id, s) := s.fresh
  match setFlag f with
  | none => ((uid, id), s)
  | some fl => ((uid, id), s.mapWave uid fun w =>
      { w with ops := w.ops ++ [{ Op.fresh id fl with inT := w.r.ctl.other.isSome, inF := true, eng := true }] })

/-- Raise the flag in the issuing leader, and in the other members when `all` is set (R208). -/
def State.engineOps (s : State) (f : Fields) (all : Bool) : List (Nat × Nat) × State :=
  let mates := if all then (s.quadMates s.w).map (·.uid) else []
  let (op, s) := s.startOp f false false
  let s := s.withW fun w => w.mapOp op fun o => { o with eng := true }
  mates.foldl (fun (ops, s) u => let (x, s) := s.mateOp f u; (ops ++ [x], s)) ([(s.w.uid, op)], s)

/-- The engine instructions queued for a wave's quad, under the claim it holds and those it awaits (R205). -/
def State.queueDepth (s : State) (w : Wave) : Nat :=
  let e := s.engine w.core
  (((e.claim.toList ++ e.pending).filter fun q => q.ofWave w).map fun q => q.queue.length).sum

/-- Queue an engine instruction of the leader's quad: a full queue waits (R205, R208). -/
def State.queueEngine (s : State) (f : Fields) (all : Bool) (cmd : MCmd) (upd : List (Nat × Nat) → QuadSt → QuadSt)
    (plan : List (Nat × Nat) → List HeldBlock) : Try :=
  match s.quadCur s.w with
  | none => .stall s
  | some _ =>
    if s.queueDepth s.w ≥ 8 ∨ (all = true ∧ s.matesFull f = true) then .stall s
    else
      let (ops, s) := s.engineOps f all
      let s := s.mapQuad s.w fun q => upd ops { q with queue := q.queue ++ [{ cmd := cmd, ops := ops }] }
      let e := s.engine s.w.core
      .ok (s.putEngine s.w.core { e with plan := e.plan ++ plan ops, taint := e.taint || (plan ops).any fun b => !b.hit.isEmpty }) none

/-- A quad's entry as an `mzero` leaves it at issue (R210). -/
def QuadSt.zeroed (q : QuadSt) (int : Bool) (k f : Nat) : QuadSt :=
  { q with ikind := int, ik := k, iF := f, inext := f, istart := f, ibpre := none, iloads := 0, irel := false, early := [] }

/-- A new entry for a quad that neither holds nor awaits the claim: its B format is the last holder's only where that is
itself (R210). -/
def State.newQuad (s : State) (w : Wave) : QuadSt :=
  let e := s.engine w.core
  let bfmt := match (e.claim.toList ++ e.pending).getLast? with
    | some q => if q.ofWave w then q.ibfmt else 11
    | none => if e.lastQuad = some (w.team, w.quad) then e.bfmt else 11
  { team := w.team, quad := w.quad, queue := [], ikind := false, ik := 1, iF := 0, inext := 0, istart := 0, ibfmt := bfmt, ibpre := none,
    rdy := [0, 0, 0, 0], loads := 0, iloads := 0, irel := false, early := [] }

/-- The fields of `mzero`. -/
def mzeroSpec : Spec :=
  { matSpec with
    useA := true, useB := true, wA := fun _ => 1, wB := fun _ => 1,
    vals := fun f => if f.mod = 0 ∧ f.x.toNat < 2 then none else some 0x0103,
    ok := fun k f => scalarOk k f f.a && scalarOk k f f.b }

/-- `mzero` (R210). -/
def execMzero (f : Fields) (s : State) : Ans :=
  run mzeroSpec (.mzero f) f
    (fun _ s =>
      let f0 := src32 s.w.r f f.a 0
      let k := src32 s.w.r f f.b 0
      let low := instrLow (.mzero f)
      match matTurn s true false with
      | some c => .trap c s.pc low
      | none =>
        if k = 0 ∨ k > 2 ^ 28 ∨ f0 ≥ (k + 15) / 16 then .trap 0x0131 s.pc low
        else
          let int := f.x.getLsbD 0
          if s.queueDepth s.w ≥ 8 then .stall s else
          let s := if (s.quadCur s.w).isSome then s
            else let e := s.engine s.w.core; s.putEngine s.w.core { e with pending := e.pending ++ [s.newQuad s.w] }
          s.queueEngine f false (.zero int k f0) (fun _ q => q.zeroed int k f0) fun _ => []) s

/-- The fields of `mfmt`. -/
def mfmtSpec : Spec :=
  { matSpec with minLen := 1, ty := matFmt }

/-- `mfmt` (R211). -/
def execMfmt (f : Fields) (s : State) : Ans :=
  run mfmtSpec (.mfmt f) f
    (fun _ s => match matTurn s true true with
      | some c => .trap c s.pc (instrLow (.mfmt f))
      | none => s.queueEngine f false (.fmt f.ty.toNat) (fun _ q => { q with ibfmt := f.ty.toNat }) fun _ => []) s

/-- An earlier instruction of the wave has yet to write a vector register (R212). -/
def Wave.vecPending (w : Wave) : Bool :=
  (w.r.pend.any fun q => !(wrRegs q.wrs).isEmpty) || w.ops.any fun o => o.load || !(wrRegs o.wrs).isEmpty

/-- The fields of `mrdy`. -/
def mrdySpec : Spec :=
  { matSpec with long := false }

/-- `mrdy` (R212): counted for the claim its quad holds, or for the pending one, where a restored one keeps it (R220); with neither the
next `mzero` would clear the count. -/
def execMrdy (f : Fields) (s : State) : Ans :=
  run mrdySpec (.mrdy f) f
    (fun _ s =>
      if s.w.vecPending then .stall s
      else
        let e := s.engine s.w.core
        let j := s.w.idx % 4
        if (e.claim.toList ++ e.pending).any fun q => q.ofWave s.w then
          .ok (s.putEngine s.w.core (e.mapFirst s.w fun q => { q with rdy := setNth (nth 0 q.rdy j + 1) q.rdy j })) none
        else .ok s none) s

/-- A B block that breaks R203. -/
def badBlock (s : State) (ty : Nat) (base : Int) : Bool :=
  base < 0 || base % (matRegs ty : Int) != 0 || base + (matRegs ty : Int) > (s.w.k.vregs : Int)

/-- A member that has ended never handed over the blocks of `n` more loads (R222). -/
def State.blocksGone (s : State) (q : QuadSt) (n : Nat) : Bool :=
  let zeroed := q.queue.any fun x => match x.cmd with | .zero _ _ _ => true | _ => false
  n != 0 && (List.range 4).any fun j =>
    match s.quadWave q.team q.quad j with
    | some w => w.status == .ended && decide (q.iloads + n > if zeroed then 0 else nth 0 q.rdy j)
    | none => false

/-- The first register of a vector operand. -/
def vecNum (spec : BitVec 10) : Nat := match Opd.of spec with | .v n => n | _ => 0

/-- A vector register operand of any number in the allocation. -/
def vecOk (k : Kernel) (spec : BitVec 10) : Bool := match Opd.of spec with | .v n => decide (n < k.vregs) | _ => false

/-- The `mzero`s of a wave's quad that the engine has yet to run. -/
def State.zerosAhead (s : State) (w : Wave) : Nat :=
  let e := s.engine w.core
  let isZero (x : MEntry) : Bool := match x.cmd with | .zero _ _ _ => true | _ => false
  (((e.claim.toList ++ e.pending).filter fun q => q.ofWave w).map fun q => (q.queue.filter isZero).length).sum

/-- The register block of a load yet to come (R207): a member that wrote one of its registers after handing the block over has hit it. -/
def heldBlock (q : QuadSt) (zeros num reg : Nat) (ops : List (Nat × Nat)) : HeldBlock :=
  let n := matRegs q.ibfmt
  let hits := q.early.filterMap fun (u, handed, r) => if zeros = 0 ∧ handed > num ∧ reg ≤ r ∧ r < reg + n then some (u, r) else none
  { team := q.team, quad := q.quad, num := num, reg := reg, n := n, ops := ops, hit := hits.eraseDups, zeros := zeros, old := false }

/-- A quad's entry after `n` more loads have issued: what was written after the blocks named so far counts no more (R207). -/
def QuadSt.load (q : QuadSt) (n : Nat) : QuadSt :=
  { q with iloads := q.iloads + n, early := q.early.filter fun x => decide (x.2.1 > q.iloads + n) }

/-- The fields of `mbank`. -/
def mbankSpec : Spec :=
  { matSpec with useD := true, ok := fun k f => vecOk k f.d }

/-- `mbank` (R213). -/
def execMbank (f : Fields) (s : State) : Ans :=
  run mbankSpec (.mbank f) f
    (fun _ s =>
      let low := instrLow (.mbank f)
      match matTurn s true true, s.quadCur s.w with
      | some c, _ => .trap c s.pc low
      | none, none => .stall s
      | none, some q =>
        let base := vecNum f.d
        if badBlock s q.ibfmt base then .trap 0x0107 s.pc low
        else if s.blocksGone q 1 then .trap 0x0138 s.pc low
        else s.queueEngine f true (.bank base) (fun _ q => { q.load 1 with ibpre := some q.ibfmt })
          fun ops => [heldBlock q (s.zerosAhead s.w) q.iloads base ops]) s

/-- The A stream leaves the team's allocation, or is not on its boundaries (R202). -/
def badStream (s : State) (word : Word) (ainc : Int) (size steps : Nat) : Bool :=
  let a : Int := ((word.toNat % 2 ^ 19 : Nat) : Int)
  let out (x : Int) : Bool := x < 0 || x + 1024 * (size : Int) > (s.w.k.scratch : Int)
  word.toNat ≥ 2 ^ 19 || a % 16 != 0 || ainc % 16 != 0 || (steps != 0 && (out a || out (a + ((steps - 1 : Nat) : Int) * ainc)))

/-- The fields of `mloop`. -/
def mloopSpec : Spec :=
  { matSpec with
    ord := true, minLen := 2, ty := matFmt, useD := true, useA := true, useB := true, useC := true, useImm := true, wA := fun _ => 1, wB := fun _ => 1,
    wC := fun _ => 1, vals := fun f => if f.mod = 0 ∧ f.x.toNat < 256 then none else some 0x0103,
    ok := fun k f => vecOk k f.d && sregOk k 18 f.a && numSrcOk k f.b && sregOk k 18 f.c }

/-- `mloop` (R214). -/
def execMloop (f : Fields) (s : State) : Ans :=
  run mloopSpec (.mloop f) f
    (fun _ s =>
      let low := instrLow (.mloop f)
      if s.absentCore (BitVec.ofNat 32 (src32 s.w.r f f.a 0)) then .trap 0x0110 s.pc low
      else match matTurn s true true, s.quadCur s.w with
      | some c, _ => .trap c s.pc low
      | none, none => .stall s
      | none, some q =>
        let a : Word := BitVec.ofNat 32 (src32 s.w.r f f.a 0)
        let n := src32 s.w.r f f.b 0
        let l0 := src32 s.w.r f f.c 0
        let ty := f.ty.toNat
        let ainc := f.imm.toInt
        let binc := sext 8 f.x.toNat
        let base := vecNum f.d
        let pre := if q.ibpre.isSome ∧ n ≠ 0 then 1 else 0
        let bty := match q.ibpre with | some t => t | none => q.ibfmt
        let loads := (List.range n).drop pre
        if l0 ≠ q.inext ∨ l0 + n > (q.ik + 15) / 16 ∨ n > 2 ^ 24 then .trap 0x0131 s.pc low
        else if matInt ty != q.ikind || (pre == 1 && matInt bty != q.ikind) || ((n == 0 || decide (n > pre)) && matInt q.ibfmt != q.ikind) then .trap 0x0133 s.pc low
        else if stackOverflows q.istart q.inext n then .trap 0x0132 s.pc low
        else if badStream s a ainc (matSize ty) n then .trap 0x0135 s.pc low
        else if loads.any fun i => badBlock s q.ibfmt ((base : Int) + (i : Int) * binc) then .trap 0x0107 s.pc low
        else if s.blocksGone q (n - pre) then .trap 0x0138 s.pc low
        else if n = 0 then
          if s.matesFull f then .stall s
          else let (ops, s) := s.engineOps f true; .ok (s.finishOps ops none) none
        else s.queueEngine f true (.loop base (a.toNat % 2 ^ 19) n l0 ainc binc ty 0)
          (fun _ q => { q.load (n - pre) with inext := l0 + n, ibpre := none })
          fun ops => loads.map fun i => heldBlock q (s.zerosAhead s.w) (q.iloads + i - pre) ((base : Int) + (i : Int) * binc).toNat ops) s

/-- The fields of `mdrn`: a dx8 result needs MOD[1:0] = 0 (R65). -/
def mdrnSpec : Spec :=
  { matSpec with
    minLen := 2, ty := fun _ => true, fp64 := false, useImm := true,
    vals := fun f => if f.x.toNat < 4 ∧ f.imm.toNat < 2 ^ 16 ∧ (f.ty ≠ 14 ∨ f.mod.toNat % 4 = 0) then none else some 0x0103 }

/-- `mdrn` (R215). -/
def execMdrn (f : Fields) (s : State) : Ans :=
  run mdrnSpec (.mdrn f) f
    (fun _ s =>
      let low := instrLow (.mdrn f)
      let ty := f.ty.toNat
      let drow := field f.imm.toNat 0 8
      let crow := field f.imm.toNat 8 8
      match matTurn s true true, s.quadCur s.w with
      | some c, _ => .trap c s.pc low
      | none, none => .stall s
      | none, some q =>
        if (if q.ikind then ty ≠ 0 ∨ f.mod ≠ 0 else ty ≠ 8 ∧ ty ≠ 10 ∧ ty ≠ 11 ∧ ty ≠ 14) then .trap 0x0133 s.pc low
        else if drow > 192 ∨ crow > 192 then .trap 0x0137 s.pc low
        else
          let rel := f.x.getLsbD 1
          s.queueEngine f true (.drn ty f.mod s.w.r.ftz (f.x.getLsbD 0) rel drow crow)
            (fun _ q => { q with irel := rel }) fun _ => []) s

/-- The fields of `mdrnn`. -/
def mdrnnSpec : Spec :=
  { matSpec with
    minLen := 1, useA := true, useB := true, wA := fun _ => 2, wB := fun _ => 1,
    vals := fun f => if f.mod = 0 ∧ f.x.toNat < 128 then none else some 0x0103,
    ok := fun k f => pairOk k f.a && sregOk k 18 f.b && robjDeclared k f }

/-- `mdrnn` (R216). -/
def execMdrnn (f : Fields) (s : State) : Ans :=
  run mdrnnSpec (.mdrnn f) f
    (fun _ s =>
      let low := instrLow (.mdrnn f)
      let fits := match s.openObj (robjX f) with
        | none => false
        | some o => o.desc.opr == 0 && o.desc.fmt == 0 && !o.desc.ftz && !o.desc.sat
      match matTurn s true true, s.quadCur s.w with
      | some c, _ => .trap c s.pc low
      | none, none => .stall s
      | none, some q =>
        if q.ikind || !fits then .trap 0x0136 s.pc low
        else
          let rel := f.x.getLsbD 6
          s.queueEngine f true (.drnn (BitVec.ofNat 64 (srcVal s.w.r f 19 f.a 0)) (sext 32 (src32 s.w.r f f.b 0)) (robjX f) rel)
            (fun _ q => { q with istart := q.inext, irel := rel }) fun _ => []) s

/-- The word of `mstat` (R217). -/
def State.mstatWord (s : State) (w : Wave) (item : Nat) : Nat :=
  let cur := s.quadCur w
  let held := s.quadHolds w
  match cur, item with
  | some q, 0 => if held then 2 ^ 31 + (if q.ikind then 2 ^ 29 else 0) + min 8 q.queue.length * 2 ^ 25 + q.inext % 2 ^ 25 else 2 ^ 30
  | some q, 1 => if held then q.iF % 2 ^ 24 else 0
  | some q, 2 => if held then q.ik else 0
  | c, 3 =>
    let win := match s.team? w.team with | some t => nth 0 t.wins w.quad | none => 0
    win + match c with | some q => if held then q.ibfmt * 2 ^ 8 + (if q.ibpre.isSome then 4 else 0) else 0 | none => 0
  | _, _ => 0

/-- The fields of `mstat`. -/
def mstatSpec : Spec :=
  { matSpec with
    uni := .yes, useD := true, vals := fun f => if f.mod = 0 ∧ f.x.toNat < 4 then none else some 0x0103,
    ok := fun k f => sregOk k 18 f.d }

/-- `mstat` (R217). -/
def execMstat (f : Fields) (s : State) : Ans :=
  run mstatSpec (.mstat f) f
    (fun _ s =>
      let wrs := dstWr 18 f.d 0 (s.mstatWord s.w (f.x.toNat % 4))
      let (ops, s) := s.engineOps f false
      .ok (ops.foldl (fun s (u, o) => s.finishOp u o wrs 0 none) s) none) s

/-! ### The engine at work -/

/-- An engine instruction completes: it leaves the queue and its operations finish. -/
def State.engineDone (s : State) (core : Nat) : State :=
  let e := s.engine core
  match e.claim with
  | none => s
  | some q => match q.queue with
    | [] => s
    | x :: rest => (s.putEngine core { e with claim := some { q with queue := rest } }).finishOps x.ops none

/-- An `mzero` takes effect (R210). -/
def State.runZero (s : State) (core : Nat) (int : Bool) (k f : Nat) : State :=
  let e := s.engine core
  (s.putEngine core { e with
    kind := int, k := k, f := f, start := f, next := f, stack := [], poison := false, taint := false, bpre := false,
    claim := e.claim.map fun q => { q with rdy := [0, 0, 0, 0], loads := 0, early := [] }
    plan := e.plan.map fun b =>
      if e.claim.any fun q => q.team == b.team && q.quad == b.quad then { b.age e.claim with zeros := b.zeros - 1 } else b }).engineDone core

/-- The engine state a restored quad brings, to be reloaded at its grant (R210, R220). -/
def State.savedEngine (s : State) (q : QuadSt) : Option Engine :=
  ((s.team? q.team).bind (·.saved)).bind fun e => match e.claim with | some c => if c.quad = q.quad then some e else none | none => none

/-- Reload a restored quad's engine state: its queue and issue counts are those it has now (R220). -/
def State.reloadEngine (s : State) (core : Nat) (saved : Engine) (q : QuadSt) (rest : List QuadSt) : State :=
  let e := s.engine core
  (s.putEngine core { saved with claim := some q, pending := rest, plan := e.plan, lastQuad := some (q.team, q.quad) }).mapTeam q.team
    fun t => { t with saved := none }

/-- `CLAIM_GRANT` (R205, R210): the next pending quad takes the free engine, and its `mzero` takes effect. -/
def execClaimGrant (core : Nat) (s : State) : Ans :=
  let e := s.engine core
  match e.claim, e.pending with
  | none, q :: rest =>
    match s.savedEngine q with
    | some saved => .next (s.reloadEngine core saved q rest)
    | none =>
      let e := if e.lastQuad = some (q.team, q.quad) then e else { e with bfmt := 11, nb := false, bank0 := Bank.zero, bank1 := Bank.zero }
      let s := s.putEngine core { e with claim := some q, pending := rest, lastQuad := some (q.team, q.quad) }
      .next (match q.queue with | { cmd := .zero int k f, ops := _ } :: _ => s.runZero core int k f | _ => s)
  | _, _ => .next s

/-- A B block from the registers of the four members (R203), and whether one of them has a double-bit error (R219). -/
def State.loadBank (s : State) (q : QuadSt) (ty base : Nat) : Bank × Bool :=
  let b := 8 * matSize ty
  let p := 32 / b
  let members := (List.range 4).map fun j => s.quadWave q.team q.quad j
  let val (kk col : Nat) : BitVec 16 :=
    match nth none members (col / 16) with
    | none => 0
    | some w =>
      let x := kk / p
      BitVec.ofNat 16 (field (w.r.vget (base + x / 4) (16 * (x % 4) + col % 16)).toNat (b * (kk % p)) b)
  let cells := (List.range 16).foldl (fun c kk => csetMany 0 c (64 * kk) ((List.range 64).map fun col => val kk col)) ([] : Cells 16)
  let bad := members.any fun m => match m with
    | none => false
    | some w => w.r.bad.any fun k => decide (64 * base ≤ k ∧ k < 64 * (base + matRegs ty))
  ({ fmt := ty, vals := cells }, bad)

/-- An input error reaches the accumulation: one record for the leader, the error in every member (R219). -/
def State.inputError (s : State) (core : Nat) (ops : List (Nat × Nat)) (code : BitVec 16) : State :=
  let e := s.engine core
  let s := s.putEngine core { e with poison := true }
  match ops with
  | [] => s
  | (u, o) :: rest =>
    let addr := s.recAddr code 0
    let s := s.opFail u o { engine := 2, code := code, addr := 0, detail := 0 }
    rest.foldl (fun s (u, o) => s.mapWave u fun w => w.mapOp o fun p =>
      { p with err := match p.err with | some x => some x | none => some { code := code, later := 0, addr := addr } }) s

/-- Load bank NB with the next register block (R207, R211, R219). -/
def State.bankLoad (s : State) (core : Nat) (q : QuadSt) (base : Nat) (ops : List (Nat × Nat)) : State :=
  let e := s.engine core
  let (bank, bad) := s.loadBank q e.bfmt base
  let e := if e.nb then { e with bank1 := bank } else { e with bank0 := bank }
  let s := s.putEngine core { e with claim := e.claim.map fun q => { q with loads := q.loads + 1 } }
  if bad then s.inputError core ops 0x0513 else s

/-- The leaves of a step, cell by cell in row-major order (R198, R202). -/
def stepLeaves (int : Bool) (k j aty : Nat) (bytes : List Byte) (bank : Bank) : List Word :=
  let size := matSize aty
  let inK (kk : Nat) : Bool := decide (16 * j + kk < k)
  let elem (i : Nat) : Nat := ofBytes ((bytes.drop (i * size)).take size)
  let bbits (kk col : Nat) : Nat := (cget 0 bank.vals (64 * kk + col)).toNat
  let ks := List.range 16
  let cells := List.range 64
  if int then
    let bs := cells.map fun col => ks.map fun kk => if inK kk then matNum bank.fmt (bbits kk col) else 0
    cells.flatMap fun i =>
      let as := ks.map fun kk => matNum aty (elem (16 * i + kk))
      bs.map fun b => intLeaf as b
  else
    let zero : FVal := .fin false 0 0
    let bs := cells.map fun col => ks.map fun kk => if inK kk then matVal bank.fmt (bbits kk col) else zero
    cells.flatMap fun i =>
      let as := ks.map fun kk => if inK kk then matVal aty (elem (16 * i + kk)) else zero
      bs.map fun b => floatLeaf as b

/-- One step of an `mloop` once its bank is there (R214). -/
def State.loopStep (s : State) (core team addr j aty : Nat) (ops : List (Nat × Nat)) : State :=
  let base := match s.team? team with | some t => t.core * 2 ^ 19 + t.base | none => 0
  let n := 1024 * matSize aty
  let pa := base + addr
  let s := if s.m.spPoisoned pa n then s.inputError core ops 0x0512 else s
  let e := s.engine core
  let leaves := stepLeaves e.kind e.k j aty (cgetMany 0 s.m.sp pa n) (if e.nb then e.bank1 else e.bank0)
  s.putEngine core { e with stack := pushLeaf e.kind j leaves e.stack, nb := !e.nb, next := j + 1 }

/-- The fold of every cell's stack, from the top down (R215). -/
def foldStack (int : Bool) : List MNode → Option (List Word)
  | [] => none
  | t :: rest => some (rest.foldl (fun acc n => List.zipWith (cellComb int) n.vals acc) t.vals)

/-- Free values for every cell (R207). -/
def freeCells (free : Nat) : List Word := (List.range 4096).map fun i => Config.freeWord (free * 2 ^ 14 + i)

/-- One drained entry: its bits and flags (R215). DX8 takes the exact value, unflushed (R65). -/
def drainCell (int : Bool) (ty : Nat) (mode : BitVec 4) (ftz : Bool) (root : Word) (cin : Option Word) : Nat × FFlags :=
  if int then ((root + cin.getD 0).toNat, {})
  else
    let c : RCtl := { mode := RMode.ofMod mode, sat := mode.getLsbD 2, fz := mode.getLsbD 3 || ftz }
    let fz := c.fz && ty != 14
    let x := Fmt.f32.decode fz root.toNat
    let ex := match cin with | none => x.exact | some y => exactAdd c.mode x (Fmt.f32.decode fz y.toNat)
    match ty with
    | 14 =>
      let (b, fl) := dx8Encode ex.val c.sat
      (b, { fl with inv := match ex with | .nan i => i | _ => false })
    | 10 => ex.round .f16 c
    | 11 => ex.round .bf16 c
    | _ => ex.round .f32 c

/-- The canonical NaN of an output type, or the poison of the integer kind (R215). -/
def drainPoison (int : Bool) (ty : Nat) : Nat :=
  if int then 0x80000000 else match ty with | 14 => 0x80 | 10 => Fmt.f16.nanBits | 11 => Fmt.bf16.nanBits | _ => Fmt.f32.nanBits

/-- The release of an `mdrn` or `mdrnn`, or the stacks it leaves (R215, R216). -/
def State.engineRelease (s : State) (core : Nat) (rel : Bool) : State :=
  let e := s.engine core
  if rel then s.putEngine core e.passClaim else s

/-- `mdrn` at the engine (R215): row by row into the leader's window. -/
def State.drain (s : State) (core : Nat) (q : QuadSt) (ops : List (Nat × Nat)) (ty : Nat) (mode : BitVec 4) (ftz addc rel : Bool)
    (drow crow : Nat) : State :=
  let e := s.engine core
  let roots := if e.taint then freeCells s.free else (foldStack e.kind e.stack).getD (List.replicate 4096 0)
  let s := if e.taint then { s with free := s.free + 1 } else s
  let win := match s.team? q.team with | some t => 256 * nth 0 t.wins q.quad | none => 0
  let row (acc : Cells 32 × FFlags) (i : Nat) : Cells 32 × FFlags :=
    let (cells, fl) := acc
    let cins := cgetMany 0 cells (accKey core (win + crow + i) 0) 64
    let outs := List.zipWith (fun r c => drainCell e.kind ty mode ftz r (if addc then some c else none)) ((roots.drop (64 * i)).take 64) cins
    let bits := outs.map fun o => (BitVec.ofNat 32 (if e.poison then drainPoison e.kind ty else o.1) : Word)
    (csetMany 0 cells (accKey core (win + drow + i) 0) bits, outs.foldl (fun fl o => fl.or o.2) fl)
  let (cells, fl) := (List.range 64).foldl row (s.m.acc, ({} : FFlags))
  let s := { s with m := { s.m with acc := cells } }
  let s := match ops with
    | (u, o) :: _ => s.mapWave u fun w => w.mapOp o fun p => { p with nstat := p.nstat ||| fl.bits }
    | [] => s
  (s.engineDone core).engineRelease core rel

/-- One node of a cell as a contribution of the leader (R216, R253). -/
def State.sendNode (s : State) (uid op core ctx : Nat) (o : RObj) (e level index v : Nat) : State :=
  if e ≥ o.desc.m || !namesNode o.desc.n level index then
    s.leafFail uid op { engine := 2, code := 0x0306, addr := if e < o.desc.m then o.addr e else s.openAddr, detail := BitVec.ofNat 64 e }
  else s.contribute uid op core ctx o e level index v

/-- `mdrnn` at the engine (R216): cell by cell, each stack from the bottom up. -/
def State.drainNodes (s : State) (core : Nat) (q : QuadSt) (ops : List (Nat × Nat)) (ebase : DWord) (stride : Int) (robj : Nat)
    (rel : Bool) : State :=
  let e := s.engine core
  let free := s.free
  let nodes := e.stack.reverse.zipIdx
  let val (i : Nat) (n : MNode × Nat) : Nat :=
    if e.poison then Fmt.f32.nanBits
    else if e.taint then (Config.freeWord (free * 2 ^ 14 + n.2 * 4096 + i)).toNat
    else (nth 0 n.1.vals i).toNat
  let s := { s with free := free + 32 }
  let s : State := match ops, s.quadWave q.team q.quad 0 with
    | (u, op) :: _, some w =>
      match s.robj? w.ctx robj with
      | none => s
      | some o =>
        (List.range 4096).foldl (fun s i =>
          let el := (ebase + BitVec.ofInt 64 (stride * ((i / 64 : Nat) : Int)) + BitVec.ofNat 64 (i % 64)).toNat
          nodes.foldl (fun s (n : MNode × Nat) => s.sendNode u op core w.ctx o el n.1.level n.1.index (val i n)) s) s
    | _, _ => s
  let e := s.engine core
  let errs : Option FErr := match ops with
    | (u, op) :: _ => (s.wave u).bind fun w => (w.ops.find? fun (p : Op) => p.id == op).bind (·.err)
    | [] => none
  let s := s.putEngine core { e with stack := [], start := e.next }
  let s := match errs with | none => s | some x => s.finishOps (ops.drop 1) (some x)
  (s.engineDone core).engineRelease core rel

/-- The engine may go on with the instruction at the head of its queue: a load finds its block handed over (R207). -/
def Engine.ready (e : Engine) : Bool :=
  match e.claim with
  | none => false
  | some q =>
    let handed := (List.range 4).all fun j => decide (nth 0 q.rdy j > q.loads)
    match q.queue with
    | [] => false
    | x :: _ => match x.cmd with
      | .bank _ => handed
      | .loop _ _ _ _ _ _ _ done => (done == 0 && e.bpre) || handed
      | _ => true

/-- `MLOOP_STEP` (R209, R214): the engine's next action: a step of its `mloop`, or all of another instruction at the head of
its queue. -/
def execMloopStep (core : Nat) (s : State) : Ans :=
  let e := s.engine core
  if !e.ready then .next s
  else match e.claim with
  | none => .next s
  | some q => match q.queue with
    | [] => .next s
    | x :: rest => match x.cmd with
      | .zero int k f => .next (s.runZero core int k f)
      | .fmt ty => .next ((s.putEngine core { e with bfmt := ty }).engineDone core)
      | .bank base =>
        let s := s.bankLoad core q base x.ops
        .next ((s.putEngine core { s.engine core with bpre := true }).engineDone core)
      | .loop base addr steps l0 ainc binc aty done =>
        let s := if done = 0 ∧ e.bpre = true then s.putEngine core { e with bpre := false }
          else s.bankLoad core q ((base : Int) + (done : Int) * binc).toNat x.ops
        let s := s.loopStep core q.team ((addr : Int) + (done : Int) * ainc).toNat (l0 + done) aty x.ops
        if done + 1 ≥ steps then .next (s.engineDone core)
        else
          let e := s.engine core
          let x := { x with cmd := .loop base addr steps l0 ainc binc aty (done + 1) }
          .next (s.putEngine core { e with claim := e.claim.map fun q => { q with queue := x :: rest } })
      | .drn ty mode ftz addc rel drow crow => .next (s.drain core q x.ops ty mode ftz addc rel drow crow)
      | .drnn ebase stride robj rel => .next (s.drainNodes core q x.ops ebase stride robj rel)

/-! ### aread and awrite (R218) -/

/-- The fields `aread` and `awrite` share. -/
def accRegSpec (read : Bool) : Spec :=
  { uni := .no4, long := true, ord := true, holdAhead := fun _ => true, ty := fun t => t == 18, useD := read, useA := true, useB := !read, useC := true,
    wA := fun _ => 1, wB := fun _ => 1, wC := fun _ => 1, late := inQuad,
    vals := fun f => if f.mod = 0 ∧ f.x.toNat < 64 then none else some 0x0103,
    ok := fun k f => scalarOk k f f.a && numSrcOk k f.c && vecOk k (if read then f.d else f.b) }

/-- The checks the two share, at issue: row, count and registers. A count out of range is tested here, as the instruction executes, whether it
comes from a register or stands in the instruction as a constant or IMM32 (DEDUCED, log 57). -/
def accRegCheck (s : State) (f : Fields) (spec : BitVec 10) : Option (BitVec 16) :=
  let n := src32 s.w.r f f.c 0
  if n = 0 ∨ n > 8 then some 0x0103
  else if vecNum spec + n > s.w.k.vregs then some 0x0107
  else if src32 s.w.r f f.a 0 + n > 256 then some 0x0137
  else none

/-- `aread` (R218). -/
def execAread (f : Fields) (s : State) : Ans :=
  run (accRegSpec true) (.aread f) f
    (fun _ s =>
      match accRegCheck s f f.d with
      | some c => .trap c s.pc (instrLow (.aread f))
      | none =>
        let win := (s.window s.w).getD 0 + src32 s.w.r f f.a 0
        let wrs := (List.range (src32 s.w.r f f.c 0)).flatMap fun r => (lanesOf (activeMask s.w.r f)).map fun l =>
          Wr.v (vecNum f.d + r) l (cget 0 s.m.acc (accKey s.w.core (win + r) ((f.x.toNat + l) % 64)))
        .ok (s.longDone f wrs 0) none) s

/-- `awrite` (R218). -/
def execAwrite (f : Fields) (s : State) : Ans :=
  run (accRegSpec false) (.awrite f) f
    (fun _ s =>
      match accRegCheck s f f.b with
      | some c => .trap c s.pc (instrLow (.awrite f))
      | none =>
        let win := (s.window s.w).getD 0 + src32 s.w.r f f.a 0
        let put (acc : Cells 32) (r l : Nat) : Cells 32 :=
          cset 0 (s.w.r.vget (vecNum f.b + r) l) acc (accKey s.w.core (win + r) ((f.x.toNat + l) % 64))
        let acc := (List.range (src32 s.w.r f f.c 0)).foldl (fun acc r =>
          (lanesOf (activeMask s.w.r f)).foldl (fun acc l => put acc r l) acc) s.m.acc
        .ok (({ s with m := { s.m with acc := acc } }).longDone f [] 0) none) s

end Sys2Proof.Machine
end

