-- ==== Sys2Proof/Machine/Grid.lean ====
section
/-! DEFINITION. Grid descriptors, handles and the lattice unit (R224 to R237 of spec/10_grid_regions.md). -/

namespace Sys2Proof.Machine

/-! ### The descriptor (R224, R225) -/

/-- The default hash multiplier of dimension i (R229). -/
def defMult (i : Nat) : Nat :=
  nth 1 [1, 0x8DA6B343, 0xD8163841, 0xCB1AB31F, 0xA3C59AC3, 0xF1E3B5C7, 0xB492B66F, 0xE7037ED1] i

/-- Bytes of an entry's element (R224). -/
def Grid.esize (g : Grid) : Nat := if g.efmt = 2 then 4 else 2

/-- Features per entry. -/
def Grid.feats (g : Grid) : Nat := 2 ^ g.log2f

/-- A descriptor from its 128 bytes. -/
def Grid.ofBytes (bs : List Byte) : Grid :=
  let num (o n : Nat) : Nat := Sys2Proof.ofBytes ((bs.drop o).take n)
  let w := num 0 8
  { robj := field w 32 6, log2t := field w 24 5, efmt := field w 20 2, log2f := field w 16 2, levels := field w 8 5, dims := field w 0 4,
    base := BitVec.ofNat 64 (num 8 8), res := (List.range 16).map fun l => num (0x10 + 4 * l) 4,
    mults := (List.range 7).map fun i => BitVec.ofNat 32 (num (0x50 + 4 * i) 4) }

/-- The byte offset of the first field that breaks R224 (R225). DEDUCED (log 31): LOG2T 3 is accepted beside R224's 4 to 24, since
R396 binds a descriptor with it and R398 to R401 state what it does. -/
def Grid.bad (bs : List Byte) : Option Nat :=
  let num (o n : Nat) : Nat := Sys2Proof.ofBytes ((bs.drop o).take n)
  let w := num 0 8
  let g := Grid.ofBytes bs
  let last := g.base.toNat + g.levels * 2 ^ g.log2t * g.feats * g.esize - 1
  if field w 38 26 ≠ 0 ∨ field w 29 3 ≠ 0 ∨ field w 22 2 ≠ 0 ∨ field w 18 2 ≠ 0 ∨ field w 13 3 ≠ 0 ∨ field w 4 4 ≠ 0 then some 0
  else if g.dims = 0 ∨ g.dims > 8 ∨ g.levels = 0 ∨ g.levels > 16 ∨ g.efmt = 3 ∨ g.log2t < 3 ∨ g.log2t > 24 then some 0
  else if g.base.toNat % 256 ≠ 0 ∨ last ≥ 2 ^ 64 ∨ canonicalVa g.base = false ∨ last / 2 ^ 56 ≠ g.base.toNat / 2 ^ 56 then some 8
  else match (List.range 16).find? fun l =>
      let n := nth 0 g.res l
      if l < g.levels then n == 0 || decide (n > 2 ^ 20) else n != 0 with
  | some l => some (0x10 + 4 * l)
  | none => if num 0x6C 20 ≠ 0 then some 0x6C else none

/-! ### The corner rule (R227 to R229) -/

/-- RNE32 of an exact result, as a value, nothing flushed. -/
def rne32 (x : Exact) : FVal := Fmt.f32.decode false (x.round .f32 { mode := .rne, sat := false, fz := false }).1

/-- One dimension of a coordinate at a resolution: c, w and u, and whether it was a NaN (R227). -/
def gridCoord (n bits : Nat) : Nat × FVal × FVal × Bool :=
  let one : FVal := .fin false 1 0
  let zero : FVal := .fin false 0 0
  let (x, inv) : FVal × Bool := match Fmt.f32.decode false bits with
    | .nan => (zero, true)
    | .inf neg => (if neg then zero else one, false)
    | .fin neg m e => (if neg then zero else if FVal.cmp (.fin false m e) one == .gt then one else .fin false m e, false)
  let p := rne32 (exactMul x (.fin false n 0))
  let fl : Nat := match p with
    | .fin _ m e => if e ≥ 0 then m * 2 ^ e.toNat else m / 2 ^ (-e).toNat
    | _ => 0
  let c := min fl (n - 1)
  let w := (exactAdd .rne p (.fin true c 0)).val
  (c, w, rne32 (exactAdd .rne one w.neg), inv)

/-- Level l is dense (R229). -/
def Grid.dense (g : Grid) (l : Nat) : Bool := decide ((nth 0 g.res l + 1) ^ g.dims ≤ 2 ^ g.log2t)

/-- The hash multiplier of dimension i (R229). -/
def Grid.mult (g : Grid) (i : Nat) : Nat :=
  if i = 0 then 1 else let m := (nth 0 g.mults (i - 1)).toNat; if m = 0 then defMult i else m

/-- The index and weight of corner k of a level, from the dimensions' c, w and u (R228, R229). -/
def Grid.corner (g : Grid) (l k : Nat) (cs : List (Nat × FVal × FVal × Bool)) : Nat × FVal :=
  let n := nth 0 g.res l
  let ds := cs.zipIdx.map fun ((c, w, u, _), i) => (c + (if natBit k i then 1 else 0), if natBit k i then w else u, i)
  let weight : FVal := match ds with
    | [] => .fin false 0 0
    | (_, f0, _) :: rest => rest.foldl (fun acc d => rne32 (exactMul acc d.2.1)) f0
  let index := if g.dense l then (ds.map fun d => d.1 * (n + 1) ^ d.2.2).foldl (· + ·) 0
    else ds.foldl (fun h d => h ^^^ (d.1 * g.mult d.2.2 % 2 ^ 32)) 0 % 2 ^ g.log2t
  (index, weight)

/-- Every corner of a level for one lane's coordinates, and whether one of them was a NaN. -/
def Grid.corners (g : Grid) (l : Nat) (xs : List Nat) : List (Nat × FVal) × Bool :=
  let cs := xs.map fun x => gridCoord (nth 0 g.res l) x
  ((List.range (2 ^ g.dims)).map fun k => g.corner l k cs, cs.any fun c => c.2.2.2)

/-- The format of an entry's elements (R224). -/
def Grid.fmt (g : Grid) : Fmt := match g.efmt with | 0 => .f16 | 1 => .bf16 | _ => .f32

/-- Feature φ of a level from the corners' weights and entries (R230). -/
def Grid.feature (g : Grid) (phi : Nat) (cs : List (FVal × List Byte)) : Nat × FFlags :=
  let leaf (c : FVal × List Byte) : Nat × FFlags :=
    let e := g.fmt.decode false (Sys2Proof.ofBytes ((c.2.drop (phi * g.esize)).take g.esize))
    (exactMul c.1 e).round .f32 { mode := .rne, sat := false, fz := false }
  let ls := cs.map leaf
  let (root, fl) := treeRoot (combineFp .f32 0 false false) g.dims (ls.map fun x => some x.1)
  (root.getD 0, ls.foldl (fun acc x => acc.or x.2) fl)

/-! ### Handles (R226) -/

/-- Key of a team's handle. -/
def gridKey (team h : Nat) : Nat := team * 8 + h

/-- The binding of a handle. -/
def State.grid? (s : State) (team h : Nat) : Option Grid := lookup s.grids (gridKey team h)

/-- Unbind a handle. -/
def State.unbind (s : State) (team h : Nat) : State := { s with grids := s.grids.filter fun x => x.1 != gridKey team h }

/-- A `gbind` of the handle by some wave of the team is outstanding. -/
def State.binding (s : State) (h : Nat) : Bool :=
  s.lattices.any fun x => x.team == s.w.team && match x.bindTo with | some (n, _) => n == h | none => false

/-- The handle an instruction names (R231). -/
def gridX (f : Fields) : Nat := f.x.toNat % 8

/-- The fields the four instructions share (R231). -/
def gridSpec (xs : Nat) (ty : Nat) : Spec :=
  { uni := .no6, long := true, ord := true, holdAhead := fun _ => true, ty := fun t => t == ty,
    vals := fun f => if f.mod = 0 ∧ f.x.toNat < xs then none else some 0x0103 }

/-- The handle is declared (R47). -/
def gridDeclared (k : Kernel) (f : Fields) : Bool := natBit k.gridMask (gridX f)

/-- A lattice instruction of the wave on the issue port. -/
def State.newLattice (s : State) (op : Nat) : Lattice :=
  { id := s.nextId, core := s.w.core, wave := s.w.uid, op := op, team := s.w.team, ctx := s.w.ctx, priv := s.priv, grid := none,
    bindTo := none, lanes := 0, dst := 0, coords := [], grads := none, samples := [], group := 0, level := 0, after := s.nextId,
    suspended := false, lane := 0, got := [] }

/-- Put it to the lattice unit. -/
def State.addLattice (s : State) (x : Lattice) : State := { s with nextId := s.nextId + 1, lattices := s.lattices ++ [x] }

/-- The fields of `gbind`. -/
def gbindSpec : Spec :=
  { gridSpec 16 0 with uni := .yes, useA := true, wA := fun _ => 2, ok := fun k f => pairOk k f.a && gridDeclared k f }

/-- `gbind` (R226, R232). -/
def execGbind (f : Fields) (s : State) : Ans :=
  run gbindSpec (.gbind f) f
    (fun _ s =>
      let va : DWord := BitVec.ofNat 64 (srcVal s.w.r f 19 f.a 0)
      if !canonicalVa va then .trap 0x0201 va (xlDetail 0 .read 7)
      else if va.toNat % 128 ≠ 0 then .trap 0x020A va (xlDetail 0 .read 7)
      else if s.binding (gridX f) then .stall s
      else
        let (op, s) := s.startOp f false false
        .ok (s.addLattice { s.newLattice op with bindTo := some (gridX f, va) }) none) s

/-- The fields of `gbind.unbind`. -/
def gbindUnbindSpec : Spec :=
  { gridSpec 16 0 with uni := .yes, useA := true, wA := fun _ => 0, ok := fun k f => f.a == 656 && gridDeclared k f }

/-- `gbind.unbind` (R232): takes effect at issue. -/
def execGbindUnbind (f : Fields) (s : State) : Ans :=
  run gbindUnbindSpec (.gbindUnbind f) f
    (fun _ s => if s.binding (gridX f) then .stall s else .ok ((s.unbind s.w.team (gridX f)).longDone f [] 0) none) s

/-! ### Issue of gld, gsc and ghash -/

/-- The values of n registers from `base` in the lanes of a mask, register i of the group in lane l under key 64 i + l. -/
def readGroup (r : Regs) (base n : Nat) (m : Lanes) : Cells 32 :=
  (List.range n).foldl (fun c i => (lanesOf m).foldl (fun c l => cset 0 (r.vget (base + i) l) c (64 * i + l)) c) []

/-- A register group holds an element with a double-bit error in a lane of a mask (R152). -/
def groupBad (r : Regs) (base n : Nat) (m : Lanes) : Bool :=
  r.bad.any fun k => decide (64 * base ≤ k ∧ k < 64 * (base + n)) && m.getLsbD (k % 64)

/-- A lane's coordinates (R227). -/
def coordsOf (c : Cells 32) (d lane : Nat) : List Nat := (List.range d).map fun i => (cget 0 c (64 * i + lane)).toNat

/-- The issue of a grid instruction: it waits for a `gbind` of its handle, then takes the binding, whose groups must lie in the
allocation (R226, R231). -/
def gridTake (i : Instr) (f : Fields) (out : Option (BitVec 10)) (eff : Grid → State → Try) (s : State) : Try :=
  if s.binding (gridX f) then .stall s
  else match s.grid? s.w.team (gridX f) with
  | none => .trap 0x0241 s.pc (instrLow i)
  | some g =>
    let lf := g.levels * g.feats
    if decide (vecNum f.a + g.dims > s.w.k.vregs) || (match out with | some o => decide (vecNum o + lf > s.w.k.vregs) | none => false) then
      .trap 0x0107 s.pc (instrLow i)
    else if groupBad s.w.r (vecNum f.a) g.dims (activeMask s.w.r f) then .trap 0x0513 s.pc 0
    else eff g s

/-- The fields of `gld`. -/
def gldSpec : Spec :=
  { gridSpec 8 8 with useD := true, useA := true, wA := fun _ => 0, ok := fun k f => vecOk k f.d && vecOk k f.a && gridDeclared k f }

/-- `gld` (R233). -/
def execGld (f : Fields) (s : State) : Ans :=
  run gldSpec (.gld f) f
    (fun _ s => gridTake (.gld f) f (some f.d) (fun g s =>
      let m := activeMask s.w.r f
      let (op, s) := s.startOp f false true
      .ok (s.addLattice { s.newLattice op with grid := some g, lanes := m, dst := vecNum f.d, coords := readGroup s.w.r (vecNum f.a) g.dims m }) none) s) s

/-- The fields of `gsc`. -/
def gscSpec : Spec :=
  { gridSpec 8 8 with
    minLen := 1, useA := true, useB := true, useC := true, wA := fun _ => 0, wB := fun _ => 0, wC := fun _ => 1,
    ok := fun k f => vecOk k f.a && vecOk k f.b && vecOk k f.c && gridDeclared k f }

/-- `gsc` (R234). -/
def execGsc (f : Fields) (s : State) : Ans :=
  run gscSpec (.gsc f) f
    (fun _ s => gridTake (.gsc f) f (some f.b) (fun g s =>
      let m := activeMask s.w.r f
      if groupBad s.w.r (vecNum f.b) (g.levels * g.feats) m then .trap 0x0513 s.pc 0
      else if (match s.openObj g.robj with | some o => o.desc.sparse && o.desc.opr == 0 | none => false) then
        let (op, s) := s.startOp f false false
        .ok (s.addLattice { s.newLattice op with
          grid := some g, lanes := m, coords := readGroup s.w.r (vecNum f.a) g.dims m,
          grads := some (readGroup s.w.r (vecNum f.b) (g.levels * g.feats) m), samples := readGroup s.w.r (vecNum f.c) 1 m }) none
      else .trap 0x0242 s.pc (instrLow (.gsc f))) s) s

/-- A level or corner operand of `ghash`: vector, scalar or integer constant (R231). -/
def hashOk (k : Kernel) (f : Fields) (spec : BitVec 10) : Bool := vecOk k spec || idxSrcOk k false f spec

/-- The fields of `ghash`. -/
def ghashSpec : Spec :=
  { gridSpec 8 8 with
    minLen := 1, useD := true, useA := true, useB := true, useC := true, wA := fun _ => 0, wB := fun _ => 1, wC := fun _ => 1,
    ok := fun k f => vregOk k 19 f.d && vecOk k f.a && hashOk k f f.b && hashOk k f f.c && gridDeclared k f }

/-- `ghash` (R235). -/
def execGhash (f : Fields) (s : State) : Ans :=
  run ghashSpec (.ghash f) f
    (fun _ s => gridTake (.ghash f) f none (fun g s =>
      let one (l : Nat) : List Wr × Bool :=
        let lev := src32 s.w.r f f.b l
        let k := src32 s.w.r f f.c l
        let d := vecNum f.d
        if lev ≥ g.levels ∨ k ≥ 2 ^ g.dims then ([Wr.v d l 0xFFFFFFFF, Wr.v (d + 1) l 0x7FC00000], false)
        else
          let xs := (List.range g.dims).map fun i => gridCoord (nth 0 g.res lev) (s.w.r.vget (vecNum f.a + i) l).toNat
          let (ix, w) := g.corner lev k xs
          ([Wr.v d l (BitVec.ofNat 32 ix), Wr.v (d + 1) l (BitVec.ofNat 32 (w.exact.round .f32 {}).1)], xs.any fun c => c.2.2.2)
      let rs := (lanesOf (activeMask s.w.r f)).map one
      let st := ({ inv := rs.any (·.2) } : FFlags).bits
      .ok (s.longDone f (rs.flatMap (·.1)) st) none) s) s

/-! ### The lattice unit at work -/

/-- Stores of the wave issued before the instruction have not been performed (R226, R236). -/
def State.latWaits (s : State) (x : Lattice) : Bool :=
  x.suspended || s.m.port.any fun a => a.wave == x.wave && decide (a.id < x.after) && a.kind.writes

/-- The engine identity of a lattice instruction. -/
def State.latEng (s : State) (x : Lattice) : Eng :=
  match s.wave x.wave with
  | some w => { s.engOf (3 * 2 ^ 40 + x.id) w with priv := x.priv }
  | none => { engFor (3 * 2 ^ 40 + x.id) x.ctx with priv := x.priv }

/-- Read bytes of one page for the lattice unit: its classes are given (R233, R80). The answer is the code, address and engine, or
the bytes. -/
def State.latRead (s : State) (x : Lattice) (classes : List Nat) (va : DWord) (n : Nat) : Sum (BitVec 16 × DWord × Nat) (List Byte) × State :=
  let e := s.latEng x
  match s.engPieces e false [(va, n)] with
  | (.inl (c, a), s) => (.inl (c, a, 3), s)
  | (.inr ls, s) =>
    if ls.any fun l => !classes.contains l.cls then (.inl (0x0230, va, 3), s)
    else match ls.findSome? fun l => s.engBad e false l with
    | some (c, a) => (.inl (c, a, if c = 0x0501 then 5 else if c = 0x0511 then 4 else 3),
        if c = 0x0511 then s.withM fun m => m.l2Lose a.toNat else s)
    | none => let (bs, s) := s.engBytes x.ctx ls; (.inr bs, s)

/-- Take an instruction from the lattice unit, its pins with it. -/
def State.dropLattice (s : State) (x : Lattice) : State :=
  ({ s with lattices := s.lattices.filter fun y => y.id != x.id }).dropPins (3 * 2 ^ 40 + x.id) []

/-- A `gbind` reads its descriptor (R225, R226, R232). -/
def State.doBind (s : State) (x : Lattice) (h : Nat) (va : DWord) : State :=
  let (r, s) := s.latRead x [0, 2] va 128
  let s := (s.dropLattice x).unbind x.team h
  let fail (s : State) (eng : Nat) (c : BitVec 16) (a d : DWord) : State :=
    (s.opFail x.wave x.op { engine := eng, code := c, addr := a, detail := d }).finishOp x.wave x.op [] 0 none
  match r with
  | .inl (c, a, eng) => fail s eng c a (s.engDetail (s.latEng x) 0 .read a)
  | .inr bs =>
    match Grid.bad bs with
    | some n => fail s 3 0x0240 va (BitVec.ofNat 64 n)
    | none => ({ s with grids := assign (gridKey x.team h) (Grid.ofBytes bs) s.grids }).finishOp x.wave x.op [] 0 none

/-- Add results and flags to an operation in progress. -/
def State.addResult (s : State) (wave op : Nat) (wrs : List Wr) (nstat : Word) : State :=
  s.mapWave wave fun w => w.mapOp op fun o => { o with wrs := o.wrs ++ wrs, nstat := o.nstat ||| nstat }

/-- Free values in every given register and lane. -/
def freeWrs (free : Nat) (regs lanes : List Nat) : List Wr :=
  regs.flatMap fun n => lanes.map fun l => Wr.v n l (Config.freeWord (free * 2 ^ 14 + 64 * n + l))

/-- The outcome of one lane and level of a `gld` once its entries have been read (R230, R233, R76): an entry that cannot be read leaves
the lane's registers of the level undefined. -/
def State.gldLane (s : State) (x : Lattice) (g : Grid) (l lane : Nat) (got : List (Option (List Byte))) : State :=
  let (cs, inv) := g.corners l (coordsOf x.coords g.dims lane)
  if got.contains none then
    let regs := (List.range g.feats).map fun p => x.dst + l * g.feats + p
    ({ s with free := s.free + 1 }).addResult x.wave x.op (freeWrs s.free regs [lane]) ({ inv := inv } : FFlags).bits
  else
    let es := cs.zipWith (fun c b => (c.2, b.getD [])) got
    let rs := (List.range g.feats).map fun p => g.feature p es
    let wrs := rs.zipIdx.map fun (r, p) => Wr.v (x.dst + l * g.feats + p) lane (BitVec.ofNat 32 r.1)
    let fl := rs.foldl (fun acc r => acc.or r.2) ({ inv := inv } : FFlags)
    s.addResult x.wave x.op wrs fl.bits

/-- Note how far an instruction has come within its group and level. -/
def State.latAt (s : State) (x : Lattice) (lane : Nat) (got : List (Option (List Byte))) : State :=
  { s with lattices := updateFirst (fun y => y.id == x.id) (fun y => { y with lane := lane, got := got }) s.lattices }

/-- The next group and level, or the end. -/
def State.latNext (s : State) (x : Lattice) (g : Grid) : State :=
  let (gr, lv) := if x.level + 1 < g.levels then (x.group, x.level + 1) else (x.group + 1, 0)
  if gr ≥ 4 then (s.dropLattice x).finishOp x.wave x.op [] 0 none
  else { s with lattices := updateFirst (fun y => y.id == x.id) (fun y => { y with group := gr, level := lv, lane := 0, got := [] }) s.lattices }

/-- A `gld` reads one entry as it stands now (R236): the last of a lane gives the lane's features, and a fault ends the instruction,
its output undefined (R233). -/
def State.gldRead (s : State) (x : Lattice) (g : Grid) : State :=
  match ((lanesOf x.lanes).filter fun l => l / 16 == x.group)[x.lane]? with
  | none => s.latNext x g
  | some lane =>
    let (cs, inv) := g.corners x.level (coordsOf x.coords g.dims lane)
    let keep (s : State) (b : Option (List Byte)) : State :=
      let got := x.got ++ [b]
      if got.length < cs.length then s.latAt x x.lane got else (s.gldLane x g x.level lane got).latAt x (x.lane + 1) []
    let ix := match cs[x.got.length]? with | some c => c.1 | none => 0
    let n := g.feats * g.esize
    let va := g.base + BitVec.ofNat 64 ((x.level * 2 ^ g.log2t + ix) * n)
    match s.latRead x [2] va n with
    | (.inr bs, s) => keep s (some bs)
    | (.inl (c, a, eng), s) =>
      if c = 0x0501 ∨ c = 0x0511 then keep (s.opFail x.wave x.op { engine := eng, code := c, addr := a, detail := 0 }) none
      else
        let d := s.engDetail (s.latEng x) lane .read va + BitVec.ofNat 64 (x.level * 2 ^ 16)
        let regs := (List.range (g.levels * g.feats)).map fun i => x.dst + i
        let s := s.opFail x.wave x.op { engine := 3, code := c, addr := va, detail := d }
        ((({ s with free := s.free + 1 }).dropLattice x).addResult x.wave x.op [] ({ inv := inv } : FFlags).bits).finishOp x.wave x.op
          (freeWrs s.free regs (lanesOf x.lanes)) 0 none

/-- One lane of one level of a `gsc` (R234), the inputs of its products flushed under the object's FTZ (R57, R239). -/
def State.gscLane (s : State) (x : Lattice) (g : Grid) (o : RObj) (grads : Cells 32) (l lane : Nat) : State :=
  let (cs, inv) := g.corners l (coordsOf x.coords g.dims lane)
  let smp := (cget 0 x.samples lane).toNat
  let s := s.addResult x.wave x.op [] ({ inv := inv } : FFlags).bits
  cs.zipIdx.foldl (fun s ((ix, w), k) => (List.range g.feats).foldl (fun s p =>
    let e := (l * 2 ^ g.log2t + ix) * g.feats + p
    let leaf := (smp * g.levels + l) * 2 ^ g.dims + k
    let gv := Fmt.f32.decode o.desc.ftz (cget 0 grads (64 * (l * g.feats + p) + lane)).toNat
    let (v, fl) := (exactMul (if o.desc.ftz then w.flush32 else w) gv).round (fmtCode o.desc.fmt) { mode := .rne, sat := o.desc.sat, fz := o.desc.ftz }
    let s := s.addResult x.wave x.op [] fl.bits
    if e ≥ o.desc.m || !namesNode o.desc.n 0 leaf then
      s.leafFail x.wave x.op { engine := 3, code := 0x0306, addr := if e < o.desc.m then o.addr e else s.openAddr, detail := BitVec.ofNat 64 e }
    else s.contribute x.wave x.op x.core x.ctx o e 0 leaf v) s) s

/-- One piece of the work of an issued instruction: a `gbind` reads its descriptor, a `gsc` sends a group and level, a `gld` reads one
entry, so that each entry is read as it stands at its own moment (R236, R400). -/
def State.latStep (s : State) (x : Lattice) : State :=
  match x.bindTo, x.grid with
  | some (h, va), _ => s.doBind x h va
  | none, none => s.dropLattice x
  | none, some g => match x.grads with
    | none => s.gldRead x g
    | some grads => match s.robj? x.ctx g.robj with
      | none => s.latNext x g
      | some o => (((lanesOf x.lanes).filter fun l => l / 16 == x.group).foldl (fun s l => s.gscLane x g o grads x.level l) s).latNext x g

/-- Finish the group and level in progress, in at most n pieces: where a stop and a cancel find the unit (R237). -/
def State.latFinish : Nat → Nat → State → State
  | 0, _, s => s
  | n + 1, id, s => match s.lattices.find? fun x => x.id == id with
    | none => s
    | some x => if x.lane = 0 ∧ x.got = [] then s else State.latFinish n id (s.latStep x)

/-- The pieces a group and level can hold: 256 corners of each of 16 lanes, and its end. -/
def latPieces : Nat := 4097

/-- `LATTICE_GROUP_LEVEL` (R237): the lattice unit goes on with an instruction that nothing holds back. -/
def execLatticeGroupLevel (id : Nat) (s : State) : Ans :=
  match s.lattices.find? fun x => x.id == id with
  | none => .next s
  | some x => .next (if s.latWaits x then s else s.latStep x)

end Sys2Proof.Machine
end

