-- ==== Sys2Proof/Machine/Order.lean ====
section
/-! DEFINITION. `fence` and the barrier instructions (R341 to R347 of spec/16_ordering.md). -/

namespace Sys2Proof.Machine

/-! ### fence -/

/-- The fields of `fence`. -/
def fenceSpec (f : Fields) : Spec :=
  let ord := (f.x.extractLsb' 8 2).toNat
  let scope := scopeX f
  { minLen := 1, long := true, ord := true, holdAhead := fun _ => true,
    vals := fun f => if f.mod = 0 ∧ f.x.getLsbD 11 = false ∧ f.x.extractLsb' 5 3 = 0 ∧ ord ≠ 0 ∧
        (f.x.getLsbD 10 = false ∨ (ord = 3 ∧ scope ≠ 3)) then none else some 0x0103 }

/-- A `fence.acq` whose scope reaches other packages asks those its wave has read at to perform what the releases read come after (R342). -/
def State.fencePeers (s : State) (id : Nat) : State :=
  s.w.peersRead.foldl (fun s chip =>
    s.peerSend (some (.fence id)) chip { id := 0, src := 0, ctx := s.w.ctx, cls := 0, addr := 0, size := 0, write := none,
                                         atomic := some (17, 0, []), acq := false }) s

/-- `fence` (R341, R342): acts once per wave, and completes when what it waits for has been performed. -/
def execFence (f : Fields) (s : State) : Ans :=
  let ord := (f.x.extractLsb' 8 2).toNat
  let scope := scopeX f
  run (fenceSpec f) (.fence f) f
    (fun _ s =>
      if !s.scopeValid s.w.ctx scope then .trap 0x0121 s.pc (instrLow (.fence f))
      else
        let (op, s) := s.startOp f true false
        let (id, s) := s.fresh
        let x : Fence := { id := id, wave := s.w.uid, op := op, core := s.w.core, ctx := s.w.ctx, rel := natBit ord 1,
                           acq := natBit ord 0, sc := f.x.getLsbD 10, scope := scope, asked := false }
        let s := if natBit ord 1 && scope == 0 then s.withW fun w => { w with relFence := true } else s
        let s := if natBit ord 0 && (scope == 2 || scope == 3) then s.fencePeers id else s
        .ok ({ s with fences := s.fences ++ [x] }).settleFences none) s

/-! ### Team barriers (R345) -/

/-- A team barrier before its first arrival. -/
def Bar.none : Bar := { phase := false, arrived := 0, expect := 0, waiters := 0 }

/-- A barrier of the wave's team. -/
def State.bar (s : State) (n : Nat) : Bar :=
  match s.team? s.w.team with | some t => (lookup t.bars n).getD Bar.none | none => Bar.none

/-- Put a barrier of the wave's team. -/
def State.setBar (s : State) (n : Nat) (b : Bar) : State := s.mapTeam s.w.team fun t => { t with bars := assign n b t.bars }

/-- A sleeper of the team barrier wakes: its operation completes (R345). -/
def Wave.wakeBar (w : Wave) (n : Nat) : Wave :=
  match w.status with
  | .sleepBar b op => if b = n then { (w.mapOp op fun o => o.finish [] 0 none) with status := .run } else w
  | _ => w

/-- Wake every wave of a team whose bit is set. -/
def State.wakeTeam (s : State) (team n : Nat) (mask : BitVec 16) : State :=
  s.mapWaves fun w => if w.team == team && mask.getLsbD w.idx then w.wakeBar n else w

/-- An arrival at a team barrier (R345): applied whole, in this step. -/
def State.arrive (s : State) (n count : Nat) : State :=
  let b := s.bar n
  let b := if b.arrived = 0 then { b with expect := count } else b
  if b.arrived + 1 = b.expect then
    (s.setBar n { phase := !b.phase, arrived := 0, expect := 0, waiters := 0 }).wakeTeam s.w.team n b.waiters
  else s.setBar n { b with arrived := b.arrived + 1 }

/-- Wait for a team barrier to leave the phase of a token: the operation completes, or the wave sleeps (R345). -/
def State.waitBar (s : State) (n op : Nat) (tok : Bool) : State :=
  let b := s.bar n
  if b.phase != tok then s.finishOp s.w.uid op [] 0 none
  else (s.setBar n { b with waiters := b.waiters ||| (1#16 <<< s.w.idx) }).withW fun w => { w with status := .sleepBar n op }

/-! ### The instructions -/

/-- MEM of X (R344). -/
def memX (f : Fields) : Bool := f.x.getLsbD 5

/-- The fields the three share (R344): `tok` says that B is a token. -/
def barSpec (tok d : Bool) (f : Fields) : Spec :=
  { long := true, ord := true, holdAhead := fun _ => true, useD := d, useA := memX f, useB := true,
    wA := fun _ => 2, wB := fun _ => 1,
    vals := fun f => if f.mod = 0 ∧ f.x.toNat < 64 ∧ (memX f = false ∨ (scopeX f ≠ 0 ∧ scopeX f ≠ 3)) then none else some 0x0103,
    ok := fun k f => (!d || sregOrNull k 18 f.d) && (!memX f || pairOk k f.a) && idxSrcOk k (!tok) f f.b }

/-- What precedes a barrier instruction's effect (R344): the scope, the count and the mode. -/
def barCheck (s : State) (i : Instr) (f : Fields) (count : Option Nat) : Option (BitVec 16 × DWord × DWord) :=
  let mem := memX f
  let expect := if mem then 0 else (s.bar (scopeX f)).expect
  let addr := if mem then memAddr s.w.r { f with c := 0, imm := 0 } 1 0 else s.pc
  let n := count.getD 0
  let detail := BitVec.ofNat 64 (n + expect * 2 ^ 32)
  if mem && !s.scopeValid s.w.ctx (scopeX f) then some (0x0121, s.pc, instrLow i)
  else if (match count with | some n => n == 0 || decide (n > (if mem then 2 ^ 24 - 1 else s.w.k.waves)) | none => false) then
    some (0x0122, addr, detail)
  else if s.w.r.ctl.other.isSome || !s.w.r.ctl.arm.stack.isEmpty then some (0x0123, addr, detail)
  else none

/-- Go to the barrier word: an arrival, which as an atomic invalidates its sector in the core's own L1 (R98, R346), or a reread for a token. -/
def State.barWord (s : State) (f : Fields) (count : Nat) (waits tok : Bool) : Try :=
  let va := memAddr s.w.r { f with c := 0, imm := 0 } 1 0
  match xlateLanes s .atomic 8 [(0, va)] with
  | .fault c a d => .trap c a d
  | .wait s => .stall s
  | .ok hits => match hits with
    | [] => .stall s
    | (_, _, h) :: _ =>
      let (op, s) := s.startOp f waits (!waits)
      let l := s.locate 0 va h
      let a := { s.newAcc op false l 8 (.barrier count waits) with
        parts := [{ lane := 0, data := 0, cmp := 0 }], dst := if waits then none else dstOf f.d, acq := waits, rel := count != 0,
        scope := scopeX f }
      let s := (if count = 0 then s else s.withM fun m => m.l1Drop s.w.core (l1Addr l.peer l.pa)).pushAcc a
      .ok (if waits then s.withW fun w => { w with status := .sleepWord va (scopeX f) op tok } else s) none

/-- The effect of `bar` and `bara` (R345, R346). The count is compared in the step in which the arrival is applied, after the release. -/
def arriveEff (i : Instr) (f : Fields) (waits : Bool) (_ : Nat) (s : State) : Try :=
  let count := src32 s.w.r f f.b 0
  match barCheck s i f (some count) with
  | some (c, a, d) => .trap c a d
  | none =>
    if memX f then s.barWord f count waits false
    else
      let n := scopeX f
      let b := s.bar n
      if releaseHolds s.w.core s.w.uid 0 false s.m.port then .stall s
      else if b.arrived ≠ 0 ∧ b.expect ≠ count then .trap 0x0122 s.pc (BitVec.ofNat 64 (count + b.expect * 2 ^ 32))
      else
        let (op, s) := s.startOp f waits (!waits)
        let tok := b.phase
        let s := s.arrive n count
        .ok (if waits then s.waitBar n op tok else s.finishOp s.w.uid op (dstWr 18 f.d 0 (if tok then 1 else 0)) 0 none) none

/-- `bar` (R344 to R346). -/
def execBar (f : Fields) (s : State) : Ans := run (barSpec false false f) (.bar f) f (arriveEff (.bar f) f true) s

/-- `bara` (R344 to R346). -/
def execBara (f : Fields) (s : State) : Ans := run (barSpec false true f) (.bara f) f (arriveEff (.bara f) f false) s

/-- `barw` (R344 to R346). -/
def execBarw (f : Fields) (s : State) : Ans :=
  run (barSpec true false f) (.barw f) f
    (fun _ s =>
      let tok := natBit (src32 s.w.r f f.b 0) 0
      match barCheck s (.barw f) f none with
      | some (c, a, d) => .trap c a d
      | none =>
        if memX f then s.barWord f 0 true tok
        else
          let (op, s) := s.startOp f true false
          .ok (s.waitBar (scopeX f) op tok) none) s

/-- `BARRIER_WORD_REREAD` (R346): the core of a sleeping wave reads its word again, as an acquire at the scope, through the
translation as it now stands (R94); where that fails the wave wakes and its flag takes the failure (log 28). -/
def execBarrierWordReread (w : Nat) (s : State) : Ans :=
  let s := s.select w
  if s.w.uid ≠ w then .next s
  else match s.w.status with
  | .sleepWord va scope op _ =>
    let fail (s : State) (code : BitVec 16) (level : Nat) : Ans :=
      .next (((s.opFail w op { engine := 0, code := code, addr := s.xlAddr (dieOf s.w.core) s.w.ctx code va,
                               detail := xlDetail 0 .atomic level }).finishOp w op [] 0 none).withW fun w => { w with status := .run })
    if s.m.port.any fun a => a.op == op then .next s
    else match s.engXlate (dieOf s.w.core) s.w.ctx va with
    | (.miss, s) => .next s
    | (.fail level code, s) => fail s code level
    | (.hit h, s) => match accessFault (s.reachable s.w h.pa) s.priv .atomic 8 va.toNat h with
    | some (_, code) => fail s code 7
    | none =>
      let l := s.locate 0 va h
      .next (s.pushAcc { s.newAcc op false l 8 (.barrier 0 true) with
        parts := [{ lane := 0, data := 0, cmp := 0 }], acq := true, scope := scope })
  | _ => .next s

end Sys2Proof.Machine
end

