-- ==== Sys2Proof/Machine/Save.lean ====
section
/-! DEFINITION. Team images, `csave`, `crest`, pre-emption and restore (R136, R220, R237, R257, R347, R363 to R366). -/

namespace Sys2Proof.Machine

/-! ### When a team can be saved (R364) -/

/-- An operation stays as it is in a saved wave: a transfer or engine instruction that suspends, a wait, or a run-ahead. -/
def State.opSuspends (s : State) (w : Wave) (o : Op) : Bool :=
  let mine (x : Nat × Nat) : Bool := x == (w.uid, o.id)
  (s.copies.any fun c => c.wave == some (w.uid, o.id) && c.moving == 0) || (s.lattices.any fun x => x.op == o.id && x.bindTo.isNone) ||
    (s.engines.any fun e => (e.2.claim.toList ++ e.2.pending).any fun q => q.queue.any fun x => x.ops.any mine) ||
    (s.cwaits.any fun c => c.op == o.id) ||
    (match w.ahead with | some a => a.op == o.id || (a.stores.any fun x => x.any fun y => y.op == o.id) | none => false) ||
    (match w.status with | .sleepBar _ op => op == o.id | .sleepWord _ _ op _ => op == o.id | _ => false) ||
    match s.ctx? w.ctx with
    | none => false
    | some c => c.stopped && c.colls.any fun x => x.wave == some (w.uid, o.id) && x.stage == 0

/-- Every operation a wave issued has retired or suspended; one that has finished waits only for those before it on its flag (R237, R326,
R364). -/
def State.waveQuiet (s : State) (w : Wave) : Bool :=
  (w.ops.all fun o => o.fin || s.opSuspends w o) && !(s.m.port.any fun a => a.wave == w.uid) && !(s.fences.any fun x => x.wave == w.uid) &&
    !(s.m.invs.any fun x => match x.op with | some (u, _) => u == w.uid | none => false)

/-- Every wave of a team is quiet. -/
def State.teamQuiet (s : State) (t : Team) : Bool := (s.teamWaves t.uid).all s.waveQuiet

/-- A wave is stopped: parked, halted, waiting for a cancel, or stopped by pre-emption (R366). -/
def Wave.halts (w : Wave) : Bool :=
  w.preempted || match w.status with | .parked _ => true | .halted => true | .stopped => true | .ended => true | _ => false

/-! ### The image (R365) -/

/-- Bytes an image holds of a grid handle's descriptor (R224). -/
def Grid.bytes (g : Grid) : List Byte :=
  natBytes 8 (g.robj * 2 ^ 32 + g.log2t * 2 ^ 24 + g.efmt * 2 ^ 20 + g.log2f * 2 ^ 16 + g.levels * 2 ^ 8 + g.dims) ++ natBytes 8 g.base.toNat ++
    g.res.flatMap (natBytes 4) ++ (g.mults.flatMap fun m => natBytes 4 m.toNat) ++ List.replicate 20 0

/-- A barrier's 8 bytes. -/
def Bar.word (b : Bar) : Nat := (if b.phase then 1 else 0) + b.arrived * 2 ^ 8 + b.expect * 2 ^ 16 + b.waiters.toNat * 2 ^ 32

/-- A barrier from its 8 bytes. -/
def Bar.ofWord (n : Nat) : Bar := { phase := natBit n 0, arrived := field n 8 5, expect := field n 16 5, waiters := BitVec.ofNat 16 (field n 32 16) }

/-- Zero bytes. -/
def zeros (n : Nat) : List Byte := List.replicate n 0

/-- Bytes cut or filled up with zeros to a length. -/
def fitted (n : Nat) (bs : List Byte) : List Byte := bs.take n ++ zeros (n - bs.length)

/-- A number from the bytes of an image. -/
def at4 (bs : List Byte) (o n : Nat) : Nat := ofBytes ((bs.drop o).take n)

/-- The w-byte numbers that bytes hold. -/
def groups (w : Nat) : Nat → List Byte → List Nat
  | 0, _ => []
  | n + 1, bs => ofBytes (bs.take w) :: groups w n (bs.drop w)

/-- Where the parts of an image begin: scratchpad, windows, matrix state, waves; and the stated part of a wave (R365). -/
def imageScr : Nat := 1792
def imageWin (k : Kernel) : Nat := imageScr + k.scratch
def imageMat (k : Kernel) : Nat := imageWin k + 65536 * k.quads
def imageWaves (k : Kernel) (mat : Bool) : Nat := imageMat k + if mat then 401408 else 0
def imageWave (k : Kernel) : Nat := 4096 + 256 * k.vregs

/-- An engine without what the cell stacks and banks of an image hold. -/
def Engine.bare (e : Engine) : Engine :=
  { e with bank0 := { e.bank0 with vals := [] }, bank1 := { e.bank1 with vals := [] }, stack := e.stack.map fun x => { x with vals := [] } }

/-- The cell stacks and banks of a matrix state (R199, R365), and the first 4096 bytes of the rest. -/
def Engine.bytes (e : Engine) : List Byte :=
  let nodes := e.stack.reverse
  let cell (i : Nat) : List Byte := fitted 96 (nodes.flatMap fun x => natBytes 4 (nth 0 x.vals i).toNat)
  let bank (b : Bank) : List Byte := (cgetMany 0 b.vals 0 1024).flatMap fun v => natBytes 2 v.toNat
  ((List.range 4096).flatMap cell) ++ bank e.bank0 ++ bank e.bank1 ++ fitted 4096 (Engine.codec.bytes e.bare)

/-- The matrix state that bytes hold, with what of the rest of it stands elsewhere (R365). -/
def Engine.ofBytes (bs more : List Byte) : Option Engine :=
  (Engine.codec.ofBytes ((bs.drop 397312).take 4096 ++ more)).map fun e =>
    let cells := (List.range 4096).map fun i => groups 4 e.stack.length (bs.drop (96 * i))
    let vals (n : Nat) : List Word := cells.map fun c => BitVec.ofNat 32 (nth 0 c n)
    let bank (o : Nat) (b : Bank) : Bank := { b with vals := csetMany 0 [] 0 ((groups 2 1024 (bs.drop o)).map (BitVec.ofNat 16)) }
    { e with bank0 := bank 393216 e.bank0, bank1 := bank 395264 e.bank1
             stack := (e.stack.reverse.zipIdx.map fun (x, n) => { x with vals := vals n }).reverse }

/-- The matrix state a team takes with it: its claim with the engine's state, or the state it was restored with while the claim waits to be
granted again; its pending claims; its held blocks (R220). -/
def State.teamEngine (s : State) (t : Team) : Option Engine :=
  let e := s.engine t.core
  let mine (q : QuadSt) : Bool := q.team == t.uid
  let pending := e.pending.filter mine
  let plan := e.plan.filter fun b => b.team == t.uid
  let waiting : Option Engine := if pending.isEmpty then none else some { Engine.reset with pending := pending, plan := plan }
  let again : Option Engine := (t.saved.bind fun x => x.claim.bind fun c => (pending.find? fun q => q.quad == c.quad).map fun q =>
    { x with claim := some q, pending := pending.filter (· != q), plan := plan }) <|> waiting
  match e.claim with
  | some q => if mine q then some { e with pending := pending, plan := plan } else again
  | none => again

/-- A wave as it is saved: its short results and the results its suspended reads have formed stand in its registers. -/
def State.savedWave (s : State) (w : Wave) : Wave :=
  let lat (o : Op) : Bool := s.lattices.any fun x => x.op == o.id
  let r := w.r.settle ((w.r.pend.map (·.due)).foldl max 0)
  { w with
    r := (w.ops.filter lat).foldl (fun r o => r.puts o.wrs) r
    ops := w.ops.map fun o => if lat o then { o with wrs := [] } else o
    notBefore := 0 }

/-- The image of a team. Its number is the chip's and a serial number (log 12). -/
def State.teamImage (s : State) (t : Team) (addr : Nat) (held : Bool) : Image :=
  let ws := (s.teamWaves t.uid).map s.savedWave
  let mine (u : Nat) : Bool := ws.any fun w => w.uid == u
  { id := s.pkg.chipNo * 2 ^ 64 + s.nextId, top := s.nextId, addr := addr, size := 0, ctx := t.ctx, held := held, team := t, waves := ws,
    engine := s.teamEngine t, copies := s.copies.filter (fun c => match c.wave with | some (u, _) => mine u | none => false),
    cwaits := s.cwaits.filter (fun c => mine c.wave), lattices := s.lattices.filter (fun x => mine x.wave), inSaveArea := false }

/-- What a wave's PROG part holds beside its operations: its image's number and bound, its team, how many waves the image has, whether it has
matrix state, the rest of the wave, the transfers and waits of its suspended operations, and what its control block and the matrix state
had no room for (log 12). -/
structure Prog where
  id       : Nat
  top      : Nat
  team     : Team
  waves    : Nat
  mat      : Bool
  wave     : Wave
  copies   : List Copy
  cwaits   : List CWait
  lattices : List Lattice
  more     : List Byte
  moreMat  : List Byte
deriving DecidableEq, Repr

/-- A PROG part as numbers. -/
def Prog.codec : Codec Prog :=
  Rec.start Prog.mk |>.field .nat (·.id) |>.field .nat (·.top) |>.field Team.codec (·.team) |>.field .nat (·.waves) |>.field .bool (·.mat)
    |>.field Wave.codec (·.wave) |>.field (.list Copy.codec) (·.copies) |>.field (.list CWait.codec) (·.cwaits)
    |>.field (.list Lattice.codec) (·.lattices) |>.field (.list (.bv 8)) (·.more) |>.field (.list (.bv 8)) (·.moreMat)

/-- What a control block holds after its registers: the control state of R301, cmm and the next instance numbers, the trap frame, the flags
with their operations. -/
abbrev CtlBlock := Ctl × BitVec 16 × Cells 32 × Option Frame × List Op

/-- It as numbers. -/
def ctlCodec : Codec CtlBlock := .and Ctl.codec (.and (.bv 16) (.and (.cells 32) (.and (.option Frame.codec) (.list Op.codec))))

/-- The bytes of a control block before that: s0 to s383, rngc, p0 to p6, NSTAT, LSA and LSB. -/
def ctlHead : Nat := 1864

/-- The control block of a wave (R365), and the bytes for which 4096 are too few. -/
def Wave.ctlBytes (w : Wave) : List Byte × List Byte :=
  let r := w.r
  let head := ((cgetMany 0 r.s 0 384).flatMap fun v => natBytes 4 v.toNat) ++ ((cgetMany 0 r.rng 0 64).flatMap fun v => natBytes 4 v.toNat) ++
    ((cgetMany 0 r.p 0 7).flatMap fun v => natBytes 8 v.toNat) ++ natBytes 4 r.nstat.toNat ++ natBytes 4 r.lsa.toNat ++ natBytes 4 r.lsb.toNat
  let rest := ctlCodec.bytes (r.ctl, r.cmm, r.next, w.frame, w.ops)
  (fitted ctlHead head ++ fitted (4096 - ctlHead) rest, rest.drop (4096 - ctlHead))

/-- A wave without what its control block and its vector registers hold in an image. -/
def Wave.bare (w : Wave) : Wave := { w with r := { Regs.start 0 with pend := w.r.pend, bad := w.r.bad }, frame := none, ops := [] }

/-- A wave from its part of an image, and its PROG (R365). -/
def Wave.ofBytes (p : Prog) (bs : List Byte) : Option Wave :=
  (ctlCodec.ofBytes ((bs.drop ctlHead).take (4096 - ctlHead) ++ p.more)).map fun (ctl, cmm, next, frame, ops) =>
    let nums (o n : Nat) : List Word := (groups 4 n (bs.drop o)).map (BitVec.ofNat 32)
    { p.wave with
      r := { p.wave.r with
        s := csetMany 0 [] 0 (nums 0 384), rng := csetMany 0 [] 0 (nums 1536 64)
        p := csetMany 0 [] 0 ((groups 8 7 (bs.drop 1792)).map (BitVec.ofNat 64))
        nstat := BitVec.ofNat 32 (at4 bs 1848 4), lsa := BitVec.ofNat 32 (at4 bs 1852 4), lsb := BitVec.ofNat 32 (at4 bs 1856 4)
        v := csetMany 0 [] 0 (nums 4096 (64 * p.team.k.vregs)), ctl := ctl, cmm := cmm, next := next }
      frame := frame, ops := ops }

/-- The bytes of a wave's part: control block, vector registers, PROG, whose last 8 bytes are its size (R365). -/
def Image.waveBytes (im : Image) (w : Wave) : List Byte :=
  let (block, more) := w.ctlBytes
  let p : Prog :=
    { id := im.id, top := im.top, team := { im.team with bars := [], saved := none }, waves := im.waves.length, mat := im.engine.isSome, wave := w.bare
      copies := im.copies.filter (fun c => match c.wave with | some (u, _) => u == w.uid | none => false)
      cwaits := im.cwaits.filter (fun c => c.wave == w.uid), lattices := im.lattices.filter (fun x => x.wave == w.uid), more := more
      moreMat := match im.engine with | some e => (Engine.codec.bytes e.bare).drop 4096 | none => [] }
  let ts := Prog.codec.bytes p
  let n := (ts.length + 8 + 255) / 256 * 256
  block ++ ((cgetMany 0 w.r.v 0 (64 * im.team.k.vregs)).flatMap fun v => natBytes 4 v.toNat) ++ fitted (n - 8) ts ++ natBytes 8 n

/-- The bytes of an image (R365). -/
def State.imageBytes (s : State) (im : Image) : List Byte :=
  let t := im.team
  let k := t.k
  let grid (h : Nat) : Option Grid := s.grid? t.uid h
  let bars := (List.range 32).flatMap fun n => natBytes 8 ((lookup t.bars n).getD Bar.none).word
  let grids := ((List.range 8).flatMap fun h => match grid h with | some g => g.bytes | none => zeros 128) ++
    natBytes 8 (((List.range 8).filter fun h => (grid h).isSome).map fun h => 2 ^ h).sum ++ zeros 248
  let scr := cgetMany 0 s.m.sp (t.core * 2 ^ 19 + t.base) k.scratch
  let wins := t.wins.flatMap fun n => (cgetMany 0 s.m.acc (accKey t.core (256 * n) 0) 16384).flatMap fun v => natBytes 4 v.toNat
  let mat := match im.engine with | some e => e.bytes | none => []
  let body := bars ++ grids ++ scr ++ wins ++ mat ++ im.waves.flatMap im.waveBytes
  let header := ([0x44, 0x4C, 0x53, 0x56] : List Byte) ++ natBytes 2 1 ++ zeros 2 ++ natBytes 4 t.ctx ++
    natBytes 4 (match s.ctx? t.ctx with | some c => c.gen.toNat | none => 0) ++ natBytes 8 k.hdr.toNat ++ natBytes 4 t.idx ++
    natBytes 4 (s.launchSeq t.key) ++ natBytes 8 (256 + body.length) ++ natBytes 4 Config.microcodeRevision.toNat ++ zeros 212
  header ++ body

/-- The last n waves of an image's bytes, first to last, each with its PROG. -/
def readWaves : Nat → List Byte → Option (List (Prog × Wave))
  | 0, _ => some []
  | n + 1, bs =>
    let size := at4 bs (bs.length - 8) 8
    let rest := bs.take (bs.length - size)
    (Prog.codec.ofBytes (bs.drop (bs.length - size))).bind fun p =>
      let o := rest.length - imageWave p.team.k
      (Wave.ofBytes p (rest.drop o)).bind fun w => (readWaves n (rest.take o)).map fun ws => ws ++ [(p, w)]

/-- The image that bytes hold (R365, R366). -/
def readImage (bs : List Byte) : Option Image :=
  (Prog.codec.ofBytes (bs.drop (bs.length - at4 bs (bs.length - 8) 8))).bind fun p =>
    (readWaves p.waves bs).bind fun ws =>
      let engine := if p.mat then Engine.ofBytes (bs.drop (imageMat p.team.k)) p.moreMat else none
      if p.mat && engine.isNone then none
      else
        let bars := (List.range 32).map fun n => (n, Bar.ofWord (at4 bs (256 + 8 * n) 8))
        some { id := p.id, top := p.top, addr := 0, size := bs.length, ctx := at4 bs 8 2, held := false,
               team := { p.team with bars := bars.filter fun b => b.2 != Bar.none }
               waves := ws.map (·.2), engine := engine, copies := ws.flatMap (·.1.copies), cwaits := ws.flatMap (·.1.cwaits),
               lattices := ws.flatMap (·.1.lattices), inSaveArea := false }

/-- Free a saved team: its resources, its transfers, its lattice work and its claims (R220, R363, R366). -/
def State.unseat (s : State) (t : Team) : State :=
  let ws := s.teamWaves t.uid
  let mine (u : Nat) : Bool := ws.any fun w => w.uid == u
  let e := s.engine t.core
  let q (x : QuadSt) : Bool := x.team == t.uid
  let held := match e.claim with | some x => q x | none => false
  let e := { e with pending := e.pending.filter fun x => !q x, plan := e.plan.filter fun b => b.team != t.uid }
  let s := (s.putEngine t.core (if held then e.passClaim else e)).withM fun m => { m with
    pins := m.pins.filter fun p => !(s.copies.any fun c => c.id == p.owner && match c.wave with | some (u, _) => mine u | none => false) &&
      !(s.lattices.any fun x => 3 * 2 ^ 40 + x.id == p.owner && mine x.wave) }
  let s : State := { s with copies := s.copies.filter (fun c => match c.wave with | some (u, _) => !mine u | none => true),
                            lattices := s.lattices.filter (fun x => !mine x.wave) }
  (ws.foldl (fun (s : State) w => s.dropFaults w.uid) s).freeTeam t

/-! ### Restoring (R220, R364, R366) -/

/-- An address in a team's scratchpad, moved with its allocation. -/
def relocate (old new k : Nat) (pa : Nat) : Nat := if old ≤ pa ∧ pa < old + k then new + (pa - old) else pa

/-- A side of a copy, moved with its team: rows of a window move to the window that takes its place. -/
def CEnd.move (old new : Team) : CEnd → CEnd
  | .mem va => .mem va
  | .sp core off =>
    let pa := relocate (old.core * 2 ^ 19 + old.base) (new.core * 2 ^ 19 + new.base) old.k.scratch (core * 2 ^ 19 + off)
    .sp (pa / 2 ^ 19) (pa % 2 ^ 19)
  | .acc core row => .acc (if core = old.core then new.core else core) (256 * nth 0 new.wins (old.wins.findIdx fun n => n == row / 256) + row % 256)

/-- An access of a saved wave under other numbers. -/
def Acc.renum (num : Nat → Nat) (a : Acc) : Acc := { a with id := num a.id, op := num a.op, wave := num a.wave }

/-- A saved wave under other numbers. -/
def Wave.renum (num : Nat → Nat) (w : Wave) : Wave :=
  { w with
    uid := num w.uid, team := num w.team, ops := w.ops.map fun o => { o with id := num o.id }
    status := match w.status with | .sleepBar b op => .sleepBar b (num op) | .sleepWord va sc op tok => .sleepWord va sc (num op) tok | x => x
    ahead := w.ahead.map fun h => { h with op := num h.op, stores := h.stores.map fun as => as.map (Acc.renum num) } }

/-- What the engine holds of a team under other numbers. -/
def QuadSt.renum (num : Nat → Nat) (q : QuadSt) : QuadSt :=
  let pair (x : Nat × Nat) : Nat × Nat := (num x.1, num x.2)
  { q with team := num q.team, early := q.early.map (fun x => (num x.1, x.2)), queue := q.queue.map fun x => { x with ops := x.ops.map pair } }

/-- An image under other numbers: a copy of a team that may still be there shares none with it. -/
def Image.renum (num : Nat → Nat) (im : Image) : Image :=
  let pair (x : Nat × Nat) : Nat × Nat := (num x.1, num x.2)
  { im with
    team := { im.team with uid := num im.team.uid }, waves := im.waves.map (Wave.renum num)
    engine := im.engine.map fun e => { e with
      claim := e.claim.map (QuadSt.renum num), pending := e.pending.map (QuadSt.renum num)
      plan := e.plan.map fun b => { b with team := num b.team, ops := b.ops.map pair, hit := b.hit.map fun x => (num x.1, x.2) } }
    copies := im.copies.map fun c => { c with id := num c.id, wave := c.wave.map pair }
    cwaits := im.cwaits.map fun c => { c with wave := num c.wave, op := num c.op }
    lattices := im.lattices.map fun x => { x with id := num x.id, wave := num x.wave, op := num x.op, team := num x.team } }

/-- An access held in a run-ahead, moved with its team (R326). -/
def Acc.move (a : Acc) (old new : Team) : Acc :=
  { a with core := new.core
           pa := if a.sp then relocate (old.core * 2 ^ 19 + old.base) (new.core * 2 ^ 19 + new.base) old.k.scratch a.pa else a.pa }

/-- A wave put back in a slot: awake if it was parked, unless it is to stay so (R366). DIST counts as satisfied (R294). -/
def Wave.reseat (w : Wave) (old new : Team) (slot : Nat) (park stay stopped : Bool) : Wave :=
  let free (a : Arm) : Arm := { a with free := true, stalled := false }
  let status := match w.status with
    | .parked c => if stay then .parked c else .run
    | .halted => if stay then .halted else .run
    | .run => if park then .halted else .run
    | x => x
  { w with core := new.core, slot := slot, status := status, preempted := stopped, notBefore := 0
           r := { w.r with ctl := { w.r.ctl with arm := free w.r.ctl.arm, other := w.r.ctl.other.map free } }
           ahead := w.ahead.map fun h => { h with stores := h.stores.map fun as => as.map fun a => a.move old new } }

/-- Where a copy's destination begins in the cores it serves, once the teams there have moved (R136). -/
def movedPlace (moves : List (Team × Team)) (key : LKey) (at_ : Nat) : Nat :=
  match moves.find? fun m => m.1.key == key && decide (m.1.core * 2 ^ 19 + m.1.base ≤ at_ ∧ at_ < m.1.core * 2 ^ 19 + m.1.base + m.1.k.scratch) with
  | none => at_
  | some (old, new) => relocate (old.core * 2 ^ 19 + old.base) (new.core * 2 ^ 19 + new.base) old.k.scratch at_

/-- The copies of restored teams follow every team that moved with theirs (R136). -/
def State.moveServed (s : State) (moves : List (Team × Team)) : State :=
  let mine (c : Copy) : Bool := match c.wave with
    | some (u, _) => (match s.wave u with | some w => moves.any fun m => m.2.uid == w.team | none => false)
    | none => false
  { s with copies := s.copies.map fun c => if mine c then { c with multi := c.multi.map (movedPlace moves c.launch) } else c }

/-- The place a team restored from an image takes. -/
def Image.seat (im : Image) (core : Nat) (p : List Nat × Nat × List Nat) : Team :=
  { im.team with core := core, base := p.2.1, slot0 := p.1.headD 0, wins := p.2.2
                 saved := im.engine.bind fun e => if e.claim.isSome then some { e with pending := [], plan := [] } else none }

/-- Restore a team from its image and the image's bytes onto a core, in the resources found for it. The core's L1 holds no copy older
than what the team's waves have read (R335). -/
def State.restoreTeam (s : State) (im : Image) (bs : List Byte) (core : Nat) (p : List Nat × Nat × List Nat) (park stay : Bool) : State :=
  let k := im.team.k
  let t := im.seat core p
  let ws := (im.waves.zip p.1).map fun (w, slot) => w.reseat im.team t slot park stay im.inSaveArea
  let old := im.team.core * 2 ^ 19 + im.team.base
  let here := core * 2 ^ 19 + t.base
  let obj (x : Nat) : Nat := relocate old here k.scratch x
  let e := s.engine core
  let e := match im.engine with
    | none => e
    | some x => { e with pending := x.claim.toList ++ e.pending ++ x.pending, plan := e.plan ++ x.plan }
  let mask := at4 bs 1536 8
  let grids := ((List.range 8).filter fun h => natBit mask h).map fun h => (gridKey t.uid h, Grid.ofBytes ((bs.drop (512 + 128 * h)).take 128))
  let acc := t.wins.zipIdx.foldl (fun (a : Cells 32) (n, i) =>
    csetMany 0 a (accKey core (256 * n) 0) ((groups 4 16384 (bs.drop (imageWin k + 65536 * i))).map (BitVec.ofNat 32))) s.m.acc
  let s := (s.putEngine core e).withM fun m => { m.l1Clear core with
    sp := csetMany 0 m.sp here ((bs.drop imageScr).take k.scratch), spPoison := m.spPoison.filter fun x => !decide (here ≤ x * 8 ∧ x * 8 < here + k.scratch),
    acc := acc }
  let s := { s with
    teams := s.teams ++ [t], others := s.others ++ ws, grids := s.grids ++ grids,
    copies := s.copies ++ im.copies.map (fun c => { c with
      core := core, src := c.src.move im.team t, dst := c.dst.move im.team t, obj := c.obj.map obj, after := 0, suspended := im.inSaveArea }),
    lattices := s.lattices ++ im.lattices.map (fun x => { x with core := core, after := 0, suspended := im.inSaveArea }),
    images := s.images.filter (fun x => x.id != im.id) }
  let s := if im.held then s else s.mapLaunch t.key fun l => { l with live := l.live + 1 }
  im.cwaits.foldl (fun s c =>
    let pa := obj (c.core * 2 ^ 19 + c.off)
    let c := { c with core := pa / 2 ^ 19, off := pa % 2 ^ 19 }
    let w0 := s.objW0 pa
    if natBit w0 31 != c.parity then s.waitDone c (s.objScope t.ctx pa) w0 else { s with cwaits := s.cwaits ++ [c] }) s

/-- An image that is no saved team's own is a copy, under numbers of its own. -/
def State.numbered (s : State) (im : Image) : Image × State :=
  if im.held then (im, s) else (im.renum fun u => u + s.nextId, { s with nextId := s.nextId + im.top + 1 })

/-- `crest` puts a team back (R366). -/
def State.crestTeam (s : State) (im : Image) (bs : List Byte) (core : Nat) (p : List Nat × Nat × List Nat) (stop : Bool) : State :=
  let (im, s) := s.numbered im
  (s.restoreTeam im bs core p stop stop).moveServed [(im.team, im.seat core p)]

/-! ### csave and crest (R366) -/

/-- The fields `csave` and `crest` share. -/
def saveSpec : Spec :=
  { priv := true, long := true, ord := true, uni := .no4, holdAhead := fun _ => true, useA := true, useB := true, wA := fun _ => 2, wB := fun _ => 1,
    vals := fun f => if f.mod = 0 ∧ f.x.toNat < 2 then none else some 0x0103, ok := fun k f => pairOk k f.a && sregOk k 18 f.b }

/-- The image address of `csave` or `crest`: misaligned or not of class 3, it raises 0x0206 precisely. -/
def State.imageAt (s : State) (kind : Kind) (va : DWord) : Xlated :=
  match xlateLanes s kind 1 [(0, va)] with
  | .ok hs => if va.toNat % 4096 ≠ 0 ∨ hs.any (fun h => h.2.2.cls != 3) then .fault 0x0206 va (xlDetail 0 kind 7) else .ok hs
  | x => x

/-- Write an image at a virtual address for a wave's operation. -/
def State.writeImage (s : State) (w : Wave) (op : Nat) (va : DWord) (bs : List Byte) : Bool × State :=
  let fail (s : State) (c : BitVec 16) (a : DWord) : Bool × State := (false, (s.dropPins 0 []).opFail w.uid op { engine := 0, code := c, addr := a, detail := s.engDetail (s.engOf 0 w) 0 .write a })
  match s.engResolve (s.engOf 0 w) true va bs.length with
  | (.inl (c, a), s) => fail s c a
  | (.inr ls, s) => if ls.any fun l => l.cls != 3 then fail s 0x0206 va else (true, (s.engStore w.ctx [] ls bs).dropPins 0 [])

/-- `csave` (R364 to R366): it waits until the team's operations have retired or suspended. -/
def execCsave (f : Fields) (s : State) : Ans :=
  run saveSpec (.csave f) f
    (fun _ s =>
      let va : DWord := BitVec.ofNat 64 (srcVal s.w.r f 19 f.a 0)
      let b := src32 s.w.r f f.b 0
      match s.teams.find? fun t => t.core == b % 256 && t.slot0 == field b 8 7 with
      | none => .trap 0x0147 s.pc (instrLow (.csave f))
      | some t =>
        if t.uid = s.w.team ∨ !(s.teamWaves t.uid).all Wave.halts then .trap 0x0147 s.pc (instrLow (.csave f))
        else match s.imageAt .write va with
        | .fault c a d => .trap c a d
        | .wait s => .stall s
        | .ok _ =>
          if !s.teamQuiet t then .stall s
          else
            let keep := f.x.getLsbD 0
            let w := s.w
            let (op, s) := s.startOp f false false
            let im := s.teamImage t 0 (!keep)
            let (ok, s) := ({ s with nextId := s.nextId + 1 }).writeImage w op va (s.imageBytes im)
            let s := if ok && !keep then ({ s with images := im :: s.images }).unseat t else s
            .ok (s.finishOp w.uid op [] 0 none) none) s

/-- The magic, version and revision of an image's header are this microcode's, and its size is one an image can have (R366). -/
def headerOk (hd : List Byte) : Bool :=
  hd.take 6 == [0x44, 0x4C, 0x53, 0x56, 1, 0] && (hd.drop 0x28).take 4 == natBytes 4 Config.microcodeRevision.toNat &&
    decide (256 ≤ at4 hd 0x20 8 ∧ at4 hd 0x20 8 ≤ 2 ^ 24)

/-- The image that bytes hold, of a context of this chip: that of a team which is saved and not restored since, or a copy (R366). Bytes
whose PROG parts are no image's are refused (DESIGN CHOICE, log 12). -/
def State.imageOf (s : State) (bs : List Byte) : Option Image :=
  (readImage bs).bind fun im => if (s.ctx? im.ctx).isNone then none else
    match s.images.find? fun x => x.id == im.id && x.team.key == im.team.key with
    | some x => some { im with held := true, addr := x.addr, inSaveArea := x.inSaveArea }
    | none => some im

/-- `crest` (R366). -/
def execCrest (f : Fields) (s : State) : Ans :=
  run saveSpec (.crest f) f
    (fun _ s =>
      let va : DWord := BitVec.ofNat 64 (srcVal s.w.r f 19 f.a 0)
      let core := src32 s.w.r f f.b 0 % 256
      if !s.corePresent core then .trap 0x0147 s.pc (instrLow (.crest f))
      else match s.imageAt .read va with
      | .fault c a d => .trap c a d
      | .wait s => .stall s
      | .ok _ =>
        let w := s.w
        let (op, s) := s.startOp f false false
        let stop := f.x.getLsbD 0
        let fail (s : State) (c : BitVec 16) (a : DWord) : Try :=
          .ok (((s.dropPins 0 []).opFail w.uid op { engine := 0, code := c, addr := a, detail := s.engDetail (s.engOf 0 w) 0 .read a }).finishOp w.uid op [] 0 none) none
        match s.engResolve (s.engOf 0 w) false va 256 with
        | (.inl (c, a), s) => fail s c a
        | (.inr ls, s) =>
          let (hd, s) := s.engBytes w.ctx ls
          if !headerOk hd then fail s 0x0148 va
          else match s.engResolve (s.engOf 0 w) false va (at4 hd 0x20 8) with
          | (.inl (c, a), s) => fail s c a
          | (.inr ls, s) =>
            let (bs, s) := s.engBytes w.ctx ls
            match s.imageOf bs with
            | none => fail s 0x0148 va
            | some im => match s.fits im.team.k core with
              | none => fail s 0x0148 va
              | some p => .ok (((s.dropPins 0 []).crestTeam im bs core p stop).finishOp w.uid op [] 0 none) none) s

/-! ### Pre-emption and restore (R363, R364) -/

/-- Forward every entry of a context that the core and port buffers hold (R112, R262, R363). -/
def State.flushCtx (s : State) (ctx : Nat) : State :=
  let s := (s.coreBuf.map (·.1)).foldl (fun s n => s.flushBuf (.core n) fun p => p.ctx == ctx) s
  (s.ports.map (·.1)).foldl (fun s n => s.flushBuf (.port n) fun p => p.ctx == ctx) s

/-- Stop a context (R363 step 1): its waves issue nothing, its transfers suspend at their next boundary. A wave that waited for a walk
translates again when it goes on (R91). -/
def State.stopCtx (s : State) (ctx : Nat) : State :=
  let s := (s.waves.filter fun w => w.ctx == ctx).foldl (fun s w => s.dropFaults w.uid) s
  let s := (s.mapCtx ctx fun c => { c with stopped := true }).mapWaves fun w => if w.ctx = ctx then { w with preempted := true, notBefore := 0 } else w
  let s := (s.copies.filter fun c => c.ctx == ctx && c.moving == 0).foldl (fun s c => s.dropPins c.id []) s
  let s := (s.lattices.filter fun x => x.ctx == ctx && x.bindTo.isNone).foldl
    (fun s x => (State.latFinish latPieces x.id s).dropPins (3 * 2 ^ 40 + x.id) []) s
  let s := { s with copies := s.copies.map (fun (c : Copy) => if c.ctx = ctx then { c with suspended := true } else c),
                    lattices := s.lattices.map (fun (x : Lattice) => if x.ctx = ctx ∧ x.bindTo.isNone then { x with suspended := true } else x) }
  s.flushCtx ctx

/-- A job-wide command covers a team's work. -/
def JobWait.covers (j : JobWait) (key : LKey) (ctx : Nat) : Bool :=
  ctx == j.ctx && match j.keys with | none => true | some ks => ks.contains key

/-- The save area of a context: where the next image goes (R363). -/
def State.nextSave (s : State) (ctx : Nat) : Nat :=
  let base := match s.ctx? ctx with | some c => c.saveArea.toNat | none => 0
  (s.images.filter fun im => im.ctx == ctx && im.inSaveArea).foldl (fun a im => max a ((im.addr + im.size + 4095) / 4096 * 4096)) base

/-- Save a team into its context's save area and free it (R363 steps 3 and 4). -/
def State.saveTeam (s : State) (t : Team) : State :=
  let at_ := s.nextSave t.ctx
  let im := { s.teamImage t at_ true with inSaveArea := true }
  let bs := s.imageBytes im
  let s := { s with nextId := s.nextId + 1, images := { im with size := bs.length } :: s.images }
  (s.sysStore at_ bs).unseat t

/-- What a context's save area holds after its team images (R363): the sleepers at barrier words (wave, address), the reduction-object table with
home state, membership homes and outcome histories, collective progress, and the claim queues of its teams' engines. -/
abbrev SaveState :=
  List (Nat × DWord) × List RObj × List SetHome × List Outc × List Coll × List (Nat × Word) × List (Nat × Nat) × List (Nat × List QuadSt)

/-- It as numbers. -/
def saveCodec : Codec SaveState :=
  .and (.list (.and .nat (.bv 64))) (.and (.list RObj.codec) (.and (.list SetHome.codec) (.and (.list Outc.codec) (.and (.list Coll.codec)
    (.and (.list (.and .nat (.bv 32))) (.and (.list (.and .nat .nat)) (.list (.and .nat (.list QuadSt.codec)))))))))

/-- The context-level state of a context (R363). -/
def State.saveState (s : State) (c : Ctx) : SaveState :=
  let sleepers := s.waves.filterMap fun w => if w.ctx = c.ctx then (match w.status with | .sleepWord va _ _ _ => some (w.uid, va) | _ => none) else none
  let mine (q : QuadSt) : Bool := match s.team? q.team with | some t => t.ctx == c.ctx | none => false
  let queues := (s.engines.map fun e => (e.1, (e.2.claim.toList ++ e.2.pending).filter mine)).filter fun e => !e.2.isEmpty
  (sleepers, c.robjs, c.setHomes, c.outcomes, c.colls, c.collNext, c.collServed, queues)

/-- The bytes written for it: their length, then the numbers (log 12). -/
def State.saveStateBytes (s : State) (c : Ctx) : List Byte :=
  let bs := saveCodec.bytes (s.saveState c)
  natBytes 8 bs.length ++ bs

/-- A context's teams can be saved: it is stopped, its waves are quiet, and every partial they sent has left the chip's core and port buffers
and its mesh (R112, R262, R363, R364). -/
def State.savable (s : State) (c : Ctx) : Bool :=
  let mine (p : Partial) : Bool := p.ctx == c.ctx
  c.stopped && !c.saved && c.restoring.isNone && ((s.teams.filter fun t => t.ctx == c.ctx).all s.teamQuiet) &&
    !(s.mesh.any fun x => match x with | .part _ p _ => mine p | _ => false) &&
    !(s.coreBuf.any fun b => b.2.any fun x => mine x.part) && !(s.ports.any fun b => b.2.buf.any fun x => mine x.part)

/-- Steps 3 and 4 of R363 for a context: its teams' images, then the context-level state as it stood before them, which its tables on
the chip go on holding, and with them what other chips still send (DEDUCED, log 12). -/
def State.saveCtx (s : State) (c : Ctx) : State :=
  let bs := s.saveStateBytes c
  let s := (s.teams.filter fun t => t.ctx == c.ctx).foldl State.saveTeam s
  (s.sysStore (s.nextSave c.ctx) bs).mapCtx c.ctx fun c => { c with saved := true }

/-- `SAVE_MICROCODE` (R363): once every operation of a stopped context's waves has retired or suspended, its teams are saved. -/
def execSaveMicrocode (ctx : Nat) (s : State) : Ans :=
  match s.ctx? ctx with
  | none => .next s
  | some c => .next (if s.savable c then s.saveCtx c else s)

/-- The job's other chips: those a route is set for (R260, R412). -/
def State.jobChips (s : State) : List Nat := ((s.pkg.routes.map (·.1)).filter fun c => c != s.pkg.chipNo).eraseDups

/-- The restore barrier is complete: every chip of the job has arrived with this chip's stamp (R364). -/
def State.restoreMeets (s : State) (c : Ctx) : Bool :=
  match c.restoring with
  | none => false
  | some l => (s.pkg.chipNo :: s.jobChips).all fun n => l.any fun x => x.1 == n && x.2 == c.gen

/-- The context runs again (R364). -/
def State.runCtx (s : State) (ctx : Nat) : State :=
  let s := (s.mapCtx ctx fun c => { c with stopped := false, restoring := none }).mapWaves fun w => if w.ctx = ctx then { w with preempted := false } else w
  { s with copies := s.copies.map (fun (c : Copy) => if c.ctx = ctx then { c with suspended := false } else c),
           lattices := s.lattices.map (fun (x : Lattice) => if x.ctx = ctx then { x with suspended := false } else x) }

/-- The context runs where its restore barrier is complete (R364). -/
def State.runIfMet (s : State) (ctx : Nat) : State :=
  match s.ctx? ctx with | some c => if s.restoreMeets c then s.runCtx ctx else s | none => s

/-- A saved team in the scope is discarded, its waves leaving their sets (R286). -/
def State.discardImage (s : State) (im : Image) : State :=
  let s := im.waves.foldl (fun s w => w.sets.foldl (fun s n => s.send (s.setHome (w.setRef n)) (.leave (w.setRef n) (s.member w))) s) s
  ({ s with images := s.images.filter fun x => x.id != im.id }).mapLaunch im.team.key fun l => { l with live := l.live - 1 }

/-- The saved teams of a context. -/
def State.savedTeams (s : State) (ctx : Nat) : List Image := s.images.filter fun im => im.ctx == ctx && im.inSaveArea

/-- Place every saved team of a context, or none: each on the first core that admits it, from its bytes (R364, R365); the moves made. -/
def State.reloadAll : List Image → State → Option (State × List (Team × Team))
  | [], s => some (s, [])
  | im :: rest, s =>
    match (List.range 256).findSome? fun c => (s.fits im.team.k c).map fun p => (c, p) with
    | none => none
    | some (c, p) =>
      let s := s.sysPass im.addr im.size
      let bs := s.m.bytes s.free 0 im.addr im.size
      let x := match s.imageOf bs with | some x => { x with held := true, inSaveArea := true } | none => im
      (State.reloadAll rest (s.restoreTeam x bs c p false true)).map fun (s, ms) => (s, (x.team, x.seat c p) :: ms)

/-- A saved team whose image cannot be read is lost: its record cancels its launch (R76, R362; DEDUCED, log 12). -/
def State.loseImages (s : State) (ctx : Nat) : State :=
  ((s.savedTeams ctx).filter fun im => s.m.poisoned im.addr im.size).foldl (fun s im =>
    let code := s.m.badCode im.addr im.size
    let r := s.ctxRecord ctx (some im.team.key) 8 code (s.recAddr code (BitVec.ofNat 64 (s.m.badSector im.addr im.size))) s.openDetail
    ((s.withM fun m => m.badRead im.addr im.size).failNoWave r (some im.team.key)).discardImage im) s

/-- The restore barrier's arrivals, one on this chip once it has reloaded the context (R364). -/
def State.reloadCtx (s : State) (ctx : Nat) : State :=
  match s.ctx? ctx with
  | none => s
  | some c =>
    let me := s.pkg.chipNo
    if (match c.restoring with | some l => l.any fun x => x.1 == me | none => false) then s
    else
    let s := s.loseImages ctx
    match State.reloadAll (s.savedTeams ctx) s with
    | none => s
    | some (s, moves) =>
      let s := (s.moveServed moves).mapCtx ctx fun c => { c with restoring := some ((c.restoring.getD []) ++ [(me, c.gen)]), saved := false }
      let s := s.jobChips.foldl (fun s r => s.send r (.restoreArrive ctx me c.gen)) s
      s.runIfMet ctx

/-- A context ends (R286): its end is marked at JOBCTR, and its key slot, queues and places are free. -/
def State.endCtx (s : State) (ctx : Nat) : State :=
  match s.ctx? ctx with
  | none => s
  | some c =>
    let s := s.deviceWord ctx 8 none c.jobCtr true 1
    { s with ctxs := s.ctxs.filter (fun x => x.ctx != ctx), launches := s.launches.filter (fun l => l.ctx != ctx),
             graphs := s.graphs.filter (fun g => g.ctx != ctx), images := s.images.filter (fun im => im.ctx != ctx),
             queues := s.queues.map fun q => if q.ctx = ctx then { q with stopped := true, packets := [] } else q }

/-- A job-wide command's work on this chip is over: no team it covers is resident, and for a restore the context runs. -/
def State.jobOver (s : State) (j : JobWait) : Bool :=
  match j.cmd with
    | 0x21 => match s.ctx? j.ctx with | some c => !c.stopped | none => true
    | 0x20 => match s.ctx? j.ctx with | some c => c.saved || !c.stopped | none => true
    | _ => !(s.teams.any fun t => j.covers t.key t.ctx) && !(j.ends && ((s.copies.any fun c => c.ctx == j.ctx) ||
        s.queues.any fun q => q.ctx == j.ctx && q.packets.any fun p => p.stage == 2))

/-- Reports of the job-wide commands whose work on this chip is over (R286, R363, R364). -/
def State.reportJobs (s : State) : State :=
  let ended := s.pkg.jobs.filter s.jobOver
  let s := { s with pkg := { s.pkg with jobs := s.pkg.jobs.filter fun j => !s.jobOver j } }
  ended.foldl (fun s j =>
    let s := if j.ends then (s.pkg.chipNo :: s.jobChips).foldl (fun s c => s.send c (.jobEnds j.ctx s.pkg.chipNo)) s else s
    match j.origin with | some c => s.send c (.jobReport j.ctx s.pkg.chipNo) | none => s) s

/-- A chip has carried out the end of a job; the context ends once every chip has (R286). -/
def State.jobEnds (s : State) (ctx chip : Nat) : State :=
  let s := s.mapCtx ctx fun c => { c with chipsOver := if c.chipsOver.contains chip then c.chipsOver else chip :: c.chipsOver }
  match s.ctx? ctx with
  | some c => if c.ending && (s.pkg.chipNo :: s.jobChips).all c.chipsOver.contains then s.endCtx ctx else s
  | none => s

/-- `RESTORE_BARRIER` (R364): a chip arrives; the last arrival lets the job's waves issue. -/
def execRestoreBarrier (ctx chip : Nat) (stamp : Word) (s : State) : Ans :=
  let s := s.mapCtx ctx fun c => { c with restoring := if c.stopped then some (assign chip stamp (c.restoring.getD [])) else c.restoring }
  .next (s.runIfMet ctx)

end Sys2Proof.Machine
end

