-- ==== Sys2Proof/Machine/Context.lean ====
section
/-! DEFINITION. The firmware mailbox's protocol, contexts, cancel and the job-wide commands (R276, R286, R287 of
spec/13_execution_model.md, R354, R363, R364 of spec/17_faults.md, R380, R412 of spec/18_host_platform.md). -/

namespace Sys2Proof.Machine

/-! ### The mailbox (R380, R412) -/

/-- An argument word. -/
def State.mbArg (s : State) (n : Nat) : Nat := (cget 0 s.pkg.mbData n).toNat

/-- No reserved argument bit is set: `masks` are the bits a command names, by word (R412). -/
def State.mbArgsOk (s : State) (masks : List Nat) : Bool :=
  s.pkg.mbData.all fun x => x.2.toNat &&& (2 ^ 64 - 1 - nth 0 masks x.1) == 0

/-- A command finishes: its results, every other word of the data area 0, STATUS, BUSY clear, MSI-X vector 1 (R380, R412). -/
def State.mbDone (s : State) (status : Nat) (results : List (Nat × Nat)) : State :=
  { s with
    pkg := { s.pkg with
      mbBusy := false, mbStat := BitVec.ofNat 16 status, mbWaits := [],
      mbData := results.foldl (fun (d : Cells 64) (x : Nat × Nat) => cset 0 (BitVec.ofNat 64 x.2) d x.1) [] }
    out := s.out ++ [.msix 1] }

/-- Run a command's body if the mailbox holds that command, its reserved bits clear (R380, R412). -/
def State.mbRun (s : State) (cmd : Nat) (masks : List Nat) (body : State → State) : Ans :=
  if s.pkg.mbBusy = false ∨ s.pkg.mbCmd.toNat ≠ cmd ∨ s.pkg.mbWaits.isEmpty = false then .next s
  else if !s.mbArgsOk masks then .next (s.mbDone 2 [])
  else .next (body s)

/-! ### Creating a context (R276, R318, R328) -/

/-- A u64 of firmware memory. -/
def State.fwWord (s : State) (pa : Nat) : Nat := s.readPa 0 pa 8

/-- Words of zeros in a range of firmware memory. -/
def State.fwZero (s : State) (pa n : Nat) : Bool := (List.range n).all fun i => s.fwWord (pa + 8 * i) == 0

/-- CORES of a scope entry. -/
def State.scopeCores (s : State) (pa : Nat) : BitVec 256 := BitVec.ofNat 256 (s.readPa 0 (pa + 0x20) 32)

/-- A scope-table entry keeps R328. -/
def State.scopeOk (s : State) (pa n : Nat) : Bool :=
  let w := s.fwWord pa
  let cores := s.scopeCores pa
  w % 2 ^ 63 == 0 && s.fwZero (pa + 8) 3 &&
    (if n < 4 then natBit w 63 && cores == 0 else !natBit w 63 || (cores != 0 && cores &&& ~~~ s.pkg.cap.coreMap == 0))

/-- A membership-set table entry keeps R318. -/
def State.msetOk (s : State) (pa n : Nat) : Bool :=
  let w := s.fwWord pa
  field w 45 18 == 0 && field w 28 4 == 0 && s.fwWord (pa + 8) == 0 &&
    (if n = 0 then !natBit w 63 && field w 32 12 == 0 && w % 2 ^ 28 == 0
     else !natBit w 63 || (w % 2 ^ 28 != 0 && decide (w % 2 ^ 28 ≤ 2 ^ 27)))

/-- A physical address of the descriptor: 4096-byte aligned, in local HBM (R276). -/
def State.fwAddr (s : State) (pa : Nat) : Bool := pa % 4096 == 0 && decide (pa < s.hbmBytes)

/-- A counter's virtual address (R276). -/
def ctrOk (va : Nat) : Bool := canonicalVa (BitVec.ofNat 64 va) && va % 8 == 0

/-- The context a descriptor describes, if it and its tables keep their layouts (R276, R318, R328, R356). -/
def State.readCtx (s : State) (pa : Nat) (system : Bool) (rev : Word) : Option Ctx :=
  let w (i : Nat) : Nat := s.fwWord (pa + 8 * i)
  let n := w 0 % 2 ^ 16
  let slot := field (w 0) 16 8
  if pa + 128 > s.hbmBytes then none
  else if w 0 / 2 ^ 25 = 0 ∧ slot ≠ 0 ∧ (s.ctx? n).isNone ∧ w 10 / 2 ^ 32 = 0 ∧ s.fwZero (pa + 0x60) 4 ∧ ctrOk (w 8) ∧ ctrOk (w 9) ∧
      ([1, 2, 3, 4, 5, 6, 7].all fun i => s.fwAddr (w i)) ∧ ((List.range 32).all fun i => s.scopeOk (w 3 + 64 * i) i) ∧
      ((List.range 16).all fun i => s.msetOk (w 4 + 16 * i) i) ∧
      (4 ≤ s.fwWord (w 6 + 0x10) ∧ s.fwWord (w 6 + 0x10) ≤ 16) then
    some
      { ctx := n, tenant := natBit (w 0) 24, keySlot := slot, system := system, transRev := rev, ptRoot := BitVec.ofNat 64 (w 1),
        patBase := BitVec.ofNat 64 (w 2), commTab := w 5, errRing := BitVec.ofNat 64 (w 6), saveArea := BitVec.ofNat 64 (w 7),
        phaseCtr := BitVec.ofNat 64 (w 8), jobCtr := BitVec.ofNat 64 (w 9), gen := BitVec.ofNat 32 (w 10), seed := BitVec.ofNat 64 (w 11),
        scopes := ((List.range 32).filter fun i => decide (i ≥ 4) && natBit (s.fwWord (w 3 + 64 * i)) 63).map fun i => (i, s.scopeCores (w 3 + 64 * i)),
        msets := ((List.range 16).filter fun i => i == 0 || natBit (s.fwWord (w 4 + 16 * i)) 63).map fun i =>
          let e := s.fwWord (w 4 + 16 * i)
          (i, { home := field e 32 12, expect := e % 2 ^ 28, exclude := natBit e 44 }),
        comms := [], cur := 0, closing := false, broken := [], robjs := [], setHomes := [], outcomes := [], colls := [], collNext := [], collServed := [],
        modes := 0, ringOvf := false, stopped := false, saved := false, restoring := none, ending := false, chipsOver := [] }
  else none

/-- `CTX_CREATE` (R276, R412). -/
def execCtxCreate (s : State) : Ans :=
  s.mbRun 0x0001 [2 ^ 64 - 1, 1, 2 ^ 32 - 1] fun s =>
    match s.readCtx (s.mbArg 0) (natBit (s.mbArg 1) 0) (BitVec.ofNat 32 (s.mbArg 2)) with
    | none => s.mbDone 2 []
    | some c => ({ s with ctxs := s.ctxs ++ [c] }).mbDone 0 [(0, c.ctx)]

/-! ### Cancel (R286, R287) -/

/-- What a cancel names: its context, level (0 launch, 1 graph, 2 phase, 3 job), queue, slot or phase, node, consuming chip. -/
structure CancelOf where
  ctx   : Nat
  level : Nat
  queue : Nat
  slot  : Nat
  node  : Option Nat
  chip  : Nat
deriving DecidableEq, Repr

/-- A cancel from its argument words (R412); word 4 holds the consuming chip plus one, where it is not this chip. -/
def State.cancelOf (s : State) (args : List DWord) : CancelOf :=
  let w0 := word args 0
  let w3 := word args 3
  { ctx := w0 % 2 ^ 16, level := field w0 16 2, queue := word args 1 % 256, slot := word args 2,
    node := if natBit w3 31 then some (w3 % 2 ^ 13) else none,
    chip := if word args 4 = 0 then s.pkg.chipNo else word args 4 - 1 }

/-- A graph of this chip is in the scope. -/
def CancelOf.hasGraph (c : CancelOf) (me : Nat) (g : Graph) : Bool :=
  g.ctx == c.ctx && match c.level with
    | 1 => c.chip == me && g.queue == c.queue && g.slot == c.slot
    | 2 => g.phase == c.slot % 2 ^ 32
    | 3 => true
    | _ => false

/-- A launch is in the scope; `phase` is the phase it belongs to. -/
def CancelOf.hasLaunch (c : CancelOf) (phase : LKey → Option Nat) (ctx : Nat) (k : LKey) : Bool :=
  ctx == c.ctx && match c.level with
    | 0 => k.chip == c.chip && k.queue == c.queue && k.slot == c.slot && k.node == c.node
    | 1 => k.chip == c.chip && k.queue == c.queue && k.slot == c.slot && k.node.isSome
    | 2 => phase k == some (c.slot % 2 ^ 32)
    | _ => true

/-- A packet of the context's queue is in the scope. -/
def CancelOf.hasPacket (c : CancelOf) (me : Nat) (p : Packet) : Bool :=
  match c.level with
  | 0 => c.chip == me && c.node.isNone && p.type == 1 && p.queue == c.queue && p.slot == c.slot
  | 1 => c.chip == me && p.type == 3 && p.queue == c.queue && p.slot == c.slot
  | 2 => p.type == 3 && p.phase == c.slot % 2 ^ 32
  | _ => true

/-- A reduction object is aborted with a cancel: its BIND is the cancelled level, or one within it, of what opened it (R251, R255, R286). -/
def CancelOf.hasObj (c : CancelOf) (o : RObj) : Bool :=
  c.level == 3 || (decide (o.bind ≤ c.level) && (o.bind == 0 || o.launch.node.isSome) &&
    c.hasLaunch (fun _ => o.phase) c.ctx o.launch)

/-- The graph of a cancelled node. -/
def CancelOf.inGraph (c : CancelOf) (g : Graph) : Bool := g.ctx == c.ctx && g.queue == c.queue && g.slot == c.slot

/-- A graph's node. -/
def nodeAt (g : Graph) (n : Nat) : Option GNode := (g.nodes.drop n).head?

/-- The node a cancel names, of a graph packet that has been taken and has not begun. -/
def CancelOf.unbegun (c : CancelOf) (me : Nat) (p : Packet) : Option Nat :=
  if c.level = 0 ∧ c.chip = me ∧ p.type = 3 ∧ p.stage = 0 ∧ p.queue = c.queue ∧ p.slot = c.slot then c.node else none

/-- Step 1 of R286: unbegun packets, graphs and nodes of the scope go, a begun packet ends without its COMPL, no further team is admitted. A
launch whose teams still run retires under R279, and a node of a graph with it. -/
def State.dropWork (s : State) (c : CancelOf) (inScope : Nat → LKey → Bool) : State :=
  let me := s.pkg.chipNo
  let lost := s.queues.flatMap fun q => if q.ctx = c.ctx then q.packets.filter fun p => p.type == 3 && c.hasPacket me p else []
  let s := lost.foldl (fun s p => s.breakPhase c.ctx p.phase) s
  let s : State := { s with
    queues := s.queues.map (fun (q : Queue) => if q.ctx = c.ctx then
      { q with
        stopped := q.stopped || c.level == 3
        packets := (q.packets.filter fun p => !(c.hasPacket me p && (p.stage == 0 || (c.level == 3 && p.stage != 2)))).map fun p =>
          if c.hasPacket me p && p.stage != 2 then { p with stage := 3 }
          else match c.unbegun me p with | some n => { p with dropped := n :: p.dropped } | none => p } else q)
    launches := s.launches.map (fun (l : Launch) =>
      if inScope l.ctx l.key && (decide (l.stage < 2) || (l.stage == 2 && decide (l.retired.length < l.chips.length))) then
        { l with stage := max l.stage 1, next := l.total, cancelled := true } else l) }
  let s := match c.level, c.node with
    | 0, some n => if c.chip = me ∧ (s.graphs.any fun g => c.inGraph g && (nodeAt g n).any fun (x : GNode) => x.stage == 0) then
        s.nodeRetired { chip := me, queue := c.queue, slot := c.slot, node := some n } false else s
    | _, _ => s
  { s with graphs := s.graphs.filter fun g => !c.hasGraph me g }

/-- A cancel stops an issued `gld` or `gsc` at its (group, level) boundary (R237): its operation retires with 0x0630 (log 50). -/
def State.stopLattice (s : State) (x : Lattice) : State :=
  let s := State.latFinish latPieces x.id s
  match s.lattices.find? fun y => y.id == x.id with
  | none => s
  | some x => (s.dropLattice x).finishOp x.wave x.op [] 0 (some { code := 0x0630, later := 0, addr := 0 })

/-- Step 2 of R286: the cancel's record, and its trap for each running wave; a pre-empted wave is discarded, and a suspended
copy goes on to its end (step 4). -/
def State.deliverCancel (s : State) (c : CancelOf) (inScope : Nat → LKey → Bool) : State :=
  let key : Option LKey := if c.level = 0 then some { chip := c.chip, queue := c.queue, slot := c.slot, node := c.node } else none
  let r := s.ctxRecord c.ctx key 8 0x0630 0 (BitVec.ofNat 64 c.level)
  let (n, s) := s.record r
  let mine (w : Wave) : Bool := w.uid != 0 && inScope w.ctx w.key && w.status != .ended
  let teams := s.teams.filter fun t => inScope t.ctx t.key
  let s := (s.lattices.filter fun x => x.bindTo.isNone && s.waves.any fun w => w.uid == x.wave && inScope w.ctx w.key).foldl State.stopLattice s
  let s := teams.foldl (fun s t => (List.range 4).foldl (fun s q => s.dropQuad t.core t.uid q (some { code := 0x0630, later := 0, addr := 0 })) s) s
  let s := ((s.waves.filter fun w => mine w && w.preempted).map (·.uid)).foldl State.killWave s
  let s := s.mapWaves fun w => if mine w && w.cancel.isNone then { w with cancel := some (r, n) } else w
  let s : State := { s with copies := s.copies.map fun (y : Copy) =>
    if y.ctx = c.ctx && (match y.wave with | some (u, _) => s.waves.any fun w => w.uid == u && inScope w.ctx w.key | none => c.level == 3) then
      { y with suspended := false } else y }
  (s.images.filter fun im => im.held && inScope im.ctx im.team.key).foldl State.discardImage s

/-- Step 3 of R286: bound objects and collectives are aborted, pending instances of a cancelled launch's set 0 are discarded (R326). -/
def State.abortBound (s : State) (c : CancelOf) (inScope : Nat → LKey → Bool) : State :=
  let s := if c.level = 3 then s.flushCtx c.ctx else s
  match s.ctx? c.ctx with
  | none => s
  | some x =>
    let objs := x.robjs.filter fun o => o.state == 1 && o.home && c.hasObj o
    let s := objs.foldl (fun s o => s.abortObj c.ctx o.idx o.launch 0x030D s.openAddr s.openDetail) s
    let colls := x.colls.filter fun y => y.started && y.stage == 0 && (c.level == 3 || match y.launch with | some k => inScope c.ctx k | none => false)
    let s := colls.foldl (fun s y => s.abortColl c.ctx y.comm y.inst 0x0424 0 0) s
    s.mapCtx c.ctx fun y => { y with setHomes := y.setHomes.filter fun h => !(match h.ref.key with | some k => inScope c.ctx k | none => false) }

/-- A context has work on this chip: queued, resident, saved or running (R286). -/
def State.ctxWorks (s : State) (ctx : Nat) : Bool :=
  (s.queues.any fun q => q.ctx == ctx && !q.packets.isEmpty) || (s.launches.any fun l => l.ctx == ctx && decide (l.stage < 2)) ||
    (s.graphs.any fun g => g.ctx == ctx) || (s.teams.any fun t => t.ctx == ctx) || (s.images.any fun im => im.ctx == ctx && im.held) ||
    s.copies.any fun c => c.ctx == ctx

/-- Carry out a cancel on this chip (R286): the launches it covers, for its report. -/
def State.cancelHere (s : State) (c : CancelOf) : List LKey × State :=
  let me := s.pkg.chipNo
  let graphs := s.graphs.filter fun g => c.hasGraph me g
  let inScope (ctx : Nat) (k : LKey) : Bool := c.hasLaunch (fun k => (s.launch? k).bind (·.phase)) ctx k
  let keys := (s.launches.filter fun l => inScope l.ctx l.key).map (·.key)
  let packets := s.queues.any fun q => q.ctx == c.ctx && q.packets.any fun p => c.hasPacket me p
  let node := c.level == 0 && c.chip == me && c.node.isSome && (s.graphs.any c.inGraph ||
    s.queues.any fun q => q.ctx == c.ctx && q.packets.any fun p => (c.unbegun me p).isSome)
  if (s.ctx? c.ctx).isNone then ([], s)
  else if c.level ≠ 3 ∧ keys.isEmpty ∧ graphs.isEmpty ∧ packets = false ∧ node = false then ([], s.abortBound c inScope)
  else
    let s := if c.level = 3 then s.mapCtx c.ctx fun x => { x with ending := true } else s
    let s := (s.dropWork c inScope).deliverCancel c inScope
    (keys, s.abortBound c inScope)

/-! ### Job-wide commands (R412) -/

/-- Apply a job-wide command on this chip and remember who waits for its end. -/
def State.applyJob (s : State) (cmd : Nat) (args : List DWord) (origin : Option Nat) : State :=
  let ctx := word args 0 % 2 ^ 16
  let add (s : State) (keys : Option (List LKey)) (ends : Bool) : State :=
    { s with pkg := { s.pkg with jobs := s.pkg.jobs ++ [{ cmd := cmd, ctx := ctx, keys := keys, ends := ends, origin := origin }] } }
  match cmd with
  | 0x20 => add (s.stopCtx ctx) none false
  | 0x21 => (add s none false).reloadCtx ctx
  | 0x22 =>
    let c := s.cancelOf args
    let (keys, s) := s.cancelHere c
    if c.level = 3 then add s none true else add s (some keys) false
  | _ =>
    let c : CancelOf := { ctx := ctx, level := 3, queue := 0, slot := 0, node := none, chip := s.pkg.chipNo }
    if s.ctxWorks ctx then add (s.cancelHere c).2 none true
    else
      let inScope (x : Nat) (_ : LKey) : Bool := x == ctx
      let s := s.mapCtx ctx fun x => { x with ending := true }
      add ((s.dropWork c inScope).abortBound c inScope) none true

/-- The words of a job-wide command as it travels: its arguments, the consuming chip plus one, and who waits (one more than a chip
number; 2^16 for no one). -/
def jobWords (args : List DWord) (chip waits : Nat) : List DWord :=
  (List.range 4).map (fun i => nth 0 args i) ++ [BitVec.ofNat 64 (chip + 1), BitVec.ofNat 64 waits]

/-- Begin a job-wide command that the mailbox of this chip received: it goes to every chip of the job (R412). -/
def State.startJob (s : State) (cmd : Nat) (args : List DWord) : State :=
  let me := s.pkg.chipNo
  let others := s.jobChips
  let s := { s with pkg := { s.pkg with mbWaits := me :: others } }
  let s := others.foldl (fun s n => s.send n (.jobCmd cmd (jobWords args me (me + 1)))) s
  s.applyJob cmd args (some me)

/-- What a cancel names is on this chip: 0 no such queue or slot, 1 it had already retired or completed, 2 it is there (R287, R412). -/
def State.cancelFinds (s : State) (c : CancelOf) : Nat :=
  match c.level with
  | 2 => match s.ctx? c.ctx with | some x => if c.slot % 2 ^ 32 < x.cur then 1 else 2 | none => 0
  | 3 => 2
  | _ => match s.queue? c.queue with
    | none => 0
    | some q =>
      if q.ctx ≠ c.ctx ∨ c.slot ≥ q.next then 0
      else match q.packets.find? fun p => p.slot == c.slot with
        | none => 1
        | some p =>
          if p.type ≠ (if c.level = 1 ∨ c.node.isSome then 3 else 1) then 0
          else if p.stage ≥ 2 then 1
          else match c.node with
            | none => 2
            | some n => match s.graphs.find? fun g => g.queue == c.queue && g.slot == c.slot with
              | none => 2
              | some g => match g.nodes.drop n with | [] => 0 | x :: _ => if x.stage = 2 then 1 else 2

/-- A cancel that a recovery action asks for has work left to cancel: the consuming chip decides it against a completion (R287), and a
job already ending is not cancelled again. -/
def State.cancelLeft (s : State) (c : CancelOf) : Bool :=
  if c.level = 3 then (match s.ctx? c.ctx with | some x => !x.ending | none => false) else s.cancelFinds c == 2

/-- `JOB_COMMAND_FORWARD` (R286, R287, R354, R412): a job-wide command reaches this chip. One that a recovery action began goes first
to the chip that consumed the launch, and from there to the job's other chips. -/
def execJobCommandForward (cmd : Nat) (args : List DWord) (s : State) : Ans :=
  let waits := word args 5
  let me := s.pkg.chipNo
  let c := s.cancelOf args
  if waits = 0 then
    if c.level ≠ 3 ∧ c.chip ≠ me ∧ s.routed c.chip then .next (s.send c.chip (.jobCmd cmd args))
    else if (c.level = 3 ∨ c.chip = me) ∧ s.cancelLeft c = false then .next s
    else
      let s := s.jobChips.foldl (fun s n => s.send n (.jobCmd cmd (jobWords args c.chip (2 ^ 16)))) s
      .next (s.applyJob cmd args none)
  else .next (s.applyJob cmd args (if waits = 2 ^ 16 then none else some (waits - 1)))

/-- `JOB_COMMAND_REPORT` (R286, R363): a chip has finished; the last report completes the mailbox request. -/
def execJobCommandReport (ctx chip : Nat) (s : State) : Ans :=
  if s.pkg.mbBusy = false ∨ s.pkg.mbWaits.contains chip = false ∨ s.mbArg 0 % 2 ^ 16 ≠ ctx then .next s
  else
    let left := s.pkg.mbWaits.filter fun c => c != chip
    if left.isEmpty then .next (s.mbDone 0 (if s.pkg.mbCmd = 0x22 then [(0, 0)] else []))
    else .next { s with pkg := { s.pkg with mbWaits := left } }

/-- The argument words of the mailbox. -/
def State.mbArgs (s : State) (n : Nat) : List DWord := (List.range n).map fun i => cget 0 s.pkg.mbData i

/-- `CTX_DESTROY` (R286). -/
def execCtxDestroy (s : State) : Ans :=
  s.mbRun 0x0002 [0xFFFF] fun s =>
    if (s.ctx? (s.mbArg 0)).isNone then s.mbDone 2 [] else s.startJob 0x02 (s.mbArgs 1)

/-- `PREEMPT` (R363). -/
def execPreempt (s : State) : Ans :=
  s.mbRun 0x0020 [0xFFFF] fun s =>
    match s.ctx? (s.mbArg 0) with
    | none => s.mbDone 2 []
    | some c => if c.stopped ∨ c.ending then s.mbDone 3 [] else s.startJob 0x20 (s.mbArgs 1)

/-- `RESTORE` (R364). -/
def execRestore (s : State) : Ans :=
  s.mbRun 0x0021 [0xFFFF] fun s =>
    match s.ctx? (s.mbArg 0) with
    | none => s.mbDone 2 []
    | some c => if !c.stopped ∨ c.ending then s.mbDone 3 [] else s.startJob 0x21 (s.mbArgs 1)

/-- The argument bits of `CANCEL`, by its level (R412). -/
def State.cancelMasks (s : State) : List Nat :=
  let level := field (s.mbArg 0) 16 2
  let w1 := if level ≤ 1 then 0xFF else 0
  let w2 := if level ≤ 1 then 2 ^ 64 - 1 else if level = 2 then 2 ^ 32 - 1 else 0
  let w3 := if level = 0 then (if natBit (s.mbArg 3) 31 then 2 ^ 31 + 2 ^ 13 - 1 else 2 ^ 31) else 0
  [2 ^ 18 - 1, w1, w2, w3]

/-- `CANCEL` (R286, R287, R412). -/
def execCancel (s : State) : Ans :=
  s.mbRun 0x0022 s.cancelMasks fun s =>
    let args := s.mbArgs 4
    let c := s.cancelOf args
    if (s.ctx? c.ctx).isNone then s.mbDone 2 []
    else match s.cancelFinds c with
    | 0 => s.mbDone 2 []
    | 1 => s.mbDone 0 [(0, 1)]
    | _ => s.startJob 0x22 args

/-! ### RESUME (R354) -/

/-- The length of the instruction a parked wave stands at, read for a skip: none where it cannot be fetched or its LEN is 3. -/
def State.skipAt (s : State) (w : Wave) : Option Nat × State :=
  let pc := w.r.ctl.arm.pc
  match s.engXlate (dieOf w.core) w.ctx pc with
  | (.hit h, s) =>
    if !h.x then (none, s)
    else
      let remote := match s.placeOf w.chip h.pa with | .peer _ _ => true | _ => false
      let pa := s.localPa w h.pa
      match s.iblock w.ctx w.core h.cls pa remote with
      | .bad _ _ s => (none, s)
      | .ok bs s => ((Len.ofCode (((bs.drop (pa % 32)).headD 0).extractLsb' 0 2)).map (·.bytes), s)
  | (_, s) => (none, s)

/-- Resume a parked wave in a mode: 0 retry, 1 skip, 2 end; a wave parked by `halt` is past it already, and a retry of a `bkpt` skips
it. A retry is always accepted: where the `bkpt` cannot be fetched any more the wave goes on at it, and the fetch there fails (DEDUCED,
log 56). The answer is the mailbox STATUS. -/
def State.resumeWave (s : State) (w : Wave) (mode : Nat) : Nat × State :=
  let go (s : State) (n : Nat) : State := s.mapWave w.uid fun w => { w with
    status := .run, r := { w.r with ctl := { w.r.ctl with arm := { w.r.ctl.arm with pc := w.r.ctl.arm.pc + BitVec.ofNat 64 n } } } }
  match w.status, mode with
  | .parked _, 2 => (0, s.killWave w.uid)
  | .halted, 2 => (0, s.killWave w.uid)
  | .halted, _ => (0, go s 0)
  | .parked c, m =>
    if m = 0 ∧ c ≠ 0x0143 then (0, go s 0)
    else match s.skipAt w with
    | (none, s) => if m = 0 then (0, go s 0) else (3, s)
    | (some n, s) => (0, go s n)
  | _, _ => (3, s)

/-- `RESUME` (R354, R412). -/
def execResume (s : State) : Ans :=
  s.mbRun 0x0023 [2 ^ 31 - 1, 3] fun s =>
    let a := s.mbArg 0
    match s.waves.find? fun w => w.uid != 0 && w.ctx == a % 2 ^ 16 && w.core == field a 16 8 && w.slot == field a 24 7 with
    | none => s.mbDone 2 []
    | some w =>
      if s.mbArg 1 = 3 then s.mbDone 2 []
      else let (status, s) := s.resumeWave w (s.mbArg 1); s.mbDone status []

end Sys2Proof.Machine
end

