-- ==== Sys2Proof/Machine/Digest.lean ====
section
/-! DEFINITION. SHA-256 (R381, R382 of spec/18_host_platform.md) and the CRC-32 of a dump section (R373 of spec/17_faults.md). -/

namespace Sys2Proof.Machine

/-- The largest x below 2^bits whose e-th power is at most n. -/
def rootBelow (e n : Nat) : Nat → Nat
  | 0 => 0
  | bits + 1 =>
    let hi := rootBelow e (n / 2 ^ e) bits * 2
    if (hi + 1) ^ e ≤ n then hi + 1 else hi

/-- The first primes, as many as SHA-256 takes constants from. -/
def shaPrimes : List Nat := (List.range 312).filter fun p => decide (p ≥ 2) && (List.range p).all fun d => decide (d < 2) || p % d != 0

/-- The first 32 bits behind the point of a prime's root: square roots give the initial hash, cube roots the constants of the rounds. -/
def shaConst (e p : Nat) : Word := BitVec.ofNat 32 (rootBelow e (p * 2 ^ (32 * e)) 40)

/-- A word XORed over some of its rotations. -/
def turned (x : Word) (by_ : List Nat) : Word := by_.foldl (fun acc n => acc ^^^ x.rotateRight n) 0

/-- The word that follows 16 words of the message schedule. -/
def shaNext (w : List Word) : Word :=
  let at_ (n : Nat) : Word := nth 0 w n
  at_ 0 + at_ 9 + (turned (at_ 1) [7, 18] ^^^ at_ 1 >>> 3) + (turned (at_ 14) [17, 19] ^^^ at_ 14 >>> 10)

/-- The working variables: the last four values of each of the two sequences the rounds produce, newest first. -/
structure ShaVars where
  a : List Word
  e : List Word
deriving DecidableEq, Repr

/-- A round with its constant and the word of the schedule. -/
def ShaVars.next (h : ShaVars) (k w : Word) : ShaVars :=
  let x (n : Nat) : Word := nth 0 h.a n
  let y (n : Nat) : Word := nth 0 h.e n
  let t := k + w + y 3 + (y 2 ^^^ (y 0 &&& (y 1 ^^^ y 2))) + turned (y 0) [6, 11, 25]
  { a := (t + turned (x 0) [2, 13, 22] + ((x 0 ||| x 1) &&& x 2 ||| x 0 &&& x 1)) :: h.a.take 3, e := (t + x 3) :: h.e.take 3 }

/-- The rounds with the constants left: each takes the oldest of the 16 words and puts the next one in. -/
def ShaVars.rounds (h : ShaVars) (w : List Word) : List Word → ShaVars
  | [] => h
  | k :: ks => (h.next k (nth 0 w 0)).rounds (w.drop 1 ++ [shaNext w]) ks

/-- A big-endian number of bytes. -/
def beNat (bs : List Byte) : Nat := bs.foldl (fun n b => n * 256 + b.toNat) 0

/-- A block of 64 bytes into the hash. -/
def ShaVars.block (ks : List Word) (h : ShaVars) (bs : List Byte) : ShaVars :=
  let r := h.rounds ((List.range 16).map fun i => BitVec.ofNat 32 (beNat ((bs.drop (4 * i)).take 4))) ks
  { a := List.zipWith (· + ·) h.a r.a, e := List.zipWith (· + ·) h.e r.e }

/-- The SHA-256 digest of bytes: they are padded with a one bit, zeros and their length in bits. -/
def sha256 (bs : List Byte) : BitVec 256 :=
  let msg := bs ++ [0x80] ++ List.replicate ((119 - bs.length % 64) % 64) 0 ++ ((List.range 8).map fun i => BitVec.ofNat 8 (8 * bs.length / 256 ^ (7 - i)))
  let init := (shaPrimes.take 8).map (shaConst 2)
  let blocks := (List.range (msg.length / 64)).map fun i => (msg.drop (64 * i)).take 64
  let h := blocks.foldl (ShaVars.block (shaPrimes.map (shaConst 3))) { a := init.take 4, e := init.drop 4 }
  BitVec.ofNat 256 ((h.a ++ h.e).foldl (fun n w => n * 2 ^ 32 + w.toNat) 0)

/-- The digest's 32 bytes in order. -/
def digestBytes (d : BitVec 256) : List Byte := (List.range 32).map fun i => BitVec.ofNat 8 (d.toNat / 256 ^ (31 - i))

/-- One byte into a CRC-32 of the IEEE 802.3 polynomial, least significant bit first. -/
def crcByte (c : Word) (b : Byte) : Word :=
  (List.range 8).foldl (fun c _ => if c.getLsbD 0 then (c >>> 1) ^^^ 0xEDB88320 else c >>> 1) (c ^^^ b.setWidth 32)

/-- The CRC-32 of bytes (R373). -/
def crc32 (bs : List Byte) : Word := ~~~ (bs.foldl crcByte 0xFFFFFFFF)

end Sys2Proof.Machine
end

