-- ==== Sys2Proof/Machine/Power.lean ====
section
/-! DEFINITION. Resets, power and heat (R362, R370, R371 of spec/17_faults.md) and the host link (R374, R384 of
spec/18_host_platform.md). -/

namespace Sys2Proof.Machine

/-! ### Keys (R77, R79, R371) -/

/-- The tag of a sector written under a key that no slot holds any more; 0xFFFF where the tags have run out. -/
def Pkg.lostTag (p : Pkg) : Nat := min 0xFFFF (0x200 + p.keyLost.length)

/-- A key leaves its slot: what was written under it stays, decrypted only under that key (R79, R371). -/
def State.loseKey (s : State) (slot : Nat) : State :=
  match lookup s.pkg.keys slot with
  | none => s
  | some key =>
    let tag := s.pkg.lostTag
    { s with
      m := { s.m with secKey := s.m.secKey.map (fun (x : Nat × BitVec 16) => if x.2.toNat = slot + 1 then (x.1, BitVec.ofNat 16 tag) else x) }
      pkg := { s.pkg with
        keys := s.pkg.keys.filter (fun (x : Nat × BitVec 512) => x.1 != slot)
        keyLost := if tag < 0xFFFF then s.pkg.keyLost ++ [(tag, key)] else s.pkg.keyLost } }

/-- A key enters a slot: sectors written under the same key before are read again. -/
def State.gainKey (s : State) (slot : Nat) (key : BitVec 512) : State :=
  let tags := (s.pkg.keyLost.filter fun x => x.2 == key).map (·.1)
  { s with
    m := { s.m with secKey := s.m.secKey.map (fun (x : Nat × BitVec 16) => if tags.contains x.2.toNat then (x.1, BitVec.ofNat 16 (slot + 1)) else x) }
    pkg := { s.pkg with keys := (slot, key) :: s.pkg.keys } }

/-- L2 lines leave with their dirty sectors discarded: what those sectors then hold is not stated (R8, R79). -/
def State.discardLines (s : State) (p : L2Line → Bool) : State :=
  let free := s.free
  let lose (m : MemSys) (l : L2Line) : MemSys := (List.range 4).foldl (fun m i =>
    if l.dirty.getLsbD i then
      { m with mem := csetMany 0 m.mem (l.line * 1024 + 256 * i) ((List.range 256).map fun j => Config.freeByte (free * 2 ^ 56 + l.line * 1024 + 256 * i + j)) }
    else m) m
  let m := (s.m.l2.filter p).foldl lose s.m
  { s with m := { m with l2 := m.l2.filter fun l => !p l }, free := free + 1 }

/-! ### Reset (R371) -/

/-- RESETCAUSE after a reset other than power-on: its bit set, COUNT one more, at most 255 (R371). -/
def resetCauseAfter (old : Word) (bit : Nat) : Word :=
  let count := min 255 (field old.toNat 16 8 + 1)
  BitVec.ofNat 32 ((old.toNat % 2 ^ 16) ||| 2 ^ bit) &&& 0xFFFF ||| BitVec.ofNat 32 (count * 2 ^ 16)

/-- Contexts, queues, rings and key slots are cleared and every register takes its reset value; memory keeps its contents, still
encrypted (R371). -/
def State.resetPackage (s : State) (bit : Nat) : State :=
  let s := (s.pkg.keys.map (·.1)).foldl State.loseKey (s.discardLines fun _ => true)
  { State.reset with
    free := s.free, nextId := s.nextId, agenda := s.agenda, upsets := s.upsets, out := s.out
    m := { MemSys.reset with mem := s.m.mem, secKey := s.m.secKey, poison := s.m.poison }
    pkg := { Pkg.reset with
      cap := s.pkg.cap, resetCause := resetCauseAfter s.pkg.resetCause bit, chipNo := s.pkg.chipNo, keyLost := s.pkg.keyLost,
      secVersion := s.pkg.secVersion, fwImage := s.pkg.fwImage, link := s.pkg.link, seqNo := s.pkg.seqNo, dump := s.pkg.dump,
      readings := s.pkg.readings, launchSeq := s.pkg.launchSeq } }

/-- `POWER_ON_RESET` (R371): everything is cleared, HBM contents included; what is fused or written in the part stays. -/
def execPowerOnReset (s : State) : Ans :=
  .next { State.reset with
    free := s.free, nextId := s.nextId, agenda := s.agenda, upsets := s.upsets, out := s.out
    pkg := { Pkg.reset with cap := s.pkg.cap, chipNo := s.pkg.chipNo, secVersion := s.pkg.secVersion, fwImage := s.pkg.fwImage,
                            readings := s.pkg.readings } }

/-- `HOT_RESET` (R371). -/
def execHotReset (s : State) : Ans := .next (s.resetPackage 1)

/-- `WATCHDOG` (R371). -/
def execWatchdog (s : State) : Ans := .next (s.resetPackage 3)

/-- `MANAGEMENT_RESET` (R384): a hot reset. -/
def execManagementReset (s : State) : Ans := .next (s.resetPackage 1)

/-- `THERMAL_TRIP` (R362, R370): one record, and the package resets at once with no dump. -/
def execThermalTrip (s : State) : Ans := .next ((s.failNoWave (s.bareRecord 11 0x0703 0 0) none).resetPackage 5)

/-- `POWER_STAGE_FAULT` (R362, R371). -/
def execPowerStageFault (s : State) : Ans := .next ((s.failNoWave (s.bareRecord 11 0x0704 0 0) none).resetPackage 7)

/-- Destroy a context as a job cancel does (R286, R371). -/
def State.destroyCtx (s : State) (ctx : Nat) : State :=
  let (_, s) := s.cancelHere { ctx := ctx, level := 3, queue := 0, slot := 0, node := none, chip := s.pkg.chipNo }
  { s with pkg := { s.pkg with jobs := s.pkg.jobs ++ [{ cmd := 0x02, ctx := ctx, keys := none, ends := true, origin := none }] } }

/-- `FLR` (R371, R380): the mailbox command in progress is abandoned, and every context is destroyed. Key slots and rings stay. -/
def execFlr (s : State) : Ans :=
  let s := { s with
    queues := s.queues.map (fun (q : Queue) => if s.pkg.mbBusy && s.pkg.mbCmd == 4 && !s.pkg.mbWaits.isEmpty && q.num == s.mbArg 0 % 256 then { q with unreg := false } else q)
    pkg := { s.pkg with
      resetCause := resetCauseAfter s.pkg.resetCause 2, mbBusy := false, mbWaits := [],
      mbData := if s.pkg.mbBusy && s.pkg.mbCmd == 0x10 then s.pkg.mbData.filter fun x => x.1 == 0 || decide (x.1 > 8) else s.pkg.mbData } }
  .next ((s.ctxs.map (·.ctx)).foldl State.destroyCtx s)

/-! ### The host link (R374, R384) -/

/-- `HOST_LINK_TRAINING` (R374): the link trains to a width and a rate in GT/s. -/
def execHostLinkTraining (lanes rate : Nat) (s : State) : Ans :=
  .next (if [1, 2, 4, 8, 16].contains lanes then { s with pkg := { s.pkg with link := some (lanes, rate) } } else s)

/-- `HOST_LINK_DOWN` (R384). -/
def execHostLinkDown (s : State) : Ans := .next { s with pkg := { s.pkg with link := none } }

end Sys2Proof.Machine
end

