-- ==== Sys2Proof/Machine/Mailbox.lean ====
section
/-! DEFINITION. The firmware mailbox's other commands (R79, R123, R260, R264, R265, R356, R372, R375, R380, R381, R412). -/

namespace Sys2Proof.Machine

/-! ### Queues (R123, R380) -/

/-- Every bit of a word. -/
def allBits : Nat := 2 ^ 64 - 1

/-- The class and physical address of a word's page, where it translates for a context: what the page may do is found when the device
reads or writes (R414). -/
def State.wordPlace (s : State) (ctx : Nat) (va : DWord) : Option (Nat × Nat) × State :=
  match s.pinXlate (engFor 0 ctx) va with
  | (.hit h, s) => (some (h.cls, h.pa), s.dropPins 0 [])
  | (_, s) => (none, s.dropPins 0 [])

/-- `QUEUE_REG` (R123, R380, R412): the descriptor is checked, RIDX read once, and the lowest free entry taken. A WIDX word of a class 1 page
outside this chip's HBM is registered too; no watch unit of the chip sees its writes (DEDUCED, log 51). -/
def execQueueReg (s : State) : Ans :=
  s.mbRun 0x0003 [allBits, allBits, allBits, 0xFF07, 0xFFFF] fun s =>
    let a := s.mbArg
    let log2 := field (a 3) 8 8
    let ctx := a 4
    let va (n : Nat) : DWord := BitVec.ofNat 64 (a n)
    if log2 < 4 ∨ log2 > 16 ∨ a 0 % (64 * 2 ^ log2) ≠ 0 ∨ a 1 % 8 ≠ 0 ∨ a 2 % 8 ≠ 0 ∨ (s.ctx? ctx).isNone then s.mbDone 2 []
    else match (List.range 256).find? fun n => (s.queue? n).isNone with
    | none => s.mbDone 3 []
    | some num =>
      let (w, s) := s.wordPlace ctx (va 1)
      let (r, s) := s.wordPlace ctx (va 2)
      match w, r with
      | some (1, pa), some (cls, _) =>
        if cls > 1 then s.mbDone 2 []
        else match s.dpNum ctx (va 2) 8 with
        | (.inl _, s) => s.mbDone 2 []
        | (.inr next, s) =>
          let q : Queue := { num := num, ring := va 0, widx := va 1, ridx := va 2, log2 := log2, prio := a 3 % 8, ctx := ctx, widxPa := pa,
                             next := next, signalled := false, stopped := false, fault := none, packets := [], unreg := false,
                             looking := true, reread := none, served := 0 }
          ({ s with queues := s.queues ++ [q] }).mbDone 0 [(0, num)]
      | _, _ => s.mbDone 2 []

/-- `QUEUE_UNREG` (R380): the queue stops at once; packets taken and not begun are dropped, a graph's phase with it. -/
def execQueueUnreg (s : State) : Ans :=
  s.mbRun 0x0004 [0xFF] fun s =>
    match s.queue? (s.mbArg 0) with
    | none => s.mbDone 2 []
    | some q =>
      let s := (q.packets.filter fun p => p.type == 3 && p.stage == 0).foldl (fun s p => s.breakPhase q.ctx p.phase) s
      let s := s.mapQueue q.num fun q => { q with unreg := true, packets := q.packets.filter fun p => p.stage != 0 }
      { s with pkg := { s.pkg with mbWaits := [4096] } }

/-- RIDX is still to be written for the last slot taken (R414). -/
def Queue.owes (q : Queue) : Bool := !q.stopped && match q.fault with | some j => decide (j < q.next) | none => false

/-- A queue's unregistration may complete: no begun packet is left, and RIDX stands at the first slot not taken (R380). -/
def State.unregDone (s : State) (q : Queue) : Bool := q.unreg && q.packets.isEmpty && !q.owes && s.pkg.mbBusy && s.pkg.mbCmd == 4

/-- `QUEUE_UNREG_COMPLETE` (R380). -/
def execQueueUnregComplete (queue : Nat) (s : State) : Ans :=
  match s.queue? queue with
  | none => .next s
  | some q =>
    if !s.unregDone q then .next s
    else .next (({ s with queues := s.queues.filter fun x => x.num != queue }).mbDone 0 [(0, q.next)])

/-! ### Keys and decoders (R79, R375, R380) -/

/-- `KEY_LOAD` (R380): the data area is cleared of the key as the command ends. -/
def execKeyLoad (s : State) : Ans :=
  s.mbRun 0x0010 [0xFF, allBits, allBits, allBits, allBits, allBits, allBits, allBits, allBits] fun s =>
    let slot := s.mbArg 0
    if slot = 0 then s.mbDone 2 []
    else if s.keyLoaded slot then s.mbDone 3 []
    else
      let key := (List.range 8).foldl (fun n i => n + s.mbArg (1 + i) * 2 ^ (64 * i)) 0
      (s.gainKey slot (BitVec.ofNat 512 key)).mbDone 0 []

/-- A context or a decoder holds a key slot. -/
def State.keyHeld (s : State) (slot : Nat) : Bool :=
  (s.ctxs.any fun c => c.keySlot == slot) || s.pkg.hdm.any fun d => d.2.1 == slot

/-- `KEY_RETIRE` (R79, R380). -/
def execKeyRetire (s : State) : Ans :=
  s.mbRun 0x0011 [0xFF] fun s =>
    let slot := s.mbArg 0
    if slot = 0 then s.mbDone 2 []
    else if s.keyHeld slot then s.mbDone 3 []
    else ((s.discardLines fun l => l.slot == slot).loseKey slot).mbDone 0 []

/-- `HDM_BIND` (R375, R412). -/
def execHdmBind (s : State) : Ans :=
  s.mbRun 0x0012 [0x1FF03] fun s =>
    let a := s.mbArg 0
    ({ s with pkg := { s.pkg with hdm := assign (a % 4) (field a 8 8, natBit a 16) s.pkg.hdm } }).mbDone 0 []

/-! ### Routes, communicators, time-out (R260, R264, R265) -/

/-- A port is populated (R13). -/
def State.portPresent (s : State) (n : Nat) : Bool := n < 16 && s.pkg.cap.portMap.getLsbD n

/-- `ROUTE_SET` (R260, R412). -/
def execRouteSet (s : State) : Ans :=
  s.mbRun 0x0030 [0xF0FFF] fun s =>
    let port := field (s.mbArg 0) 16 4
    if !s.portPresent port then s.mbDone 2 []
    else ({ s with pkg := { s.pkg with routes := assign (s.mbArg 0 % 2 ^ 12) port s.pkg.routes } }).mbDone 0 []

/-- A communicator entry from its words and the RANKMAP contents (R265). -/
def commOf (w : Nat → Nat) (ranks : List Nat) : Comm :=
  { prio := field (w 0) 49 3, sizes := (List.range (w 0 % 4 + 1)).map fun a => field (w 1) (16 * a) 16, bufKib := w 3 % 2 ^ 32, ranks := ranks }

/-- An entry keeps the table of R265, its RANKMAP apart. -/
def commOk (w : Nat → Nat) : Bool :=
  let n := w 0 % 4 + 1
  let size (a : Nat) : Nat := field (w 1) (16 * a) 16
  let kib := w 3
  ((List.range 4).all fun a => if a < n then decide (1 ≤ size a ∧ size a ≤ 4096) else size a == 0) &&
    decide (((List.range n).map size).foldl (· * ·) 1 ≤ 4096) && decide (64 ≤ kib ∧ kib ≤ 1024) && kib % 64 == 0

/-- Write an entry of a context's communicator table, in class 3 memory (R265). -/
def State.putComm (s : State) (ctx entry : Nat) (e : Option Comm) : State :=
  let pa := (match s.ctx? ctx with | some c => c.commTab | none => 0) + 64 * entry
  let s := s.sysPut (s.hostKeeps pa 64) pa ((List.range 8).flatMap fun i => natBytes 8 (s.mbArg (1 + i)))
  s.mapCtx ctx fun c => { c with comms := match e with | some e => assign entry e c.comms | none => c.comms.filter fun x => x.1 != entry }

/-- `COMM_SET` (R265, R412): an entry that keeps the table replaces the old one; one with VALID = 0 is then not usable. -/
def execCommSet (s : State) : Ans :=
  s.mbRun 0x0031 [0xFFFFF, 2 ^ 63 + 7 * 2 ^ 49 + 3, allBits, allBits, 2 ^ 32 - 1] fun s =>
    let ctx := s.mbArg 0 % 2 ^ 16
    let entry := field (s.mbArg 0) 16 4
    let w (i : Nat) : Nat := s.mbArg (1 + i)
    if (s.ctx? ctx).isNone then s.mbDone 2 []
    else if !commOk w then s.mbDone 2 []
    else
      let n := (commOf w []).sizes.foldl (· * ·) 1
      match s.dpRead ctx (BitVec.ofNat 64 (w 2)) (2 * n) with
      | (.inl _, s) => s.mbDone 2 []
      | (.inr bs, s) =>
        let ranks := (List.range n).map fun i => ofBytes ((bs.drop (2 * i)).take 2)
        if !noRepeat ranks ∨ ranks.any (fun r => decide (r ≥ 4096)) then s.mbDone 2 []
        else (s.putComm ctx entry (if natBit (w 0) 63 then some (commOf w ranks) else none)).mbDone 0 []

/-- `BARTMO_SET` (R264, R380). -/
def execBartmoSet (s : State) : Ans :=
  s.mbRun 0x0032 [0x3FFF] fun s =>
    let t := s.mbArg 0
    if t < 1 ∨ t > 10000 then s.mbDone 2 [] else ({ s with pkg := { s.pkg with barTmo := t } }).mbDone 0 []

/-! ### The package ring and the dump (R356, R372) -/

/-- A record of the internal buffer is copied to the ring at a base. -/
def State.copyRecord (base : Nat) (s : State) (ws : List DWord) : State :=
  let (s, drop) := ringWrite s base ws
  if drop then { s with pkg := { s.pkg with pkgOvf := true } } else ({ s with pkg := { s.pkg with pkgOvf := false } }).errPendSet

/-- `RING_PLACE` (R356, R412). -/
def execRingPlace (s : State) : Ans :=
  s.mbRun 0x0040 [allBits] fun s =>
    let base := s.mbArg 0
    let log2 := s.peekPa 0 (base + 0x10) 8
    if base % 4096 ≠ 0 ∨ log2 < 4 ∨ log2 > 16 ∨ base + 0x40 + 64 * 2 ^ log2 > s.hbmBytes then s.mbDone 2 []
    else
      let lost := s.pkg.pkgDropped
      let ovf := s.pkg.pkgOvf
      let s := s.pkg.pkgBuf.foldl (State.copyRecord base) { s with pkg := { s.pkg with pkgRing := some base, pkgBuf := [], pkgDropped := 0 } }
      let s := if lost = 0 then s else s.sysPut (s.hostKeeps base 0x40) (base + 0x18) (natBytes 8 (s.peekPa 0 (base + 0x18) 8 + lost))
      ({ s with pkg := { s.pkg with pkgOvf := s.pkg.pkgOvf || ovf } }).mbDone 0 []

/-- `DUMP_READ` (R372, R412). -/
def execDumpRead (s : State) : Ans :=
  s.mbRun 0x0041 [allBits, allBits] fun s =>
    let o := s.mbArg 0
    let n := s.mbArg 1
    if o % 8 ≠ 0 ∨ n % 8 ≠ 0 ∨ n < 8 ∨ n > 3840 then s.mbDone 2 []
    else
      let at_ := s.dumpPa + o
      let k := min n (s.pkg.dump - o)
      let s := s.sysPass at_ k
      let bs := s.m.bytes s.free 0 at_ k
      ({ s with free := s.free + 1 }).mbDone 0 ((0, bs.length) :: (List.range ((bs.length + 7) / 8)).map fun i => (32 + i, ofBytes ((bs.drop (8 * i)).take 8)))

/-! ### Firmware and the manifest (R381, R382) -/

/-- `FW_UPDATE` (R381, R412). -/
def execFwUpdate (s : State) : Ans :=
  s.mbRun 0x0050 [allBits, allBits] fun s =>
    let pa := s.mbArg 0
    let n := s.mbArg 1
    if n = 0 ∨ pa + n > s.hbmBytes then s.mbDone 2 []
    else
      let image := s.m.bytes s.free 0 pa n
      let s := { s with free := s.free + 1 }
      let v := (Config.imageVersion image).toNat
      if Config.signatureOk image = false ∨ v < s.pkg.secVersion then (s.failNoWave (s.bareRecord 12 0x0802 s.openAddr s.openDetail) none).mbDone 4 []
      else (({ s with pkg := { s.pkg with secVersion := v, fwImage := some (sha256 image) } }).mbDone 0 []).resetPackage 6

/-- `MANIFEST_SELECT` (R380, R412). -/
def execManifestSelect (s : State) : Ans :=
  s.mbRun 0x0051 [0xFFFF] fun s =>
    if (s.ctx? (s.mbArg 0)).isNone then s.mbDone 2 []
    else ({ s with pkg := { s.pkg with manifest := some (s.mbArg 0) } }).mbDone 0 []

end Sys2Proof.Machine
end

