-- ==== Sys2Proof/Machine/Mmio.lean ====
section
/-! DEFINITION. The MMIO window (R108, R114, R261, R290, R371, R377 to R380) and the I3C target (R384). -/

namespace Sys2Proof.Machine

/-! ### Reading (R377, R378) -/

/-- A port at its reset values (R261). -/
def Port.reset : Port := { peer := 0, width := 0, bypass := false, enable := true, fails := [], resends := 0, buf := [] }

/-- A port's registers and buffer. -/
def State.port (s : State) (n : Nat) : Port := (lookup s.ports n).getD Port.reset

/-- A slice at its reset values (R108). -/
def Slice.reset : Slice := { mask1 := 0xFFFF, mask0 := 0xFFFF, pairlim := 64 }

/-- A slice's registers. -/
def State.slice (s : State) (n : Nat) : Slice := (lookup s.slices n).getD Slice.reset

/-- OCCt of a slice: its lines with a valid sector whose tenant bit is t (R107). -/
def State.occ (s : State) (slice : Nat) (t : Bool) : Nat :=
  (s.m.l2.filter fun l => homeSlice (l.line * 1024) == slice && l.tenant == t && l.valid != 0).length

/-- The DEVCAP word at an offset (R378). -/
def Cap.word (c : Cap) (off : Nat) : Nat :=
  match off with
  | 0x00 => c.part.toNat
  | 0x04 => popCount c.coreMap.toNat 256
  | 0x08 => c.hbmMap.toNat * 2 ^ 16 + popCount c.hbmMap.toNat 12
  | 0x0C => c.portMap.toNat * 2 ^ 16 + popCount c.portMap.toNat 16
  | 0x10 => 0x01010100 + (if c.sgather then 2 else 0) + (if c.fp64 then 1 else 0)
  | _ => if 0x20 ≤ off ∧ off < 0x40 then field c.coreMap.toNat (8 * (off - 0x20)) 32 else 0

/-- The register word of a slice block (R108). -/
def State.sliceWord (s : State) (n off : Nat) : Nat :=
  match off with
  | 0 => (s.slice n).mask1.toNat * 2 ^ 16 + (s.slice n).mask0.toNat
  | 4 => s.occ n true * 2 ^ 16 + s.occ n false
  | 8 => (s.homeBuf n).entries.length * 2 ^ 8 + (s.slice n).pairlim
  | _ => 0

/-- The register word of a port block (R261); an absent port reads 0 (R377). -/
def State.portWord (s : State) (n off : Nat) : Nat :=
  if !s.portPresent n then 0
  else match off with
  | 0 => (s.port n).peer * 2 ^ 16 + (s.port n).width * 4
  | 4 => (if (s.port n).bypass then 2 else 0) + (if (s.port n).enable then 1 else 0)
  | 8 => (s.port n).buf.length
  | _ => 0

/-- The register word of a core block (R114, R290, R377); an absent core reads 0. -/
def State.coreWord (s : State) (n off : Nat) : Nat :=
  if !s.corePresent n then 0
  else match off with
  | 0 => (if s.pkg.cap.fp64 then 2 else 0) + 1
  | 4 => (s.bufOf (.core n)).length * 2 ^ 8 + (if s.bypass.contains n then 1 else 0)
  | 8 => s.cpwrctl n
  | _ => 0

/-- The 32-bit word of the MMIO window at an aligned offset (R377); reserved offsets read 0 (R7). -/
def State.mmioWord (s : State) (off : Nat) : Nat :=
  if off < 0x100 then s.pkg.cap.word off
  else if off = 0x100 then s.pkg.resetCause.toNat
  else if off = 0x104 then (if s.pkg.errPend then 1 else 0)
  else if off = 0x200 then (if s.pkg.mbBusy then 2 ^ 31 else 0) + s.pkg.mbCmd.toNat
  else if off = 0x204 then s.pkg.mbStat.toNat
  else if 0x1000 ≤ off ∧ off < 0x3000 then s.sliceWord ((off - 0x1000) / 0x40) (off % 0x40)
  else if 0x3000 ≤ off ∧ off < 0x3400 then s.portWord ((off - 0x3000) / 0x40) (off % 0x40)
  else if 0x4000 ≤ off ∧ off < 0x8000 then s.coreWord ((off - 0x4000) / 0x40) (off % 0x40)
  else if 0x8000 ≤ off ∧ off < 0x9000 then field (cget 0 s.pkg.mbData ((off - 0x8000) / 8)).toNat (8 * (off % 8)) 32
  else 0

/-- A read of the window: nothing where the access is not 4 or 8 bytes wide and aligned (R377). -/
def State.mmioRead (s : State) (off size : Nat) : Option Nat :=
  if (size = 4 ∨ size = 8) ∧ off % size = 0 ∧ off + size ≤ 0x10000 then
    some (s.mmioWord off + if size = 8 then s.mmioWord (off + 4) * 2 ^ 32 else 0)
  else none

/-! ### Writing -/

/-- Write L2TENMASK (R106, R108). -/
def State.putMasks (s : State) (n : Nat) (m1 m0 : BitVec 16) : State :=
  if n < 128 then { s with slices := assign n { s.slice n with mask1 := m1, mask0 := m0 } s.slices } else s

/-- Write PAIRLIM: 0 and 65 to 127 are ignored (R108, R114). -/
def State.putPairlim (s : State) (n lim : Nat) : State :=
  if n < 128 ∧ 1 ≤ lim ∧ lim ≤ 64 then { s with slices := assign n { s.slice n with pairlim := lim } s.slices } else s

/-- Write a core's BYPASS: set, the core buffer forwards all its entries at once (R112, R114). -/
def State.putBypass (s : State) (n : Nat) (b : Bool) : State :=
  if !s.corePresent n then s
  else
    let s := { s with bypass := (s.bypass.filter fun x => x != n) ++ if b then [n] else [] }
    if b then s.flushBuf (.core n) fun _ => true else s

/-- Write a port's BYPASS (R261). -/
def State.putPortBypass (s : State) (n : Nat) (b : Bool) : State :=
  if s.portPresent n then { s with ports := assign n { s.port n with bypass := b } s.ports } else s

/-- A port is lost: it is down, and every collective with a rank routed through it is aborted (R260, R271). -/
def State.portLost (s : State) (n : Nat) : State :=
  let s := { s with ports := assign n { s.port n with width := 0, fails := [] } s.ports }
  let through (c : Ctx) (x : Coll) : Bool := match lookup c.comms x.comm with
    | some e => e.ranks.any fun r => r != s.pkg.chipNo && lookup s.pkg.routes r == some n
    | none => false
  let lost := s.ctxs.flatMap fun c => (c.colls.filter fun x => x.started && x.stage == 0 && through c x).map fun x => (c.ctx, x.comm, x.inst)
  lost.foldl (fun s x => s.abortColl x.1 x.2.1 x.2.2 0x0425 0 0) s

/-- Write a port's ENABLE: 0 holds it down (R261). -/
def State.putEnable (s : State) (n : Nat) (b : Bool) : State :=
  if !s.portPresent n then s
  else
    let up := (s.port n).width != 0
    let s := { s with ports := assign n { s.port n with enable := b } s.ports }
    if !b && up then s.portLost n else s

/-- Clear RESETCAUSE bits by writing 1 (R371). -/
def State.clearCause (s : State) (mask : Word) : State :=
  { s with pkg := { s.pkg with resetCause := s.pkg.resetCause &&& ~~~ (mask &&& 0xFF) } }

/-- Clear ERRPEND (R379). -/
def State.clearErrPend (s : State) : State := { s with pkg := { s.pkg with errPend := false } }

/-- The commands of the mailbox (R380). -/
def mbCommands : List Nat :=
  [0x01, 0x02, 0x03, 0x04, 0x10, 0x11, 0x12, 0x20, 0x21, 0x22, 0x23, 0x30, 0x31, 0x32, 0x40, 0x41, 0x50, 0x51]

/-- Write MBCTL: GO begins a command, one that does not exist ends at once with status 1; a write while BUSY is ignored (R380). -/
def State.putMbctl (s : State) (v : Nat) : State :=
  if s.pkg.mbBusy then s
  else
    let s := { s with pkg := { s.pkg with mbCmd := BitVec.ofNat 16 v, mbBusy := natBit v 31, mbWaits := [] } }
    if natBit v 31 && !mbCommands.contains (v % 2 ^ 16) then s.mbDone 1 [] else s

/-- Write half of a word of the mailbox's data area; ignored while BUSY (R380). -/
def State.putMbData (s : State) (off v : Nat) : State :=
  if s.pkg.mbBusy then s
  else
    let n := (off - 0x8000) / 8
    let old := (cget 0 s.pkg.mbData n).toNat
    let new := if off % 8 = 0 then old / 2 ^ 32 * 2 ^ 32 + v else old % 2 ^ 32 + v * 2 ^ 32
    { s with pkg := { s.pkg with mbData := cset 0 (BitVec.ofNat 64 new) s.pkg.mbData n } }

/-- Write the 32-bit word of the window at an aligned offset (R377); read-only and reserved ones do not change (R7). -/
def State.mmioPut (s : State) (off v : Nat) : State :=
  let o := off % 0x40
  if off = 0x100 then s.clearCause (BitVec.ofNat 32 v)
  else if off = 0x104 then (if natBit v 0 then s.clearErrPend else s)
  else if off = 0x200 then s.putMbctl v
  else if 0x1000 ≤ off ∧ off < 0x3000 then
    let n := (off - 0x1000) / 0x40
    if o = 0 then s.putMasks n (BitVec.ofNat 16 (v / 2 ^ 16)) (BitVec.ofNat 16 v) else if o = 8 then s.putPairlim n (v % 128) else s
  else if 0x3000 ≤ off ∧ off < 0x3400 then
    let n := (off - 0x3000) / 0x40
    if o = 4 then (s.putPortBypass n (natBit v 1)).putEnable n (natBit v 0) else s
  else if 0x4000 ≤ off ∧ off < 0x8000 then
    let n := (off - 0x4000) / 0x40
    if o = 4 then s.putBypass n (natBit v 0) else if o = 8 then s.setBudget n (v % 256) else s
  else if 0x8000 ≤ off ∧ off < 0x9000 then s.putMbData off v
  else s

/-- `MMIO_WRITE` (R377): any other access than 4 or 8 aligned bytes changes nothing and completes as unsupported. -/
def execMmioWrite (addr size : Nat) (val : DWord) (s : State) : Ans :=
  if (size = 4 ∨ size = 8) ∧ addr % size = 0 ∧ addr + size ≤ 0x10000 then
    let s := s.mmioPut addr (val.toNat % 2 ^ 32)
    .next (if size = 8 then s.mmioPut (addr + 4) (val.toNat / 2 ^ 32) else s)
  else .next { s with out := s.out ++ [.bus [] false] }

/-- `L2TENMASK_WRITE` (R106). -/
def execL2tenmaskWrite (slice : Nat) (mask1 mask0 : BitVec 16) (s : State) : Ans := .next (s.putMasks slice mask1 mask0)

/-- `PAIRLIM_WRITE` (R108). -/
def execPairlimWrite (slice : Nat) (lim : BitVec 7) (s : State) : Ans := .next (s.putPairlim slice lim.toNat)

/-- `CPAIRCTL_BYPASS_WRITE` (R114). -/
def execCpairctlBypassWrite (core : Nat) (bypass : Bool) (s : State) : Ans := .next (s.putBypass core bypass)

/-- `PORT_BYPASS_WRITE` (R261). -/
def execPortBypassWrite (port : Nat) (bypass : Bool) (s : State) : Ans := .next (s.putPortBypass port bypass)

/-- `PORT_ENABLE_WRITE` (R261). -/
def execPortEnableWrite (port : Nat) (enable : Bool) (s : State) : Ans := .next (s.putEnable port enable)

/-- `CPWRCTL_BUDGET_WRITE` (R290). -/
def execCpwrctlBudgetWrite (core : Nat) (budget : BitVec 8) (s : State) : Ans := .next (s.setBudget core budget.toNat)

/-- `RESETCAUSE_CLEAR` (R371). -/
def execResetcauseClear (mask : Word) (s : State) : Ans := .next (s.clearCause mask)

/-- `ERRPEND_CLEAR` (R379). -/
def execErrpendClear (s : State) : Ans := .next s.clearErrPend

/-! ### The I3C target (R384) -/

/-- A register the I3C target offers: DEVCAP and RESETCAUSE at their window offsets, the package ring's WRIDX and DROPPED at 0x200 and
0x208 with their high halves 4 further, die temperatures from 0x300, package power at 0x400. -/
def State.i3cReg (s : State) (reg : Nat) : Option Nat :=
  let ring (o : Nat) : Nat := match s.pkg.pkgRing with
    | some base => s.readPa 0 (base + o) 8
    | none => if o = 0 then s.pkg.pkgBuf.length else s.pkg.pkgDropped
  if reg < 0x40 ∧ reg % 4 = 0 then some (s.pkg.cap.word reg)
  else match reg with
  | 0x100 => some s.pkg.resetCause.toNat
  | 0x200 => some (ring 0 % 2 ^ 32)
  | 0x204 => some (ring 0 / 2 ^ 32)
  | 0x208 => some (ring 0x18 % 2 ^ 32)
  | 0x20C => some (ring 0x18 / 2 ^ 32)
  | _ => if (0x300 ≤ reg ∧ reg < 0x400) ∨ reg = 0x400 then some (Config.sensor reg s.pkg.readings).toNat else none

/-- `I3C_ACCESS` (R384): a read is answered, a write refused. -/
def execI3cAccess (reg : Nat) (write : Option Word) (s : State) : Ans :=
  let no : Ans := .next { s with out := s.out ++ [.i3c 0 false] }
  if write.isSome then no
  else match s.i3cReg reg with
  | none => no
  | some v => .next { s with out := s.out ++ [.i3c (BitVec.ofNat 32 v) true], pkg := { s.pkg with readings := s.pkg.readings + 1 } }

end Sys2Proof.Machine
end

