-- ==== Sys2Proof/Machine/Link.lean ====
section
/-! DEFINITION. The Fedeux ports: flits, lanes and what a message does on arrival (R259 to R262 of spec/12_fabric.md). -/

namespace Sys2Proof.Machine

/-- Another chip asks for a promotion by a core of this one (R336): it is answered when what the core must complete is performed. -/
def State.remotePromote (s : State) (id core relSeq src : Nat) : State :=
  let (n, s) := s.fresh
  let need := s.promoNeeds core relSeq
  s.withM fun m => { m with promoReqs := m.promoReqs ++
    [{ id := n, seqNo := relSeq, acc := none, sp := false, loc := 0, size := 0, core := core, need := need, asked := true, remote := some (src, id) }] }

/-- Another chip's cores have done what a promotion or a fence asked (R336, R342). -/
def State.remotePromoted (s : State) (id : Nat) : State :=
  (s.withM fun m => { m with
    promoReqs := updateFirst (fun q => q.id == id) (fun q => { q with asked := true, need := [] }) m.promoReqs
    peerOuts := m.peerOuts.filter fun x => x.id != id }).settleFences

/-- Another package answers (R74): an engine's write there is performed or has failed, with what follows for its owner (R120, R135, R271,
R413), or the answer is a wave's. -/
def State.peerReply (s : State) (id : Nat) (data : List QWord) (code : Nat) : State :=
  match s.m.peerOuts.find? fun x => x.id == id with
  | none => s.peerAnswer id data code
  | some x =>
    let s := s.withM fun m => { m with peerOuts := m.peerOuts.filter fun y => y.id != id }
    let c := BitVec.ofNat 16 code
    if let .fill a := x.whose then (if code = 0 then s.l1Bring a (data.flatMap fun d => natBytes 16 d.toNat) else s)
    else if code = 0 then s.settleFences
    else match x.whose with
    | .copy n => { s with copies := updateFirst (fun y => y.id == n) (fun y => { y with peerFail := some c }) s.copies }
    | .device ctx engine key va => s.failNoWave (s.ctxRecord ctx key engine c va 0) key
    | .coll ctx comm inst => s.abortColl ctx comm inst 0x0423 0 code
    | _ => s.settleFences

/-- The state of an answer that is always a next state. -/
def Ans.state (s : State) : Ans → State
  | .next t => t
  | _ => s

/-- A message for this chip takes effect; `buf` is the port it came through. -/
def State.deliver (s : State) (buf : Option Nat) : Msg → State
  | .part p => match buf with | some n => s.nonhome (.port n) p | none => s.forwardPart (.port 16) p
  | .close ctx idx oseq src op key =>
    let s := match buf with | some n => s.flushBuf (.port n) fun p => p.ctx == ctx && p.idx == idx | none => s
    { s with mesh := s.mesh ++ closeAll ctx idx oseq (some src) op key }
  | .closeAck op => s.finishAny op none
  | .abortObj ctx idx code elem key =>
    s.abortObj ctx idx key (BitVec.ofNat 16 code) (match s.robj? ctx idx with | some o => o.addr elem | none => 0) (BitVec.ofNat 64 elem)
  | .peerReq r => Ans.state s (execPeerRequestArrival r s)
  | .peerResp id data code => s.peerReply id data code
  | .vote r inst m v => Ans.state s (execVoteArrival r inst m v s)
  | .join r m => Ans.state s (execJoinArrival r m s)
  | .joinReply r m cur => s.joined r m cur
  | .leave r m => Ans.state s (execLeaveArrival r m s)
  | .leaveAck r m => s.left r m
  | .outcome r inst taken err => s.storeOutcome r inst taken err
  | .launch key ctx words gen => s.launchCopy key ctx words gen
  | .arrive key chip stamp => Ans.state s (execStartBarrierArrival key chip stamp s)
  | .barrierDone key seqNo => s.startLaunch key seqNo
  | .launchFail key code finder => s.failLaunch key (BitVec.ofNat 16 code) 0 0 finder
  | .retire key chip => Ans.state s (execRetireReport key chip s)
  | .scFence id src => Ans.state s (execScFenceMessage id src s)
  | .scOrder id => match s.fences.find? fun x => x.id == id with | some x => s.fenceDone x | none => s
  | .promote id core relSeq src => s.remotePromote id core relSeq src
  | .promoted id => s.remotePromoted id
  | .jobCmd cmd args => Ans.state s (execJobCommandForward cmd args s)
  | .jobReport ctx chip => Ans.state s (execJobCommandReport ctx chip s)
  | .jobEnds ctx chip => s.jobEnds ctx chip
  | .restoreArrive ctx chip stamp => Ans.state s (execRestoreBarrier ctx chip stamp s)
  | .collStart ctx comm inst src g => Ans.state s (execCollStartMessage ctx comm inst src g s)
  | .collData ctx comm inst src vals => s.collData ctx comm inst src vals
  | .collAbort ctx comm inst code => Ans.state s (execCollAbort ctx comm inst code s)

/-- A flit for another chip goes on by the route to it; a partial or a close first passes the port's pairing buffer (R112, R260, R262). -/
def State.passOn (s : State) (port dst : Nat) : Msg → State
  | .part p => s.nonhome (.port port) p
  | .close ctx idx oseq src op key =>
    (s.flushBuf (.port port) fun p => p.ctx == ctx && p.idx == idx).send dst (.close ctx idx oseq src op key)
  | m => s.send dst m

/-- A port is up: populated, enabled and trained (R261). -/
def State.portUp (s : State) (n : Nat) : Bool := s.portPresent n && (s.port n).enable && (s.port n).width != 0

/-- `FLIT_RECEIVE` (R259, R260): a flit with a good CRC is delivered, or goes on; one without is resent, which is counted. Port 16 is
no port: it carries the messages of this chip to itself, oldest first. -/
def execFlitReceive (port lane : Nat) (crcOk : Bool) (dst : Nat) (m : Msg) (s : State) : Ans :=
  if port = 16 then
    match s.inbox with
    | x :: rest => .next (if x = m then ({ s with inbox := rest }).deliver none m else s)
    | [] => .next s
  else if !s.portUp port then .next s
  else
    let p := s.port port
    if !crcOk then
      let n := (lookup p.fails lane).getD 0
      .next { s with ports := assign port { p with resends := p.resends + 1, fails := assign lane (if n ≥ 16 then n else n + 1) p.fails } s.ports }
    else
      let s := { s with ports := assign port { p with fails := p.fails.filter fun x => x.1 != lane || x.2 == 17 } s.ports }
      .next (if dst = s.pkg.chipNo then s.deliver (some port) m else s.passOn port dst m)

/-- `PORT_DOWN` (R260): the port goes down, with its record; flits in flight are lost. -/
def execPortDown (port : Nat) (s : State) : Ans :=
  if s.portPresent port && (s.port port).width != 0 then
    .next ((s.failNoWave (s.bareRecord 6 0x0401 s.openAddr s.openDetail) none).portLost port)
  else .next s

/-- `LANE_RETRAIN` (R260): a lane with 16 consecutive failures is left out, and four lanes go on; 17 marks a lane left out. -/
def execLaneRetrain (port : Nat) (s : State) : Ans :=
  let p := s.port port
  if !s.portUp port then .next s
  else match p.fails.find? fun x => x.2 == 16 with
  | none => .next s
  | some (lane, _) =>
    let fails := assign lane 17 p.fails
    let lost := (fails.filter fun x => x.2 == 17).length
    let s := { s with ports := assign port { p with fails := fails, width := 1 } s.ports }
    if lost > 4 then execPortDown port s
    else .next (s.failNoWave (s.bareRecord 6 0x0402 s.openAddr s.openDetail) none)

/-- `FEDEUX_PORT_UP` (R260, R261): an enabled port trains to eight or four lanes with its linked chip. -/
def execFedeuxPortUp (port lanes peer : Nat) (s : State) : Ans :=
  if s.portPresent port && (s.port port).enable && (lanes == 4 || lanes == 8) && decide (peer < 4096) then
    .next { s with ports := assign port { s.port port with width := if lanes = 8 then 2 else 1, peer := peer, fails := [] } s.ports }
  else .next s

end Sys2Proof.Machine
end

