-- ==== Sys2Proof/Machine/Lscl.lean ====
section
/-! DEFINITION. The loss-scale pair and the numeric status word (R193 to R195, R197 of spec/08_vector_scalar.md). -/

namespace Sys2Proof.Machine

/-- MAXEXP, MINEXP and EXP of LSA, signed (R193). -/
def lsaMax (a : Word) : Int := sext 8 (a.toNat / 2 ^ 24)
/-- MINEXP (R193). -/
def lsaMin (a : Word) : Int := sext 8 (a.toNat / 2 ^ 16 % 256)
/-- EXP (R193). -/
def lsaExp (a : Word) : Int := sext 8 (a.toNat / 2 ^ 8 % 256)

/-- A pair within the limits of R194. -/
def lsOk (a b : Word) : Bool :=
  decide (-126 ≤ lsaMin a ∧ lsaMin a ≤ lsaExp a ∧ lsaExp a ≤ lsaMax a ∧ lsaMax a ≤ 127 ∧
    (b.toNat / 2 ^ 16 ≠ 0 → b.toNat % 2 ^ 16 ≤ b.toNat / 2 ^ 16) ∧ a.toNat / 4 % 64 = 0)

/-- LSA with a new exponent and pins (R193). -/
def lsaPut (a : Word) (exp : Int) (pinlo pinhi : Bool) : Word :=
  BitVec.ofNat 32 (a.toNat / 2 ^ 16 * 2 ^ 16 + wrap 8 exp * 256 + a.toNat / 4 % 64 * 4 + (if pinlo then 2 else 0) +
    (if pinhi then 1 else 0))

/-- `lscl.step` on the pair (R195). -/
def lsStep (a b : Word) (ovf : Bool) : Word × Word :=
  let interval := b.toNat / 2 ^ 16
  let good := b.toNat % 2 ^ 16
  let pinhi := a.getLsbD 0
  let putGood (g : Nat) : Word := BitVec.ofNat 32 (interval * 2 ^ 16 + g)
  if ovf then
    if lsaExp a > lsaMin a then (lsaPut a (lsaExp a - 1) false false, putGood 0)
    else (lsaPut a (lsaExp a) true false, putGood 0)
  else
    let g := min (good + 1) 65535
    if interval ≠ 0 ∧ g ≥ interval then
      if lsaExp a < lsaMax a then (lsaPut a (lsaExp a + 1) false false, putGood 0)
      else (lsaPut a (lsaExp a) false true, putGood 0)
    else (lsaPut a (lsaExp a) false pinhi, putGood g)

/-- 2^EXP as FP32 (R195). -/
def lsScale (a : Word) : Nat := ((FVal.fin false 1 (lsaExp a)).exact.round .f32 {}).1

/-- A form of `lscl`: TY and MOD 0 and its own X (R194). -/
def lsclSpec (x : Nat) : Spec :=
  { ty := fun t => t == 0, vals := fun f => if f.mod = 0 ∧ f.x.toNat = x then none else some 0x0103 }

/-- The fields of `lscl.step`. -/
def lsclStepSpec : Spec :=
  { lsclSpec 0 with useD := true, useB := true
                    ok := fun k f => sregOrNull k 18 f.d && scalarOk k f f.b }

/-- `lscl.step` (R195). X = 6 and 7 come here, and are refused. -/
def execLsclStep (f : Fields) (s : State) : Ans :=
  run lsclStepSpec (.lsclStep f) f
    (fun slot s =>
      let (a, b) := lsStep s.w.r.lsa s.w.r.lsb (src32 s.w.r f f.b 0 != 0)
      .ok ((s.withR fun r => { r with lsa := a, lsb := b }).result slot 1 (dstWr 18 f.d 0 (lsScale a))) none) s

/-- The fields of `lscl.get`. -/
def lsclGetSpec : Spec :=
  { lsclSpec 1 with useD := true, ok := fun k f => pairOk k f.d }

/-- `lscl.get` (R194). -/
def execLsclGet (f : Fields) (s : State) : Ans :=
  run lsclGetSpec (.lsclGet f) f
    (fun slot s => .ok (s.result slot 1 (dstWr 19 f.d 0 (s.w.r.lsb ++ s.w.r.lsa).toNat)) none) s

/-- The fields of `lscl.set`. -/
def lsclSetSpec : Spec :=
  { lsclSpec 2 with useA := true, wA := fun _ => 2, ok := fun k f => pairOk k f.a }

/-- `lscl.set` (R194, R197): 0x0113 on a pair outside the limits. -/
def execLsclSet (f : Fields) (s : State) : Ans :=
  run lsclSetSpec (.lsclSet f) f
    (fun _ s =>
      let v := srcVal s.w.r f 19 f.a 0
      let a : Word := BitVec.ofNat 32 v
      let b : Word := BitVec.ofNat 32 (v / 2 ^ 32)
      if lsOk a b then .ok (s.withR fun r => { r with lsa := a, lsb := b }) none
      else .trap 0x0113 s.pc (BitVec.ofNat 64 v)) s

/-- The fields of `lscl.rdst`. -/
def lsclRdstSpec : Spec :=
  { lsclSpec 3 with useD := true, ok := fun k f => sregOk k 18 f.d }

/-- `lscl.rdst` (R170, R194). -/
def execLsclRdst (f : Fields) (s : State) : Ans :=
  run lsclRdstSpec (.lsclRdst f) f
    (fun slot s => .ok (s.result slot 1 (dstWr 18 f.d 0 s.w.r.nstat.toNat)) none) s

/-- The fields of `lscl.clrst`. -/
def lsclClrstSpec : Spec :=
  { lsclSpec 4 with useB := true, ok := fun k f => scalarOk k f f.b }

/-- `lscl.clrst` (R194): NSTAT[9:8] and NSTAT[4:0]. -/
def execLsclClrst (f : Fields) (s : State) : Ans :=
  run lsclClrstSpec (.lsclClrst f) f
    (fun _ s =>
      let b : Word := BitVec.ofNat 32 (src32 s.w.r f f.b 0)
      .ok (s.withR fun r => { r with nstat := r.nstat &&& ~~~ (b &&& 0x31F) }) none) s

/-- The fields of `lscl.mode`. -/
def lsclModeSpec : Spec :=
  { lsclSpec 5 with useB := true, ok := fun k f => scalarOk k f f.b }

/-- `lscl.mode` (R194). -/
def execLsclMode (f : Fields) (s : State) : Ans :=
  run lsclModeSpec (.lsclMode f) f
    (fun _ s =>
      let b : Word := BitVec.ofNat 32 (src32 s.w.r f f.b 0)
      .ok (s.withR fun r =>
        { r with nstat := (r.nstat &&& ~~~ 0x10000) ||| (if b.getLsbD 0 then 0x10000 else 0) }) none) s

end Sys2Proof.Machine
end

