-- ==== Sys2Proof/Machine/Spdm.lean ====
section
/-! DEFINITION. Attestation over the DOE mailbox (R382, R383 of spec/18_host_platform.md). The codes and the capability and algorithm
bits are those of SPDM 1.3 (log 7). -/

namespace Sys2Proof.Machine

/-- The device answers an SPDM request. -/
def State.spdmAnswer (s : State) (code : Nat) (words : List (BitVec 256)) (sig : Option (BitVec 3072)) : State :=
  { s with out := s.out ++ [.spdm code words sig] }

/-- An SPDM error response with an error code. -/
def State.spdmError (s : State) (code : Nat) : State := s.spdmAnswer 0x7F [BitVec.ofNat 256 code] none

/-- The bytes of the certificate chain. -/
def certificateChain : List Byte := (List.range Config.certificateLength).map Config.certificateByte

/-- The digest of the certificate chain. -/
def chainDigest : BitVec 256 := sha256 certificateChain

/-- Measurement 1, 2 or 3 (R382): an update replaces that of the firmware image. -/
def State.imageDigest (s : State) (n : Nat) : BitVec 256 :=
  match n, s.pkg.fwImage with | 2, some d => d | _, _ => Config.measurement n

/-- The manifest's bytes (R383): MAGIC is 0 for a context that does not exist. -/
def State.manifestBytes (s : State) : List Byte :=
  let n := s.pkg.manifest.getD 0xFFFF
  let c := s.pkg.manifest.bind s.ctx?
  (if c.isSome then [0x44, 0x4C, 0x4D, 0x46] else zeros 4) ++ natBytes 2 1 ++ zeros 2 ++ natBytes 4 n ++
    natBytes 4 (match c with | some c => c.gen.toNat | none => 0) ++ digestBytes (s.imageDigest 2) ++ digestBytes (s.imageDigest 3) ++
    natBytes 4 (s.pkg.cap.word 0x10) ++ natBytes 4 (match c with | some c => c.transRev.toNat | none => 0) ++
    natBytes 16 (match c with | some c => c.modes.toNat | none => 0) ++ zeros 152

/-- A measurement (R382): none for an index that names none. -/
def State.measure (s : State) (index : Nat) : Option (BitVec 256) :=
  if 1 ≤ index ∧ index ≤ 3 then some (s.imageDigest index)
  else if index = 4 then some (sha256 (natBytes 4 (s.pkg.cap.word 0x10)))
  else if index = 0x20 then some (sha256 s.manifestBytes)
  else none

/-- The manifest as 256-bit words, after its digest. -/
def State.manifestWords (s : State) : List (BitVec 256) :=
  (List.range 8).map fun i => BitVec.ofNat 256 (ofBytes ((s.manifestBytes.drop (32 * i)).take 32))

/-- The bytes of a 256-bit value. -/
def bytes256 (x : BitVec 256) : List Byte := natBytes 32 x.toNat

/-- Answer with a signature of the identity key over what was asked, the device's own nonce and what is answered. -/
def State.spdmSigned (s : State) (code : Nat) (nonce : BitVec 256) (words : List (BitVec 256)) : State :=
  let own : BitVec 256 := BitVec.ofNat 256 ((List.range 4).foldl (fun n i => n * 2 ^ 64 + (Config.freeDWord (s.free + i)).toNat) 0)
  let words := words ++ [own]
  let text := bytes256 nonce ++ words.flatMap bytes256
  ({ s with free := s.free + 4 }).spdmAnswer code words (some (Config.identitySignature (sha256 text)))

/-- `GET_VERSION` (R382): SPDM 1.3. -/
def execGetVersion (s : State) : Ans := .next (s.spdmAnswer 0x04 [0x1300] none)

/-- `GET_CAPABILITIES` (R382): certificates, challenges and signed measurements. -/
def execGetCapabilities (s : State) : Ans := .next (s.spdmAnswer 0x61 [0x16] none)

/-- `NEGOTIATE_ALGORITHMS` (R382): TPM_ALG_RSASSA_3072 and TPM_ALG_SHA_256. -/
def execNegotiateAlgorithms (s : State) : Ans := .next (s.spdmAnswer 0x63 [4, 1] none)

/-- `GET_DIGESTS` (R382). -/
def execGetDigests (s : State) : Ans := .next (s.spdmAnswer 0x01 [chainDigest] none)

/-- `GET_CERTIFICATE` (R382): a portion of the chain, one byte a word. -/
def execGetCertificate (offset size : Nat) (s : State) : Ans :=
  .next (if offset < Config.certificateLength then
      s.spdmAnswer 0x02 (((certificateChain.drop offset).take size).map fun b => b.setWidth 256) none
    else s.spdmError 0x01)

/-- `CHALLENGE` (R382). -/
def execChallenge (nonce : BitVec 256) (s : State) : Ans := .next (s.spdmSigned 0x03 nonce [chainDigest])

/-- `GET_MEASUREMENTS` (R382, R383): index 0 asks how many there are, 0xFF for them all. -/
def execGetMeasurements (index : Nat) (nonce : BitVec 256) (s : State) : Ans :=
  if index = 0 then .next (s.spdmSigned 0x60 nonce [5])
  else if index = 0xFF then .next (s.spdmSigned 0x60 nonce (([1, 2, 3, 4, 0x20].filterMap s.measure) ++ s.manifestWords))
  else match s.measure index with
  | none => .next (s.spdmError 0x01)
  | some d => .next (s.spdmSigned 0x60 nonce (d :: if index = 0x20 then s.manifestWords else []))

/-- `SPDM_UNSUPPORTED_REQUEST` (R382): key exchange and sessions are answered with UnsupportedRequest. -/
def execSpdmUnsupportedRequest (code : Byte) (s : State) : Ans := .next (s.spdmAnswer 0x7F [0x07, code.setWidth 256] none)

end Sys2Proof.Machine
end

