-- ==== Sys2Proof/Machine/Dispatch.lean ====
section
/-! DEFINITION. The meaning of each instruction and event, one arm each. -/

namespace Sys2Proof.Machine

/-- Run one instruction or event. -/
def exec (i : Instr) (s : State) : Host.Outcome State Fault Refusal :=
  match i with
  | .nop f => Sys2Proof.Machine.execNop f s
  | .endWave f => Sys2Proof.Machine.execEndWave f s
  | .br f => Sys2Proof.Machine.execBr f s
  | .bc f => Sys2Proof.Machine.execBc f s
  | .bu f => Sys2Proof.Machine.execBu f s
  | .call f => Sys2Proof.Machine.execCall f s
  | .ret f => Sys2Proof.Machine.execRet f s
  | .jtab f => Sys2Proof.Machine.execJtab f s
  | .loop f => Sys2Proof.Machine.execLoop f s
  | .loopEndAction w addr => Sys2Proof.Machine.execLoopEndAction w addr s
  | .brk f => Sys2Proof.Machine.execBrk f s
  | .full f => Sys2Proof.Machine.execFull f s
  | .endfull f => Sys2Proof.Machine.execEndfull f s
  | .armJoin w => Sys2Proof.Machine.execArmJoin w s
  | .divergencePop w => Sys2Proof.Machine.execDivergencePop w s
  | .yield f => Sys2Proof.Machine.execYield f s
  | .yieldExpiry w => Sys2Proof.Machine.execYieldExpiry w s
  | .cbr f => Sys2Proof.Machine.execCbr f s
  | .cmjoin f => Sys2Proof.Machine.execCmjoin f s
  | .cmleave f => Sys2Proof.Machine.execCmleave f s
  | .trap f => Sys2Proof.Machine.execTrap f s
  | .trapRd f => Sys2Proof.Machine.execTrapRd f s
  | .rteRetry f => Sys2Proof.Machine.execRteRetry f s
  | .rteSkip f => Sys2Proof.Machine.execRteSkip f s
  | .rteEnd f => Sys2Proof.Machine.execRteEnd f s
  | .rteTo f => Sys2Proof.Machine.execRteTo f s
  | .bkpt f => Sys2Proof.Machine.execBkpt f s
  | .halt f => Sys2Proof.Machine.execHalt f s
  | .sget f => Sys2Proof.Machine.execSget f s
  | .sset f => Sys2Proof.Machine.execSset f s
  | .waitFlag f => Sys2Proof.Machine.execWaitFlag f s
  | .add f => Sys2Proof.Machine.execAdd f s
  | .sub f => Sys2Proof.Machine.execSub f s
  | .mul f => Sys2Proof.Machine.execMul f s
  | .mulhi f => Sys2Proof.Machine.execMulhi f s
  | .mad f => Sys2Proof.Machine.execMad f s
  | .min f => Sys2Proof.Machine.execMin f s
  | .max f => Sys2Proof.Machine.execMax f s
  | .abs f => Sys2Proof.Machine.execAbs f s
  | .andB f => Sys2Proof.Machine.execAndB f s
  | .orB f => Sys2Proof.Machine.execOrB f s
  | .xorB f => Sys2Proof.Machine.execXorB f s
  | .notB f => Sys2Proof.Machine.execNotB f s
  | .shl f => Sys2Proof.Machine.execShl f s
  | .shr f => Sys2Proof.Machine.execShr f s
  | .sra f => Sys2Proof.Machine.execSra f s
  | .rot f => Sys2Proof.Machine.execRot f s
  | .clz f => Sys2Proof.Machine.execClz f s
  | .popc f => Sys2Proof.Machine.execPopc f s
  | .brev f => Sys2Proof.Machine.execBrev f s
  | .bfe f => Sys2Proof.Machine.execBfe f s
  | .bfi f => Sys2Proof.Machine.execBfi f s
  | .sel f => Sys2Proof.Machine.execSel f s
  | .cmp f => Sys2Proof.Machine.execCmp f s
  | .mov f => Sys2Proof.Machine.execMov f s
  | .movi f => Sys2Proof.Machine.execMovi f s
  | .lea f => Sys2Proof.Machine.execLea f s
  | .addw f => Sys2Proof.Machine.execAddw f s
  | .fadd f => Sys2Proof.Machine.execFadd f s
  | .fsub f => Sys2Proof.Machine.execFsub f s
  | .fmul f => Sys2Proof.Machine.execFmul f s
  | .ffma f => Sys2Proof.Machine.execFfma f s
  | .fmin f => Sys2Proof.Machine.execFmin f s
  | .fmax f => Sys2Proof.Machine.execFmax f s
  | .fcmp f => Sys2Proof.Machine.execFcmp f s
  | .fclass f => Sys2Proof.Machine.execFclass f s
  | .frnd f => Sys2Proof.Machine.execFrnd f s
  | .fdiv f => Sys2Proof.Machine.execFdiv f s
  | .fsqrt f => Sys2Proof.Machine.execFsqrt f s
  | .frcp f => Sys2Proof.Machine.execFrcp f s
  | .frsq f => Sys2Proof.Machine.execFrsq f s
  | .fexp2 f => Sys2Proof.Machine.execFexp2 f s
  | .flog2 f => Sys2Proof.Machine.execFlog2 f s
  | .fsin f => Sys2Proof.Machine.execFsin f s
  | .fcos f => Sys2Proof.Machine.execFcos f s
  | .cvt f => Sys2Proof.Machine.execCvt f s
  | .fscl f => Sys2Proof.Machine.execFscl f s
  | .vopt f => Sys2Proof.Machine.execVopt f s
  | .rngDraw f => Sys2Proof.Machine.execRngDraw f s
  | .rngSetc f => Sys2Proof.Machine.execRngSetc f s
  | .rngGetc f => Sys2Proof.Machine.execRngGetc f s
  | .vote f => Sys2Proof.Machine.execVote f s
  | .shfl f => Sys2Proof.Machine.execShfl f s
  | .wred f => Sys2Proof.Machine.execWred f s
  | .pset f => Sys2Proof.Machine.execPset f s
  | .pop f => Sys2Proof.Machine.execPop f s
  | .lsclStep f => Sys2Proof.Machine.execLsclStep f s
  | .lsclGet f => Sys2Proof.Machine.execLsclGet f s
  | .lsclSet f => Sys2Proof.Machine.execLsclSet f s
  | .lsclRdst f => Sys2Proof.Machine.execLsclRdst f s
  | .lsclClrst f => Sys2Proof.Machine.execLsclClrst f s
  | .lsclMode f => Sys2Proof.Machine.execLsclMode f s
  | .ld f => Sys2Proof.Machine.execLd f s
  | .st f => Sys2Proof.Machine.execSt f s
  | .ldsp f => Sys2Proof.Machine.execLdsp f s
  | .stsp f => Sys2Proof.Machine.execStsp f s
  | .ldlit f => Sys2Proof.Machine.execLdlit f s
  | .atom f => Sys2Proof.Machine.execAtom f s
  | .atomr f => Sys2Proof.Machine.execAtomr f s
  | .red f => Sys2Proof.Machine.execRed f s
  | .spatom f => Sys2Proof.Machine.execSpatom f s
  | .pf f => Sys2Proof.Machine.execPf f s
  | .cinv f => Sys2Proof.Machine.execCinv f s
  | .cinvSector f => Sys2Proof.Machine.execCinvSector f s
  | .cwb f => Sys2Proof.Machine.execCwb f s
  | .cwbInv f => Sys2Proof.Machine.execCwbInv f s
  | .cwbCtx f => Sys2Proof.Machine.execCwbCtx f s
  | .fence f => Sys2Proof.Machine.execFence f s
  | .bar f => Sys2Proof.Machine.execBar f s
  | .bara f => Sys2Proof.Machine.execBara f s
  | .barw f => Sys2Proof.Machine.execBarw f s
  | .barrierWordReread w => Sys2Proof.Machine.execBarrierWordReread w s
  | .cinit f => Sys2Proof.Machine.execCinit f s
  | .carr f => Sys2Proof.Machine.execCarr f s
  | .cexp f => Sys2Proof.Machine.execCexp f s
  | .cwait f => Sys2Proof.Machine.execCwait f s
  | .ctest f => Sys2Proof.Machine.execCtest f s
  | .cpy f => Sys2Proof.Machine.execCpy f s
  | .cpys f => Sys2Proof.Machine.execCpys f s
  | .cpym f => Sys2Proof.Machine.execCpym f s
  | .copyProgress id => Sys2Proof.Machine.execCopyProgress id s
  | .qclaim f => Sys2Proof.Machine.execQclaim f s
  | .qpost f => Sys2Proof.Machine.execQpost f s
  | .accld f => Sys2Proof.Machine.execAccld f s
  | .accst f => Sys2Proof.Machine.execAccst f s
  | .aread f => Sys2Proof.Machine.execAread f s
  | .awrite f => Sys2Proof.Machine.execAwrite f s
  | .mzero f => Sys2Proof.Machine.execMzero f s
  | .claimGrant core => Sys2Proof.Machine.execClaimGrant core s
  | .mfmt f => Sys2Proof.Machine.execMfmt f s
  | .mrdy f => Sys2Proof.Machine.execMrdy f s
  | .mbank f => Sys2Proof.Machine.execMbank f s
  | .mloop f => Sys2Proof.Machine.execMloop f s
  | .mloopStep core => Sys2Proof.Machine.execMloopStep core s
  | .mdrn f => Sys2Proof.Machine.execMdrn f s
  | .mdrnn f => Sys2Proof.Machine.execMdrnn f s
  | .mstat f => Sys2Proof.Machine.execMstat f s
  | .gbind f => Sys2Proof.Machine.execGbind f s
  | .gbindUnbind f => Sys2Proof.Machine.execGbindUnbind f s
  | .gld f => Sys2Proof.Machine.execGld f s
  | .gsc f => Sys2Proof.Machine.execGsc f s
  | .ghash f => Sys2Proof.Machine.execGhash f s
  | .latticeGroupLevel id => Sys2Proof.Machine.execLatticeGroupLevel id s
  | .ctb f => Sys2Proof.Machine.execCtb f s
  | .ctbn f => Sys2Proof.Machine.execCtbn f s
  | .ropen f => Sys2Proof.Machine.execRopen f s
  | .rclose f => Sys2Proof.Machine.execRclose f s
  | .rstat f => Sys2Proof.Machine.execRstat f s
  | .coll f => Sys2Proof.Machine.execColl f s
  | .collx f => Sys2Proof.Machine.execCollx f s
  | .csave f => Sys2Proof.Machine.execCsave f s
  | .crest f => Sys2Proof.Machine.execCrest f s
  | .tlbiVa f => Sys2Proof.Machine.execTlbiVa f s
  | .tlbiCtx f => Sys2Proof.Machine.execTlbiCtx f s
  | .tlbiAll f => Sys2Proof.Machine.execTlbiAll f s
  | .invalidationComplete id => Sys2Proof.Machine.execInvalidationComplete id s
  | .pmsetBudget f => Sys2Proof.Machine.execPmsetBudget f s
  | .pmsetRead f => Sys2Proof.Machine.execPmsetRead f s
  | .esig f => Sys2Proof.Machine.execEsig f s
  | .allZeroWord => Sys2Proof.Machine.execAllZeroWord s
  | .reservedOp word => Sys2Proof.Machine.execReservedOp word s
  | .operationRetire w flag => Sys2Proof.Machine.execOperationRetire w flag s
  | .pageWalk id => Sys2Proof.Machine.execPageWalk id s
  | .homeSliceAccess id => Sys2Proof.Machine.execHomeSliceAccess id s
  | .l2SectorFill id => Sys2Proof.Machine.execL2SectorFill id s
  | .kettleAccess id uncorrectable => Sys2Proof.Machine.execKettleAccess id uncorrectable s
  | .watchSignal queue => Sys2Proof.Machine.execWatchSignal queue s
  | .scratchpadArrayAccess id => Sys2Proof.Machine.execScratchpadArrayAccess id s
  | .peerRequestArrival r => Sys2Proof.Machine.execPeerRequestArrival r s
  | .promotionRequest id => Sys2Proof.Machine.execPromotionRequest id s
  | .promotionReply id => Sys2Proof.Machine.execPromotionReply id s
  | .scFenceMessage id src => Sys2Proof.Machine.execScFenceMessage id src s
  | .cxlMemAccess decoder addr size write => Sys2Proof.Machine.execCxlMemAccess decoder addr size write s
  | .backInvalidateResponse id => Sys2Proof.Machine.execBackInvalidateResponse id s
  | .hostSnoop addr write => Sys2Proof.Machine.execHostSnoop addr write s
  | .hostOwnershipGranted id => Sys2Proof.Machine.execHostOwnershipGranted id s
  | .nonhomeArrival buf p => Sys2Proof.Machine.execNonhomeArrival buf p s
  | .holdTimeExpiry buf p => Sys2Proof.Machine.execHoldTimeExpiry buf p s
  | .homePartialArrival slice p => Sys2Proof.Machine.execHomePartialArrival slice p s
  | .closeArrival slice ctx idx oseq => Sys2Proof.Machine.execCloseArrival slice ctx idx oseq s
  | .flitReceive port lane crcOk dst m => Sys2Proof.Machine.execFlitReceive port lane crcOk dst m s
  | .laneRetrain port => Sys2Proof.Machine.execLaneRetrain port s
  | .portDown port => Sys2Proof.Machine.execPortDown port s
  | .collStartMessage ctx comm inst src g => Sys2Proof.Machine.execCollStartMessage ctx comm inst src g s
  | .nimbusChunk ctx comm inst => Sys2Proof.Machine.execNimbusChunk ctx comm inst s
  | .collAbort ctx comm inst code => Sys2Proof.Machine.execCollAbort ctx comm inst code s
  | .voteArrival r inst m v => Sys2Proof.Machine.execVoteArrival r inst m v s
  | .joinArrival r m => Sys2Proof.Machine.execJoinArrival r m s
  | .leaveArrival r m => Sys2Proof.Machine.execLeaveArrival r m s
  | .outcomeArrival w => Sys2Proof.Machine.execOutcomeArrival w s
  | .setHomeUnreachable r => Sys2Proof.Machine.execSetHomeUnreachable r s
  | .slotTake queue => Sys2Proof.Machine.execSlotTake queue s
  | .slotReread queue => Sys2Proof.Machine.execSlotReread queue s
  | .queueAccessRetry queue => Sys2Proof.Machine.execQueueAccessRetry queue s
  | .nopPacket queue slot => Sys2Proof.Machine.execNopPacket queue slot s
  | .launchPacket queue slot => Sys2Proof.Machine.execLaunchPacket queue slot s
  | .launchAdmit key => Sys2Proof.Machine.execLaunchAdmit key s
  | .startBarrierArrival key chip stamp => Sys2Proof.Machine.execStartBarrierArrival key chip stamp s
  | .barrierTimeout key => Sys2Proof.Machine.execBarrierTimeout key s
  | .copyPacket queue slot => Sys2Proof.Machine.execCopyPacket queue slot s
  | .graphPacket queue slot => Sys2Proof.Machine.execGraphPacket queue slot s
  | .waitPacket queue slot => Sys2Proof.Machine.execWaitPacket queue slot s
  | .waitPacketReread queue slot => Sys2Proof.Machine.execWaitPacketReread queue slot s
  | .signalPacket queue slot => Sys2Proof.Machine.execSignalPacket queue slot s
  | .collPacket queue slot => Sys2Proof.Machine.execCollPacket queue slot s
  | .packetComplete queue slot => Sys2Proof.Machine.execPacketComplete queue slot s
  | .teamAdmission key core => Sys2Proof.Machine.execTeamAdmission key core s
  | .coresidentAdmission key => Sys2Proof.Machine.execCoresidentAdmission key s
  | .admissionWaitExpiry key => Sys2Proof.Machine.execAdmissionWaitExpiry key s
  | .teamRelease team => Sys2Proof.Machine.execTeamRelease team s
  | .launchRetire key => Sys2Proof.Machine.execLaunchRetire key s
  | .retireReport key chip => Sys2Proof.Machine.execRetireReport key chip s
  | .graphNodeStart graph node => Sys2Proof.Machine.execGraphNodeStart graph node s
  | .trapTake w code addr detail => Sys2Proof.Machine.execTrapTake w code addr detail s
  | .saveMicrocode ctx => Sys2Proof.Machine.execSaveMicrocode ctx s
  | .restoreBarrier ctx chip stamp => Sys2Proof.Machine.execRestoreBarrier ctx chip stamp s
  | .budgetLower core budget => Sys2Proof.Machine.execBudgetLower core budget s
  | .budgetRaise core budget => Sys2Proof.Machine.execBudgetRaise core budget s
  | .thermalTrip => Sys2Proof.Machine.execThermalTrip s
  | .powerStageFault => Sys2Proof.Machine.execPowerStageFault s
  | .powerOnReset => Sys2Proof.Machine.execPowerOnReset s
  | .hotReset => Sys2Proof.Machine.execHotReset s
  | .flr => Sys2Proof.Machine.execFlr s
  | .watchdog => Sys2Proof.Machine.execWatchdog s
  | .mmioWrite addr size val => Sys2Proof.Machine.execMmioWrite addr size val s
  | .l2tenmaskWrite slice mask1 mask0 => Sys2Proof.Machine.execL2tenmaskWrite slice mask1 mask0 s
  | .pairlimWrite slice lim => Sys2Proof.Machine.execPairlimWrite slice lim s
  | .cpairctlBypassWrite core bypass => Sys2Proof.Machine.execCpairctlBypassWrite core bypass s
  | .portBypassWrite port bypass => Sys2Proof.Machine.execPortBypassWrite port bypass s
  | .portEnableWrite port enable => Sys2Proof.Machine.execPortEnableWrite port enable s
  | .cpwrctlBudgetWrite core budget => Sys2Proof.Machine.execCpwrctlBudgetWrite core budget s
  | .resetcauseClear mask => Sys2Proof.Machine.execResetcauseClear mask s
  | .errpendClear => Sys2Proof.Machine.execErrpendClear s
  | .ctxCreate => Sys2Proof.Machine.execCtxCreate s
  | .ctxDestroy => Sys2Proof.Machine.execCtxDestroy s
  | .queueReg => Sys2Proof.Machine.execQueueReg s
  | .queueUnreg => Sys2Proof.Machine.execQueueUnreg s
  | .queueUnregComplete queue => Sys2Proof.Machine.execQueueUnregComplete queue s
  | .keyLoad => Sys2Proof.Machine.execKeyLoad s
  | .keyRetire => Sys2Proof.Machine.execKeyRetire s
  | .hdmBind => Sys2Proof.Machine.execHdmBind s
  | .preempt => Sys2Proof.Machine.execPreempt s
  | .restore => Sys2Proof.Machine.execRestore s
  | .cancel => Sys2Proof.Machine.execCancel s
  | .resume => Sys2Proof.Machine.execResume s
  | .routeSet => Sys2Proof.Machine.execRouteSet s
  | .commSet => Sys2Proof.Machine.execCommSet s
  | .bartmoSet => Sys2Proof.Machine.execBartmoSet s
  | .ringPlace => Sys2Proof.Machine.execRingPlace s
  | .dumpRead => Sys2Proof.Machine.execDumpRead s
  | .fwUpdate => Sys2Proof.Machine.execFwUpdate s
  | .manifestSelect => Sys2Proof.Machine.execManifestSelect s
  | .jobCommandForward cmd args => Sys2Proof.Machine.execJobCommandForward cmd args s
  | .getVersion => Sys2Proof.Machine.execGetVersion s
  | .getCapabilities => Sys2Proof.Machine.execGetCapabilities s
  | .negotiateAlgorithms => Sys2Proof.Machine.execNegotiateAlgorithms s
  | .getDigests => Sys2Proof.Machine.execGetDigests s
  | .getCertificate offset size => Sys2Proof.Machine.execGetCertificate offset size s
  | .challenge nonce => Sys2Proof.Machine.execChallenge nonce s
  | .getMeasurements index nonce => Sys2Proof.Machine.execGetMeasurements index nonce s
  | .spdmUnsupportedRequest code => Sys2Proof.Machine.execSpdmUnsupportedRequest code s
  | .i3cAccess reg write => Sys2Proof.Machine.execI3cAccess reg write s
  | .managementReset => Sys2Proof.Machine.execManagementReset s
  | .hostTlbInvalidation ctx va => Sys2Proof.Machine.execHostTlbInvalidation ctx va s
  | .hostLinkTraining lanes rate => Sys2Proof.Machine.execHostLinkTraining lanes rate s
  | .hostLinkDown => Sys2Proof.Machine.execHostLinkDown s
  | .fedeuxPortUp port lanes peer => Sys2Proof.Machine.execFedeuxPortUp port lanes peer s
  | .jobCommandReport ctx chip => Sys2Proof.Machine.execJobCommandReport ctx chip s

end Sys2Proof.Machine
end

