-- ==== Sys2Proof/Machine/Dump.lean ====
section
/-! DEFINITION. Soft errors of storage (R104, R148, R152, R362) and the fatal dump (R372, R373 of spec/17_faults.md). -/

namespace Sys2Proof.Machine

/-! ### Soft errors -/

/-- An L2 sector with a double-bit error: a clean one is invalidated, a dirty one poisoned (R104). -/
def State.upsetSector (s : State) (sec : Nat) : State :=
  match s.m.l2Find (sec * 256) with
  | none => s
  | some l =>
    if !l.valid.getLsbD (sec % 4) then s
    else if l.dirty.getLsbD (sec % 4) then s.withM fun m => m.poisonSector (sec * 256)
    else s.withM fun m => m.l2Lose (sec * 256)

/-- A pairing-buffer entry with a double-bit error aborts its object, its record naming the spill sector (R104, R117). -/
def State.upsetEntry (s : State) (slice n : Nat) : State :=
  match (s.homeBuf slice).entries.drop n with
  | [] => s
  | p :: _ => match s.robj? p.ctx p.idx with
    | none => s
    | some o => s.abortObj p.ctx p.idx p.launch 0x0511 (o.sectorOf p) (BitVec.ofNat 64 p.elem)

/-- The error counts, changed. -/
def State.countEcc (s : State) (f : EccCounts → EccCounts) : State := { s with pkg := { s.pkg with ecc := f s.pkg.ecc } }

/-- A corrected error is counted and raises no record (R76, R104, R148, R152). -/
def EccCounts.add (c : EccCounts) : EccUnit → EccCounts
  | .hbm => { c with hbm := c.hbm + 1 }
  | .l2 => { c with l2 := c.l2 + 1 }
  | .sp => { c with sp := c.sp + 1 }
  | .regs => { c with regs := c.regs + 1 }

/-- A soft error strikes. A parity error invalidates an L1 sector or an instruction-cache line, so that the next access goes to the L2, and
is counted (R151); it strikes nothing where the cache holds nothing. -/
def State.upset (s : State) : Upset → State
  | .l1Sector core pa =>
    if s.m.l1.any fun l => l.core == core && l.line == lineOf pa && l.sectors.any fun x => x.1 == pa / 256 % 4 then
      (s.withM fun m => m.l1Drop core pa).countEcc fun c => { c with l1 := c.l1 + 1 }
    else s
  | .icacheLine core block =>
    let hit (x : IBlock) : Bool := x.core == core && x.block == block
    if s.m.icache.any hit then
      (s.withM fun m => { m with icache := m.icache.filter fun x => !hit x }).countEcc fun c => { c with icache := c.icache + 1 }
    else s
  | .corrected unit => s.countEcc fun c => c.add unit
  | .spWord core word => s.withM fun m => if m.spPoison.contains (core * 2 ^ 16 + word) then m else { m with spPoison := (core * 2 ^ 16 + word) :: m.spPoison }
  | .register wave key => s.mapWave wave fun w => { w with r := { w.r with bad := if w.r.bad.contains key then w.r.bad else key :: w.r.bad } }
  | .l2Sector sec => s.upsetSector sec
  | .pairing slice n => s.upsetEntry slice n
  | .storage => let r := s.bareRecord 8 0x0520 s.openAddr s.openDetail; let (n, s) := s.record r; s.noteFatal r n

/-! ### The dump (R373) -/

/-- A size rounded up to a multiple of 256. -/
def up256 (n : Nat) : Nat := (n + 255) / 256 * 256

/-- The bytes rounded up with zeros. -/
def padded (bs : List Byte) : List Byte := bs ++ List.replicate (up256 bs.length - bs.length) 0

/-- Uncorrectable words read 0 in a dump. -/
def State.cleared (s : State) : State :=
  let s := s.withM fun m => { m with sp := m.spPoison.foldl (fun c x => csetMany 0 c (8 * x) (List.replicate 8 0)) m.sp }
  s.mapWaves fun w => { w with r := { w.r with
      v := (w.r.bad.filter (· < 2 ^ 20)).foldl (fun c k => cset 0 0 c k) w.r.v,
      s := (w.r.bad.filter (· ≥ 2 ^ 20)).foldl (fun c k => cset 0 0 c (k - 2 ^ 20)) w.r.s } }

/-- A team's image section. -/
def State.teamSection (s : State) (t : Team) : Section :=
  let lo := (t.core * 2 ^ 19 + t.base) / 8
  let bad := (s.m.spPoison.any fun x => decide (lo ≤ x ∧ x < lo + t.k.scratch / 8)) || (s.teamWaves t.uid).any fun w => !w.r.bad.isEmpty
  { kind := 4, bad := bad, index := t.core, bytes := s.cleared.imageBytes (s.cleared.teamImage t 0 false) }

/-- The package ring's section, header and records, an uncorrectable sector as zeros; absent while no ring is placed. -/
def State.ringSection (s : State) : List Section :=
  match s.pkg.pkgRing with
  | none => []
  | some base =>
    let n := 0x40 + 64 * 2 ^ (s.readPa 0 (base + 0x10) 8 % 32)
    let lost (i : Nat) : Bool := s.m.poison.contains (sectorOf (base + i))
    [{ kind := 2, bad := s.m.poisoned base n, index := 0, bytes := (s.m.bytes s.free 0 base n).zipIdx.map fun (b, i) => if lost i then 0 else b }]

/-- A context's progress in its collectives and membership sets. -/
def progressCodec : Codec (List Coll × List (Nat × Word) × List (Nat × Nat) × List SetHome × List Outc) :=
  .and (.list Coll.codec) (.and (.list (.and .nat (.bv 32))) (.and (.list (.and .nat .nat)) (.and (.list SetHome.codec) (.list Outc.codec))))

/-- A context's sections: its descriptor and tables, and its progress (log 13). -/
def Ctx.sections (c : Ctx) : List Section :=
  let tables := { c with colls := [], collNext := [], collServed := [], setHomes := [], outcomes := [] }
  [{ kind := 3, bad := false, index := c.ctx, bytes := Ctx.codec.bytes tables },
   { kind := 7, bad := false, index := c.ctx, bytes := progressCodec.bytes (c.colls, c.collNext, c.collServed, c.setHomes, c.outcomes) }]

/-- The sections of a dump (R373). -/
def State.sections (s : State) : List Section :=
  let mmio := (List.range 0x2000).flatMap fun i => natBytes 4 (s.mmioWord (4 * i))
  { kind := 1, bad := false, index := 0, bytes := mmio } :: s.ringSection ++ s.ctxs.flatMap Ctx.sections ++ s.teams.map s.teamSection ++
    (s.homes.map fun h => { kind := 5, bad := false, index := h.slice, bytes := HomeBuf.codec.bytes h }) ++
    s.ports.map fun p => { kind := 6, bad := false, index := p.1, bytes := (Codec.list Waiting.codec).bytes p.2.buf }

/-- Entries of the section table, each section's offset following from those before it. -/
def sectionTable : Nat → List Section → List Byte
  | _, [] => []
  | off, x :: rest =>
    natBytes 4 (x.kind + if x.bad then 2 ^ 31 else 0) ++ natBytes 4 x.index ++ natBytes 8 off ++ natBytes 8 x.bytes.length ++
      natBytes 4 (crc32 x.bytes).toNat ++ natBytes 4 0 ++ sectionTable (off + up256 x.bytes.length) rest

/-- Where the sections begin. -/
def Dump.first (d : Dump) : Nat := 256 + up256 (32 * d.sections.length)

/-- The sections written, and the bytes of a dump up to the last of them. -/
def Dump.done (d : Dump) : List Section := d.sections.take d.written
def Dump.size (d : Dump) : Nat := d.done.foldl (fun n x => n + up256 x.bytes.length) d.first

/-- Header and section table of a dump as far as it is written (R373). -/
def Dump.head (d : Dump) (cause : Word) : List Byte :=
  let header := ([0x44, 0x4C, 0x44, 0x50, 1, 0, 0, 0] : List Byte) ++ natBytes 4 d.seqNo.toNat ++ natBytes 4 d.written ++ natBytes 8 d.time ++
    natBytes 8 d.size ++ d.words.flatMap (fun w => natBytes 8 w.toNat) ++ natBytes 4 cause.toNat
  padded header ++ fitted (up256 (32 * d.sections.length)) (sectionTable d.first d.done)

/-- Write the header and table as they now stand. -/
def State.putDump (s : State) (d : Dump) : State :=
  let s := { s with pkg := { s.pkg with dumping := some d, dump := d.size } }
  s.sysStore s.dumpPa (d.head s.pkg.resetCause)

/-- The steps of R372: stop every context, and once each team is quiet write the dump, section by section; then, or at a second failure,
reset. None where nothing can be done yet. -/
def State.fatalStep (s : State) : Option State :=
  match s.pkg.fatal with
  | none => none
  | some (words, seqNo) =>
    if s.ctxs.any fun c => !c.stopped then some ((s.ctxs.map (·.ctx)).foldl State.stopCtx s)
    else match s.pkg.dumping with
    | none => if s.teams.all s.teamQuiet then
        some (s.putDump { words := words, seqNo := seqNo, time := s.clock, sections := s.sections, written := 0, halted := false }) else none
    | some d => match d.halted, d.sections.drop d.written with
      | false, x :: _ => some ((s.sysStore (s.dumpPa + d.size) (padded x.bytes)).putDump { d with written := d.written + 1 })
      | _, _ => some (s.resetPackage 4)

end Sys2Proof.Machine
end

