-- ==== Sys2Proof/Machine/Sched.lean ====
section
/-! DEFINITION. What the package does next (log 5): the events that are due, in one order of the many the spec allows, then the issue of
an instruction (R17, R18, R293, R308), else a clock passes. -/

namespace Sys2Proof.Machine

/-! ### Events of waves -/

/-- A set's home is lost to a wave that waits for it (R326). -/
def State.lostSet (s : State) (w : Wave) : Option SetRef :=
  let waits := (w.ops.filterMap fun o => if o.fin then none else o.memb.map (·.1)) ++ w.ahead.toList.map (·.set)
  (waits.map w.setRef).find? fun r => !s.routed (s.setHome r)

/-- The outcome a wave runs ahead of is known, or lost (R324, R325). -/
def State.outcomeDue (s : State) (w : Wave) : Bool :=
  match w.ahead with
  | none => false
  | some a => (s.outcome? (w.setRef a.set) a.inst).isSome || s.outcomeLost (w.setRef a.set) a.inst

/-- The arms are to join, or one stands at the join as it may not (R310). -/
def Ctl.joinDue (c : Ctl) : Bool :=
  match c.arms with
  | none => false
  | some (t, n) => c.openFull t || c.openFull n || (c.parkedArm t && c.parkedArm n)

/-- The event of a wave that is due: a cancel first (R353), then retirements, then what its boundary asks for. -/
def State.waveDue (s : State) (w : Wave) : Option Instr :=
  let a := w.r.ctl.arm
  if w.uid = 0 then none
  else if w.cancel.isSome ∧ w.status ≠ .ended ∧ w.preempted = false then
    some (.trapTake w.uid 0x0630 0 (match w.cancel with | some (r, _) => r.detail | none => 0))
  else match w.nextRetire with
  | some fl => some (.operationRetire w.uid fl)
  | none =>
    if s.outcomeDue w && !w.preempted then some (.outcomeArrival w.uid)
    else match s.lostSet w with
    | some r => some (.setHomeUnreachable r)
    | none =>
      if w.notBefore ≠ 0 ∧ w.notBefore ≤ s.clock / 4 then some (.yieldExpiry w.uid)
      else if !w.atBoundary then none
      else if a.endsNow then some (.loopEndAction w.uid (a.done.getD 0))
      else if a.popsNow then some (.divergencePop w.uid)
      else if w.r.ctl.joinDue then some (.armJoin w.uid)
      else none

/-! ### Events of memory -/

/-- The event of an access that is due. What waits for the host waits for the host. -/
def State.accDue (s : State) (a : Acc) : Option Instr :=
  match a.stage with
  | .port => if s.mayLeave a then some (if a.sp then .scratchpadArrayAccess a.id else .homeSliceAccess a.id) else none
  | .fwd => if a.peer.isNone then some (.kettleAccess a.id false) else none
  | .fill => some (.l2SectorFill a.id)
  | _ => none

/-- The event of a promotion that is due (R336). -/
def State.promoDue (s : State) (q : PromoReq) : Option Instr :=
  if !q.asked then some (.promotionRequest q.id) else if s.promoReady q then some (.promotionReply q.id) else none

/-- The event of an invalidation that is due (R94): it begins, or it completes. -/
def State.invDue (s : State) (x : Inv) : Option Instr :=
  if s.invReady x && (!x.began || s.invDone x) then some (.invalidationComplete x.id) else none

/-- What comes next from the mesh arrives (R112, R113, R244). -/
def State.meshDue (s : State) : Option Instr :=
  (s.fromMesh fun _ => true).map fun x => match x.1 with
  | .part n p _ => if p.dst = s.pkg.chipNo then .homePartialArrival n p else .nonhomeArrival (.port (s.portTo p.dst)) p
  | .closeOut dst ctx idx oseq _ _ => .closeArrival (128 + dst) ctx idx oseq
  | .close n ctx idx oseq _ _ _ => .closeArrival n ctx idx oseq

/-- An entry of a non-home buffer has waited its hold time (R112). -/
def State.holdDue (s : State) : Option Instr :=
  let buf (b : BufRef) (ws : List Waiting) : Option Instr :=
    (ws.find? fun w => decide (s.clock ≥ w.since + b.limits.2)).map fun w => .holdTimeExpiry b w.part
  (s.coreBuf.findSome? fun x => buf (.core x.1) x.2) <|> s.ports.findSome? fun x => buf (.port x.1) x.2.buf

/-! ### Events of engines -/

/-- The context of a team is stopped or gone. -/
def State.teamStopped (s : State) (team : Nat) : Bool :=
  match s.team? team with
  | none => false
  | some t => match s.ctx? t.ctx with | some c => c.stopped | none => false

/-- The event of a core's matrix engine that is due (R209, R210). -/
def State.engineDue (s : State) (core : Nat) (e : Engine) : Option Instr :=
  match e.claim, e.pending with
  | none, q :: _ => if s.teamStopped q.team then none else some (.claimGrant core)
  | some q, _ => if e.ready && !s.teamStopped q.team then some (.mloopStep core) else none
  | none, [] => none

/-- The instances with a chunk ready: context, instance, PRIO and when their communicator was last served (R270). -/
def State.collsReady (s : State) : List (Nat × Coll × Nat × Nat) :=
  s.ctxs.flatMap fun cx => if s.ctxHeld cx.ctx then [] else cx.colls.filterMap fun x =>
    match x.desc, s.comm? cx.ctx x.comm with
    | some d, some c => if s.collNextStep cx.ctx x d c = .wait then none else some (cx.ctx, x, c.prio, (lookup cx.collServed x.comm).getD 0)
    | _, _ => none

/-- The event of the instance whose chunk comes next: the highest PRIO, then the communicator served longest ago (R270). -/
def State.collDue (s : State) : Option Instr :=
  (leastBy (fun y => (7 - y.2.2.1) * 2 ^ 64 + y.2.2.2) s.collsReady).map fun y => .nimbusChunk y.1 y.2.1.comm y.2.1.inst

/-- The event of the engines that is due. -/
def State.enginesDue (s : State) : Option Instr :=
  ((s.copies.find? fun c => !s.copyWaits c).map fun c => .copyProgress c.id) <|>
  ((s.lattices.find? fun x => !s.latWaits x).map fun x => .latticeGroupLevel x.id) <|>
  (s.engines.findSome? fun e => s.engineDue e.1 e.2) <|>
  s.collDue

/-! ### Events of the dispatch processor -/

/-- The event by which a packet begins or leaves its queue (R124, R128). -/
def State.packetDue (s : State) (q : Queue) (p : Packet) : Option Instr :=
  if p.stage ≥ 2 then some (.packetComplete q.num p.slot)
  else if !s.mayBegin q p then none
  else match p.type with
  | 0 => some (.nopPacket q.num p.slot)
  | 1 => if s.placeFor q.prio then some (.launchPacket q.num p.slot) else none
  | 2 => some (.copyPacket q.num p.slot)
  | 3 => if p.phase ≤ (match s.ctx? q.ctx with | some c => c.cur | none => 0) then some (.graphPacket q.num p.slot) else none
  | 4 => some (.waitPacket q.num p.slot)
  | 5 => some (.signalPacket q.num p.slot)
  | _ => some (.collPacket q.num p.slot)

/-- The event of a queue that is due (R126). -/
def State.queueDue (s : State) (q : Queue) : Option Instr :=
  if q.signalled then some (.watchSignal q.num)
  else if q.open && q.looking && q.reread.isNone && q.fault.isNone then some (.slotTake q.num)
  else match q.packets.findSome? fun p => s.packetDue q p with
  | some i => some i
  | none => if s.unregDone q then some (.queueUnregComplete q.num) else none

/-- Queues in the order they are served: strict PRIO, then round robin (R126). -/
def serveOrder : List Queue → List Queue
  | [] => []
  | q :: rest =>
    let before (x y : Queue) : Bool := decide (x.prio > y.prio) || (x.prio == y.prio && decide (x.served < y.served))
    let sorted := serveOrder rest
    (sorted.takeWhile fun x => before x q) ++ q :: sorted.dropWhile fun x => before x q

/-- The event of a launch that is due (R263, R264, R279, R283, R291, R292). -/
def State.launchDue (s : State) (l : Launch) : Option Instr :=
  if l.stage = 0 ∧ l.k = none ∧ l.index < l.chips.length ∧ s.ctxHeld l.ctx = false ∧ s.hasPlace l then some (.launchAdmit l.key)
  else if l.stage = 0 ∧ l.key.chip = s.pkg.chipNo ∧ s.clock ≥ l.since + s.pkg.barTmo * 1900000 then some (.barrierTimeout l.key)
  else if l.over then some (.launchRetire l.key)
  else if !s.waiting l then none
  else if !l.overdue && decide (s.clock ≥ l.since + 65536) then some (.admissionWaitExpiry l.key)
  else
    let weighs := !l.overWeight && (s.noteOverweight l).launches != s.launches
    if l.coresident then
      if !s.mayPlace l then none
      else if weighs || (State.admitAll l.key l.left s).isSome then some (.coresidentAdmission l.key) else none
    else if !s.mayAdmit l then none
    else match l.k with
    | none => none
    | some k => match (List.range 256).find? fun c => (s.fits k c).isSome with
      | some c => some (.teamAdmission l.key c)
      | none => if weighs then some (.teamAdmission l.key 0) else none

/-- The node of a graph that may start (R281, R289). -/
def State.nodeDue (s : State) (g : Graph) : Option Instr :=
  if s.placeFor (s.graphPrio g) = false ∨ s.ctxHeld g.ctx then none
  else ((List.range g.nodes.length).find? fun n => g.nodeReady n).map fun n => .graphNodeStart g.id n

/-- The event of queues and graphs that comes first: a ready node waits for no packet of a lower queue priority (R126, R285). -/
def State.workDue (s : State) : Option Instr :=
  let node := leastBy (fun y => 255 - y.1) (s.graphs.filterMap fun g => (s.nodeDue g).map fun i => (s.graphPrio g, i))
  let packet := (serveOrder s.queues).findSome? fun q => (s.queueDue q).map fun i => (q.prio, i)
  match packet, node with
  | some p, some n => some (if n.1 > p.1 then n.2 else p.2)
  | some p, none => some p.2
  | none, some n => some n.2
  | none, none => none

/-- The teams of a stopped context can be saved (R363). -/
def State.saveDue (s : State) (c : Ctx) : Bool :=
  s.pkg.fatal.isNone && s.savable c

/-- The event of the dispatch processor that is due. -/
def State.dispatchDue (s : State) : Option Instr :=
  ((s.teams.find? s.mayRelease).map fun t => .teamRelease t.uid) <|>
  s.workDue <|>
  (s.launches.findSome? s.launchDue) <|>
  (s.ctxs.find? s.saveDue).map fun c => .saveMicrocode c.ctx

/-- The mailbox command in progress, not yet carried out (R380). -/
def mailboxEvent (cmd : Nat) : Option Instr :=
  match cmd with
  | 0x01 => some .ctxCreate | 0x02 => some .ctxDestroy | 0x03 => some .queueReg | 0x04 => some .queueUnreg
  | 0x10 => some .keyLoad | 0x11 => some .keyRetire | 0x12 => some .hdmBind | 0x20 => some .preempt | 0x21 => some .restore
  | 0x22 => some .cancel | 0x23 => some .resume | 0x30 => some .routeSet | 0x31 => some .commSet | 0x32 => some .bartmoSet
  | 0x40 => some .ringPlace | 0x41 => some .dumpRead | 0x50 => some .fwUpdate | 0x51 => some .manifestSelect
  | _ => none

/-- The event of the mailbox and the ports that is due. -/
def State.packageDue (s : State) : Option Instr :=
  (match s.inbox with | m :: _ => some (.flitReceive 16 0 true s.pkg.chipNo m) | [] => none) <|>
  (if s.pkg.mbBusy && s.pkg.mbWaits.isEmpty then mailboxEvent s.pkg.mbCmd.toNat else none) <|>
  (s.ports.find? fun p => s.portUp p.1 && p.2.fails.any fun x => x.2 == 16).map fun p => .laneRetrain p.1

/-- The event that is due. -/
def State.due (s : State) : Option Instr :=
  (s.waves.findSome? s.waveDue) <|> (s.m.port.findSome? s.accDue) <|> ((s.m.walks.head?).map fun x => .pageWalk x.id) <|>
  (s.m.promoReqs.findSome? s.promoDue) <|> (s.m.invs.findSome? s.invDue) <|> s.meshDue <|> s.packageDue <|> s.enginesDue <|>
  s.dispatchDue <|> s.holdDue

/-! ### What is looked at again from time to time -/

/-- The events by which what waits for a word of memory looks again (R126, R128, R346, R414). -/
def State.polls (s : State) : List Instr :=
  (s.queues.flatMap fun q =>
    (if q.fault.isSome && !q.stopped then [.queueAccessRetry q.num] else if q.open && q.looking && q.reread.isSome then [.slotReread q.num] else []) ++
    (q.packets.filter fun p => p.type == 4 && p.stage == 1).map fun p => .waitPacketReread q.num p.slot) ++
  (s.waves.filter fun w => !w.preempted && match w.status with | .sleepWord _ _ op _ => !(s.m.port.any fun a => a.op == op) | _ => false).map
    fun w => .barrierWordReread w.uid

/-! ### The step of a wave (R17, R18, R293, R308) -/

/-- DIST of the instruction at an arm's pc (R20): 0 where none can be read there yet, and the arm issues to find out. -/
def State.distAt (s : State) (w : Wave) (a : Arm) : Nat :=
  match ({ s with w := { w with r := { w.r with ctl := { w.r.ctl with arm := a } } } } : State).iread a.pc with
  | .ok bs _ => field (ofBytes (bs.take 4)) 11 3
  | _ => 0

/-- What the fetch at the pc of the wave on the issue port gives: an instruction, or the state after a trap or a wait. A read that returns
no data is a trap at the instruction (R76, R362; log 55). -/
def State.fetch (s : State) : Sum State (Instr × State) :=
  match s.iread s.pc with
  | .fault c a d => .inl (s.trapAt c a d (actionOf c))
  | .bad c a s => .inl (s.trapAt c a s.openDetail (actionOf c))
  | .wait s => .inl s.waits
  | .ok bs s => match decode bs with
    | none => .inl (s.trapAt 0x0109 s.pc (blockEnd s.pc) (actionOf 0x0109))
    | some (i, _) => .inr (i, s)

/-- A run-ahead that holds every instruction: with it a wave comes no further than the decode checks. -/
def Wave.heldAhead (w : Wave) : Ahead :=
  { set := 0, inst := 0, pred := false, takenPc := 0, fallPc := 0, ckpt := w.r, count := 0, stores := [], fault := some (0, 0, 0),
    fails := [], op := 0, voted := false }

/-- The fetch at an arm's pc or the decode checks of what stands there fail: the trap does not wait for DIST (R40). -/
def State.decodeFails (s : State) (w : Wave) (a : Arm) : Bool :=
  let t : State := { s with w := { w with ahead := some w.heldAhead, r := { w.r with ctl := { w.r.ctl with arm := a } } } }
  let u := match t.fetch with
    | .inl u => u
    | .inr (i, u) => match exec i u with | .next v => v | _ => u
  match u.w.ahead with
  | some x => (match x.fault with | some (c, _, _) => c != 0 && c != 0x0120 | none => false)
  | none => false

/-- An arm of a wave may issue in the issue slot at hand: it waits for nothing, has not parked, and its DIST is satisfied (R293, R294,
R308), or its instruction fails its decode checks, which come first (R40). -/
def State.armReady (s : State) (w : Wave) (a : Arm) : Bool :=
  !a.stalled && !(w.r.ctl.other.isSome && w.r.ctl.parkedArm a) &&
    (a.free || decide (a.last + 1 + s.distAt w a ≤ s.clock / 4) || s.decodeFails w a)

/-- The arm of a wave that would issue is the other one (R308): of the ready ones that which issued less recently, the fall-through arm
on a tie. -/
def State.prefersOther (s : State) (w : Wave) : Bool :=
  match w.r.ctl.other with
  | none => false
  | some o => s.armReady w o &&
      (!s.armReady w w.r.ctl.arm || decide (o.last < w.r.ctl.arm.last) || (o.last == w.r.ctl.arm.last && !o.taken))

/-- The pipe of a wave has not issued in the issue slot at hand (R293). -/
def State.pipeFree (s : State) (w : Wave) : Bool := decide ((lookup s.pipes (w.core * 4 + w.slot % 4)).getD 0 ≤ s.clock / 4)

/-- A wave may issue in the issue slot at hand (R293). -/
def State.waveReady (s : State) (w : Wave) : Bool :=
  w.uid != 0 && w.atBoundary && s.pipeFree w && (w.notBefore == 0 || decide (w.notBefore ≤ s.clock / 4)) &&
    (s.armReady w w.r.ctl.arm || match w.r.ctl.other with | some o => s.armReady w o | none => false)

/-- The order of issue (R293): least recently issued, then the lower wave slot. -/
def Wave.rank (w : Wave) : Nat := (match w.last with | none => 0 | some n => n + 1) * 2 ^ 16 + w.core * 128 + w.slot

/-- The wave whose turn it is to issue: of each pipe the ready wave that issued least recently, the pipes themselves in an order of the
model's (R293; log 5). -/
def State.turn (s : State) : Option Wave := leastBy Wave.rank (s.waves.filter s.waveReady)

/-- The wave on the issue port, its arm chosen. -/
def State.chooseArm (s : State) : State := if s.prefersOther s.w then s.withCtl Ctl.swap else s

/-- No arm is stalled: something has happened since. -/
def State.wake (s : State) : State :=
  let free (a : Arm) : Arm := { a with stalled := false }
  s.mapWaves fun w => { w with r := { w.r with ctl := { w.r.ctl with arm := free w.r.ctl.arm, other := w.r.ctl.other.map free } } }

/-- A clock passes: a wave with a short result that is due now looks again (R293, R295). -/
def State.tick (s : State) : State :=
  let free (a : Arm) : Arm := { a with stalled := false }
  ({ s with clock := s.clock + 1 } : State).mapWaves fun w => if !(w.r.pend.any fun q => q.due * 4 == s.clock + 1) then w else
    { w with r := { w.r with ctl := { w.r.ctl with arm := free w.r.ctl.arm, other := w.r.ctl.other.map free } } }

/-- After an instruction: unless its wave waits, whatever waited looks again. -/
def State.afterIssue (s : State) : State := if s.w.r.ctl.arm.stalled then s else s.wake

/-! ### What is done next -/

/-- An event happens: one of the table's rows with no encoding. -/
def State.event (s : State) (i : Instr) : Host.Outcome State Fault Refusal :=
  if i.bits.isSome then .next s
  else match exec i s with
  | .next t => .next t.wake
  | x => x

/-- A restore whose teams did not all fit tries again (R364). -/
def State.restoreDue (s : State) : Option Nat :=
  (s.pkg.jobs.find? fun j => j.cmd == 0x21 && match s.ctx? j.ctx with
    | none => false
    | some c => c.stopped && !(match c.restoring with | some l => l.any fun x => x.1 == s.pkg.chipNo | none => false) &&
        ((s.savedTeams j.ctx).any (fun im => s.m.poisoned im.addr im.size) || (State.reloadAll (s.savedTeams j.ctx) s).isSome)).map (·.ctx)

/-- The record of each sector written back with an error that nothing had read: 0x0511 for the context of its key slot (R104; log 48). -/
def State.raiseSpoilt (s : State) : State :=
  s.m.spoilt.foldl (fun s (x, slot) =>
    let addr := s.recAddr 0x0511 (BitVec.ofNat 64 (x * 256))
    match s.ctxs.find? fun c => c.keySlot == slot with
    | some c => s.failNoWave (s.ctxRecord c.ctx none 4 0x0511 addr s.openDetail) none
    | none => s.failNoWave (s.bareRecord 4 0x0511 addr s.openDetail) none) (s.withM fun m => { m with spoilt := [] })

/-- What is done outside the table's rows, when it is due: a soft error, the steps of a fatal record, the report of a job-wide command,
a restore, a look at what waits. -/
def State.aside (s : State) : Option State :=
  match s.upsets with
  | u :: rest => some (({ s with upsets := rest }).upset u).wake
  | [] =>
    match s.fatalStep with
    | some t => some t.wake
    | none =>
      if !s.m.spoilt.isEmpty then some s.raiseSpoilt.wake
      else if s.pkg.jobs.any s.jobOver then some s.reportJobs.wake
      else match s.restoreDue with
      | some c => some (s.reloadCtx c).wake
      | none => if s.clock ≥ s.polled + 256 ∧ s.polls.isEmpty = false then some { s with agenda := s.polls, polled := s.clock } else none

/-- The wave on the issue port runs the instruction at its pc. -/
def State.issueNext (s : State) : Host.Outcome State Fault Refusal :=
  match s.fetch with
  | .inl t => .next t.afterIssue
  | .inr (i, t) => match exec i t with
    | .next u => .next u.afterIssue
    | x => x

/-- A wave that something loaded from outside (log 8): privileged, in context 1 on core 0, alone in its team, its code at 0x10040. -/
def bootWave (uid : Nat) : Wave :=
  { Wave.idle with
    uid := uid, team := uid + 1, ctx := 1, status := .run, r := Regs.start 0x10040
    k := { Kernel.none with hdr := 0x10000, quads := 1, gridMask := 0xFF, msetMask := 0xFFFF, robjMask := 2 ^ 64 - 1 } }

/-- Its context. -/
def bootCtx : Ctx :=
  { ctx := 1, tenant := false, keySlot := 1, system := true, transRev := 0, ptRoot := 0, patBase := 0, commTab := 0, errRing := 0,
    saveArea := 0, phaseCtr := 0, jobCtr := 0, gen := 0, seed := 0, scopes := [], msets := [], comms := [], cur := 0, closing := false,
    broken := [], robjs := [], setHomes := [], outcomes := [], colls := [], collNext := [], collServed := [], modes := 0, ringOvf := false,
    stopped := false, saved := false, restoring := none, ending := false, chipsOver := [] }

/-- Where the package is not about to issue an instruction, one wave stands alone to issue, its context and its key with it (log 8). -/
def State.boot (s : State) : State :=
  { State.reset with
    clock := s.clock, polled := s.clock, free := s.free, nextId := s.nextId + 2, out := s.out, w := bootWave s.nextId, ctxs := [bootCtx],
    teams := [{ uid := s.nextId + 1, core := 0, ctx := 1, key := LKey.none, idx := 0, k := (bootWave s.nextId).k, base := 0, slot0 := 0,
                wins := [0], bars := [], saved := none }]
    m := { MemSys.reset with mem := s.m.mem, secKey := s.m.secKey, poison := s.m.poison,
                             tlb := [{ unit := 0, ctx := 1, va := 0x10000, size := 0x10000, pa := 0x10000, cls := 0, u := true, x := true, w := true }] }
    pkg := { s.pkg with keys := assign 1 0 s.pkg.keys, mbBusy := false, fatal := none, jobs := [] } }

/-- The package is about to issue an instruction. -/
def State.issuing (s : State) : Bool := s.agenda.isEmpty && s.aside.isNone && s.due.isNone && s.turn.isSome

/-- The package with a wave about to issue: as it is, or with one wave loaded. -/
def State.loaded (s : State) : State := if s.issuing then s else s.boot

/-- Bytes stand where the wave whose turn it is fetches from: in its core's instruction cache, in the block its pc lies in. The arm that
issues has its DIST satisfied, whatever DIST the bytes hold (R294). -/
def State.placeCode (s : State) (bs : List Byte) : State :=
  match s.turn with
  | none => s
  | some w =>
    let t := (s.select w.uid).chooseArm
    match xlateLanes t .fetch 1 [(0, t.pc)] with
    | .ok ((_, _, h) :: _) =>
      let pa := t.localPa t.w h.pa
      let slot := t.slotFor t.w.ctx h.cls
      let old := t.m.bytes t.free slot (pa / 32 * 32) 32
      let x : IBlock := { core := t.w.core, block := pa / 32, slot := slot, bytes := (patch old (pa % 32) bs).take 32 }
      let free (a : Arm) : Arm := if a.taken == t.w.r.ctl.arm.taken then { a with free := true } else a
      (s.withM fun m => { m with icache := x :: m.icache.filter fun y => !(y.core == x.core && y.block == x.block && y.slot == x.slot) }).mapWave
        w.uid fun w => { w with r := { w.r with ctl := { w.r.ctl with arm := free w.r.ctl.arm, other := w.r.ctl.other.map free } } }
    | _ => s

/-- One step: what stands on the agenda, else what is aside, else the event that is due, else an instruction, else a clock passes. -/
def State.advance (s : State) : Host.Outcome State Fault Refusal :=
  match s.agenda with
  | i :: rest => State.event { s with agenda := rest } i
  | [] => match s.aside with
    | some t => .next t
    | none => match s.due with
      | some i => s.event i
      | none => match s.turn with
        | some w => (s.select w.uid).chooseArm.issueNext
        | none => .next s.tick

end Sys2Proof.Machine
end

