-- ==== Sys2Proof/Machine/Step.lean ====
section
/-! DEFINITION. The step of the machine, and where an instruction is placed for it (log 8). -/

namespace Sys2Proof.Machine

/-- One step of the package. -/
def step (s : State) : Host.Outcome State Fault Refusal := s.advance

/-- The instruction of a word of the opcode table stands where the next step fetches, and that step is its wave's turn still (log 8). -/
def State.withFetchWord (s : State) (nbits w : Nat) : State :=
  let bs := bytesOf 16 (BitVec.ofNat 128 (w % 2 ^ nbits))
  let t := s.loaded.placeCode bs
  if t.turn.map (·.uid) = s.loaded.turn.map (·.uid) then t else s.boot.placeCode bs

end Sys2Proof.Machine
end

