-- ==== Sys2Proof/Safety.lean ====
section
/-! DEFINITION. The terms in which the statements speak: when an instruction issues with its own effect, what its completion leaves,
what is left unchanged, and when memory stands in its canonical form. -/

namespace Sys2Proof.Machine

/-! ### Issue -/

/-- The wave on the issue port issues its instruction and the instruction acts: the wave runs; the decode checks of R40 pass; the flags it
waits on are clear and without error, and its own flag has room (R293, R297); a wave that runs ahead may issue it (R322); an acquire that
comes before it is over (R334); it reads no element with a double-bit error (R152) and no register the matrix engine holds (R207); and a
lane is active, where the instruction looks at lanes (R21, R302). -/
def issues (sp : Spec) (always : Bool) (f : Fields) (s : State) : Bool :=
  s.w.status == .run && !s.w.preempted && (decodeCheck s sp f).isNone && s.w.waitReady f && (s.w.waitError f).isNone &&
  !s.w.flagFull f && !s.w.aheadHolds sp f && !s.w.acquires sp &&
  !readsBad sp (s.atIssue f).w.r f && ((s.atIssue f).heldRegs (s.atIssue f).w).isEmpty && acts always (s.atIssue f).w.r f

/-- An instruction completes: wherever it issues with its own effect, `exec` answers the state that `next` gives from its issue slot and the
state in which its effect begins. -/
def Completes (sp : Spec) (always : Bool) (i : Instr) (f : Fields) (next : Nat → State → State) : Prop :=
  ∀ s : State, issues sp always f s = true → exec i s = .next (next (issueSlot s f) (s.atIssue f))

/-- The same where a condition on the state in which its effect begins holds too. -/
def CompletesIf (sp : Spec) (always : Bool) (i : Instr) (f : Fields) (cond : State → Prop) (next : Nat → State → State) : Prop :=
  ∀ s : State, issues sp always f s = true → cond (s.atIssue f) → exec i s = .next (next (issueSlot s f) (s.atIssue f))

/-- The same where the state in which its effect begins gives a value, such as the places its lanes name. -/
def CompletesFor {α : Type} (sp : Spec) (i : Instr) (f : Fields) (cond : State → α → Prop) (next : Nat → State → α → State) : Prop :=
  ∀ (s : State) (x : α), issues sp false f s = true → cond (s.atIssue f) x →
    exec i s = .next (next (issueSlot s f) (s.atIssue f) x)

/-- A short instruction writes registers λ issue slots after its own, and does nothing else (R167, R295). -/
def Writes (sp : Spec) (i : Instr) (f : Fields) (lam : Nat) (wrs : State → List Wr) : Prop :=
  Completes sp false i f fun slot s => (s.result slot lam (wrs s)).goOn false f slot none

/-- A short instruction writes registers and sets status bits as it issues (R170, R295). -/
def Computes (sp : Spec) (i : Instr) (f : Fields) (lam : Nat) (out : State → List Wr × Word) : Prop :=
  Completes sp false i f fun slot s => ((s.setNstat (out s).2).result slot lam (out s).1).goOn false f slot none

/-- A long-latency instruction whose results, with the status bits they set, are written when its flag's operation retires (R170, R297). -/
def Produces (sp : Spec) (i : Instr) (f : Fields) (out : State → List Wr × Word) : Prop :=
  Completes sp false i f fun slot s => (s.longDone f (out s).1 (out s).2).goOn true f slot none

/-- The lanes an instruction acts in, in ascending order (R21). -/
def State.lanes (s : State) (f : Fields) : List Nat := lanesOf (activeMask s.w.r f)

/-- What source A of an instruction reads in a lane, as a value of a type. -/
def State.srcA (s : State) (f : Fields) (t lane : Nat) : Nat := srcVal s.w.r f t f.a lane
/-- What source B reads. -/
def State.srcB (s : State) (f : Fields) (t lane : Nat) : Nat := srcVal s.w.r f t f.b lane
/-- What source C reads. -/
def State.srcC (s : State) (f : Fields) (t lane : Nat) : Nat := srcVal s.w.r f t f.c lane

/-- The end actions of R315 at an address, as its text writes them: lp1 first, then lp0 unless lp1 went back to its start. -/
def Arm.endActions (a : Arm) (addr : DWord) : Arm :=
  let hits (l : LoopRec) : Bool := l.active && l.stop == addr
  let step (l : LoopRec) : LoopRec := if l.cnt - 1 = 0 then LoopRec.none else { l with cnt := l.cnt - 1 }
  let a := { a with done := none }
  if hits a.lp1 ∧ a.lp1.cnt - 1 ≠ 0 then { a with lp1 := step a.lp1, pc := a.lp1.start }
  else
    let a := if hits a.lp1 then { a with lp1 := LoopRec.none } else a
    if hits a.lp0 ∧ a.lp0.cnt - 1 ≠ 0 then { a with lp0 := step a.lp0, pc := a.lp0.start }
    else if hits a.lp0 then { a with lp0 := LoopRec.none } else a

/-- The arm of a wave whose `bc` did not diverge its path: a divergence stack entry of R311, its taken lanes running first. -/
def Arm.serialised (a : Arm) (pc j fpc target : DWord) (take fall : Lanes) (slot : Nat) : Arm :=
  { a with
    stack := { j := j, fpc := fpc, fmask := fall, rmask := a.em, la0 := a.lp0.active, la1 := a.lp1.active, fdone := false } :: a.stack
    em := take, pc := target, last := slot, free := false, done := some pc, stalled := false }

/-! ### Words -/

/-- The fields of an instruction of a length with no guard: PRED = 7, and every other field 0. -/
def Fields.plain (l : Len) : Fields :=
  { len := l, uni := false, dist := 0, pred := 7, setf := 0, d := 0, wait := 0, a := 0, b := 0, c := 0, ty := 0, mod := 0, x := 0, imm := 0 }

/-! ### Memory -/

/-- The canonical form of sparse memory: addresses strictly rising, no entry equal to what an unlisted address reads as (log 2). -/
abbrev Memory.wf (m : Cells 8) : Prop := cwf 0 m = true

/-- One byte of memory, as it stands at its point. -/
def State.memByte (s : State) (pa : Nat) : Byte := cget 0 s.m.mem pa

/-- One byte of scratchpad: core n's byte o is byte 2^19 n + o. -/
def State.spByte (s : State) (a : Nat) : Byte := cget 0 s.m.sp a

/-! ### What is left unchanged -/

/-- A register write stays within an instruction's destination: `n` registers from D, in the lanes the instruction acts in (R21, R28). -/
def Wr.within (f : Fields) (n : Nat) (lanes : List Nat) : Wr → Prop
  | .v k l _ => ∃ b, Opd.of f.d = .v b ∧ b ≤ k ∧ k < b + n ∧ (f.uni = true ∨ l ∈ lanes)
  | .s k _ => ∃ b, Opd.of f.d = .s b ∧ b ≤ k ∧ k < b + n
  | .p k _ _ => Opd.of f.d = .p k
  | .em _ => False

/-- Memory, scratchpad, accumulators, every other wave, the contexts and the package stand as they were. -/
def State.quiet (s t : State) : Prop :=
  (∀ a, t.memByte a = s.memByte a ∧ t.spByte a = s.spByte a) ∧ t.m.acc = s.m.acc ∧ t.others.map (·.r) = s.others.map (·.r) ∧
  t.ctxs = s.ctxs ∧ t.pkg = s.pkg ∧ t.teams = s.teams ∧ t.grids = s.grids ∧ t.budgets = s.budgets ∧ t.slices = s.slices ∧
  t.queues = s.queues ∧ t.launches = s.launches

/-- Every register but the control state, the results still to come and NSTAT stands as it was. -/
def Regs.same (r u : Regs) : Prop :=
  u.v = r.v ∧ u.s = r.s ∧ u.p = r.p ∧ u.rng = r.rng ∧ u.lsa = r.lsa ∧ u.lsb = r.lsb ∧ u.cmm = r.cmm ∧ u.next = r.next ∧ u.bad = r.bad

/-- The short instructions whose one effect is a register result: how each uses its fields, and how many registers it writes in a lane;
whether it may set status bits (R170). -/
def shortForms (f : Fields) : List (Spec × Instr × Nat × Bool) :=
  let n := tyRegs f.ty.toNat
  [(intSpec tys07 true true false, .add f, n, false), (intSpec tys07 true true false, .sub f, n, false),
   (intSpec tys07 true true false, .mul f, n, false), (intSpec [0, 1, 2, 3] false true false, .mulhi f, n, false),
   (intSpec tys07 true true true, .mad f, n, false), (intSpec tys07 false true false, .min f, n, false),
   (intSpec tys07 false true false, .max f, n, false), (intSpec [0, 2, 4, 6] true false false, .abs f, n, false),
   (intSpec tysBits false true false, .andB f, n, false), (intSpec tysBits false true false, .orB f, n, false),
   (intSpec tysBits false true false, .xorB f, n, false), (intSpec tysBits false false false, .notB f, n, false),
   (intSpec tysWord false false false, .clz f, n, false), (intSpec tysWord false false false, .popc f, n, false),
   (intSpec tysWord false false false, .brev f, n, false), (shiftSpec, .shl f, n, false), (shiftSpec, .shr f, n, false),
   (shiftSpec, .sra f, n, false), (shiftSpec, .rot f, n, false), (bfeSpec, .bfe f, n, false), (bfiSpec f, .bfi f, n, false)] ++
  [(selSpec f, .sel f, n, false), (cmpSpec f, .cmp f, 1, false), (movSpec, .mov f, n, false), (moviSpec, .movi f, 2, false),
   (leaSpec f, .lea f, 2, false), (addwSpec, .addw f, 2, false), (sgetSpec f, .sget f, 2, false), (psetSpec f, .pset f, 1, false),
   (popSpec, .pop f, 1, false), (rngGetcSpec, .rngGetc f, 1, false), (lsclGetSpec, .lsclGet f, 2, false),
   (lsclRdstSpec, .lsclRdst f, 1, false), (fcmpSpec f, .fcmp f, 1, false), (fclassSpec f, .fclass f, 1, false)] ++
  [(fpSpec 15 false true false, .fadd f, n, true), (fpSpec 15 false true false, .fsub f, n, true),
   (fpSpec 15 false true false, .fmul f, n, true), (fpSpec 15 false true true, .ffma f, n, true),
   (fpSpec 8 false true false, .fmin f, n, true), (fpSpec 8 false true false, .fmax f, n, true),
   (fpSpec 11 false false false, .frnd f, n, true), (fsclSpec f, .fscl f, n, true),
   (cvtSpec f, .cvt f, n * (if tyCount f.ty.toNat < tyCount (cvtSrc f) then tyCount (cvtSrc f) else 1), true)]

/-- The long-latency instructions whose one effect is a register result when their flag's operation retires; whether one acts with no
lane active, as a reduction of the lanes to a scalar D does (R184, R186). -/
def longForms (f : Fields) : List (Spec × Instr × Nat × Bool) :=
  let n := tyRegs f.ty.toNat
  [(fpSpec 15 true true false, .fdiv f, n, false), (fpSpec 15 true false false, .fsqrt f, n, false),
   (fpSpec 15 true false false, .frcp f, n, false), (fpSpec 15 true false false, .frsq f, n, false),
   (fpSpec 15 true false false, .fexp2 f, n, false), (fpSpec 15 true false false, .flog2 f, n, false),
   (fpSpec 15 true false false, .fsin f, n, false), (fpSpec 15 true false false, .fcos f, n, false),
   (voteSpec, .vote f, 2, writesOnce f), (wredSpec f, .wred f, n, writesOnce f), (mstatSpec, .mstat f, 1, false),
   (rstatSpec, .rstat f, 1, false)]

/-- The instructions that a system context alone may issue (R368). -/
def privForms (f : Fields) : List (Spec × Instr) :=
  [(haltSpec, .halt f), (esigSpec, .esig f), (pmsetSpec false, .pmsetBudget f), (pmsetSpec true, .pmsetRead f), (saveSpec, .csave f),
   (saveSpec, .crest f), (tlbiVaSpec, .tlbiVa f), (tlbiCtxSpec, .tlbiCtx f), (tlbiAllSpec, .tlbiAll f)]

/-! ### The matrix engine -/

/-- There is room to queue an engine instruction: its quad has fewer than 8 queued, and no member has 63 operations on its flag (R205,
R208). -/
def State.queueRoom (s : State) (f : Fields) (all : Bool) : Prop :=
  (∃ q, s.quadCur s.w = some q) ∧ s.queueDepth s.w < 8 ∧ (all = true → s.matesFull f = false)

/-- The state once it is queued: its operations begun, the quad's entry changed, the blocks it will load added to the plan. -/
def State.queued (s : State) (f : Fields) (all : Bool) (cmd : MCmd) (upd : QuadSt → QuadSt) (plan : List (Nat × Nat) → List HeldBlock) : State :=
  let b := s.engineOps f all
  let u := b.2.mapQuad b.2.w fun q => upd { q with queue := q.queue ++ [{ cmd := cmd, ops := b.1 }] }
  let e := u.engine u.w.core
  u.putEngine u.w.core { e with plan := e.plan ++ plan b.1, taint := e.taint || (plan b.1).any fun x => !x.hit.isEmpty }

end Sys2Proof.Machine
end

