-- ==== Sys2Proof/Certificates/Slice0/Obligations.lean ====
section
/-! DEFINITION. The statements of this row. `Completes` and its kin (Sys2Proof/Safety.lean) say that `exec` answers a next state, and which;
their conditions are on the state and the fields alone. -/

open Sys2Proof Sys2Proof.Machine

/-! ### Registers -/

/-- R172 to R175, R295: the integer group writes, in every active lane (once with UNI), the exact result of its sources read by TY, narrowed or clamped by
element; the bitwise and counting forms work on bits; shifts, rotates and bit fields take one 32-bit count or field operand whatever TY is, and `shl`,
`shr` by the width or more give 0 and `sra` the sign. -/
def Obligations.IntegerGroupWrites : Prop :=
  (∀ f : Fields,
    let t := f.ty.toNat
    let two := fun (fn : Int → Int → Int) (s : State) => perLane s f fun l =>
      dstWr t f.d l (arith f (fun a b _ => fn a b) t (s.srcA f t l) (s.srcB f t l) (s.srcC f t l))
    Writes (intSpec tys07 true true false) (.add f) f 1 (two fun a b => a + b) ∧
    Writes (intSpec tys07 true true false) (.sub f) f 1 (two fun a b => a - b) ∧
    Writes (intSpec tys07 true true false) (.mul f) f (if f.uni then 1 else 2) (two fun a b => a * b) ∧
    Writes (intSpec [0, 1, 2, 3] false true false) (.mulhi f) f (if f.uni then 1 else 2)
      (two fun a b => a * b / (2 ^ tyElem t : Nat)) ∧
    Writes (intSpec tys07 true true true) (.mad f) f (if f.uni then 1 else 2) (fun s => perLane s f fun l =>
      dstWr t f.d l (arith f (fun a b c => a * b + c) t (s.srcA f t l) (s.srcB f t l) (s.srcC f t l))) ∧
    Writes (intSpec tys07 false true false) (.min f) f 1 (two fun a b => min a b) ∧
    Writes (intSpec tys07 false true false) (.max f) f 1 (two fun a b => max a b) ∧
    Writes (intSpec [0, 2, 4, 6] true false false) (.abs f) f 1 (two fun a _ => (a.natAbs : Int))) ∧
  (∀ f : Fields,
    let t := f.ty.toNat
    let two := fun (fn : Nat → Nat → Nat) (s : State) => perLane s f fun l => dstWr t f.d l (fn (s.srcA f t l) (s.srcB f t l))
    Writes (intSpec tysBits false true false) (.andB f) f 1 (two fun a b => a &&& b) ∧
    Writes (intSpec tysBits false true false) (.orB f) f 1 (two fun a b => a ||| b) ∧
    Writes (intSpec tysBits false true false) (.xorB f) f 1 (two fun a b => a ^^^ b) ∧
    Writes (intSpec tysBits false false false) (.notB f) f 1 (two fun a _ => 2 ^ tyBits t - 1 - a) ∧
    Writes (intSpec tysWord false false false) (.clz f) f 1 (two fun a _ => tyBits t - bitLen a) ∧
    Writes (intSpec tysWord false false false) (.popc f) f 1 (two fun a _ => popCount a (tyBits t)) ∧
    Writes (intSpec tysWord false false false) (.brev f) f 1 (two fun a _ => brevBits (tyBits t) a)) ∧
  (∀ f : Fields,
    let t := f.ty.toNat
    let w := tyBits t
    let two := fun (fn : Nat → Nat → Nat) (s : State) => perLane s f fun l => dstWr t f.d l (fn (s.srcA f t l) (s.srcB f 18 l))
    Writes shiftSpec (.shl f) f 1 (two fun a n => if n < w then a * 2 ^ n % 2 ^ w else 0) ∧
    Writes shiftSpec (.shr f) f 1 (two fun a n => if n < w then a / 2 ^ n else 0) ∧
    Writes shiftSpec (.sra f) f 1
      (two fun a n => if n < w then wrap w (sext w a / (2 ^ n : Nat)) else if sext w a < 0 then 2 ^ w - 1 else 0) ∧
    Writes shiftSpec (.rot f) f 1 (two fun a n => a * 2 ^ (n % w) % 2 ^ w + a / 2 ^ (w - n % w)) ∧
    Writes bfeSpec (.bfe f) f 1 (two fun a x => bfeBits (tySigned t) w a x) ∧
    Writes (bfiSpec f) (.bfi f) f 1 (fun s => perLane s f fun l =>
      dstWr t f.d l (bfiBits w (s.srcA f t l) (s.srcB f t l) (s.srcC f 18 l))))

/-- R160 to R164, R176: `sel` chooses by a mask, or with UNI by a scalar or constant; `cmp` writes one truth value a lane to a predicate, a vector
register or, with UNI, a scalar register; moves, immediate moves, address arithmetic and the special registers. -/
def Obligations.SelectCompareAndMove : Prop :=
  (∀ f : Fields,
    let t := f.ty.toNat
    Writes (selSpec f) (.sel f) f 1 (fun s => perLane s f fun l =>
      dstWr t f.d l (if (if f.uni then s.srcC f 18 l != 0 else (maskVal s.w.r f.c).getLsbD l) then s.srcA f t l else s.srcB f t l)) ∧
    Writes (cmpSpec f) (.cmp f) f 1 (fun s =>
      let holds := fun l => condHolds f.x.toNat (compare (elemInt t (s.srcA f t l)) (elemInt t (s.srcB f t l)))
      match Opd.of f.d with
      | .p n => [.p n (activeMask s.w.r f) (maskOf holds)]
      | _ => perLane s f fun l => dstWr 18 f.d l (if holds l then 1 else 0))) ∧
  (∀ f : Fields,
    Writes movSpec (.mov f) f 1 (fun s => movWrs s f) ∧
    Writes moviSpec (.movi f) f 1 (fun s => match Opd.of f.d with | .s _ => moviWrs f 0 | _ => perLane s f (moviWrs f)) ∧
    Writes (leaSpec f) (.lea f) f 1 (fun s => perLane s f fun l =>
      if f.x.getLsbD 0 then dstWr 18 f.d l (absSp s (spAddr s.w.r f (scaleX f) l)).toNat
      else dstWr 19 f.d l (memAddr s.w.r f (scaleX f) l).toNat) ∧
    Writes addwSpec (.addw f) f 1 (fun s => perLane s f fun l =>
      let b := s.srcB f 18 l
      dstWr 19 f.d l (wrap 64 ((s.srcA f 19 l : Nat) + (if f.ty = 0 then sext 32 b else (b : Int))))) ∧
    Writes (sgetSpec f) (.sget f) f 1 (fun s =>
      let t := if specialWide f.x.toNat then 19 else 18
      match Opd.of f.d with
      | .s _ => dstWr t f.d 0 (specialVal s f.x.toNat)
      | _ => perLane s f fun l => dstWr t f.d l (if f.x.toNat = 0 then l else specialVal s f.x.toNat)) ∧
    Completes (ssetSpec f) false (.sset f) f (fun slot s =>
      let v := s.srcA f (if f.x.toNat = 8 then 19 else 18) 0
      (s.mapCtx s.w.ctx fun c =>
        if f.x.toNat = 5 then { c with gen := BitVec.ofNat 32 v } else { c with seed := BitVec.ofNat 64 v }).goOn false f slot none))

/-- R177 to R183, R295: the short floating-point group rounds one exact result an element, sets the status bits of every active lane, and is available
after 2 issue slots, 1 with UNI, 8 in f64; comparisons and classes, conversions and scaling. -/
def Obligations.FloatShortGroup : Prop :=
  (∀ f : Fields,
    let lam := if f.ty = 9 then 8 else if f.uni then 1 else 2
    let out := fun (fn : Fmt → RCtl → Nat → Nat → Nat → Nat × FFlags) (s : State) => fpWrs s f fn
    Computes (fpSpec 15 false true false) (.fadd f) f lam
      (out fun fm c x y _ => (exactAdd c.mode (fpIn fm c x) (fpIn fm c y)).round fm c) ∧
    Computes (fpSpec 15 false true false) (.fsub f) f lam
      (out fun fm c x y _ => (exactAdd c.mode (fpIn fm c x) (fpIn fm c y).neg).round fm c) ∧
    Computes (fpSpec 15 false true false) (.fmul f) f lam
      (out fun fm c x y _ => (exactMul (fpIn fm c x) (fpIn fm c y)).round fm c) ∧
    Computes (fpSpec 15 false true true) (.ffma f) f lam
      (out fun fm c x y z => (exactFma c.mode (fpIn fm c x) (fpIn fm c y) (fpIn fm c z)).round fm c) ∧
    Computes (fpSpec 8 false true false) (.fmin f) f lam (out fun fm c x y _ => (minMaxBits fm false c.fz x y, {})) ∧
    Computes (fpSpec 8 false true false) (.fmax f) f lam (out fun fm c x y _ => (minMaxBits fm true c.fz x y, {})) ∧
    Computes (fpSpec 11 false false false) (.frnd f) f lam (out fun fm c x _ _ => (frndBits fm c x, {}))) ∧
  (∀ f : Fields,
    let t := f.ty.toNat
    let fm := fmtOf t
    let lam := if f.ty = 9 then 8 else if f.uni then 1 else 2
    Writes (fcmpSpec f) (.fcmp f) f lam (fun s => cmpWrs s f fun l =>
      fcondHolds f.x.toNat (fpIn fm (rctl s.w.r f) (s.srcA f t l)) (fpIn fm (rctl s.w.r f) (s.srcB f t l))) ∧
    Writes (fclassSpec f) (.fclass f) f lam (fun s => match Opd.of f.d with
      | .p _ => cmpWrs s f fun l => classMask fm (s.srcA f t l) &&& f.x.toNat != 0
      | _ => perLane s f fun l => dstWr 18 f.d l (classMask fm (s.srcA f t l))) ∧
    Computes (cvtSpec f) (.cvt f) f (if f.ty = 9 ∨ cvtSrc f = 9 then 8 else if f.uni then 1 else 2)
      (fun s => perLaneF s f (cvtLane s.w.r f)) ∧
    Computes (fsclSpec f) (.fscl f) f lam (fun s => perLaneF s f fun l =>
      let r := mapElems t (fun x _ _ => fsclElem fm (rctl s.w.r f) (sext 32 (s.srcB f 18 l)) x) (s.srcA f t l) 0 0
      let nf := (List.range (tyCount t)).any fun j => classMask fm (elemOf t j r.1) &&& 0x181 != 0
      (dstWr t f.d l r.1, r.2.bits ||| (if nf then nstatNF else 0))))

/-- R59, R178: the long-latency floating-point group writes the value of its function, and its status bits, when its flag's operation retires: the
exact quotient, root or reciprocal rounded once, and for `fexp2`, `flog2`, `fsin` and `fcos` the value of the model's function of that name, which
on the special inputs is that of R59's table. R191, R192: `vopt` writes, when its flag's operation retires, the new moments and then the new
weight of every active lane whose scaled gradient is finite, each by the rounded steps of R192, and leaves the other lanes unwritten with NF and
SKIP to come; a hyperparameter with a double-bit error traps with 0x0513. -/
def Obligations.FloatLongProduces : Prop :=
  (∀ f : Fields,
    let out := fun (fn : Fmt → RCtl → Nat → Nat → Nat → Nat × FFlags) (s : State) => fpWrs s f fn
    Produces (fpSpec 15 true true false) (.fdiv f) f (out fun fm c x y _ => (exactDiv (fpIn fm c x) (fpIn fm c y)).round fm c) ∧
    Produces (fpSpec 15 true false false) (.fsqrt f) f (out fun fm c x _ _ => (exactSqrt (fpIn fm c x)).round fm c) ∧
    Produces (fpSpec 15 true false false) (.frcp f) f (out fun fm c x _ _ => (exactRcp (fpIn fm c x)).round fm c) ∧
    Produces (fpSpec 15 true false false) (.frsq f) f (out fun fm c x _ _ => (exactRsq (fpIn fm c x)).round fm c) ∧
    Produces (fpSpec 15 true false false) (.fexp2 f) f (out fun fm c x _ _ => fexp2 fm c (fpIn fm c x)) ∧
    Produces (fpSpec 15 true false false) (.flog2 f) f (out fun fm c x _ _ => flog2 fm c (fpIn fm c x)) ∧
    Produces (fpSpec 15 true false false) (.fsin f) f (out fun fm c x _ _ => fsin fm c (fpIn fm c x)) ∧
    Produces (fpSpec 15 true false false) (.fcos f) f (out fun fm c x _ _ => fcos fm c (fpIn fm c x))) ∧
  (∀ (fm : Fmt) (c : RCtl) (n : Bool) (e : Int),
    let one := (Exact.mag false 1 0 false).round fm c
    let iv : Nat × FFlags := (fm.nanBits, { inv := true })
    fexp2 fm c (.fin n 0 e) = one ∧ fexp2 fm c (.inf n) = (if n then 0 else fm.infBits, {}) ∧
    flog2 fm c (.fin n 0 e) = (fm.withSign true fm.infBits, { dz := true }) ∧
    flog2 fm c (.inf n) = (if n then iv else (fm.infBits, {})) ∧ (∀ m, m ≠ 0 → flog2 fm c (.fin true m e) = iv) ∧
    fsin fm c (.fin n 0 e) = (fm.withSign n 0, {}) ∧ fcos fm c (.fin n 0 e) = one ∧ fsin fm c (.inf n) = iv ∧ fcos fm c (.inf n) = iv ∧
    (∀ m, m ≠ 0 → (exactSqrt (.fin true m e)).round fm c = iv ∧ (exactRsq (.fin true m e)).round fm c = iv) ∧
    (exactSqrt (.fin n 0 e)).round fm c = (fm.withSign n 0, {}) ∧
    (exactRcp (.fin n 0 e)).round fm c = (fm.withSign n fm.infBits, { dz := true }) ∧
    (exactRsq (.fin n 0 e)).round fm c = (fm.withSign n fm.infBits, { dz := true }) ∧
    (exactRcp (.inf n)).round fm c = (fm.withSign n 0, {}) ∧ (exactSqrt (.inf n)).round fm c = (if n then iv else (fm.infBits, {})) ∧
    (exactRsq (.inf n)).round fm c = (if n then iv else (0, {}))) ∧
  (∀ f : Fields,
    let k := f.x.toNat % 512
    let fz := fun (s : State) => f.mod.getLsbD 3 || s.w.r.ftz
    let num := fun (s : State) spec l => Fmt.f32.decode (fz s) (srcVal s.w.r f 8 spec l)
    let lane := fun (s : State) l =>
      voptLane (fz s) (fun i => Fmt.f32.decode (fz s) (s.w.r.sget (k + i)).toNat) (num s f.d l) (num s f.a l) (num s f.b l) (num s f.c l)
    let put := fun (s : State) spec (part : FVal × FVal × FVal → FVal) => (s.lanes f).flatMap fun l =>
      match (lane s l).1 with | none => [] | some q => dstWr 8 spec l (voBits (part q))
    let bad := fun (s : State) => srcBad s.w.r 10 allLanes (BitVec.ofNat 10 (256 + k))
    CompletesIf (voptSpec f) false (.vopt f) f (fun s => bad s = false) (fun slot s =>
      (s.longDone f (put s f.b (·.2.1) ++ put s f.c (·.2.2) ++ put s f.d (·.1)) ((s.lanes f).foldl (fun acc l =>
        acc ||| (if (lane s l).1.isNone then 0x300 else (lane s l).2.bits)) 0)).goOn true f slot none) ∧
    CompletesIf (voptSpec f) false (.vopt f) f (fun s => bad s = true) (fun _ s => s.trapBy 0x0513 s.pc 0)) ∧
  (∀ (fz : Bool) (h : Nat → FVal) (w g m v : FVal),
    let R := fun (x : Exact) => Fmt.f32.decode false (x.round .f32 { fz := fz }).1
    let gs := R (exactMul g (h 7))
    let m1 := R (exactFma .rne (h 1) m (R (exactMul (h 2) gs)))
    let v1 := R (exactFma .rne (h 3) v (R (exactMul (h 4) (R (exactMul gs gs)))))
    let den := R (exactAdd .rne (R (exactSqrt (R (exactMul v1 (h 9))))) (h 5))
    let u := R (exactDiv (R (exactMul m1 (h 8))) den)
    (voptLane fz h w g m v).1 = match gs with
      | .fin .. => some (R (exactFma .rne (h 0).neg (R (exactFma .rne (h 6) w u)) w), m1, v1)
      | _ => none)

/-- R184 to R187: votes, shuffles and tree reductions over the lanes, and mask arithmetic. A vote and a reduction with a scalar D write it once
for the wave even where no lane is active, which is the model's reading of R184 and R186 beside R21 (DEDUCED, log 18). -/
def Obligations.LaneInstructionsWrite : Prop :=
  ∀ f : Fields,
    let t := f.ty.toNat
    Completes voteSpec (writesOnce f) (.vote f) f (fun slot s => (s.longDone f (voteWrs s.w.r f) 0).goOn true f slot none) ∧
    (∀ s : State, issues (shflSpec f) false f s = true →
      ((s.atIssue f).lanes f).any (fun l =>
        srcBad (s.atIssue f).w.r (tyRegs t) (1#64 <<< shflSrc f.x.toNat l ((s.atIssue f).srcB f 18 l)) f.a) = false →
      exec (.shfl f) s = .next (((s.atIssue f).longDone f (((s.atIssue f).lanes f).flatMap fun l =>
        dstWr t f.d l ((s.atIssue f).srcA f t (shflSrc f.x.toNat l ((s.atIssue f).srcB f 18 l)))) 0).goOn true f (issueSlot s f) none)) ∧
    Completes (wredSpec f) (writesOnce f) (.wred f) f (fun slot s => (s.longDone f
      (match Opd.of f.d with
        | .s _ => dstWr t f.d 0 (wredRoot s.w.r f).1
        | _ => (s.lanes f).flatMap fun l => dstWr t f.d l (wredRoot s.w.r f).1) (wredRoot s.w.r f).2.bits).goOn true f slot none) ∧
    Writes (psetSpec f) (.pset f) f 1 (fun s => match Opd.of f.d with
      | .p n => [.p n (activeMask s.w.r f) (psetBits f.x.toNat (maskVal s.w.r f.a) (maskVal s.w.r f.b))]
      | _ => []) ∧
    Writes popSpec (.pop f) f 1 (fun s => popWrs s.w.r f)

/-- R188 to R190: a draw advances the generator of each active lane by one and writes the hash of seed, stream, lane and counter; `setc` and `getc` write
and read the counters. R193, R194, R197: the loss-scale pair is read and set whole, and the status word is read, cleared and given its flush
mode; `lscl.set` of a pair outside its limits traps with 0x0113. That a draw counts at its issue, and only its number comes with its result, is the
model's reading (DEDUCED, log 18). -/
def Obligations.GeneratorAndLossScale : Prop :=
  (∀ f : Fields,
    Completes rngDrawSpec false (.rngDraw f) f (fun slot s =>
      ((s.withR fun r => { r with rng := (s.lanes f).foldl (fun c l => cset 0 (s.w.r.rget l + 1) c l) r.rng }).result slot 3
        ((s.lanes f).flatMap fun l =>
          let out := drawBits (match s.wctx with | some c => c.seed | none => 0) (s.srcA f 18 l) (s.w.lwave % 2 ^ 32) l (s.w.r.rget l).toNat
          dstWr 18 f.d l (if f.ty = 8 then drawF32 out else out))).goOn false f slot none) ∧
    Completes rngSetcSpec false (.rngSetc f) f (fun slot s =>
      (s.withR fun r => { r with rng := (s.lanes f).foldl (fun c l => cset 0 (BitVec.ofNat 32 (s.srcA f 18 l)) c l) r.rng }).goOn
        false f slot none) ∧
    Writes rngGetcSpec (.rngGetc f) f 3 (fun s => (s.lanes f).flatMap fun l => dstWr 18 f.d l (s.w.r.rget l).toNat)) ∧
  (∀ f : Fields,
    let b := fun (s : State) => (BitVec.ofNat 32 (s.srcB f 18 0) : Word)
    let lo := fun (s : State) => (BitVec.ofNat 32 (s.srcA f 19 0) : Word)
    let hi := fun (s : State) => (BitVec.ofNat 32 (s.srcA f 19 0 / 2 ^ 32) : Word)
    Writes lsclGetSpec (.lsclGet f) f 1 (fun s => dstWr 19 f.d 0 (s.w.r.lsb ++ s.w.r.lsa).toNat) ∧
    CompletesIf lsclSetSpec false (.lsclSet f) f (fun s => lsOk (lo s) (hi s) = true) (fun slot s =>
      (s.withR fun r => { r with lsa := lo s, lsb := hi s }).goOn false f slot none) ∧
    CompletesIf lsclSetSpec false (.lsclSet f) f (fun s => lsOk (lo s) (hi s) = false) (fun _ s =>
      s.trapAt 0x0113 s.pc (BitVec.ofNat 64 (s.srcA f 19 0)) 1) ∧
    Writes lsclRdstSpec (.lsclRdst f) f 1 (fun s => dstWr 18 f.d 0 s.w.r.nstat.toNat) ∧
    Completes lsclClrstSpec false (.lsclClrst f) f (fun slot s =>
      (s.withR fun r => { r with nstat := r.nstat &&& ~~~ (b s &&& 0x31F) }).goOn false f slot none) ∧
    Completes lsclModeSpec false (.lsclMode f) f (fun slot s =>
      (s.withR fun r => { r with nstat := (r.nstat &&& ~~~ 0x10000) ||| (if (b s).getLsbD 0 then 0x10000 else 0) }).goOn false f slot none))

/-! ### Control flow -/

/-- R41, R298, R299: `nop` only goes on; `wait` goes on when its flag's count is at most K and its bank has no error; `yield` holds the wave back
min(n, 4096) issue slots. R305, R306: `call` writes the address after it to its link pair; `ret` goes to its pair; `jtab` falls through from its count on, and else goes to the table's entry, sign-extended, from the table. -/
def Obligations.JumpsAndWaits : Prop :=
  (∀ f : Fields,
    Completes nopSpec false (.nop f) f (fun slot s => s.goOn false f slot none) ∧
    CompletesIf waitFlagSpec false (.waitFlag f) f (fun s => s.w.count f.x.toNat ≤ s.srcA f 18 0 ∧ s.w.errOf f.x.toNat = none)
      (fun slot s => s.goOn false f slot none) ∧
    Completes yieldSpec false (.yield f) f (fun slot s =>
      (s.withW fun w => { w with notBefore := slot + 1 + min (s.srcA f 18 0) 4096 }).goOn false f slot none)) ∧
  (∀ f : Fields,
    let tab := fun (s : State) => s.target f
    let ea := fun (s : State) => s.target f + BitVec.ofNat 64 (4 * s.srcC f 18 0)
    Completes callSpec true (.call f) f (fun slot s =>
      (s.result slot 1 (dstWr 19 f.c 0 (s.pc + BitVec.ofNat 64 f.len.bytes).toNat)).goOn false f slot (some (s.target f))) ∧
    CompletesIf retSpec true (.ret f) f (fun s => (BitVec.ofNat 64 (s.srcA f 19 0)).toNat % 4 = 0) (fun slot s =>
      s.goOn false f slot (some (BitVec.ofNat 64 (s.srcA f 19 0)))) ∧
    CompletesIf jtabSpec true (.jtab f) f (fun s => f.x.toNat ≤ s.srcC f 18 0) (fun slot s => s.goOn false f slot none) ∧
    ∀ (s u : State) (bs : List Byte), issues jtabSpec true f s = true → (s.atIssue f).srcC f 18 0 < f.x.toNat →
      (s.atIssue f).w.k.outside (ea (s.atIssue f)) 4 = false → (s.atIssue f).iread (ea (s.atIssue f)) = .ok bs u →
      (tab (s.atIssue f) + BitVec.ofInt 64 (sext 32 (ofBytes (bs.take 4)))).toNat % 4 = 0 →
      exec (.jtab f) s =
        .next (u.goOn false f (issueSlot s f) (some (tab (s.atIssue f) + BitVec.ofInt 64 (sext 32 (ofBytes (bs.take 4)))))))

/-- R307 to R309, R311: `bc` with every lane one way is a jump or falls through; from a convergent wave outside a full region it makes two arms, the
fall-through arm at the next instruction; else it pushes a divergence and runs the taken lanes. -/
def Obligations.BranchDiverges : Prop :=
  ∀ f : Fields,
    let take := fun (s : State) => activeMask s.w.r f
    let fall := fun (s : State) => s.w.r.em &&& ~~~ guardMask s.w.r f
    let dual := fun (s : State) => s.w.r.ctl.other = none ∧ s.w.r.ctl.full = []
    let join := fun (s : State) => s.pc + BitVec.ofInt 64 f.imm.toInt
    CompletesIf bcSpec true (.bc f) f (fun s => fall s = 0) (fun slot s => s.goOn false f slot (some (s.target f))) ∧
    CompletesIf bcSpec true (.bc f) f (fun s => fall s ≠ 0 ∧ take s = 0) (fun slot s => s.goOn false f slot none) ∧
    (∀ s : State, issues bcSpec true f s = true → fall (s.atIssue f) ≠ 0 → take (s.atIssue f) ≠ 0 → dual (s.atIssue f) →
      ∃ t o, exec (.bc f) s = .next t ∧ t.w.r.ctl.other = some o ∧ t.w.r.ctl.join = join (s.atIssue f) ∧
        t.w.r.ctl.arm.taken = false ∧ t.w.r.ctl.arm.em = fall (s.atIssue f) ∧ t.w.r.ctl.arm.pc = (s.atIssue f).nextPc f ∧
        t.w.r.ctl.arm.stack = [] ∧ o.taken = true ∧ o.em = take (s.atIssue f) ∧ o.pc = (s.atIssue f).target f ∧ o.stack = []) ∧
    CompletesIf bcSpec true (.bc f) f
      (fun s => fall s ≠ 0 ∧ take s ≠ 0 ∧ ¬dual s ∧ s.w.r.ctl.arm.stack.length < 16)
      (fun slot s => s.goOnMoved (s.withArm fun a =>
        a.serialised s.pc (join s) (s.nextPc f) (s.target f) (take s) (fall s) slot) false f slot)

/-- R312, R313: `end` takes its arm's lanes out of LIVE and leaves every membership set; with lanes left the arm goes on as if at J of its top entry,
or parks, and with none the wave ends, once the matrix engine has let it. `full` makes every lane active, where the other arm is quiescent, and
there a fifth one traps with 0x0115; `endfull` restores the mask it saved, less the lanes that have ended, and traps with 0x0114 at another depth. R314,
R316, R317: `loop` with a count starts its record at the next instruction, and with a count of 0 ends it and skips past the instruction at
END; `brk` ends its record and goes past END, or past itself where the record is not active. A counter that its arm's open divergence
locks traps with 0x0114. -/
def Obligations.RegionsAndLoops : Prop :=
  (∀ f : Fields,
    let live := fun (s : State) => s.w.r.ctl.live &&& ~~~ s.w.r.ctl.arm.em
    let left := fun (s : State) => s.leaveSets s.w.uid
    let fifth := fun (s : State) => decide (s.w.r.ctl.full.length ≥ 4)
    CompletesIf endWaveSpec true (.endWave f) f (fun s => live s ≠ 0) (fun slot s =>
      s.goOnMoved ((left s).withCtl fun c =>
        { c with live := live s, arm := c.arm.ended c.other.isSome slot ((left s).nextPc f) }) false f slot) ∧
    CompletesIf endWaveSpec true (.endWave f) f (fun s => live s = 0 ∧ s.endWaits = false) (fun slot s =>
      s.goOnMoved (((left s).withW fun w => { w with
        status := .ended, frame := none
        r := { w.r with ctl := { w.r.ctl with live := 0, other := none, full := [], arm := { w.r.ctl.arm with em := 0, stack := [] } } }
        }).leaderGone (left s).w) false f slot) ∧
    (∀ (a : Arm) (dual : Bool) (slot : Nat) (next : DWord), (a.ended dual slot next).em = 0 ∧
      (∀ e rest, a.stack = e :: rest → (a.ended dual slot next).pc = e.j ∧ (a.ended dual slot next).parked = a.parked) ∧
      (a.stack = [] → dual = true → (a.ended dual slot next).parked = true)) ∧
    CompletesIf (ctlSpec 1) true (.full f) f (fun s => fifth s = false ∧ s.w.r.ctl.fullWaits = false) (fun slot s =>
      (s.withCtl fun c =>
        { c with full := { em := c.arm.em, depth := c.arm.stack.length, taken := c.arm.taken } :: c.full,
                 other := c.other.map fun o => if o.atFull = 1 ∧ c.arm.taken = true then { o with atFull := 2 } else o,
                 arm := { c.arm with em := allLanes, atFull := 0 } }).goOn false f slot none) ∧
    CompletesIf (ctlSpec 1) true (.full f) f (fun s => s.w.r.ctl.fullWaits = false ∧ fifth s = true) (fun _ s => s.trapBy 0x0115 s.pc (instrLow (.full f))) ∧
    (∀ c : Ctl, c.other = none → c.fullWaits = false) ∧
    (∀ (c : Ctl) (o : Arm), c.other = some o → c.full = [] →
      (c.fullWaits = true ↔ c.parkedArm o = false ∧ (if c.arm.taken then o.atFull ≠ 1 else o.atFull = 0 ∨ c.arm.atFull ≠ 2))) ∧
    (∀ (s : State) (e : FullEntry) (rest : List FullEntry), issues (ctlSpec 1) true f s = true →
      (s.atIssue f).w.r.ctl.full = e :: rest → e.depth = (s.atIssue f).w.r.ctl.arm.stack.length →
      exec (.endfull f) s = .next (((s.atIssue f).withCtl fun c =>
        { c with full := rest, arm := { c.arm with em := e.em &&& c.live } }).goOn false f (issueSlot s f) none)) ∧
    CompletesIf (ctlSpec 1) true (.endfull f) f
      (fun s => ∀ e ∈ s.w.r.ctl.full.head?, e.depth ≠ s.w.r.ctl.arm.stack.length) (fun _ s => s.trapBy 0x0114 s.pc 5)) ∧
  (∀ f : Fields,
    let n := f.x.toNat % 2
    let cnt := fun (s : State) => (BitVec.ofNat 32 (s.srcC f 18 0) : Word)
    CompletesIf loopSpec true (.loop f) f (fun s => s.w.r.ctl.locked n = false ∧ cnt s ≠ 0) (fun slot s =>
      (s.withArm fun a => a.setLp n { active := true, cnt := cnt s, start := s.nextPc f, stop := s.target f }).goOn false f slot none) ∧
    (∀ (s u : State) (bs : List Byte), issues loopSpec true f s = true → (s.atIssue f).w.r.ctl.locked n = false →
      cnt (s.atIssue f) = 0 → (s.atIssue f).iread ((s.atIssue f).target f) = .ok bs u →
      exec (.loop f) s = .next ((s.atIssue f).goOnMoved (u.withArm fun a => { a.setLp n LoopRec.none with
        pc := (s.atIssue f).target f + BitVec.ofNat 64 (lenAt bs), last := issueSlot s f, free := false
        done := some (a.skipDone n u.pc ((s.atIssue f).target f)), stalled := false }) false f (issueSlot s f))) ∧
    CompletesIf (ctlSpec 2) true (.brk f) f (fun s => s.w.r.ctl.locked n = false ∧ (s.w.r.ctl.arm.lp n).active = false)
      (fun slot s => s.goOn false f slot (some (s.nextPc f))) ∧
    (∀ (s u : State) (bs : List Byte), issues (ctlSpec 2) true f s = true → (s.atIssue f).w.r.ctl.locked n = false →
      ((s.atIssue f).w.r.ctl.arm.lp n).active = true →
      (s.atIssue f).iread ((s.atIssue f).w.r.ctl.arm.lp n).stop = .ok bs u →
      exec (.brk f) s = .next ((u.withArm fun a => a.setLp n LoopRec.none).goOn false f (issueSlot s f)
        (some (((s.atIssue f).w.r.ctl.arm.lp n).stop + BitVec.ofNat 64 (lenAt bs))))) ∧
    CompletesIf loopSpec true (.loop f) f (fun s => s.w.r.ctl.locked n = true) (fun _ s => s.trapBy 0x0114 s.pc 1) ∧
    CompletesIf (ctlSpec 2) true (.brk f) f (fun s => s.w.r.ctl.locked n = true) (fun _ s => s.trapBy 0x0114 s.pc 1))

/-- R299, R310, R311, R315: what happens at a wave's boundary with no instruction: the end actions of its loops, the pop of a divergence, the join of
its arms, and the end of a yield. -/
def Obligations.BoundaryEvents : Prop :=
  ∀ (w : Nat) (s : State),
    let e := s.select w
    let c := e.w.r.ctl
    (∀ addr, e.w.uid = w → e.w.atBoundary = true → c.arm.done = some addr → c.locked 0 = false → c.locked 1 = false →
      exec (.loopEndAction w addr) s = .next (e.withArm fun a => a.endActions addr)) ∧
    (∀ x rest, e.w.uid = w → e.w.atBoundary = true → c.arm.stack = x :: rest → c.arm.pc = x.j → x.fdone = false →
      exec (.divergencePop w) s = .next (e.withArm fun a =>
        { a with em := x.fmask &&& c.live, pc := x.fpc, stack := { x with fdone := true } :: rest })) ∧
    (∀ x rest, e.w.uid = w → e.w.atBoundary = true → c.arm.stack = x :: rest → c.arm.pc = x.j → x.fdone = true →
      c.arm.leaks x.la0 x.la1 = false → ∃ t, exec (.divergencePop w) s = .next t ∧ t.w.r.ctl.arm.em = x.rmask &&& c.live ∧
        t.w.r.ctl.arm.stack = rest ∧ t.w.r.ctl.arm.pc = x.j) ∧
    (∀ t n, e.w.uid = w → e.w.atBoundary = true → c.arms = some (t, n) → c.openFull t = false → c.openFull n = false →
      c.parkedArm t = true → c.parkedArm n = true → n.leaks c.la0 c.la1 = false → t.leaks c.la0 c.la1 = false →
      ∃ u, exec (.armJoin w) s = .next u ∧ u.w.r.ctl.other = none ∧ u.w.r.ctl.arm.taken = false ∧
        u.w.r.ctl.arm.pc = c.join ∧ u.w.r.ctl.arm.em = (n.em ||| t.em) &&& c.live) ∧
    exec (.yieldExpiry w) s = .next (s.mapWave w fun x => { x with notBefore := 0 })

/-! ### Membership sets and the collective branch -/

/-- R320, R321, R322: a `cbr` on a known outcome goes where it says; on an unknown one it votes at the set's home and runs ahead the way its
prediction says, with its state as a checkpoint. `cmjoin` and `cmleave` send to the home; a leave clears the membership at once. -/
def Obligations.CollectiveBranchIssues : Prop :=
  ∀ f : Fields,
    let set := cbrSet f
    let k := fun (s : State) => cget 0 s.w.r.next set
    let ready := fun (s : State) => s.setCheck set false (some true) = none ∧ s.w.membWaits set = false
    (∀ (s : State) (o : Outc), issues (cbrSpec f) true f s = true → ready (s.atIssue f) →
      (s.atIssue f).outcome? ((s.atIssue f).w.setRef set) (k (s.atIssue f)) = some o →
      ∃ t, exec (.cbr f) s = .next t ∧ t.w.ahead = none ∧
        t.w.r.next = cset 0 (k (s.atIssue f) + 1) (s.atIssue f).w.r.next set ∧
        t.w.r.ctl.arm.pc = if o.taken then (s.atIssue f).target f else (s.atIssue f).nextPc f) ∧
    (∀ s : State, issues (cbrSpec f) true f s = true → ready (s.atIssue f) →
      (s.atIssue f).outcome? ((s.atIssue f).w.setRef set) (k (s.atIssue f)) = none →
      (s.atIssue f).w.excl.contains (set, k (s.atIssue f)) = false →
      (s.atIssue f).routed ((s.atIssue f).setHome ((s.atIssue f).w.setRef set)) = true →
      let e := s.atIssue f
      let voted := e.send (e.setHome (e.w.setRef set))
        (.vote (e.w.setRef set) (k e) (e.member e.w) (some { func := f.x.toNat % 4, thr := f.imm, value := cbrVote e.w.r f }))
      ∃ t a, exec (.cbr f) s = .next t ∧ t.inbox = voted.inbox ∧ t.out = voted.out ∧ t.w.ahead = some a ∧
        t.w.r.next = cset 0 (k e + 1) e.w.r.next set ∧ t.w.r.ctl.arm.pc = (if f.x.getLsbD 6 then e.target f else e.nextPc f) ∧
        a.set = set ∧ a.inst = k e ∧ a.pred = f.x.getLsbD 6 ∧ a.takenPc = e.target f ∧ a.fallPc = e.nextPc f ∧ a.count = 1 ∧
        a.stores = [] ∧ a.fault = none ∧ a.fails = [] ∧ a.ckpt = t.w.r) ∧
    (∀ s : State, issues (cmSpec true) true f s = true → (s.atIssue f).setCheck f.x.toNat true (some false) = none →
      (s.atIssue f).routed ((s.atIssue f).setHome ((s.atIssue f).w.setRef f.x.toNat)) = true →
      let e := s.atIssue f
      exec (.cmjoin f) s = .next ((((e.startOp f false false).2.markMemb (e.startOp f false false).1 f.x.toNat true (dstWr 18 f.d 0 0)).send
        (e.setHome (e.w.setRef f.x.toNat)) (.join (e.w.setRef f.x.toNat) (e.member e.w))).goOn true f (issueSlot s f) none)) ∧
    (∀ s : State, issues (cmSpec false) true f s = true → (s.atIssue f).setCheck f.x.toNat true (some true) = none →
      (s.atIssue f).routed ((s.atIssue f).setHome ((s.atIssue f).w.setRef f.x.toNat)) = true →
      let e := s.atIssue f
      exec (.cmleave f) s = .next (((((e.startOp f false false).2.markMemb (e.startOp f false false).1 f.x.toNat false []).withR fun x =>
        { x with cmm := x.cmm &&& ~~~ (1#16 <<< f.x.toNat) }).send
        (e.setHome (e.w.setRef f.x.toNat)) (.leave (e.w.setRef f.x.toNat) (e.member e.w))).goOn true f (issueSlot s f) none))

/-- R319, R320: at a set's home a vote of the current instance is added to its votes and one of a later instance is kept for it; a join counts a
member, forms the set when it reaches EXPECT, and is answered with CUR but for set 0; a leave takes a member away, keeping in the reduced
vote what it gave CUR, and is answered. After each, the lowest instances resolve for as long as their votes and exclusions are complete: the
outcome goes to every chip with a member and CUR goes up by one; an incomplete instance stands as it was. That an instance with no vote and no
exclusion at all is not complete is the model's reading (DEDUCED, log 22). -/
def Obligations.SetHomeCounts : Prop :=
  ∀ (r : SetRef) (s : State),
    let h := s.home r
    let complete := h.formed = true ∧ h.votes.length = h.njoin ∧ ¬(h.votes = [] ∧ h.gone = [])
    let o := outcomeOf ((h.votes.map (·.2) ++ h.gone).filterMap id)
    let resolved := (h.chips.foldl (fun s c => s.send c (.outcome r h.cur o.1 o.2)) s).putHome { h with
      cur := h.cur + 1, gone := []
      votes := (h.early.filter fun e => e.1 == h.cur + 1).map (·.2), early := h.early.filter fun e => e.1 != h.cur + 1 }
    (∀ inst m v, exec (.voteArrival r inst m v) s = .next ((s.putHome (if inst = h.cur then { h with votes := h.votes ++ [(m, v)] }
      else { h with early := h.early ++ [(inst, m, v)] })).settleSet r)) ∧
    (∀ m, let u := s.putHome { h with
        njoin := h.njoin + 1, formed := h.formed || h.njoin + 1 == s.setExpect r
        chips := if h.chips.contains m.chip then h.chips else h.chips ++ [m.chip] }
      exec (.joinArrival r m) s = .next ((if r.set = 0 then u else u.send m.chip (.joinReply r m h.cur)).settleSet r)) ∧
    (∀ m, exec (.leaveArrival r m) s = .next (((s.putHome { h with
      njoin := h.njoin - 1, votes := h.votes.filter fun x => x.1 != m
      gone := h.gone ++ (h.votes.filter fun x => x.1 == m).map (·.2), early := h.early.filter fun e => e.2.1 != m }).send
        m.chip (.leaveAck r m)).settleSet r)) ∧
    (¬complete → s.settleSet r = s) ∧
    (complete → h.early = [] → s.settleSet r = resolved) ∧
    (complete → ∀ n, State.resolveSet (n + 1) s r = State.resolveSet n resolved r)

/-- R324: an outcome as predicted writes the records held back, performs the held stores in order and ends the `cbr`; another restores the checkpoint
at the other address, where a `cbr` that falls through leaves the end action of its address open; the records held back, and the held stores leaving group by group, are the
model's (log 23). R325, R326: where the chip no longer has the
outcome the branch falls through and its operation takes 0x0433, and where the home is lost every wave of the chip with something outstanding
on the set takes 0x0434, a run-ahead falling through; the other waves stand as they were. -/
def Obligations.RunAheadResolves : Prop :=
  (∀ (w : Nat) (s : State) (a : Ahead),
    let e := s.select w
    let back := fun (taken : Bool) => (e.withW fun x => x.restore a (if taken then a.takenPc else a.fallPc)
      (if taken then none else some (a.fallPc - 16))).dropFaults w
    let hit := (a.fails.foldl (fun s r => (s.record r).2) (e.withW fun x => { x with ahead := none })).performHeld a.stores
    e.w.uid = w → e.w.ahead = some a →
    (∀ o, e.outcome? (e.w.setRef a.set) a.inst = some o → o.taken = a.pred →
      exec (.outcomeArrival w) s = .next (hit.endCbr a.op a.set a.inst o.err)) ∧
    (∀ o, e.outcome? (e.w.setRef a.set) a.inst = some o → o.taken ≠ a.pred →
      exec (.outcomeArrival w) s = .next ((back o.taken).endCbr a.op a.set a.inst o.err)) ∧
    (e.outcome? (e.w.setRef a.set) a.inst = none → e.outcomeLost (e.w.setRef a.set) a.inst = true →
      exec (.outcomeArrival w) s = .next ((if a.pred then back false else hit).setFail a.op 0 0x0433 a.set a.inst)) ∧
    (∀ r : SetRef, s.w.uid = w → s.w.ctx = r.ctx → s.w.setRef r.set = r → s.w.membWaits r.set = false → a.set = r.set →
      s.loseSet w r = (if a.pred then back false else hit).setFail a.op 13 0x0434 a.set a.inst)) ∧
  (∀ (r : SetRef) (s : State),
    exec (.setHomeUnreachable r) s = .next (((s.waves.map (·.uid)).foldl (fun s u => s.loseSet u r) s).select s.w.uid)) ∧
  (∀ (r : SetRef) (w : Nat) (s : State), (s.select w).w.uid ≠ w ∨ (s.select w).w.ctx ≠ r.ctx ∨ (s.select w).w.setRef r.set ≠ r →
    s.loseSet w r = s) ∧
  (∀ (r : SetRef) (s : State) (o : Op) (join : Bool), s.w.ctx = r.ctx → s.w.setRef r.set = r → s.w.ahead = none →
    s.w.ops = [o] → o.fin = false → o.memb = some (r.set, join) →
    s.loseSet s.w.uid r = s.setFail o.id 13 0x0434 r.set (cget 0 s.w.r.next r.set))

/-! ### Traps and privileged instructions -/

/-- R24, R36, R39, R367: `trap`, `bkpt`, a word of zeros and a word of a reserved operation take their traps: 0x0140 and 0x0143 with the number they
carry, 0x010C, and 0x0101 (0x0102 where LEN is 3) with the word. R367 to R369: `halt`, `esig` and `pmset`, which a system context alone may issue:
`esig` writes a record with the code, address, detail and action it names and enacts nothing; `pmset` sets a core's BUDGET, or reads its CPWRCTL. -/
def Obligations.SystemInstructions : Prop :=
  (∀ (f : Fields) (s : State),
    let e := s.atIssue f
    (issues (trapSpec (fun x => decide (x < 1024)) false false) false f s = true →
      exec (.trap f) s = .next (e.trapAt 0x0140 e.pc (f.x.setWidth 64) 1)) ∧
    (issues (trapSpec (fun _ => true) false false) false f s = true →
      exec (.bkpt f) s = .next (e.trapAt 0x0143 e.pc (f.x.setWidth 64) 0)) ∧
    (s.w.status = .run → s.w.preempted = false → exec .allZeroWord s = .next (s.trapAt 0x010C s.pc 0 1)) ∧
    (∀ word : DWord, s.w.status = .run → s.w.preempted = false →
      exec (.reservedOp word) s = .next (s.trapAt (if word.extractLsb' 0 2 = 3 then 0x0102 else 0x0101) s.pc word 1))) ∧
  (∀ f : Fields,
    Completes haltSpec false (.halt f) f (fun slot s => (s.withW fun w => { w with status := .halted }).goOn false f slot none) ∧
    CompletesIf esigSpec false (.esig f) f (fun s => 0xF000 ≤ (BitVec.ofNat 16 (s.srcA f 18 0)).toNat) (fun slot s =>
      ((s.record { s.waveRecord s.w 0 false (BitVec.ofNat 16 (s.srcA f 18 0)) (BitVec.ofNat 64 (s.srcB f 19 0))
        (BitVec.ofNat 64 (s.srcC f 19 0)) 0 with action := f.x.toNat }).2.longDone f [] 0).goOn true f slot none) ∧
    CompletesIf (pmsetSpec false) false (.pmsetBudget f) f
      (fun s => s.corePresent (s.srcA f 18 0) = true ∧ 16 ≤ s.srcB f 18 0 ∧ s.srcB f 18 0 ≤ 255)
      (fun slot s => ({ s with budgets := assign (s.srcA f 18 0) (s.srcB f 18 0) s.budgets } : State).goOn false f slot none) ∧
    CompletesIf (pmsetSpec true) false (.pmsetRead f) f (fun s => s.corePresent (s.srcA f 18 0) = true) (fun slot s =>
      (s.result slot 1 (dstWr 18 f.d 0 (s.used (s.srcA f 18 0) * 2 ^ 16 + s.budget (s.srcA f 18 0)))).goOn false f slot none))

/-- R322, R349, R351, R352, R354: a trap, whatever its code and action. In a run-ahead it is held with no record. Else it writes one record. In a kernel
with a handler it freezes the control state in the frame, and the wave goes on at the handler with every live lane active and no divergence, full
region or loop. Without a handler the action is applied: KILL-WAVE ends the wave, KILL-LAUNCH and KILL-JOB stop it and begin the cancel,
RESET-PACKAGE stops it and the package's fatal reset follows, and RETRY and SERVICE park it. A trap in handler mode ends the wave under a record of
0x0142 with the code in DETAIL. Item 0's OVF is that of the context ring's copy (DEDUCED, log 54). -/
def Obligations.TakingATrap : Prop :=
  ∀ (s : State) (code : BitVec 16) (addr detail : DWord) (action : Nat),
    let t := s.trapAt code addr detail action
    let c := s.w.r.ctl
    let at_ := if code = 0x0114 ∧ detail = 2 then addr else s.recAddr code addr
    (∀ a, s.w.ahead = some a →
      t.w.ahead = some { a with fault := some (code, addr, detail) } ∧ t.w.status = s.w.status ∧ t.w.r.ctl.arm.stalled = true ∧
      t.pkg = s.pkg ∧ t.ctxs = s.ctxs ∧ t.out = s.out ∧ t.inbox = s.inbox) ∧
    (s.w.ahead = none → s.w.frame = none → s.w.k.trapOff ≠ 0 → ∃ fr,
      t.pkg.seqNo = s.pkg.seqNo + 1 ∧ t.w.status = .run ∧ t.w.frame = some fr ∧ fr.code = code ∧ fr.addr = at_ ∧
      fr.detail = s.recDetail code detail ∧ fr.xpc = c.arm.pc ∧ fr.em = c.arm.em ∧ fr.seqNo = s.pkg.seqNo + 1 ∧ fr.ctl = c ∧
      fr.word0 = BitVec.ofNat 32 (code.toNat + action * 2 ^ 16 + 2 ^ 19 + severityOf action * 2 ^ 20 + 2 ^ 22 +
        (if s.ctxOvf s.w.ctx then 2 ^ 23 else 0)) ∧
      t.w.r.ctl.arm.pc = s.w.k.hdr + 64 + BitVec.ofNat 64 s.w.k.trapOff ∧ t.w.r.ctl.arm.em = c.live ∧ t.w.r.ctl.live = c.live ∧
      t.w.r.ctl.arm.stack = [] ∧ t.w.r.ctl.other = none ∧ t.w.r.ctl.full = [] ∧ t.w.r.ctl.arm.lp0.active = false ∧
      t.w.r.ctl.arm.lp1.active = false ∧ t.w.r.ctl.arm.errs = c.arm.errs ∧ t.w.r.v = s.w.r.v ∧ t.w.r.s = s.w.r.s ∧ t.w.r.p = s.w.r.p) ∧
    (s.w.ahead = none → s.w.frame = none → s.w.k.trapOff = 0 →
      (action = 1 → t.w.status = .ended ∧ t.w.r.ctl.live = 0) ∧
      (∀ level, (action = 2 ∧ level = 0 ∨ action = 3 ∧ level = 3) → t.w.status = .stopped ∧ t.w.r.ctl = c ∧
        ∃ v : State, t = v.startCancel s.w.ctx level s.w.key) ∧
      (action = 4 → t.w.status = .stopped ∧ t.w.r.ctl = c ∧ (code ≠ 0x0703 → code ≠ 0x0704 → t.pkg.fatal.isSome = true)) ∧
      (action = 0 ∨ action = 5 → t.w.status = .parked code ∧ t.w.r.ctl = c ∧ t.pkg.seqNo = s.pkg.seqNo + 1)) ∧
    (s.w.ahead = none → s.w.frame.isSome = true →
      let e := s.dropFaults s.w.uid
      t = ((e.record { e.waveRecord e.w 0 true 0x0142 at_ (code.setWidth 64) c.arm.pc with action := 1 }).2).killWave s.w.uid ∧
      t.w.status = .ended ∧ t.w.r.ctl.live = 0 ∧ t.w.frame = none)

/-- R352, R354, R367: in a handler `trap.rd` reads the frame; `rte` and `rte.retry` resume at XPC, `rte.skip`, and a retry of `bkpt`, past the
instruction there, and `rte.to` at its address; a skip of a word that cannot be fetched or has LEN 3 traps with 0x0102 and a misaligned `rte.to` with
0x0109; `rte.end` ends the wave, and in the frame of a cancel (0x0630) every form does. Outside a handler each of them traps with 0x0141. That
`rte.retry` at a `bkpt` which cannot be fetched any more traps as `rte.skip` does is the model's reading (DEDUCED, log 56). -/
def Obligations.HandlerInstructions : Prop :=
  ∀ (f : Fields) (s : State),
    let e := s.atIssue f
    let rte := trapSpec (fun x => decide (x < 4)) false false
    let rteTo := trapSpec (fun x => decide (x < 4)) false true
    let dest : DWord := BitVec.ofNat 64 (e.srcA f 19 0)
    let moved := fun (u : State) => Host.Outcome.next (e.goOnMoved u false f (issueSlot s f))
    (∀ fr : Frame, e.w.frame = some fr →
      let resume := fun (u : State) pc => moved (u.withW fun w => w.leaveHandler fr pc)
      (issues trapRdSpec false f s = true →
        exec (.trapRd f) s = .next ((e.result (issueSlot s f) 1 (dstWr 18 f.d 0 (fr.item (f.x.toNat % 16)).toNat)).goOn
          false f (issueSlot s f) none)) ∧
      (issues rte false f s = true → fr.code ≠ 0x0630 → fr.code ≠ 0x0143 → exec (.rteRetry f) s = resume e fr.xpc) ∧
      (∀ n u, issues rte false f s = true → fr.code = 0x0143 → e.skipLen fr.xpc = .ok n u →
        exec (.rteRetry f) s = resume u (fr.xpc + BitVec.ofNat 64 n)) ∧
      (issues rte false f s = true → fr.code = 0x0143 → e.skipLen fr.xpc = .refused →
        exec (.rteRetry f) s = .next (e.trapAt 0x0102 e.pc (instrLow (.rteRetry f)) 1)) ∧
      (∀ n u, issues rte false f s = true → fr.code ≠ 0x0630 → e.skipLen fr.xpc = .ok n u →
        exec (.rteSkip f) s = resume u (fr.xpc + BitVec.ofNat 64 n)) ∧
      (issues rte false f s = true → fr.code ≠ 0x0630 → e.skipLen fr.xpc = .refused →
        exec (.rteSkip f) s = .next (e.trapAt 0x0102 e.pc (instrLow (.rteSkip f)) 1)) ∧
      (issues rteTo false f s = true → fr.code ≠ 0x0630 → dest.toNat % 4 = 0 → exec (.rteTo f) s = resume e dest) ∧
      (issues rteTo false f s = true → fr.code ≠ 0x0630 → dest.toNat % 4 ≠ 0 →
        exec (.rteTo f) s = .next (e.trapAt 0x0109 e.pc (blockEnd e.pc) 1)) ∧
      (issues rte false f s = true → fr.code = 0x0630 →
        exec (.rteRetry f) s = moved (e.killWave e.w.uid) ∧ exec (.rteSkip f) s = moved (e.killWave e.w.uid)) ∧
      (issues rteTo false f s = true → fr.code = 0x0630 → exec (.rteTo f) s = moved (e.killWave e.w.uid)) ∧
      (issues rte false f s = true → ∃ t, exec (.rteEnd f) s = .next t ∧ t.w.status = .ended ∧ t.w.r.ctl.live = 0 ∧ t.w.frame = none)) ∧
    (e.w.frame = none →
      let turned := fun (i : Instr) => exec i s = .next (e.trapAt 0x0141 e.pc (instrLow i) 1)
      (issues trapRdSpec false f s = true → turned (.trapRd f)) ∧
      (issues rte false f s = true → turned (.rteRetry f) ∧ turned (.rteSkip f) ∧ turned (.rteEnd f)) ∧
      (issues rteTo false f s = true → turned (.rteTo f)))

/-- R297, R351, R370: a trap at a wave's boundary, that of a flag's error with the action of the failure its detail names, its error cleared where the
trap is delivered; the cancel trap a wave has pending; the retirement of the oldest finished operation of a flag, after the short results due by then
have reached the registers and, in a run-ahead, the checkpoint, its results reaching the registers and the matrix engine giving up what it held for
it; and the power manager's steps, of which the lowering of a core's BUDGET writes a record of 0x0701 with the core and the new value, in places
that are the model's reading (DEDUCED, log 38). -/
def Obligations.WaveEvents : Prop :=
  ∀ s : State,
    (∀ w code addr detail, let e := s.select w
      e.w.uid = w → e.w.status ≠ .ended → e.w.preempted = false → code ≠ 0x0630 → code ≠ 0x0120 →
      exec (.trapTake w code addr detail) s = .next (e.trapAt code addr detail (actionOf code))) ∧
    (∀ w addr detail, let e := s.select w
      let u := if e.w.ahead.isSome then e else e.withW fun x => x.clearErr (detail.extractLsb' 16 4).toNat
      e.w.uid = w → e.w.status ≠ .ended → e.w.preempted = false →
      exec (.trapTake w 0x0120 addr detail) s = .next (u.trapAt 0x0120 addr detail (actionOf (detail.setWidth 16)))) ∧
    (∀ w addr detail r n, let e := s.select w
      e.w.uid = w → e.w.status ≠ .ended → e.w.preempted = false → e.w.cancel = some (r, n) →
      exec (.trapTake w 0x0630 addr detail) s = .next (e.takeCancel r n)) ∧
    (∀ w flag x o, s.wave w = some x → retirable flag [] x.ops = some o →
      let due := s.clock / 4
      let ripe := (s.touchHeld x ((x.r.ripe due).flatMap (·.wrs))).mapWave x.uid fun x =>
        { x with r := x.r.settle due, ahead := x.ahead.map fun a => { a with ckpt := a.ckpt.settle due } }
      let u := (ripe.touchHeld x o.wrs).mapWave w fun x => x.retire o
      exec (.operationRetire w flag) s = .next (if o.eng then u.releaseBlock x o.id else u)) ∧
    (∀ core (b : BitVec 8), s.corePresent core = true → 16 ≤ b.toNat → s.budget core ≤ b.toNat →
      exec (.budgetRaise core b) s = .next { s with budgets := assign core b.toNat s.budgets }) ∧
    (∀ core (b : BitVec 8), s.corePresent core = true → 16 ≤ b.toNat → b.toNat < s.budget core →
      let u : State := { s with budgets := assign core b.toNat s.budgets }
      exec (.budgetLower core b) s =
        .next (u.failNoWave (u.bareRecord 11 0x0701 u.openAddr (BitVec.ofNat 64 (core + b.toNat * 2 ^ 8))) none))

/-! ### Memory, caches and order -/

/-- R153 to R155, R333: a load, once the addresses of its lanes translate and are allowed, reads each piece from its core's L1 or by an
access in the core's port; a store enters its accesses, or holds them while its wave runs ahead (R323). -/
def Obligations.LoadsAndStoresIssue : Prop :=
  ∀ (f : Fields) (sp : Bool),
    let ld : Instr := if sp then .ldsp f else .ld f
    let st : Instr := if sp then .stsp f else .st f
    let found := fun (i : Instr) (k : Kind) (s : State) (ls : List Loc) =>
      absentLane s f sp (scaleX f) = false ∧ s.scopeValid s.w.ctx (scopeX f) = true ∧ locateLanes s f i sp k (scaleX f) = .ok ls
    CompletesFor (loadSpec sp) ld f (found ld .read) (fun slot s ls =>
      let op := (s.startOp f (ordX f == 1) true).1
      ((ls.foldl (fun s l => (pieces (tyBits f.ty.toNat / 8)).foldl (fun s p =>
        s.loadPiece f sp op (ordX f == 1 && scopeX f != 0) l p) s) (s.startOp f (ordX f == 1) true).2).closeOp op).goOn true f slot none) ∧
    CompletesFor (storeSpec sp) st f (fun s ls => found st .write s ls ∧ s.w.ahead = none) (fun slot s ls =>
      let b := s.startOp f false false
      (((storeAccs b.2 f sp b.1 ls).foldl State.issueStore b.2).closeOp b.1).goOn true f slot none) ∧
    CompletesFor (storeSpec sp) st f (fun s ls => found st .write s ls ∧ ∃ a, s.w.ahead = some a ∧
        (a.stores.map heldBlocks).sum + heldBlocks (storeAccs s f sp 0 ls) ≤ 32) (fun slot s ls =>
      let b := s.startOp f false false
      (b.2.withW fun w => { w with ahead := w.ahead.map fun a => { a with stores := a.stores ++ [storeAccs b.2 f sp b.1 ls] } }).goOn
        true f slot none)

/-- R96 to R98, R157 to R159: an atomic enters one access for each word its lanes name and drops its sector from its core's L1; `ldlit` reads its
literals through the instruction cache, once every lane's address lies in the code segment and translates, to be written when its flag's
operation retires, that operation failing with 0x0501 or 0x0511 for the first lane whose sector returns no data; and it traps with 0x0211 for the
first lane whose address lies outside. -/
def Obligations.AtomicsAndLiteralsIssue : Prop :=
  ∀ f : Fields,
    let t := f.ty.toNat
    let ord := (f.x.extractLsb' 9 2).toNat
    let sord := (f.x.extractLsb' 10 2).toNat
    let scale := if f.x.getLsbD 11 then tyBits t / 8 else 1
    let size := tyBits t / 8
    let eas := fun (s : State) => (memLanes s f).map fun l =>
      (l, s.pc + f.imm.signExtend 64 + BitVec.ofInt 64 (sext 32 (s.srcA f 18 l) * size))
    let atom := fun (i : Instr) (ret : Nat) => CompletesFor (atomSpec (ret != 0) f) i f
      (fun s ls => s.scopeValid s.w.ctx (scopeX f) = true ∧ locateLanes s f i false .atomic scale = .ok ls)
      (fun slot s ls => let b := s.startOp f (natBit ord 0) (ret != 0)
        (b.2.issueAtomics f false b.1 ret (natBit ord 0) (natBit ord 1) ls).goOn true f slot none)
    atom (.atom f) 1 ∧ atom (.atomr f) 2 ∧ atom (.red f) 0 ∧
    CompletesFor (spatomSpec f) (.spatom f) f
      (fun s ls => absentLane s f true size = false ∧ s.scopeValid s.w.ctx (scopeX f) = true ∧
        locateLanes s f (.spatom f) true .atomic size = .ok ls)
      (fun slot s ls => let b := s.startOp f (natBit sord 0) true
        (b.2.issueAtomics f true b.1 (if f.d = 731 then 0 else 1) (natBit sord 0) (natBit sord 1) ls).goOn true f slot none) ∧
    CompletesFor (ldlitSpec f) (.ldlit f) f
      (fun s (x : State × List Wr × Option (BitVec 16 × DWord)) => (∀ ea ∈ eas s, s.w.k.outside ea.2 size = false) ∧
        (∃ hs, xlateLanes s .fetch size (eas s) = .ok hs) ∧ litReads t f s (eas s) [] none = .inl x)
      (fun slot _ x =>
        let b := x.1.startOp f false true
        let u := match x.2.2 with
          | none => b.2
          | some bad => b.2.opFail b.2.w.uid b.1
              { engine := if bad.1 = 0x0511 then 4 else 5, code := bad.1, addr := bad.2, detail := 0 }
        (u.finishOp u.w.uid b.1 x.2.1 0 none).goOn true f slot none) ∧
    CompletesFor (ldlitSpec f) (.ldlit f) f
      (fun s (x : Nat × DWord) => (eas s).find? (fun x => s.w.k.outside x.2 size) = some x)
      (fun _ s x => s.trapBy 0x0211 x.2 (xlDetail x.1 .fetch 7))

/-- R91, R120 to R122: `pf` waits for the walks of the addresses that miss, and then fills what it can and drops the rest; `cinv` empties the core's
L1, or drops the sectors its lanes name there; `cwb` sends write-backs to the home slices. (The access kind of the addresses of `cinv` and `cwb`
is the model's choice, log 27.) -/
def Obligations.CacheInstructionsIssue : Prop :=
  ∀ f : Fields,
    let found := fun (s : State) (ls : List Loc) => memLocate s .read 1 (cacheAddrs s f) = .ok ls
    let missed := fun (s : State) => (cacheAddrs s f).filter fun x => s.xlate x.2 == .miss
    let cwb := fun (i : Instr) (mode : Nat) => CompletesFor (cacheSpec true true 1 fun x => x == mode) i f found (fun slot s ls =>
      let b := s.startOp f false false
      (((ls.filter fun l => (l.cls == 0 || l.cls == 2) && l.peer.isNone).foldl (fun s l => s.pushClean b.1 mode l) b.2).closeOp b.1).goOn
        true f slot none)
    CompletesIf (cacheSpec true false 4 fun x => x != 3) false (.pf f) f (fun s => missed s = []) (fun slot s =>
      ((((cacheAddrs s f).foldl (fun s a => s.prefetch f a.1 a.2) s).dropFaults s.w.uid).longDone f [] 0).goOn true f slot none) ∧
    CompletesIf (cacheSpec true false 4 fun x => x != 3) false (.pf f) f (fun s => missed s ≠ []) (fun _ s =>
      ((((missed s).map fun x => x.2.toNat / 2 ^ 16).eraseDups).foldl State.joinWalk s).waits) ∧
    Completes (cacheSpec false true 1 fun x => x == 0) false (.cinv f) f (fun slot s =>
      ((s.withM fun m => m.l1Clear s.w.core).longDone f [] 0).goOn true f slot none) ∧
    CompletesFor (cacheSpec true true 1 fun x => x == 1) (.cinvSector f) f found (fun slot s ls =>
      ((ls.foldl (fun s l => if l.cls == 1 || l.cls == 3 || l.peer.isSome then s else s.withM fun m => m.l1Drop s.w.core l.pa) s).longDone
        f [] 0).goOn true f slot none) ∧
    cwb (.cwb f) 0 ∧ cwb (.cwbInv f) 1 ∧
    Completes (cacheSpec false true 1 fun x => x == 2) false (.cwbCtx f) f (fun slot s =>
      let b := s.startOp f false false
      (b.2.pushClean b.1 2 { lane := 0, va := 0, pa := 0, peer := none, cls := 0 }).goOn true f slot none)

/-- R341, R342: a `fence` stands at its place among the core's accesses until what it waits for is performed, an acquire of a scope that reaches
other packages asking those its wave has read at, and a release at core scope is remembered for the relaxed writes after it. R344, R345: `bar` and `bara` arrive at a team barrier once the release at core scope is done, `bara`
with the phase as its token; `bar` and `barw` complete where the phase differs from their token, and else sleep. R346: with MEM they go to the
barrier word, an arrival dropping its sector from the core's own L1, where `bar` and `barw` sleep, and a sleeping wave's core reads the word again through the translation as it stands, the wave
waking with the failure where that fails (the latter is the model's choice, log 28). A count that is not the one of the phase under way traps
with 0x0122. -/
def Obligations.FencesAndBarriersIssue : Prop :=
  (∀ f : Fields,
    let count := fun (s : State) => s.srcB f 18 0
    let bar := fun (s : State) => s.bar (scopeX f)
    let held := fun (s : State) => releaseHolds s.w.core s.w.uid 0 false s.m.port
    let clash := fun (s : State) => (bar s).arrived ≠ 0 ∧ (bar s).expect ≠ count s
    let team := fun (i : Instr) (s : State) => memX f = false ∧ barCheck s i f (some (count s)) = none ∧ held s = false
    let mem := fun (sp : Spec) (i : Instr) (waits : Bool) (n : State → Nat) (chk : State → Option Nat) (tok : State → Bool) =>
      CompletesFor sp i f (fun s (h : Nat × DWord × Hit) => memX f = true ∧ barCheck s i f (chk s) = none ∧
          xlateLanes s .atomic 8 [(0, memAddr s.w.r { f with c := 0, imm := 0 } 1 0)] = .ok [h]) fun slot s h =>
        let b := s.startOp f waits (!waits)
        let va := memAddr s.w.r { f with c := 0, imm := 0 } 1 0
        let l := b.2.locate 0 va h.2.2
        let dropped := if n s = 0 then b.2 else b.2.withM fun m => m.l1Drop b.2.w.core (l1Addr l.peer l.pa)
        let u := dropped.pushAcc { b.2.newAcc b.1 false l 8 (.barrier (n s) waits) with
          parts := [{ lane := 0, data := 0, cmp := 0 }], dst := if waits then none else dstOf f.d, acq := waits, rel := n s != 0
          scope := scopeX f }
        (if waits then u.withW fun w => { w with status := .sleepWord va (scopeX f) b.1 (tok s) } else u).goOn true f slot none
    CompletesIf (fenceSpec f) false (.fence f) f (fun s => s.scopeValid s.w.ctx (scopeX f) = true) (fun slot s =>
      let ord := (f.x.extractLsb' 8 2).toNat
      let b := s.startOp f true false
      let x : Fence := {
        id := b.2.nextId, wave := b.2.w.uid, op := b.1, core := b.2.w.core, ctx := b.2.w.ctx
        rel := natBit ord 1, acq := natBit ord 0, sc := f.x.getLsbD 10, scope := scopeX f, asked := false }
      let u : State := { b.2 with nextId := b.2.nextId + 1 }
      let u := if natBit ord 1 && scopeX f == 0 then u.withW fun w => { w with relFence := true } else u
      let u := if natBit ord 0 && (scopeX f == 2 || scopeX f == 3) then u.fencePeers x.id else u
      (State.settleFences { u with fences := u.fences ++ [x] }).goOn true f slot none) ∧
    CompletesIf (barSpec false false f) false (.bar f) f (fun s => team (.bar f) s ∧ ¬clash s) (fun slot s =>
      let b := s.startOp f true false
      ((b.2.arrive (scopeX f) (count s)).waitBar (scopeX f) b.1 (bar s).phase).goOn true f slot none) ∧
    CompletesIf (barSpec false true f) false (.bara f) f (fun s => team (.bara f) s ∧ ¬clash s) (fun slot s =>
      let b := s.startOp f false true
      let u := b.2.arrive (scopeX f) (count s)
      (u.finishOp u.w.uid b.1 (dstWr 18 f.d 0 (if (bar s).phase then 1 else 0)) 0 none).goOn true f slot none) ∧
    CompletesIf (barSpec true false f) false (.barw f) f (fun s => memX f = false ∧ barCheck s (.barw f) f none = none) (fun slot s =>
      let b := s.startOp f true false
      (b.2.waitBar (scopeX f) b.1 (natBit (s.srcB f 18 0) 0)).goOn true f slot none) ∧
    CompletesIf (barSpec false false f) false (.bar f) f (fun s => team (.bar f) s ∧ clash s) (fun _ s =>
      s.trapBy 0x0122 s.pc (BitVec.ofNat 64 (count s + (bar s).expect * 2 ^ 32))) ∧
    CompletesIf (barSpec false true f) false (.bara f) f (fun s => team (.bara f) s ∧ clash s) (fun _ s =>
      s.trapBy 0x0122 s.pc (BitVec.ofNat 64 (count s + (bar s).expect * 2 ^ 32))) ∧
    mem (barSpec false false f) (.bar f) true count (fun s => some (count s)) (fun _ => false) ∧
    mem (barSpec false true f) (.bara f) false count (fun s => some (count s)) (fun _ => false) ∧
    mem (barSpec true false f) (.barw f) true (fun _ => 0) (fun _ => none) (fun s => natBit (s.srcB f 18 0) 0)) ∧
  ∀ (w : Nat) (s : State) (va : DWord) (scope op : Nat) (tok : Bool),
    let e := s.select w
    let at_ := e.engXlate (dieOf e.w.core) e.w.ctx va
    let failed := fun (u : State) (code : BitVec 16) (level : Nat) =>
      ((u.opFail w op { engine := 0, code := code, addr := u.xlAddr (dieOf u.w.core) u.w.ctx code va, detail := xlDetail 0 .atomic level
        }).finishOp w op [] 0 none).withW fun w => { w with status := .run }
    e.w.uid = w → e.w.status = .sleepWord va scope op tok → (e.m.port.any fun a => a.op == op) = false →
    (∀ h u, at_ = (.hit h, u) → accessFault (u.reachable u.w h.pa) u.priv .atomic 8 va.toNat h = none →
      exec (.barrierWordReread w) s = .next (u.pushAcc { u.newAcc op false (u.locate 0 va h) 8 (.barrier 0 true) with
        parts := [{ lane := 0, data := 0, cmp := 0 }], acq := true, scope := scope })) ∧
    (∀ h u r code, at_ = (.hit h, u) → accessFault (u.reachable u.w h.pa) u.priv .atomic 8 va.toNat h = some (r, code) →
      exec (.barrierWordReread w) s = .next (failed u code 7)) ∧
    (∀ level code u, at_ = (.fail level code, u) → exec (.barrierWordReread w) s = .next (failed u code level))

/-! ### Copies, queues and completion objects -/

/-- R132, R133: `cpy`, `cpys` and `cpym` that pass their precise checks begin a copy where their core has room for one, or complete at once with no
bytes to move, and one that a check refuses traps with its code; `cpys` with an entry that is invalid, too small or cannot be read, and `cpym` to a
set of which no core serves, complete with the failure of R133; for an invalid entry the checks take 4 bytes an element (DESIGN CHOICE, log 29). R134, R135: a copy that does not wait moves its next group of at most 256
bytes, unit by unit where source and destination overlap, or its next element, and its objects are decremented once the bytes are at their points; one that a fault stops gives them the rest
with ERR; and a copy whose last byte has moved ends. -/
def Obligations.CopiesIssueAndMove : Prop :=
  (∀ f : Fields,
    let dir := f.x.toNat % 4
    let dm : Bool := dir = 1 ∨ dir = 2
    let sm : Bool := dir = 0 ∨ dir = 2
    let scope := f.x.toNat % 32
    let p := (f.x.extractLsb' 6 5).toNat
    let n := fun (s : State) => s.srcB f 18 0
    let hint := f.mod.toNat % 4
    let mSpec := cpySpec f false true fun f => decide (f.x.toNat < 64) && f.x.toNat % 32 != 2 && f.x.toNat % 32 != 3
    let passed := fun (s : State) => s.patternPass s.w.ctx p
    let pat := fun (s : State) => (passed s).pattern s.w.ctx p
    let esize := fun (s : State) => match pat s with | some x => x.esize | none => 4
    let set := fun (s : State) => (List.range 256).filter fun k => s.corePresent k && s.scopeCovers s.w.ctx scope s.w.core k
    let served := fun (s : State) (d : CEnd) => (set s).filter fun k => s.spAllocated s.w.key k (match d with | .sp _ o => o | _ => 0) (n s)
    let failed := fun (s : State) (c : Copy) (code : BitVec 16) (addr : DWord) => ({ s with nextId := s.nextId + 1 } : State).copyFail c code addr 0
    let refused := fun (sp : Spec) (i : Instr) (chk : State → Sum (BitVec 16) (CEnd × CEnd × Option Nat)) =>
      CompletesFor sp i f (fun s c => chk s = .inl c) fun _ s c => s.trapBy c s.pc (instrLow i)
    let cpy := fun (s : State) => copyChecks s f dm sm (n s)
    let cpys := fun (s : State) => copyChecks (passed s) f false true (n s * esize s)
    CompletesFor (cpySpec f dm sm fun f => f.x.toNat &&& 0x23 == f.x.toNat) (.cpy f) f
      (fun s (x : CEnd × CEnd × Option Nat) => cpy s = .inr x ∧ s.copyFull = false)
      (fun slot s x => let b := s.startOp f false false
        (b.2.addCopy (b.2.newCopy b.1 x.1 x.2.1 (n s) x.2.2 hint)).goOn true f slot none) ∧
    refused (cpySpec f dm sm fun f => f.x.toNat &&& 0x23 == f.x.toNat) (.cpy f) cpy ∧
    CompletesFor (cpysSpec f) (.cpys f) f (fun s (x : CEnd × CEnd × Option Nat) => cpys s = .inr x ∧ s.copyFull = false)
      (fun slot s x =>
        let b := (passed s).startOp f false false
        let c := b.2.newCopy b.1 x.1 x.2.1 (n s * esize s) x.2.2 hint
        (if n s = 0 then b.2.addCopy c else match s.patternBad s.w.ctx p with
          | some sec => failed b.2 c 0x0501 (BitVec.ofNat 64 sec)
          | none => match pat s with
            | none => failed b.2 c 0x0221 0
            | some x => if n s ≤ x.counts.foldl (· * ·) 1 then b.2.addCopy { c with pat := some (p, x.esize, x.counts, x.strides) }
                else failed b.2 c 0x0221 0).goOn true f slot none) ∧
    refused (cpysSpec f) (.cpys f) cpys ∧
    CompletesFor mSpec (.cpym f) f
      (fun s (x : CEnd × CEnd × Option Nat) => s.scopeValid s.w.ctx scope = true ∧ copyChecks s f false true (n s) = .inr x ∧ s.copyFull = false)
      (fun slot s x =>
        let b := s.startOp f false false
        let c := { b.2.newCopy b.1 x.1 x.2.1 (n s) x.2.2 hint with
          multi := (served s x.2.1).map fun k => k * 2 ^ 19 + (match x.2.1 with | .sp _ o => o | _ => 0), skipped := (served s x.2.1).length != (set s).length }
        (if served s x.2.1 = [] ∧ n s ≠ 0 then ({ b.2 with nextId := b.2.nextId + 1 } : State).copyEnd c
            (some { engine := 1, code := 0x0622, addr := 0, detail := 0 })
          else b.2.addCopy c).goOn true f slot none) ∧
    CompletesFor mSpec (.cpym f) f
      (fun s c => s.scopeValid s.w.ctx scope = true ∧ copyChecks s f false true (n s) = .inl c)
      (fun _ s c => s.trapBy c s.pc (instrLow (.cpym f)))) ∧
  (∀ (s : State) (c : Copy), s.addCopy c = if c.total = 0 then (match c.wave with | some (w, op) => s.finishOp w op [] 0 none | none => s)
    else { s with nextId := s.nextId + 1, copies := s.copies ++ [c] }) ∧
  (∀ (id : Nat) (s : State) (c : Copy), s.copies.find? (fun x => x.id == id) = some c → s.copyWaits c = false →
    let u := s.copyStep c
    exec (.copyProgress id) s = .next (match u.copies.find? fun x => x.id == id with
      | none => u
      | some c => if c.off < c.total then u else
        u.copyEnd c (if c.skipped then some { engine := 1, code := 0x0622, addr := 0, detail := 0 } else none))) ∧
  (∀ (s : State) (c : Copy),
    let n := min (256 - c.off % 256) (c.total - c.off)
    (∀ code, c.peerFail = some code →
      s.copyStep c = s.copyFail c code (match c.dst with | .mem va => c.memAt va | _ => 0) c.detail) ∧
    (c.peerFail = none → c.moving ≠ 0 → s.copyStep c = s.copyLand c c.moving) ∧
    (c.peerFail = none → c.moving = 0 → c.off < c.total → c.pat = none →
      (∀ code addr u, s.copySrc c n = (.inl (code, addr), u) → s.copyStep c = u.copyFail c code addr c.detail) ∧
      (∀ bs u code addr v, s.copySrc c n = (.inr bs, u) → u.copyDst c (u.groupBytes c n bs) = (some (code, addr), v) →
        s.copyStep c = v.copyFail c code addr c.detail) ∧
      (∀ bs u v, s.copySrc c n = (.inr bs, u) → u.copyDst c (u.groupBytes c n bs) = (none, v) → s.copyStep c = v.copySent c n)) ∧
    (∀ src dst rest bs done, ripple ((src, dst) :: rest) bs done =
      (let unit := ((done.find? fun x => x.1 == src).map (·.2)).getD (bs.take 4)
       unit ++ ripple rest (bs.drop 4) ((dst, unit) :: done))) ∧
    (∀ va core off bs, c.src = .mem va → c.dst = .sp core off → s.groupBytes c n bs = bs) ∧
    (∀ p esize counts strides, c.peerFail = none → c.moving = 0 → c.off < c.total → c.pat = some (p, esize, counts, strides) →
      s.copyStep c = s.copyElem c p esize counts strides) ∧
    (s.peerWaits (.copy c.id) = false → s.copySent c n =
      ((s.copyMoved c n false).putCopy { c with off := c.off + n, moving := 0 }).dropPins c.id
        (if c.suspended then [] else ({ c with off := c.off + n, moving := 0 } : Copy).keeps)) ∧
    (∀ code addr detail, s.copyFail c code addr detail = (s.copyMoved c (c.total - c.off) true).copyEnd c
      (some { engine := 1, code := code, addr := addr, detail := detail })))

/-- R125, R137: `qclaim` of 1 to 16 slots adds to the write index at the Kettle, and of any other count traps with 0x0103; `qpost` stores the payload
and then the header, as a release, and traps with 0x0623 at an address that is no multiple of 64. -/
def Obligations.QueueInstructionsIssue : Prop :=
  ∀ f : Fields,
    let scope := f.x.toNat % 32
    let va := fun (s : State) => (BitVec.ofNat 64 (s.srcA f 19 0) : DWord)
    let base := match Opd.of f.c with | .s n => n | _ => 0
    CompletesFor qclaimSpec (.qclaim f) f
      (fun s ls => 1 ≤ s.srcB f 18 0 ∧ s.srcB f 18 0 ≤ 16 ∧ s.scopeValid s.w.ctx scope = true ∧
        queueAddr s (.qclaim f) .atomic (va s) (· == 1) = .ok ls)
      (fun slot s ls => let b := s.startOp f false true
        ((ls.foldl (fun u l => u.pushAcc { u.newAcc b.1 false l 8 (.atomic 0 3 1) with
          parts := [{ lane := 0, data := BitVec.ofNat 128 (s.srcB f 18 0), cmp := 0 }], dst := dstOf f.d, scope := scope }) b.2).closeOp
            b.1).goOn true f slot none) ∧
    CompletesFor qpostSpec (.qpost f) f
      (fun s ls => s.scopeValid s.w.ctx scope = true ∧ (va s).toNat % 64 = 0 ∧
        queueAddr s (.qpost f) .write (va s) (fun c => decide (c ≤ 1)) = .ok ls)
      (fun slot s ls =>
        let hdr := (s.w.r.pair base).toNat % 2 ^ 16 + s.srcB f 19 0 % 2 ^ 48 * 2 ^ 16
        let b := s.startOp f false false
        ((ls.foldl (fun u l =>
          let u := (List.range 7).foldl (fun u i => u.issueStore (u.store8 b.1 l (8 + 8 * i) (u.w.r.pair (base + 2 + 2 * i)).toNat)) u
          u.issueStore { u.store8 b.1 l 0 hdr with rel := true, scope := scope }) b.2).closeOp b.1).goOn true f slot none) ∧
    CompletesIf qclaimSpec false (.qclaim f) f (fun s => s.srcB f 18 0 = 0 ∨ 16 < s.srcB f 18 0) (fun _ s =>
      s.trapBy 0x0103 s.pc (instrLow (.qclaim f))) ∧
    CompletesIf qpostSpec false (.qpost f) f (fun s => s.scopeValid s.w.ctx scope = true ∧ (va s).toNat % 64 ≠ 0) (fun _ s =>
      s.trapBy 0x0623 s.pc (instrLow (.qpost f)))

/-- R138: the completion-object instructions send their operation to the object's core, `carr` as a release, `cwait` and `ctest` as acquires; one that
names an absent core traps with 0x0110, and then a count of `cinit` or `carr` of 0 or above 65535 with 0x0103, of which that of `carr` is the model's
reading (DEDUCED, log 29). R218: `accld` and `accst` of 1 to 256 rows begin a copy between the wave's accumulator rows and
memory or scratchpad; an absent core traps with 0x0110, then a count outside that with 0x0103, rows beyond the window with 0x0137 and a memory address that is no
multiple of 4 with 0x0620. -/
def Obligations.ObjectsAndRowsIssue : Prop :=
  ∀ f : Fields,
    let word := fun (s : State) => (BitVec.ofNat 32 (s.srcA f 18 0) : Word)
    let obj := fun (i : Instr) (sp : Spec) (opn : Nat) (limit acq rel : Bool) =>
      let inRange := fun (s : State) => 1 ≤ s.srcB f 18 0 ∧ s.srcB f 18 0 ≤ 65535
      CompletesFor sp i f
        (fun s p => (limit = true → inRange s) ∧ (opn = 0 → s.scopeValid s.w.ctx (f.x.toNat % 32) = true) ∧ s.objRange (word s) = .inr p)
        (fun slot s p => let b := s.startOp f acq false
          (b.2.pushAcc { b.2.newAcc b.1 true { lane := 0, va := (word s).setWidth 64, pa := p, peer := none, cls := 0 } 16
              (.obj opn (s.srcB f 18 0)) with
            parts := [{ lane := 0, data := 0, cmp := 0 }], dst := if opn = 1 ∨ opn = 3 then dstOf f.d else none, rel := rel,
            scope := f.x.toNat % 32 }).goOn true f slot none) ∧
      CompletesIf sp false i f (fun s => s.absentCore (word s) = false ∧ limit = true ∧ ¬inRange s) (fun _ s =>
        s.trapBy 0x0103 s.pc (instrLow i)) ∧
      CompletesIf sp false i f (fun s => s.absentCore (word s) = true) (fun _ s => s.trapBy 0x0110 s.pc (instrLow i))
    let n := fun (s : State) => s.srcC f 18 0
    let row := fun (s : State) => s.srcB f 18 0
    let va := fun (s : State) => (BitVec.ofNat 64 (s.srcA f 19 0) : DWord)
    let sp := f.x.getLsbD 0
    let rowsOk := fun (s : State) => 1 ≤ n s ∧ n s ≤ 256 ∧ row s + n s ≤ 256
    let rows := fun (i : Instr) (load : Bool) =>
      let goes := fun (s : State) => s.copyFull = false ∧ (if sp then ∀ r, r < n s → s.spRowFault (word s) (r * f.imm.toNat) = none
        else (va s).toNat % 4 = 0)
      CompletesIf (accMoveSpec f) false i f (fun s => rowsOk s ∧ goes s) (fun slot s =>
        let side : CEnd := if sp then .sp (s.spPlace (word s) / 2 ^ 19) (s.spPlace (word s) % 2 ^ 19) else .mem (va s)
        let b := s.startOp f false load
        let acc : CEnd := .acc b.2.w.core ((s.window s.w).getD 0 + row s)
        (b.2.addCopy { b.2.newCopy b.1 (if load then side else acc) (if load then acc else side) (256 * n s) none (f.mod.toNat % 4) with
          pitch := f.imm.toNat }).goOn true f slot none) ∧
      let absent := fun (s : State) => sp && s.absentCore (word s)
      CompletesIf (accMoveSpec f) false i f (fun s => absent s = true) (fun _ s => s.trapBy 0x0110 s.pc (instrLow i)) ∧
      CompletesIf (accMoveSpec f) false i f (fun s => absent s = false ∧ (n s = 0 ∨ 256 < n s)) (fun _ s =>
        s.trapBy 0x0103 s.pc (instrLow i)) ∧
      CompletesIf (accMoveSpec f) false i f (fun s => absent s = false ∧ 1 ≤ n s ∧ n s ≤ 256 ∧ 256 < row s + n s) (fun _ s =>
        s.trapBy 0x0137 s.pc (instrLow i)) ∧
      CompletesIf (accMoveSpec f) false i f (fun s => rowsOk s ∧ sp = false ∧ (va s).toNat % 4 ≠ 0) (fun _ s =>
        s.trapBy 0x0620 s.pc (instrLow i))
    obj (.cinit f) (objSpec 32 none) 0 true false false ∧
    obj (.carr f) (objSpec 1 (some fun k d => sregOrNull k 18 d)) 1 true false true ∧
    obj (.cexp f) (objSpec 1 none) 2 false false false ∧
    obj (.cwait f) (objSpec 1 none) 4 false true false ∧
    obj (.ctest f) (objSpec 1 (some fun k d => sregOk k 18 d)) 3 false true false ∧
    rows (.accld f) true ∧ rows (.accst f) false

/-! ### Accesses at their points -/

/-- R74, R81, R101 to R103: an access that may leave its port goes to the package its address names; a write to a line the host may hold asks for it
first; a write-back is done at the slices; a line of the host window that is not owned, and every class 1 access there, goes to the host's agent;
class 1 and 3 go past the home slice, which gives up the line; any other is performed at the slice where it holds the sector under its key slot,
or where the tenant has no way, and else waits for the Kettle's sector, which lets it in, or fails it. R76, R77, R147: the Kettle performs what
was forwarded to it, and marks the sector of a read that failed; the array of a core performs its accesses. R336: an acquire that meets a
record waits for its promotion; the core's answer waits for the writes and plain reads it issued before its release, and then the record goes and whoever waited
goes on. R342: launch chip 0 gives an SC fence its place. -/
def Obligations.AccessesAtTheirPoints : Prop :=
  (∀ (id : Nat) (s : State) (a : Acc), s.acc? id = some a →
    let go := fun (u : State) => exec (.homeSliceAccess id) s = .next u
    let stage := fun (u : State) (x : AStage) => u.mapAcc id fun a => { a with stage := x }
    let held := a.kind.writes = true ∧ s.pkg.hostHeld.contains (lineOf a.pa) = true
    let host := 2 ^ 51 ≤ a.pa ∧ (a.cls = 1 ∨ s.pkg.hostOwned.contains (lineOf a.pa) = false)
    let u := s.l2Rekey a.slot a.pa
    (a.sp = false → a.stage = .port → s.mayLeave a = true →
      (∀ chip, a.peer = some chip → go (s.toPeer a chip)) ∧
      (a.peer = none → held → go { stage s .inval with out := s.out ++ [.backInv (lineOf a.pa)] }) ∧
      (∀ mode, a.peer = none → ¬held → a.kind = .clean mode → go ((s.l2Clean mode a.pa a.slot).accDone a [] none)) ∧
      (a.peer = none → ¬held → (∀ mode, a.kind ≠ .clean mode) →
        (host → go (stage (if a.cls = 1 then s.l2Leave a.pa else s) .host)) ∧
        (¬host → a.cls = 1 ∨ a.cls = 3 → go (stage (s.l2Leave a.pa) .fwd)) ∧
        (¬host → a.cls ≠ 1 → a.cls ≠ 3 →
          (∀ t, s.promoHold a = some t → go t) ∧
          (s.promoHold a = none → u.m.l2Has a.pa a.slot = true → go ((u.withM fun m => m.l2Hit a.pa a.hint a.kind.writes).perform a)) ∧
          (s.promoHold a = none → u.m.l2Has a.pa a.slot = false → u.tenMask (homeSlice a.pa) a.tenant = 0 → go (u.perform a)) ∧
          (s.promoHold a = none → u.m.l2Has a.pa a.slot = false → u.tenMask (homeSlice a.pa) a.tenant ≠ 0 → go (stage u .fill))))) ∧
    (a.stage = .fill → exec (.l2SectorFill id) s = .next (
      let t := s.l2Fill a.pa a.slot a.tenant a.hint
      if (s.pointFault a).isSome then s.perform a else if t.m.l2Has a.pa a.slot then stage t .port else t.perform a)) ∧
    (∀ bad, a.sp = false → a.peer = none → exec (.kettleAccess id bad) s = .next (
      let t := if bad && (a.stage == .fill || a.stage == .fwd) then s.withM fun m => m.poisonSector a.pa else s
      if a.stage ≠ .fwd then t
      else if a.kind.writes && s.pkg.hostHeld.contains (lineOf a.pa) then { stage t .inval with out := t.out ++ [.backInv (lineOf a.pa)] }
      else (t.promoHold a).getD (t.perform a))) ∧
    (a.sp = true → a.stage = .port → s.mayLeave a = true →
      exec (.scratchpadArrayAccess id) s = .next ((s.promoHold a).getD (s.perform a))) ∧
    (∀ p, a.acq = true → a.kind.reads = true → s.promoFor a = some p →
      s.promoHold a = some ((s.askPromo p (some a.id)).mapAcc a.id fun x => { x with stage := .promo })) ∧
    (a.acq = false ∨ a.kind.reads = false ∨ s.promoFor a = none → s.promoHold a = none)) ∧
  (∀ (id : Nat) (s : State) (q : PromoReq), s.m.promoReqs.find? (fun x => x.id == id) = some q →
    (q.asked = false → exec (.promotionRequest id) s = .next (s.withM fun m => { m with
      promoReqs := updateFirst (fun x => x.id == id) (fun x => { x with asked := true, need :=
        (s.m.port.filter fun a => a.core == q.core && decide (a.id < q.seqNo) && (a.kind.writes || (a.kind.reads && !a.acq))).map (·.id)
        }) m.promoReqs })) ∧
    (s.promoReady q = true →
      let less := fun (keep : Bool) => s.withM fun m => { m with
        promoReqs := m.promoReqs.filter fun x => x.id != id, promos := if keep then m.promos else m.promos.filter fun p => !q.isFor p }
      let on := fun (u : State) => match q.acc with | none => u | some a => u.mapAcc a fun x => { x with stage := .port }
      (q.remote = none → exec (.promotionReply id) s = .next (on ((less false).freePeers q))) ∧
      (∀ src rid, q.remote = some (src, rid) → exec (.promotionReply id) s = .next ((on (less true)).send src (.promoted rid)))) ∧
    ∀ src, exec (.scFenceMessage id src) s = .next (s.send src (.scOrder id)))

/-- R102, R375, R376: on a link of four lanes or more the host gives a line back, which lets go on what waited for it, grants its own, and takes one
back, which leaves the slice, the slice answering what it holds dirty, and may be written; it reads and writes HBM through a bound decoder under its
key slot and tenant bit, past the home slices, an uncorrectable sector being refused under a record; an unbound decoder, one whose slot holds no key,
and an address past HBM read all ones and drop writes under a record of 0x0801. R74, R98: a peer's request outside the memory that is there is refused
with 0x0203, one under a slot that holds no key with 0x0801 and one of a poisoned sector with its code; a read answers the bytes, a write writes them,
and an atomic is performed lane by lane and answers the old values, each past the home slices; a write waits for the host where it holds the line
(R375), an acquire for the promotion of the record it meets (R336), and a relaxed read notes the releases it meets (R342). (The model performs a host's
write to a registered write index as the Kettle's, log 43.) -/
def Obligations.AccessesFromOutside : Prop :=
  (∀ (s : State), s.cxlUp = true →
    (∀ id a, s.acc? id = some a → a.stage = .inval → exec (.backInvalidateResponse id) s = .next (s.hostFreed (lineOf a.pa))) ∧
    (∀ id h, s.acc? id = none → s.m.hostWrites.find? (fun x => x.id == id) = some h →
      exec (.backInvalidateResponse id) s = .next (s.hostFreed (lineOf h.pa))) ∧
    (∀ line, s.m.hostWrites = [] → s.hostFreed line = { s with
      pkg := { s.pkg with hostHeld := s.pkg.hostHeld.filter fun l => l != line }
      m := { s.m with port := s.m.port.map fun a => if a.stage = .inval ∧ lineOf a.pa = line then { a with stage := .port } else a } }) ∧
    (∀ id a, s.acc? id = some a → a.stage = .host → a.cls ≠ 1 → exec (.hostOwnershipGranted id) s = .next { (s.mapAcc id fun x =>
      { x with stage := .port }) with pkg := { s.pkg with hostOwned := lineOf a.pa :: s.pkg.hostOwned } }) ∧
    (∀ id a, s.acc? id = some a → a.stage = .host → a.cls = 1 →
      exec (.hostOwnershipGranted id) s = .next ((s.promoHold a).getD (s.perform a))) ∧
    (∀ addr write,
      let pa := 2 ^ 51 + addr
      let data := match s.m.l2Find pa with
        | some l => if l.dirty.getLsbD (pa / 256 % 4) then some (s.m.bytes s.free 0 (pa / 64 * 64) 64) else none
        | none => none
      let u := ({ s with
        out := s.out ++ [.snoop addr data]
        pkg := { s.pkg with hostOwned := s.pkg.hostOwned.filter fun l => l != lineOf pa } } : State).l2Leave pa
      exec (.hostSnoop addr write) s = .next (match write with
        | none => u
        | some v => u.withM fun m => (m.dropPromos none false pa 8).write u.free 0 pa (natBytes 8 v.toNat))) ∧
    (∀ d addr size write, s.pkg.hdm.find? (fun x => x.1 == d && s.keyLoaded x.2.1 && decide (addr + size ≤ s.hbmBytes)) = none →
      let u := s.failNoWave (s.bareRecord 10 0x0801 s.openAddr s.openDetail) none
      exec (.cxlMemAccess d addr size write) s =
        .next { u with out := u.out ++ [.bus (if write.isSome then [] else busWords size (2 ^ (8 * size) - 1)) true] }) ∧
    (∀ d addr size write x, s.pkg.hdm.find? (fun x => x.1 == d && s.keyLoaded x.2.1 && decide (addr + size ≤ s.hbmBytes)) = some x →
      let slot := x.2.1
      let held := fun (u : State) => ({ u with pkg := { u.pkg with
        hostHeld := lineOf addr :: u.pkg.hostHeld.filter fun l => l != lineOf addr } } : State)
      let taken : State := { s with pkg := { s.pkg with hostHeld := s.pkg.hostHeld.filter fun l => l != lineOf addr } }
      let cls := if s.queues.any fun q => decide (addr < q.widxPa + 8 ∧ q.widxPa < addr + size) then 1 else 0
      (s.m.poisoned addr size = true →
        let code := if write.isSome then 0x0502 else s.m.badCode addr size
        let u := s.failNoWave (s.bareRecord 5 code (s.recAddr code (BitVec.ofNat 64 (s.m.badSector addr size))) s.openDetail) none
        exec (.cxlMemAccess d addr size write) s =
          .next { u.withM fun m => m.badRead addr size with out := u.out ++ [.bus [] false] }) ∧
      (s.m.poisoned addr size = false → write = none →
        let u := held (s.passSlices cls slot x.2.2 0 false addr size)
        exec (.cxlMemAccess d addr size write) s =
          .next { u with out := u.out ++ [.bus (busWords size (u.readPa slot addr size)) true], free := u.free + 1 }) ∧
      (∀ v, s.m.poisoned addr size = false → write = some v →
        let u := (held taken).passSlices cls slot x.2.2 0 true addr size
        let t : State := { u with
          m := (u.m.dropPromos none false addr size).write u.free slot addr (natBytes size v.toNat), free := u.free + 1 }
        let w := if cls = 1 then t.watch addr size else t
        exec (.cxlMemAccess d addr size write) s = .next { w with out := w.out ++ [.bus [] true] }))) ∧
  (∀ (r : PeerReq) (s : State),
    let meets := s.m.promos.find? fun p => p.meets false r.addr r.size
    let changes := r.write.isSome || r.atomic.isSome
    let fence := ∃ ty lanes, r.atomic = some (17, ty, lanes)
    let plain := ¬fence ∧ (changes = true → s.hostKeeps r.addr r.size = false)
    let met := if r.acq || r.write.isSome then [] else (s.releasesMet none false r.addr r.size).map fun x => (r.src, x.1, x.2)
    let noted := s.withM fun m => { m with shown := (met ++ m.shown).eraseDups }
    (fence → exec (.peerRequestArrival r) s = .next (s.peerFence r)) ∧
    (¬fence → changes = true → s.hostKeeps r.addr r.size = true → exec (.peerRequestArrival r) s = .next (s.peerHold r)) ∧
    (∀ p, plain → r.acq = true → meets = some p →
      exec (.peerRequestArrival r) s = .next ((s.askPromo p none).withM fun m => { m with peerHeld := m.peerHeld ++ [r] })) ∧
    (plain → r.acq = false ∨ meets = none → exec (.peerRequestArrival r) s =
      .next ((noted.peerServe r).2.2.send r.src
        (.peerResp r.id ((noted.peerServe r).1.map fun v => BitVec.ofNat 128 v) (noted.peerServe r).2.1)))) ∧
  (∀ (r : PeerReq) (s : State),
    let answer := s.peerServe r
    let slot := s.slotFor r.ctx r.cls
    let old := s.readPa slot r.addr r.size
    let put := fun (v : Nat) (atomic : Bool) => s.engPut slot r.cls r.addr (natBytes r.size v) (s.tenantOf r.ctx) r.hint atomic
    let here := r.addr + r.size ≤ s.hbmBytes ∧ s.keyLoaded slot = true
    (s.hbmBytes < r.addr + r.size → answer = ([], 0x0203, s)) ∧
    (r.addr + r.size ≤ s.hbmBytes → s.keyLoaded slot = false → answer = ([], 0x0801, s)) ∧
    (here → s.m.poisoned r.addr r.size = true →
      answer = ([], if r.write.isSome then 0x0502 else (s.m.badCode r.addr r.size).toNat, s.withM fun m => m.badRead r.addr r.size)) ∧
    (here → s.m.poisoned r.addr r.size = false →
      (r.write = none → r.atomic = none → answer = ((List.range ((r.size + 15) / 16)).map fun i => field old (128 * i) 128, 0,
        { s.passSlices r.cls slot (s.tenantOf r.ctx) r.hint false r.addr r.size with free := s.free + 1 })) ∧
      (∀ d, r.write = some d → answer = ([], 0, put d.toNat false)) ∧
      (∀ opx ty lanes, r.write = none → r.atomic = some (opx, ty, lanes) → opx ≠ 16 →
        let x := atomicLanes opx ty old (lanes.map fun x => ({ lane := 0, data := x.1, cmp := x.2 } : Part))
        answer = (x.2.map fun y => y.2.1, 0, put x.1 true))))

/-! ### The matrix engine -/

/-- R204, R205, R208 to R211, R213, R215, R216: an engine instruction of a quad's leader that passes its checks is queued for the engine, and one
that breaks a check traps precisely: a wave that is no leader with 0x0134, a quad without the claim with 0x0130, a node count or a first step
outside K with 0x0131, a type that does not go with the kind with 0x0133, rows outside the window with 0x0137, a dx8 result with a rounding mode with 0x0103 at decode, an object `mdrnn` may not feed with
0x0136, and a bank load from a member that has ended with 0x0138. -/
def Obligations.EngineInstructionsQueue : Prop :=
  ∀ f : Fields,
    let turn := fun (s : State) => matTurn s true true = none
    let opened := fun (s : State) => if (s.quadCur s.w).isSome then s
      else s.putEngine s.w.core { s.engine s.w.core with pending := (s.engine s.w.core).pending ++ [s.newQuad s.w] }
    let outside := fun (s : State) => s.srcB f 18 0 = 0 ∨ 2 ^ 28 < s.srcB f 18 0 ∨ (s.srcB f 18 0 + 15) / 16 ≤ s.srcA f 18 0
    let fits := fun (q : QuadSt) => if q.ikind then f.ty.toNat = 0 ∧ f.mod = 0 else f.ty.toNat ∈ [8, 10, 11, 14]
    let rows := field f.imm.toNat 0 8 ≤ 192 ∧ field f.imm.toNat 8 8 ≤ 192
    let nodes := fun (s : State) => ∃ o, s.openObj (robjX f) = some o ∧ o.desc.opr = 0 ∧ o.desc.fmt = 0 ∧ o.desc.ftz = false ∧ o.desc.sat = false
    let turned := fun (sp : Spec) (i : Instr) (claim : Bool) =>
      CompletesFor sp i f (fun s c => matTurn s true claim = some c) (fun _ s c => s.trapBy c s.pc (instrLow i))
    let stops := fun (sp : Spec) (i : Instr) (code : BitVec 16) (cond : State → QuadSt → Prop) =>
      CompletesFor sp i f (fun s q => turn s ∧ s.quadCur s.w = some q ∧ cond s q) (fun _ s _ => s.trapBy code s.pc (instrLow i))
    CompletesIf mzeroSpec false (.mzero f) f
      (fun s => matTurn s true false = none ∧ ¬ outside s ∧ (opened s).queueRoom f false)
      (fun slot s => ((opened s).queued f false (.zero (f.x.getLsbD 0) (s.srcB f 18 0) (s.srcA f 18 0))
        (fun q => q.zeroed (f.x.getLsbD 0) (s.srcB f 18 0) (s.srcA f 18 0)) fun _ => []).goOn true f slot none) ∧
    CompletesIf mfmtSpec false (.mfmt f) f (fun s => turn s ∧ s.queueRoom f false) (fun slot s =>
      (s.queued f false (.fmt f.ty.toNat) (fun q => { q with ibfmt := f.ty.toNat }) fun _ => []).goOn true f slot none) ∧
    CompletesFor mbankSpec (.mbank f) f
      (fun s (q : QuadSt) => turn s ∧ s.quadCur s.w = some q ∧ badBlock s q.ibfmt (vecNum f.d) = false ∧ s.blocksGone q 1 = false ∧
        s.queueRoom f true)
      (fun slot s q => (s.queued f true (.bank (vecNum f.d)) (fun q => { q.load 1 with ibpre := some q.ibfmt })
        fun ops => [heldBlock q (s.zerosAhead s.w) q.iloads (vecNum f.d) ops]).goOn true f slot none) ∧
    CompletesFor mdrnSpec (.mdrn f) f
      (fun s (q : QuadSt) => turn s ∧ s.quadCur s.w = some q ∧ s.queueRoom f true ∧ fits q ∧ rows)
      (fun slot s _ => (s.queued f true
        (.drn f.ty.toNat f.mod s.w.r.ftz (f.x.getLsbD 0) (f.x.getLsbD 1) (field f.imm.toNat 0 8) (field f.imm.toNat 8 8))
        (fun q => { q with irel := f.x.getLsbD 1 }) fun _ => []).goOn true f slot none) ∧
    CompletesFor mdrnnSpec (.mdrnn f) f
      (fun s (q : QuadSt) => turn s ∧ s.quadCur s.w = some q ∧ s.queueRoom f true ∧ q.ikind = false ∧ nodes s)
      (fun slot s _ => (s.queued f true
        (.drnn (BitVec.ofNat 64 (s.srcA f 19 0)) (sext 32 (s.srcB f 18 0)) (robjX f) (f.x.getLsbD 6))
        (fun q => { q with istart := q.inext, irel := f.x.getLsbD 6 }) fun _ => []).goOn true f slot none) ∧
    turned mzeroSpec (.mzero f) false ∧ turned mfmtSpec (.mfmt f) true ∧ turned mbankSpec (.mbank f) true ∧
    turned mdrnSpec (.mdrn f) true ∧ turned mdrnnSpec (.mdrnn f) true ∧
    CompletesIf mzeroSpec false (.mzero f) f (fun s => matTurn s true false = none ∧ outside s) (fun _ s =>
      s.trapBy 0x0131 s.pc (instrLow (.mzero f))) ∧
    stops mbankSpec (.mbank f) 0x0107 (fun s q => badBlock s q.ibfmt (vecNum f.d) = true) ∧
    stops mbankSpec (.mbank f) 0x0138 (fun s q => badBlock s q.ibfmt (vecNum f.d) = false ∧ s.blocksGone q 1 = true) ∧
    stops mdrnSpec (.mdrn f) 0x0133 (fun _ q => ¬ fits q) ∧
    (f.ty.toNat = 14 → f.mod.toNat % 4 ≠ 0 → mdrnSpec.vals f = some 0x0103) ∧
    stops mdrnSpec (.mdrn f) 0x0137 (fun _ q => fits q ∧ ¬ rows) ∧
    stops mdrnnSpec (.mdrnn f) 0x0136 (fun s q => q.ikind = true ∨ ¬ nodes s)

/-- R202, R203, R207, R214, R219, R222: an `mloop` of N steps that passes its checks is queued, with the register block of every bank load it will
make; one of no steps completes at once. One whose A stream names an absent core traps with 0x0110; one that does not go on at the
next step, or runs past K, with 0x0131; one whose formats are not of the accumulation's kind with 0x0133; one whose stacks would overflow with
0x0132; and one whose A stream leaves the allocation with 0x0135. -/
def Obligations.MatrixLoopQueues : Prop :=
  ∀ f : Fields,
    let n := fun (s : State) => s.srcB f 18 0
    let pre := fun (q : QuadSt) => if q.ibpre.isSome then 1 else 0
    let block := fun (i : Nat) => (vecNum f.d : Int) + (i : Int) * sext 8 f.x.toNat
    let addr := fun (s : State) => (BitVec.ofNat 32 (s.srcA f 18 0) : Word)
    let inOrder := fun (s : State) (q : QuadSt) => s.srcC f 18 0 = q.inext ∧ q.inext + n s ≤ (q.ik + 15) / 16 ∧ n s ≤ 2 ^ 24
    let ofKind := fun (s : State) (q : QuadSt) => matInt f.ty.toNat = q.ikind ∧ (∀ t, n s ≠ 0 → q.ibpre = some t → matInt t = q.ikind) ∧
      (n s = 0 ∨ pre q < n s → matInt q.ibfmt = q.ikind)
    let deep := fun (s : State) (q : QuadSt) => stackOverflows q.istart q.inext (n s) = true
    let badA := fun (s : State) => badStream s (addr s) f.imm.toInt (matSize f.ty.toNat) (n s) = true
    let stops := fun (code : BitVec 16) (cond : State → QuadSt → Prop) =>
      CompletesFor mloopSpec (.mloop f) f (fun s q => s.absentCore (addr s) = false ∧ matTurn s true true = none ∧
        s.quadCur s.w = some q ∧ cond s q) (fun _ s _ => s.trapBy code s.pc (instrLow (.mloop f)))
    CompletesFor mloopSpec (.mloop f) f
      (fun s (q : QuadSt) => matTurn s true true = none ∧ s.quadCur s.w = some q ∧ n s ≠ 0 ∧ inOrder s q ∧ ofKind s q ∧ ¬ deep s q ∧ ¬ badA s ∧
        (∀ i, pre q ≤ i → i < n s → badBlock s q.ibfmt (block i) = false) ∧ s.blocksGone q (n s - pre q) = false ∧ s.queueRoom f true)
      (fun slot s q => (s.queued f true
        (.loop (vecNum f.d) ((addr s).toNat % 2 ^ 19) (n s) q.inext f.imm.toInt (sext 8 f.x.toNat) f.ty.toNat 0)
        (fun q' => { q'.load (n s - pre q) with inext := q.inext + n s, ibpre := none })
        fun ops => ((List.range (n s)).drop (pre q)).map fun i =>
          heldBlock q (s.zerosAhead s.w) (q.iloads + i - pre q) (block i).toNat ops).goOn true f slot none) ∧
    CompletesFor mloopSpec (.mloop f) f
      (fun s (q : QuadSt) => matTurn s true true = none ∧ s.quadCur s.w = some q ∧ n s = 0 ∧ inOrder s q ∧ ofKind s q ∧ ¬ badA s ∧
        s.matesFull f = false)
      (fun slot s _ => let b := s.engineOps f true
        (b.2.finishOps b.1 none).goOn true f slot none) ∧
    CompletesIf mloopSpec false (.mloop f) f (fun s => s.absentCore (addr s) = true) (fun _ s => s.trapBy 0x0110 s.pc (instrLow (.mloop f))) ∧
    CompletesFor mloopSpec (.mloop f) f (fun s c => s.absentCore (addr s) = false ∧ matTurn s true true = some c) (fun _ s c =>
      s.trapBy c s.pc (instrLow (.mloop f))) ∧
    stops 0x0131 (fun s q => ¬ inOrder s q) ∧
    stops 0x0133 (fun s q => inOrder s q ∧ ¬ ofKind s q) ∧
    stops 0x0132 (fun s q => inOrder s q ∧ ofKind s q ∧ deep s q) ∧
    stops 0x0135 (fun s q => inOrder s q ∧ ofKind s q ∧ ¬ deep s q ∧ badA s)

/-- R205, R210, R212, R217, R218: `mrdy` hands over a member's blocks to its quad's entry, once the wave's vector registers are written; `mstat`,
`aread` and `awrite` read the engine's words and the wave's accumulator rows, and a row count outside 1 to 8 traps with 0x0103, registers beyond
the allocation with 0x0107, rows beyond the window with 0x0137; a free engine takes the next quad, whose `mzero` then takes effect, and an engine
that is held or has nothing pending grants nothing. -/
def Obligations.EngineStateInstructions : Prop :=
  ∀ f : Fields,
    let row := fun (s : State) => (s.window s.w).getD 0 + s.srcA f 18 0
    let entries := fun (s : State) => (s.engine s.w.core).claim.toList ++ (s.engine s.w.core).pending
    let regs := fun (sp : Spec) (i : Instr) (d : BitVec 10) =>
      let n := fun (s : State) => s.srcC f 18 0
      CompletesIf sp false i f (fun s => n s = 0 ∨ 8 < n s) (fun _ s => s.trapBy 0x0103 s.pc (instrLow i)) ∧
      CompletesIf sp false i f (fun s => 1 ≤ n s ∧ n s ≤ 8 ∧ s.w.k.vregs < vecNum d + n s) (fun _ s => s.trapBy 0x0107 s.pc (instrLow i)) ∧
      CompletesIf sp false i f (fun s => 1 ≤ n s ∧ n s ≤ 8 ∧ vecNum d + n s ≤ s.w.k.vregs ∧ 256 < s.srcA f 18 0 + n s) (fun _ s =>
        s.trapBy 0x0137 s.pc (instrLow i))
    CompletesIf mrdySpec false (.mrdy f) f (fun s => s.w.vecPending = false ∧ ∃ q ∈ entries s, q.ofWave s.w = true) (fun slot s =>
      (s.putEngine s.w.core ((s.engine s.w.core).mapFirst s.w fun q =>
        { q with rdy := setNth (nth 0 q.rdy (s.w.idx % 4) + 1) q.rdy (s.w.idx % 4) })).goOn false f slot none) ∧
    CompletesIf mrdySpec false (.mrdy f) f (fun s => s.w.vecPending = false ∧ ∀ q ∈ entries s, q.ofWave s.w = false) (fun slot s =>
      s.goOn false f slot none) ∧
    Completes mstatSpec false (.mstat f) f (fun slot s =>
      let b := s.engineOps f false
      (b.1.foldl (fun u x => u.finishOp x.1 x.2 (dstWr 18 f.d 0 (s.mstatWord s.w (f.x.toNat % 4))) 0 none) b.2).goOn true f slot none) ∧
    CompletesIf (accRegSpec true) false (.aread f) f (fun s => accRegCheck s f f.d = none) (fun slot s =>
      (s.longDone f ((List.range (s.srcC f 18 0)).flatMap fun r => (s.lanes f).map fun l =>
        Wr.v (vecNum f.d + r) l (cget 0 s.m.acc (accKey s.w.core (row s + r) ((f.x.toNat + l) % 64)))) 0).goOn true f slot none) ∧
    CompletesIf (accRegSpec false) false (.awrite f) f (fun s => accRegCheck s f f.b = none) (fun slot s =>
      (State.longDone { s with m := { s.m with acc := (List.range (s.srcC f 18 0)).foldl (fun acc r => (s.lanes f).foldl (fun acc l =>
        cset 0 (s.w.r.vget (vecNum f.b + r) l) acc (accKey s.w.core (row s + r) ((f.x.toNat + l) % 64))) acc) s.m.acc } } f [] 0).goOn
          true f slot none) ∧
    regs (accRegSpec true) (.aread f) f.d ∧ regs (accRegSpec false) (.awrite f) f.b ∧
    (∀ (core : Nat) (s : State), (s.engine core).claim ≠ none ∨ (s.engine core).pending = [] → exec (.claimGrant core) s = .next s) ∧
    ∀ (core : Nat) (s : State) (q : QuadSt) (rest : List QuadSt),
      let e := s.engine core
      let e' := if e.lastQuad = some (q.team, q.quad) then e else { e with bfmt := 11, nb := false, bank0 := Bank.zero, bank1 := Bank.zero }
      e.claim = none → e.pending = q :: rest →
      (∀ saved, s.savedEngine q = some saved → exec (.claimGrant core) s = .next (s.reloadEngine core saved q rest)) ∧
      (∀ int k f0 ops tl, s.savedEngine q = none → q.queue = { cmd := .zero int k f0, ops := ops } :: tl →
        exec (.claimGrant core) s =
          .next ((s.putEngine core { e' with claim := some q, pending := rest, lastQuad := some (q.team, q.quad) }).runZero core int k f0))

/-- R207, R209 to R211, R213 to R216: the engine's next action: a step of an `mloop` with its bank load, or the whole of another instruction; one
whose next bank load has not been handed over waits. -/
def Obligations.EngineSteps : Prop :=
  ∀ (core : Nat) (s : State) (q : QuadSt) (ops : List (Nat × Nat)) (rest : List MEntry),
    let e := s.engine core
    let head := fun (cmd : MCmd) => e.claim = some q ∧ q.queue = { cmd := cmd, ops := ops } :: rest
    let handed := ∀ j, j < 4 → q.loads < nth 0 q.rdy j
    (∀ int k f, head (.zero int k f) → exec (.mloopStep core) s = .next (s.runZero core int k f)) ∧
    (∀ ty, head (.fmt ty) → exec (.mloopStep core) s = .next ((s.putEngine core { e with bfmt := ty }).engineDone core)) ∧
    (∀ base, head (.bank base) → ¬ handed → exec (.mloopStep core) s = .next s) ∧
    (∀ base, head (.bank base) → handed →
      let u := s.bankLoad core q base ops
      exec (.mloopStep core) s = .next ((u.putEngine core { u.engine core with bpre := true }).engineDone core)) ∧
    (∀ base addr steps l0 ainc binc aty done, head (.loop base addr steps l0 ainc binc aty done) →
      let kept := done = 0 ∧ e.bpre = true
      let u := if kept then s.putEngine core { e with bpre := false }
        else s.bankLoad core q ((base : Int) + (done : Int) * binc).toNat ops
      let t := u.loopStep core q.team ((addr : Int) + (done : Int) * ainc).toNat (l0 + done) aty ops
      (¬ kept → ¬ handed → exec (.mloopStep core) s = .next s) ∧
      (kept ∨ handed → steps ≤ done + 1 → exec (.mloopStep core) s = .next (t.engineDone core)) ∧
      (kept ∨ handed → done + 1 < steps → exec (.mloopStep core) s =
        .next (t.putEngine core { t.engine core with claim := (t.engine core).claim.map fun q =>
          { q with queue := { cmd := .loop base addr steps l0 ainc binc aty (done + 1), ops := ops } :: rest } }))) ∧
    (∀ ty mode ftz addc rel drow crow, head (.drn ty mode ftz addc rel drow crow) →
      exec (.mloopStep core) s = .next (s.drain core q ops ty mode ftz addc rel drow crow)) ∧
    (∀ ebase stride robj rel, head (.drnn ebase stride robj rel) →
      exec (.mloopStep core) s = .next (s.drainNodes core q ops ebase stride robj rel))

/-! ### Grid regions -/

/-- R152, R226, R228, R229, R231 to R235: `gbind` waits in the lattice unit for its descriptor, and its unbinding takes effect at once; `gld` and
`gsc` go to the lattice unit with what they read; `ghash` gives each lane's corner, or the two fixed words where the level or the corner is out of
range. A handle that is not bound traps with 0x0241, a register group outside the allocation with 0x0107, a group that holds a double-bit error
with 0x0513, a `gsc` whose object is not an open sparse one of the sum with 0x0242, and a `gbind` of a bad address with 0x0201 or 0x020A. -/
def Obligations.GridInstructionsIssue : Prop :=
  ∀ f : Fields,
    let va := fun (s : State) => (BitVec.ofNat 64 (s.srcA f 19 0) : DWord)
    let free := fun (s : State) => s.binding (gridX f) = false
    let took := fun (s : State) (g : Grid) => free s ∧ s.grid? s.w.team (gridX f) = some g
    let inside := fun (s : State) (spec : BitVec 10) (n : Nat) => vecNum spec + n ≤ s.w.k.vregs
    let clean := fun (s : State) (spec : BitVec 10) (n : Nat) => groupBad s.w.r (vecNum spec) n (activeMask s.w.r f) = false
    let feats := fun (g : Grid) => g.levels * g.feats
    let group := fun (s : State) (spec : BitVec 10) (n : Nat) => readGroup s.w.r (vecNum spec) n (activeMask s.w.r f)
    let sums := fun (s : State) (g : Grid) => ∃ o, s.openObj g.robj = some o ∧ o.desc.sparse = true ∧ o.desc.opr = 0
    let unbound := fun (sp : Spec) (i : Instr) => CompletesIf sp false i f
      (fun s => free s ∧ s.grid? s.w.team (gridX f) = none) (fun _ s => s.trapBy 0x0241 s.pc (instrLow i))
    let stops := fun (sp : Spec) (i : Instr) (code : BitVec 16) (detail : DWord) (cond : State → Grid → Prop) =>
      CompletesFor sp i f (fun s g => took s g ∧ cond s g) (fun _ s _ => s.trapBy code s.pc detail)
    CompletesIf gbindSpec false (.gbind f) f (fun s => canonicalVa (va s) = true ∧ (va s).toNat % 128 = 0 ∧ free s) (fun slot s =>
      let b := s.startOp f false false
      (b.2.addLattice { b.2.newLattice b.1 with bindTo := some (gridX f, va s) }).goOn true f slot none) ∧
    CompletesIf gbindSpec false (.gbind f) f (fun s => canonicalVa (va s) = false) (fun _ s => s.trapBy 0x0201 (va s) (xlDetail 0 .read 7)) ∧
    CompletesIf gbindSpec false (.gbind f) f (fun s => canonicalVa (va s) = true ∧ (va s).toNat % 128 ≠ 0) (fun _ s =>
      s.trapBy 0x020A (va s) (xlDetail 0 .read 7)) ∧
    CompletesIf gbindUnbindSpec false (.gbindUnbind f) f free (fun slot s =>
      ((s.unbind s.w.team (gridX f)).longDone f [] 0).goOn true f slot none) ∧
    CompletesFor gldSpec (.gld f) f
      (fun s g => took s g ∧ inside s f.a g.dims ∧ inside s f.d (feats g) ∧ clean s f.a g.dims) (fun slot s g =>
      let b := s.startOp f false true
      (b.2.addLattice { b.2.newLattice b.1 with
        grid := some g, lanes := activeMask s.w.r f, dst := vecNum f.d, coords := group s f.a g.dims }).goOn true f slot none) ∧
    CompletesFor gscSpec (.gsc f) f
      (fun s g => took s g ∧ inside s f.a g.dims ∧ inside s f.b (feats g) ∧ clean s f.a g.dims ∧ clean s f.b (feats g) ∧ sums s g)
      (fun slot s g =>
        let b := s.startOp f false false
        (b.2.addLattice { b.2.newLattice b.1 with
          grid := some g, lanes := activeMask s.w.r f, coords := group s f.a g.dims, grads := some (group s f.b (feats g)),
          samples := group s f.c 1 }).goOn true f slot none) ∧
    CompletesFor ghashSpec (.ghash f) f (fun s g => took s g ∧ inside s f.a g.dims ∧ clean s f.a g.dims) (fun slot s g =>
      let out := fun (l : Nat) => decide (g.levels ≤ s.srcB f 18 l ∨ 2 ^ g.dims ≤ s.srcC f 18 l)
      let xs := fun (l : Nat) => (List.range g.dims).map fun i =>
        gridCoord (nth 0 g.res (s.srcB f 18 l)) (s.w.r.vget (vecNum f.a + i) l).toNat
      let pair := fun (l : Nat) (a b : Word) => [Wr.v (vecNum f.d) l a, Wr.v (vecNum f.d + 1) l b]
      let c := fun (l : Nat) => g.corner (s.srcB f 18 l) (s.srcC f 18 l) (xs l)
      (s.longDone f ((s.lanes f).flatMap fun l => if out l then pair l 0xFFFFFFFF 0x7FC00000
          else pair l (BitVec.ofNat 32 (c l).1) (BitVec.ofNat 32 ((c l).2.exact.round .f32 {}).1))
        ({ inv := (s.lanes f).any fun l => !out l && (xs l).any fun x => x.2.2.2 } : FFlags).bits).goOn true f slot none) ∧
    unbound gldSpec (.gld f) ∧ unbound gscSpec (.gsc f) ∧ unbound ghashSpec (.ghash f) ∧
    stops gldSpec (.gld f) 0x0107 (instrLow (.gld f)) (fun s g => ¬ inside s f.a g.dims ∨ ¬ inside s f.d (feats g)) ∧
    stops gscSpec (.gsc f) 0x0107 (instrLow (.gsc f)) (fun s g => ¬ inside s f.a g.dims ∨ ¬ inside s f.b (feats g)) ∧
    stops ghashSpec (.ghash f) 0x0107 (instrLow (.ghash f)) (fun s g => ¬ inside s f.a g.dims) ∧
    stops gldSpec (.gld f) 0x0513 0 (fun s g => inside s f.a g.dims ∧ inside s f.d (feats g) ∧ ¬ clean s f.a g.dims) ∧
    stops gscSpec (.gsc f) 0x0513 0 (fun s g => inside s f.a g.dims ∧ inside s f.b (feats g) ∧ ¬ (clean s f.a g.dims ∧ clean s f.b (feats g))) ∧
    stops ghashSpec (.ghash f) 0x0513 0 (fun s g => inside s f.a g.dims ∧ ¬ clean s f.a g.dims) ∧
    stops gscSpec (.gsc f) 0x0242 (instrLow (.gsc f))
      (fun s g => inside s f.a g.dims ∧ inside s f.b (feats g) ∧ clean s f.a g.dims ∧ clean s f.b (feats g) ∧ ¬ sums s g)

/-- R226, R230, R232 to R234, R237: the lattice unit waits for the wave's earlier stores; it reads a `gbind`'s descriptor and binds its handle, or ends
the binding with 0x0240 at the bad word or with what stopped the read; a `gsc` goes one group of lanes at one level at a time, and a `gld` reads the
entries of each lane of its group one by one, each as it stands then, the last giving the lane's features: an entry in a sector that returns no data
leaves them undefined, and any other fault ends the instruction with its output undefined. -/
def Obligations.LatticeUnitWorks : Prop :=
  ∀ (id : Nat) (s : State) (x : Lattice), s.lattices.find? (fun y => y.id == id) = some x →
    (s.latWaits x = true → exec (.latticeGroupLevel id) s = .next s) ∧
    (s.latWaits x = false →
      let group := (lanesOf x.lanes).filter fun l => l / 16 == x.group
      let unbound := fun (u : State) (h : Nat) => (u.dropLattice x).unbind x.team h
      let failed := fun (v : State) (eng : Nat) (c : BitVec 16) (a d : DWord) =>
        (v.opFail x.wave x.op { engine := eng, code := c, addr := a, detail := d }).finishOp x.wave x.op [] 0 none
      (∀ h va bs u, x.bindTo = some (h, va) → s.latRead x [0, 2] va 128 = (.inr bs, u) → Grid.bad bs = none →
        let v := unbound u h
        exec (.latticeGroupLevel id) s =
          .next (({ v with grids := assign (gridKey x.team h) (Grid.ofBytes bs) v.grids } : State).finishOp x.wave x.op [] 0 none)) ∧
      (∀ h va bs u n, x.bindTo = some (h, va) → s.latRead x [0, 2] va 128 = (.inr bs, u) → Grid.bad bs = some n →
        exec (.latticeGroupLevel id) s = .next (failed (unbound u h) 3 0x0240 va (BitVec.ofNat 64 n))) ∧
      (∀ h va c a eng u, x.bindTo = some (h, va) → s.latRead x [0, 2] va 128 = (.inl (c, a, eng), u) →
        let v := unbound u h
        exec (.latticeGroupLevel id) s = .next (failed v eng c a (v.engDetail (v.latEng x) 0 .read a))) ∧
      (∀ g lane, x.bindTo = none → x.grid = some g → x.grads = none → group[x.lane]? = some lane →
        let cs := g.corners x.level (coordsOf x.coords g.dims lane)
        let ix := match cs.1[x.got.length]? with | some c => c.1 | none => 0
        let n := g.feats * g.esize
        let va := g.base + BitVec.ofNat 64 ((x.level * 2 ^ g.log2t + ix) * n)
        let keep := fun (u : State) (b : Option (List Byte)) => if x.got.length + 1 < cs.1.length then u.latAt x x.lane (x.got ++ [b])
          else (u.gldLane x g x.level lane (x.got ++ [b])).latAt x (x.lane + 1) []
        let regs := (List.range (g.levels * g.feats)).map fun i => x.dst + i
        (∀ bs u, s.latRead x [2] va n = (.inr bs, u) → exec (.latticeGroupLevel id) s = .next (keep u (some bs))) ∧
        (∀ c a eng u, s.latRead x [2] va n = (.inl (c, a, eng), u) → c = 0x0501 ∨ c = 0x0511 →
          exec (.latticeGroupLevel id) s =
            .next (keep (u.opFail x.wave x.op { engine := eng, code := c, addr := a, detail := 0 }) none)) ∧
        (∀ c a eng u, s.latRead x [2] va n = (.inl (c, a, eng), u) → c ≠ 0x0501 → c ≠ 0x0511 →
          let v := u.opFail x.wave x.op { engine := 3, code := c, addr := va,
                                          detail := u.engDetail (u.latEng x) lane .read va + BitVec.ofNat 64 (x.level * 2 ^ 16) }
          exec (.latticeGroupLevel id) s =
            .next (((({ v with free := v.free + 1 } : State).dropLattice x).addResult x.wave x.op [] ({ inv := cs.2 } : FFlags).bits).finishOp
              x.wave x.op (freeWrs v.free regs (lanesOf x.lanes)) 0 none))) ∧
      (∀ g, x.bindTo = none → x.grid = some g → x.grads = none → group[x.lane]? = none →
        exec (.latticeGroupLevel id) s = .next (s.latNext x g)) ∧
      (∀ g o grads, x.bindTo = none → x.grid = some g → x.grads = some grads → s.robj? x.ctx g.robj = some o →
        exec (.latticeGroupLevel id) s = .next ((group.foldl (fun s l => s.gscLane x g o grads x.level l) s).latNext x g)))

/-! ### Reduction objects and pairing -/

/-- R239, R240, R242, R244, R252 to R256: `ctb` and `ctbn`, once every lane's element and tag are in range, send each lane's value in the object's
format; `rclose` sends the core's entries and then a close for every slice; `ropen` opens an entry whose descriptor passes, and one whose descriptor
fails ends with the error of the first field that does; `rstat` reads the table. An object that is not open traps with 0x030A, an element or tag out
of range with 0x0306, `rclose` of a dense object with 0x030B, and `ropen` of one open here with 0x0309. -/
def Obligations.ContributionsIssue : Prop :=
  ∀ f : Fields,
    let elem := fun (s : State) (l : Nat) => s.srcA f 3 l
    let level := fun (tagged : Bool) (s : State) (l : Nat) => if tagged then s.srcB f 3 l / 2 ^ 58 else 0
    let index := fun (tagged : Bool) (s : State) (l : Nat) => if tagged then s.srcB f 3 l % 2 ^ 58 else s.srcB f 3 l
    let fits := fun (tagged : Bool) (s : State) (o : RObj) (l : Nat) =>
      decide (elem s l < o.desc.m) && namesNode o.desc.n (level tagged s l) (index tagged s l)
    let shut := fun (sp : Spec) (i : Instr) => CompletesIf sp false i f (fun s => s.openObj (robjX f) = none) (fun _ s =>
      s.trapBy 0x030A s.pc (instrLow i))
    let ctb := fun (i : Instr) (tagged : Bool) =>
      CompletesFor ctbSpec i f (fun s (o : RObj) => s.openObj (robjX f) = some o ∧ ∀ l ∈ memLanes s f, fits tagged s o l = true) (fun slot s o =>
        let b := s.startOp f false false
        let vals := (memLanes s f).map fun l => (elem s l, level tagged s l, index tagged s l, contribVal o f.ty.toNat (s.srcC f f.ty.toNat l))
        let flags := vals.foldl (fun acc x => acc.or x.2.2.2.2) ({} : FFlags)
        ((vals.foldl (fun s x => s.contribute b.2.w.uid b.1 s.w.core s.w.ctx o x.1 x.2.1 x.2.2.1 x.2.2.2.1) b.2).finishOp b.2.w.uid b.1 []
          flags.bits none).goOn true f slot none) ∧
      CompletesFor ctbSpec i f
        (fun s (x : RObj × Nat) => s.openObj (robjX f) = some x.1 ∧ (memLanes s f).find? (fun l => !fits tagged s x.1 l) = some x.2)
        (fun _ s x => s.trapBy 0x0306 (if elem s x.2 < x.1.desc.m then x.1.addr (elem s x.2) else s.openAddr) (BitVec.ofNat 64 (elem s x.2))) ∧
      shut ctbSpec i
    ctb (.ctb f) false ∧ ctb (.ctbn f) true ∧
    CompletesFor rcloseSpec (.rclose f) f
      (fun s (o : RObj) => s.openObj (robjX f) = some o ∧ o.desc.sparse = true ∧ s.stillSends = false)
      (fun slot s o =>
        let b := s.startOp f false false
        let u := b.2.flushBuf (.core b.2.w.core) fun p => p.ctx == b.2.w.ctx && p.idx == o.idx
        ({ u with mesh := u.mesh ++ (if o.home then closeAll u.w.ctx o.idx o.oseq none b.1 u.w.key
          else [.closeOut o.chip u.w.ctx o.idx o.oseq b.1 u.w.key]) } : State).goOn true f slot none) ∧
    CompletesFor rcloseSpec (.rclose f) f (fun s (o : RObj) => s.openObj (robjX f) = some o ∧ o.desc.sparse = false) (fun _ s _ =>
      s.trapBy 0x030B s.pc (instrLow (.rclose f))) ∧
    shut rcloseSpec (.rclose f) ∧
    Produces rstatSpec (.rstat f) f (fun s =>
      (dstWr 18 f.d 0 (rstatWord (s.robj? s.w.ctx (robjX f)) (field f.x.toNat 6 2)), 0)) ∧
    CompletesFor ropenSpec (.ropen f) f (fun s o => s.robj? s.w.ctx (robjX f) = some o ∧ o.state = 1 ∧ o.home = true) (fun _ s _ =>
      s.trapBy 0x0309 s.pc (instrLow (.ropen f))) ∧
    ∀ (s : State) (ls : List EngLoc) (u v : State) (bs : List Byte),
      let e := s.atIssue f
      let va : DWord := BitVec.ofNat 64 (e.srcA f 19 0)
      let eng := e.engOf 0 e.w
      let d := RDesc.ofBytes bs
      let w := v.dropPins 0 []
      let r := w.rangeHome eng d
      let op := (e.startOp f false false).1
      let failed := fun (t : State) (c : BitVec 16) (a d : DWord) => Host.Outcome.next
        (((t.opFail e.w.uid op { engine := 4, code := c, addr := a, detail := d }).finishOp e.w.uid op [] 0 none).goOn true f (issueSlot s f) none)
      issues ropenSpec false f s = true → (∀ o, e.robj? e.w.ctx (robjX f) = some o → o.state ≠ 1 ∨ o.home = false) →
      canonicalVa va = true → va.toNat % 64 = 0 → e.storesPending = false →
      (e.startOp f false false).2.engResolve eng false va 64 = (.inr ls, u) → u.engBytes u.w.ctx ls = (bs, v) →
      (∀ home z, RDesc.bad w.pkg.cap.fp64 bs = none → r.1 = some home →
        (if f.x.getLsbD 6 then r.2.clearSpill eng d else some r.2) = some z →
        exec (.ropen f) s = .next (((z.openEntry (robjX f) (field f.x.toNat 7 2) d home).finishOp e.w.uid op [] 0 none).goOn
          true f (issueSlot s f) none)) ∧
      (∀ c n, RDesc.bad w.pkg.cap.fp64 bs = some (c, n) →
        exec (.ropen f) s = failed w c (if c = 0x0111 then w.openAddr else va) (BitVec.ofNat 64 n)) ∧
      (RDesc.bad w.pkg.cap.fp64 bs = none → r.1 = none → exec (.ropen f) s = failed r.2 0x0308 va 0) ∧
      (∀ home, RDesc.bad w.pkg.cap.fp64 bs = none → r.1 = some home → f.x.getLsbD 6 = true → r.2.clearSpill eng d = none →
        exec (.ropen f) s = failed r.2 0x0308 va 0x28)

/-- R109, R110, R112, R113, R242, R244, R245, R250: what the arrival of a partial at a core's, a port's or its home slice's buffer, the end of its
hold time, and a close at a slice do: a partial leaves the mesh behind those bound for the same home, and one that waits in its core's port for the
older accesses there to its slice waits; a buffer that is bypassed, or a context that is stopped, has the partial sent on; a partial for an object that
was never opened here gives the record 0x0305, one for another opening 0x0304, one of another kind aborts the object with 0x0307; the last close
at a slice computes the slice's roots, and one close more than that gives 0x0304 once. -/
def Obligations.PartialsArrive : Prop :=
  ∀ s : State,
    let arrives := fun (f : Mesh → Bool) (u : State) => s.mesh.any f = false ∧ u = s ∨ s.mesh.any f = true ∧ ∃ x, s.fromMesh f = some (x, u)
    let away := fun (p : Partial) (x : Mesh) => match x with | .part _ q _ => q == p | _ => false
    let homeward := fun (n : Nat) (p : Partial) (x : Mesh) => match x with | .part m q _ => m == n && q == p | _ => false
    (∀ b p u, arrives (away p) u → u.bypassed b = false → u.ctxStopped p.ctx = false →
      exec (.nonhomeArrival b p) s = .next (State.enterNonhome b 64 u p)) ∧
    (∀ b p u, arrives (away p) u → u.bypassed b = true ∨ u.ctxStopped p.ctx = true →
      exec (.nonhomeArrival b p) s = .next (u.forwardPart b p)) ∧
    (∀ b p, s.mesh.any (away p) = true → s.fromMesh (away p) = none → exec (.nonhomeArrival b p) s = .next s) ∧
    (∀ n p, s.mesh.any (homeward n p) = true → s.fromMesh (homeward n p) = none → exec (.homePartialArrival n p) s = .next s) ∧
    (∀ f x u, s.fromMesh f = some (x, u) → f x = true ∧ s.meshHeld x = false ∧ u = { s with mesh := u.mesh }) ∧
    (∀ b p w, (s.bufOf b).find? (fun w => w.part == p) = some w → w.since + b.limits.2 ≤ s.clock →
      exec (.holdTimeExpiry b p) s = .next (((s.bufOf b).filter fun w => w.part == p).foldl (fun s w => s.forwardPart b w.part)
        (s.setBuf b ((s.bufOf b).filter fun w => !(w.part == p))))) ∧
    (∀ b p w, (s.bufOf b).find? (fun w => w.part == p) = some w → s.clock < w.since + b.limits.2 → exec (.holdTimeExpiry b p) s = .next s) ∧
    (∀ slice p u, arrives (homeward slice p) u → (∀ o, u.robj? p.ctx p.idx = some o → o.state = 0 ∨ o.home = false) →
      exec (.homePartialArrival slice p) s = .next (u.objRecord p.ctx p.launch 0x0305 u.openAddr (BitVec.ofNat 64 p.elem))) ∧
    (∀ slice p u o, arrives (homeward slice p) u → u.robj? p.ctx p.idx = some o → o.state ≠ 0 → o.home = true →
      let late := o.state ≠ 1 ∨ o.oseq ≠ p.oseq
      let alike := p.kind = (if o.desc.sparse then 1 else 0) ∧ p.opr = o.desc.opr ∧ p.fmt = o.desc.fmt ∧ p.n = o.desc.n
      (late → exec (.homePartialArrival slice p) s =
        .next (u.objRecord p.ctx p.launch 0x0304 (o.addr p.elem) (BitVec.ofNat 64 p.elem))) ∧
      (¬ late → ¬ alike → exec (.homePartialArrival slice p) s =
        .next (u.abortObj p.ctx p.idx p.launch 0x0307 (o.addr p.elem) (BitVec.ofNat 64 p.elem))) ∧
      (¬ late → alike → exec (.homePartialArrival slice p) s = .next (State.enterHome slice o 64 u p))) ∧
    (∀ slice ctx idx oseq src op key rest o, slice < 128 → s.mesh = .close slice ctx idx oseq src op key :: rest → s.robj? ctx idx = some o →
      let n := (lookup o.closes slice).getD 0
      let taken : State := { s with mesh := rest }
      let due := o.state = 1 ∧ o.home = true ∧ o.oseq = oseq ∧ o.desc.sparse = true ∧ n < o.desc.closes
      let counted := taken.mapObj ctx idx fun o => { o with closes := assign slice (n + 1) o.closes }
      let name := (match src with | some c => c + 1 | none => 0, op)
      (due → n + 1 < o.desc.closes → exec (.closeArrival slice ctx idx oseq) s = .next (counted.closeDone src op)) ∧
      (due → n + 1 = o.desc.closes → exec (.closeArrival slice ctx idx oseq) s = .next ((counted.closeSlice slice ctx idx).closeDone src op)) ∧
      (¬ due → o.lateClose.contains name = true → exec (.closeArrival slice ctx idx oseq) s = .next (taken.closeDone src op)) ∧
      (¬ due → o.lateClose.contains name = false → exec (.closeArrival slice ctx idx oseq) s =
        .next (((taken.objRecord ctx key 0x0304 taken.openAddr taken.openDetail).mapObj ctx idx fun o =>
          { o with lateClose := name :: o.lateClose }).closeDone src op)))

/-! ### Collectives -/

/-- R265, R268 to R271, R273, R274: `coll` and the COLL packet take the next instance of their communicator and start it, or fail with 0x0422 where
the communicator is not valid and 0x0201 or 0x020A at a bad address, a packet then taking no instance (DEDUCED, log 33); `collx` marks an instance not yet started here, aborts one in flight, and
answers 0 for a complete one, 1 for an aborted one, 2 for one to come and 3 for one too old to tell; an abort ends an instance with its record, or
completes it where its last output sector had been written; a start message of another digest aborts the instance; and Nimbus sends an instance's next chunk of input, writes its next chunk of output, or completes it. -/
def Obligations.CollectivesRun : Prop :=
  (∀ f : Fields,
    let comm := commX f
    let va := fun (s : State) => (BitVec.ofNat 64 (s.srcA f 19 0) : DWord)
    let inst := fun (s : State) => s.nextInst s.w.ctx comm
    CompletesFor collFields (.coll f) f
      (fun s c => s.comm? s.w.ctx comm = some c ∧ canonicalVa (va s) = true ∧ (va s).toNat % 64 = 0 ∧ s.storesPending = false)
      (fun slot s c =>
        let b := s.startOp f false false
        let u := (b.2.takeInst s.w.ctx comm).withR fun r => r.puts (dstWr 18 f.d 0 (inst s).toNat)
        ((u.mapColl s.w.ctx comm (inst s) fun x =>
          { x with started := true, wave := some (s.w.uid, b.1), launch := some s.w.key, after := u.nextId }).startColl s.w.ctx comm (inst s)
            (va s) (s.engOf 0 s.w) c).goOn true f slot none) ∧
    CompletesIf collFields false (.coll f) f (fun s => s.comm? s.w.ctx comm = none) (fun _ s =>
      s.trapBy 0x0422 s.pc (collDetail comm (inst s) 0)) ∧
    CompletesFor collFields (.coll f) f (fun s c => s.comm? s.w.ctx comm = some c ∧ canonicalVa (va s) = false) (fun _ s _ =>
      s.trapBy 0x0201 (va s) (xlDetail 0 .read 7)) ∧
    CompletesFor collFields (.coll f) f (fun s c => s.comm? s.w.ctx comm = some c ∧ canonicalVa (va s) = true ∧ (va s).toNat % 64 ≠ 0)
      (fun _ s _ => s.trapBy 0x020A (va s) (xlDetail 0 .read 7))) ∧
  (∀ f : Fields,
    let comm := commX f
    let k := fun (s : State) => (BitVec.ofNat 32 (s.srcA f 18 0) : Word)
    let newest := fun (s : State) => s.nextInst s.w.ctx comm - 1
    let toCome := fun (s : State) => 1 ≤ (k s - newest s).toNat ∧ (k s - newest s).toNat ≤ 255
    let gone := fun (s : State) => ¬ toCome s ∧ (255 < (newest s - k s).toNat ∨ s.coll? s.w.ctx comm (k s) = none)
    let known := fun (s : State) (x : Coll) => ¬ toCome s ∧ (newest s - k s).toNat ≤ 255 ∧ s.coll? s.w.ctx comm (k s) = some x
    let answers := fun (cond : State → Coll → Prop) (v : Nat) (eff : State → State) =>
      CompletesFor collxSpec (.collx f) f (fun s (x : Comm × Coll) => s.comm? s.w.ctx comm = some x.1 ∧ cond s x.2)
        (fun slot s _ => ((eff s).longDone f (dstWr 18 f.d 0 v) 0).goOn true f slot none)
    answers (fun s _ => toCome s) 2
      (fun s => s.mapColl s.w.ctx comm (k s) fun x => if x.stage = 0 then { x with stage := 2, code := 0x0420 } else x) ∧
    answers (fun s _ => gone s) 3 id ∧
    CompletesFor collxSpec (.collx f) f (fun s (x : Comm × Coll) => s.comm? s.w.ctx comm = some x.1 ∧ known s x.2 ∧ x.2.stage = 0)
      (fun slot s _ =>
        let u := s.abortColl s.w.ctx comm (k s) 0x0420 0 0
        (u.longDone f (dstWr 18 f.d 0 (if (u.coll? s.w.ctx comm (k s)).any (·.stage == 1) then 0 else 1)) 0).goOn true f slot none) ∧
    answers (fun s x => known s x ∧ x.stage = 1) 0 id ∧
    answers (fun s x => known s x ∧ 2 ≤ x.stage) 1 id ∧
    CompletesIf collxSpec false (.collx f) f (fun s => s.comm? s.w.ctx comm = none) (fun _ s =>
      s.trapBy 0x0422 s.pc (collDetail comm (k s) 0))) ∧
  (∀ (queue slot : Nat) (s : State) (q : Queue) (p : Packet), s.ready queue slot 6 = some (q, p) →
    let u := s.stagePacket queue slot 1
    let comm := word p.words 3 % 16
    let va := nth 0 p.words 2
    let inst := u.nextInst q.ctx comm
    let v := (u.takeInst q.ctx comm).mapColl q.ctx comm inst fun x => { x with started := true, packet := some (queue, slot) }
    let failed := fun (code : BitVec 16) (a d : DWord) =>
      exec (.collPacket queue slot) s = .next ((u.failNoWave (u.ctxRecord q.ctx none 8 code a d) none).packetDone queue slot false)
    (u.comm? q.ctx comm = none → failed 0x0422 u.openAddr (collDetail comm inst 0)) ∧
    (∀ c, u.comm? q.ctx comm = some c →
      (canonicalVa va = false → failed 0x0201 va (xlDetail 0 .read 7)) ∧
      (canonicalVa va = true → va.toNat % 64 ≠ 0 → failed 0x020A va (xlDetail 0 .read 7)) ∧
      (canonicalVa va = true → va.toNat % 64 = 0 →
        exec (.collPacket queue slot) s = .next (v.startColl q.ctx comm inst va (v.engAs 0 q.ctx) c)))) ∧
  (∀ (ctx comm : Nat) (inst : Word) (s : State),
    (∀ code, exec (.collAbort ctx comm inst code) s = .next (s.abortHere ctx comm inst (code % 2 ^ 16) 0 (code / 2 ^ 16))) ∧
    (∀ code addr cause x, s.coll? ctx comm inst = some x → x.stage ≠ 0 → s.abortHere ctx comm inst code addr cause = s) ∧
    (∀ code addr cause x d c, s.coll? ctx comm inst = some x → x.stage = 0 → x.desc = some d → s.comm? ctx comm = some c →
      s.collWritten ctx x d c = true → s.abortHere ctx comm inst code addr cause = (s.collLoosen ctx x d c).collDone ctx x d) ∧
    (∀ code addr cause x d c, s.coll? ctx comm inst = some x → x.stage = 0 → x.desc = some d → s.comm? ctx comm = some c →
      s.collWritten ctx x d c = false →
      let u := (s.mapColl ctx comm inst fun x => { x with stage := 2, code := code + cause * 2 ^ 16 }).dropInWatch ctx comm inst
      let at_ := BitVec.ofNat 16 code
      (∀ w op, x.wave = some (w, op) → s.abortHere ctx comm inst code addr cause =
        (u.opFail w op { engine := 7, code := at_, addr := addr, detail := collDetail comm inst cause }).finishOp w op [] 0 none) ∧
      (∀ q slot, x.wave = none → x.packet = some (q, slot) → s.abortHere ctx comm inst code addr cause =
        (u.failNoWave (u.ctxRecord ctx none 7 at_ (u.recAddr at_ addr) (collDetail comm inst cause)) none).packetDone q slot false)) ∧
    (∀ src g,
      let u := s.mapColl ctx comm inst fun x => { x with starts := assign src g x.starts }
      let x := (u.coll? ctx comm inst).getD (Coll.fresh comm inst)
      let agrees := fun (c : Comm) => let mine := digestOf c (x.desc.getD (CDesc.ofBytes []))
        c.ranks.contains src = true ∧ g.comm = mine.comm ∧ (x.desc ≠ none → g.desc = mine.desc)
      (u.comm? ctx comm = none → exec (.collStartMessage ctx comm inst src g) s = .next u) ∧
      (∀ c, u.comm? ctx comm = some c → agrees c → exec (.collStartMessage ctx comm inst src g) s = .next u) ∧
      (∀ c, u.comm? ctx comm = some c → ¬ agrees c →
        exec (.collStartMessage ctx comm inst src g) s = .next (u.abortColl ctx comm inst 0x0421 0 0))) ∧
    (∀ x c d, s.coll? ctx comm inst = some x → s.comm? ctx comm = some c → x.desc = some d →
      let u := s.serveColl ctx comm
      (s.collNextStep ctx x d c = .wait → exec (.nimbusChunk ctx comm inst) s = .next s) ∧
      (s.collNextStep ctx x d c = .send → exec (.nimbusChunk ctx comm inst) s = .next (u.collSend ctx x d c)) ∧
      (s.collNextStep ctx x d c = .write → exec (.nimbusChunk ctx comm inst) s = .next (u.collWrite ctx x d c)) ∧
      (s.collNextStep ctx x d c = .done →
        exec (.nimbusChunk ctx comm inst) s = .next ((u.collLoosen ctx x d c).collDone ctx x d))))

/-! ### Translation, saving and links -/

/-- R88, R91, R94, R95: a walk that ends in a leaf fills the die's TLB and those of the waiting cores, a failed one waits for their instructions; the
`tlbi` forms and the host begin invalidations, one of an address that is not canonical having nothing to do; and an invalidation begins once the
stores before it are performed, removing what it covers, and completes when nothing of what it removed is in use. -/
def Obligations.TranslationEvents : Prop :=
  (∀ f : Fields,
    let va : State → DWord := fun s => BitVec.ofNat 64 (s.srcA f 19 0)
    let tlbi := fun (i : Instr) (sp : Spec) (cond : State → Prop) (ctx : State → Option Nat) (a : State → Option DWord) =>
      CompletesIf sp false i f cond (fun slot s =>
        let b := s.startOp f false false
        (b.2.addInv (ctx s) (a s) b.2.ownStores (some (s.w.uid, b.1))).goOn true f slot none)
    tlbi (.tlbiVa f) tlbiVaSpec (fun s => canonicalVa (va s) = true) (fun s => some (s.srcB f 18 0 % 2 ^ 16)) (fun s => some (va s)) ∧
    tlbi (.tlbiCtx f) tlbiCtxSpec (fun _ => True) (fun s => some (s.srcA f 18 0 % 2 ^ 16)) (fun _ => none) ∧
    tlbi (.tlbiAll f) tlbiAllSpec (fun _ => True) (fun _ => none) (fun _ => none) ∧
    CompletesIf tlbiVaSpec false (.tlbiVa f) f (fun s => canonicalVa (va s) = false) (fun slot s =>
      let b := s.startOp f false false
      (b.2.finishOp s.w.uid b.1 [] 0 none).goOn true f slot none)) ∧
  (∀ (ctx : Option Nat) (va : Option DWord) (s : State), exec (.hostTlbInvalidation ctx va) s = .next (s.addInv ctx va [] none)) ∧
  (∀ (id : Nat) (s u : State) (x : Walk), s.m.walks.find? (fun x => x.id == id) = some x →
    let v : State := { u with m := { u.m with walks := u.m.walks.filter fun y => y.id != x.id } }
    (∀ level e, s.walk x.die x.ctx (x.page * 2 ^ 16) = (.leaf level e, u) →
      exec (.pageWalk id) s = .next (v.addTlb (((256 + x.die) :: (x.waiters.filterMap fun n => (v.wave n).map (·.core)).eraseDups).map fun n =>
        leafEntry n x.ctx (x.page * 2 ^ 16) level e))) ∧
    (∀ level code, s.walk x.die x.ctx (x.page * 2 ^ 16) = (.fail level code, u) →
      exec (.pageWalk id) s = .next { v with m := { v.m with faults :=
        (x.waiters.map fun n => ({ wave := n, page := x.page, level := level, code := code } : WalkFault)) ++ v.m.faults } })) ∧
  (∀ (id : Nat) (s : State) (x : Inv), s.m.invs.find? (fun x => x.id == id) = some x →
    (s.invReady x = false → exec (.invalidationComplete id) s = .next s) ∧
    (∀ y, s.invReady x = true →
      let u := if x.began then s else s.invBegin x
      let t : State := { u with m := { u.m with invs := u.m.invs.filter fun z => z.id != id } }
      u.m.invs.find? (fun y => y.id == id) = some y →
      (u.invDone y = false → exec (.invalidationComplete id) s = .next u) ∧
      (u.invDone y = true → exec (.invalidationComplete id) s = .next (match y.op with | none => t | some (w, o) => t.finishOp w o [] 0 none))))

/-- R112, R363 to R366: `csave` writes a stopped, quiet team's image and frees it unless it is kept, an image that cannot be written leaving the team
where it is; `crest` reads an image's header and then the image, and restores the team on a core with room; a header of another magic, version or
revision, bytes that hold no image of a context of this chip, which is the model's choice where they break its own form (DESIGN CHOICE, log 12), and
an image that finds no room end with 0x0148; a slot that holds no stopped team, and a core that is absent, trap with 0x0147; a stopped context's teams
go to its save area once they are quiet and their partials have gone home, and its tables behind them; and the last arrival at the restore barrier lets the context run. -/
def Obligations.SaveAndRestore : Prop :=
  (∀ f : Fields,
    let va := fun (s : State) => (BitVec.ofNat 64 (s.srcA f 19 0) : DWord)
    let named := fun (s : State) (t : Team) => t.core == s.srcB f 18 0 % 256 && t.slot0 == field (s.srcB f 18 0) 8 7
    let stopped := fun (s : State) (t : Team) => t.uid ≠ s.w.team ∧ (s.teamWaves t.uid).all Wave.halts = true
    let begun := fun (s : State) => s.startOp f false false
    let image := fun (s : State) (t : Team) => (begun s).2.teamImage t 0 (!f.x.getLsbD 0)
    let writes := fun (s : State) (t : Team) (v : State) (ok : Bool) =>
      State.writeImage { (begun s).2 with nextId := (begun s).2.nextId + 1 } s.w (begun s).1 (va s) ((begun s).2.imageBytes (image s t)) = (ok, v)
    CompletesFor saveSpec (.csave f) f
      (fun s (x : Team × List (Nat × DWord × Hit) × State) => s.teams.find? (named s) = some x.1 ∧ stopped s x.1 ∧
        s.imageAt .write (va s) = .ok x.2.1 ∧ s.teamQuiet x.1 = true ∧ writes s x.1 x.2.2 true)
      (fun slot s x =>
        let freed : State := { x.2.2 with images := image s x.1 :: x.2.2.images }
        ((if f.x.getLsbD 0 then x.2.2 else freed.unseat x.1).finishOp s.w.uid (begun s).1 [] 0 none).goOn true f slot none) ∧
    CompletesFor saveSpec (.csave f) f
      (fun s (x : Team × List (Nat × DWord × Hit) × State) => s.teams.find? (named s) = some x.1 ∧ stopped s x.1 ∧
        s.imageAt .write (va s) = .ok x.2.1 ∧ s.teamQuiet x.1 = true ∧ writes s x.1 x.2.2 false)
      (fun slot s x => (x.2.2.finishOp s.w.uid (begun s).1 [] 0 none).goOn true f slot none) ∧
    CompletesIf saveSpec false (.csave f) f (fun s => ∀ t, s.teams.find? (named s) = some t → ¬ stopped s t) (fun _ s =>
      s.trapBy 0x0147 s.pc (instrLow (.csave f))) ∧
    CompletesIf saveSpec false (.crest f) f (fun s => s.corePresent (s.srcB f 18 0 % 256) = false) (fun _ s =>
      s.trapBy 0x0147 s.pc (instrLow (.crest f)))) ∧
  (∀ (f : Fields) (s u : State) (ls : List EngLoc) (hs : List (Nat × DWord × Hit)),
    let e := s.atIssue f
    let va : DWord := BitVec.ofNat 64 (e.srcA f 19 0)
    let core := e.srcB f 18 0 % 256
    let begun := e.startOp f false false
    let hd := u.engBytes e.w.ctx ls
    let ended := fun (t : State) => exec (.crest f) s = .next ((t.finishOp e.w.uid begun.1 [] 0 none).goOn true f (issueSlot s f) none)
    let refused := fun (t : State) => ended ((t.dropPins 0 []).opFail e.w.uid begun.1
      { engine := 0, code := 0x0148, addr := va, detail := t.engDetail (t.engOf 0 e.w) 0 .read va })
    issues saveSpec false f s = true → e.corePresent core = true → e.imageAt .read va = .ok hs →
    begun.2.engResolve (begun.2.engOf 0 e.w) false va 256 = (.inr ls, u) →
    (headerOk hd.1 = false → refused hd.2) ∧
    (headerOk hd.1 = true → ∀ more v, hd.2.engResolve (hd.2.engOf 0 e.w) false va (at4 hd.1 0x20 8) = (.inr more, v) →
      let all := v.engBytes e.w.ctx more
      (all.2.imageOf all.1 = none → refused all.2) ∧
      (∀ im, all.2.imageOf all.1 = some im → all.2.fits im.team.k core = none → refused all.2) ∧
      (∀ im p, all.2.imageOf all.1 = some im → all.2.fits im.team.k core = some p →
        ended ((all.2.dropPins 0 []).crestTeam im all.1 core p (f.x.getLsbD 0))))) ∧
  (∀ (ctx : Nat) (s : State) (c : Ctx), s.ctx? ctx = some c →
    (s.savable c = true →
      let u := (s.teams.filter fun t => t.ctx == c.ctx).foldl State.saveTeam s
      exec (.saveMicrocode ctx) s = .next ((u.sysStore (u.nextSave c.ctx) (s.saveStateBytes c)).mapCtx c.ctx fun c => { c with saved := true })) ∧
    (s.savable c = false → exec (.saveMicrocode ctx) s = .next s)) ∧
  (∀ (ctx chip : Nat) (stamp : Word) (s : State) (c : Ctx),
    let u := s.mapCtx ctx fun c => { c with restoring := if c.stopped then some (assign chip stamp (c.restoring.getD [])) else c.restoring }
    u.ctx? ctx = some c →
    (u.restoreMeets c = true → exec (.restoreBarrier ctx chip stamp) s = .next (u.runCtx ctx)) ∧
    (u.restoreMeets c = false → exec (.restoreBarrier ctx chip stamp) s = .next u))

/-- R259 to R261: a flit with a good CRC takes effect on its own chip and goes on from another; one with a bad CRC is resent and counted; a port that
is not up carries nothing; a lane that fails 16 times in a row is left out with a record, and the port goes on with four lanes, or goes down where
more than four are lost; a port goes down with a record, and trains up. -/
def Obligations.LinksCarryFlits : Prop :=
  ∀ (port lane dst : Nat) (m : Msg) (s : State),
    let p := s.port port
    (∀ ok d rest, s.inbox = m :: rest → exec (.flitReceive 16 lane ok d m) s = .next (State.deliver { s with inbox := rest } none m)) ∧
    (port ≠ 16 → s.portUp port = false → ∀ ok, exec (.flitReceive port lane ok dst m) s = .next s) ∧
    (port ≠ 16 → s.portUp port = true →
      let u : State := { s with ports := assign port { p with fails := p.fails.filter fun x => x.1 != lane || x.2 == 17 } s.ports }
      let n := (lookup p.fails lane).getD 0
      exec (.flitReceive port lane true dst m) s = .next (if dst = s.pkg.chipNo then u.deliver (some port) m else u.passOn port dst m) ∧
      let q : Port := { p with resends := p.resends + 1, fails := assign lane (if 16 ≤ n then n else n + 1) p.fails }
      exec (.flitReceive port lane false dst m) s = .next { s with ports := assign port q s.ports }) ∧
    (∀ x, s.portUp port = true → p.fails.find? (fun x => x.2 == 16) = some x →
      let fails := assign x.1 17 p.fails
      let u : State := { s with ports := assign port { p with fails := fails, width := 1 } s.ports }
      ((fails.filter fun x => x.2 == 17).length ≤ 4 →
        exec (.laneRetrain port) s = .next (u.failNoWave (u.bareRecord 6 0x0402 u.openAddr u.openDetail) none)) ∧
      (4 < (fails.filter fun x => x.2 == 17).length → exec (.laneRetrain port) s = exec (.portDown port) u)) ∧
    (s.portUp port = false ∨ (∀ x ∈ p.fails, x.2 ≠ 16) → exec (.laneRetrain port) s = .next s) ∧
    (s.portPresent port = true → p.width ≠ 0 → exec (.portDown port) s =
      .next ((s.failNoWave (s.bareRecord 6 0x0401 s.openAddr s.openDetail) none).portLost port)) ∧
    (∀ peer, s.portPresent port = true → p.enable = true → peer < 4096 →
      exec (.fedeuxPortUp port 8 peer) s = .next { s with ports := assign port { p with width := 2, peer := peer, fails := [] } s.ports } ∧
      exec (.fedeuxPortUp port 4 peer) s = .next { s with ports := assign port { p with width := 1, peer := peer, fails := [] } s.ports })

/-! ### Queues, packets and launches -/

/-- R126, R127, R280, R414: the dispatch processor takes the next slot of a queue it was told of when the slot's stamp is its index, a graph's node
table with it, refuses a malformed packet with 0x0601, stops at an overrun with 0x0602, and looks again at a slot not yet posted; a failed access is
recorded once for its slot and made again. A stamp k ring sizes ahead is an overrun for every k below 2^31 (the bound is the model's, log 52), and a
WIDX word that lies outside this chip's HBM is read through the queue's context (the model's reading, log 51). -/
def Obligations.QueuesAreServed : Prop :=
  ∀ (n : Nat) (s : State) (q : Queue),
    s.queue? n = some q →
    let j := q.next
    let va := q.slotVa j
    let served := fun (u : State) => u.fresh.2.mapQueue q.num fun x => { x with fault := none, served := u.fresh.1 }
    let taken := fun (u : State) (ps : List Packet) => u.mapQueue q.num fun x =>
      { x with next := j + 1, reread := none, packets := x.packets ++ ps }
    let looks := fun (i : Instr) =>
      (∀ c a v, s.widxNow q = (.inl (c, a), v) → exec i s = .next (v.queueFault q j c a)) ∧
      (∀ w v, s.widxNow q = (.inr w, v) → w ≤ j → exec i s = .next (v.mapQueue q.num fun x => { x with looking := false })) ∧
      (∀ w v c a u, s.widxNow q = (.inr w, v) → j < w → v.dpRead q.ctx va 64 = (.inl (c, a), u) → exec i s = .next (u.queueFault q j c a)) ∧
      (∀ w v (bs : List Byte) (u : State), s.widxNow q = (.inr w, v) → j < w → v.dpRead q.ctx va 64 = (.inr bs, u) →
        let ws := dwords bs
        let stamp := word ws 0 / 2 ^ 16
        let t := (served u).takePacket q.ctx q.num j ws
        (stampCase q.log2 stamp j = 0 → malformed ws = false → exec i s = .next ((taken t.2 [t.1]).writeRidx q j)) ∧
        (stampCase q.log2 stamp j = 0 → malformed ws = true →
          exec i s = .next (((taken (served u) []).packetRecord q.ctx 0x0601 va j).writeRidx q j)) ∧
        (stampCase q.log2 stamp j = 1 →
          let v := (served u).mapQueue q.num fun x => { x with stopped := true }
          exec i s = .next (v.failNoWave (v.ctxRecord q.ctx none 8 0x0602 va (BitVec.ofNat 64 j)) none)) ∧
        (stampCase q.log2 stamp j = 2 → exec i s = .next ((served u).mapQueue q.num fun x => { x with reread := some (served u).clock })))
    (q.widxPa < s.hbmBytes → s.widxNow q = (.inr (s.readPa (s.slotFor q.ctx 1) q.widxPa 8), s)) ∧
    (s.hbmBytes ≤ q.widxPa → s.widxNow q = s.dpNum q.ctx q.widx 8) ∧
    exec (.watchSignal n) s =
      .next (s.mapQueue n fun x => if x.signalled then { x with signalled := false, looking := true } else x) ∧
    (q.open = true → q.looking = true → q.fault = none →
      (q.reread = none → looks (.slotTake n)) ∧ ((∃ c, q.reread = some c) → looks (.slotReread n))) ∧
    (∀ k, q.fault = some k →
      (k < j → q.stopped = false → exec (.queueAccessRetry n) s = .next (s.writeRidx q (j - 1))) ∧
      (j ≤ k → q.open = true → looks (.queueAccessRetry n))) ∧
    (∀ (ctx queue slot : Nat) (ws : List DWord),
      let p : Packet := { queue := queue, slot := slot, words := ws, stage := 0, table := none, dropped := [] }
      let nodes := s.readNodes ctx (nth 0 ws 2) (128 * (word ws 3 % 2 ^ 13))
      s.takePacket ctx queue slot ws = if p.type = 3 then ({ p with table := some nodes.1 }, nodes.2) else (p, s)) ∧
    ∀ d, d < 2 ^ 48 → q.log2 ≤ 16 →
      (stampCase q.log2 d j = 0 ↔ d = j % 2 ^ 48) ∧
      ∀ k, 1 ≤ k → k < 2 ^ 31 → stampCase q.log2 ((j + k * 2 ^ q.log2) % 2 ^ 48) j = 1

/-- R124, R128, R336: a packet that may begin: NOP is complete, WAIT completes when its word holds the condition, read as an acquire (a release kept at
core scope is promoted first), and ends with the failure of a read that faults; SIGNAL completes when its word is written; COPY begins a copy of
memory to memory, its pattern read first through the home slices of its words, and fails with 0x0112 where the package has no stride gather, with
0x0501 at a pattern in a poisoned sector, with 0x0221 at an invalid pattern. That a word split between slices is no single place of a kept release is
the model's (log 28); that bytes outside the pattern's elements fail with 0x0221 too is the model's choice (log 53). -/
def Obligations.PacketsBegin : Prop :=
  ∀ (n slot : Nat) (s : State) (q : Queue) (p : Packet),
    let a := s.stagePacket n slot 1
    let w := fun i => word p.words i
    let waits := fun (i : Instr) (a : State) =>
      let eng := engFor 0 q.ctx
      (∀ c x u, a.engResolve eng false (nth 0 p.words 2) 8 = (.inl (c, x), u) →
        let v := u.dropPins 0 []
        exec i s = .next ((v.failNoWave (v.ctxRecord q.ctx none 8 c (v.recAddr c x) (v.recDetail c (v.engDetail eng 0 .read x))) none).packetDone
          q.num p.slot false)) ∧
      (∀ ls u, a.engResolve eng false (nth 0 p.words 2) 8 = (.inr ls, u) →
        let v := u.dropPins 0 []
        let kept := match ls with | [.here pa _ m] => v.promoAt q.ctx p.scope 256 false pa m | _ => none
        let r := v.engBytes q.ctx ls
        (kept = none → exec i s = .next (if waitHolds p.words (ofBytes r.1) then r.2.packetDone q.num p.slot true else r.2)) ∧
        (∀ x, kept = some x → exec i s =
          .next (if v.m.promoReqs.any fun y => y.sp == x.sp && y.loc == x.loc && y.core == x.core then v else v.askPromo x none)))
    (s.ready n slot 0 = some (q, p) → exec (.nopPacket n slot) s = .next (s.packetDone n slot true)) ∧
    (s.ready n slot 4 = some (q, p) → waits (.waitPacket n slot) a) ∧
    (s.packet? n slot = some (q, p) → p.type = 4 → p.stage = 1 → waits (.waitPacketReread n slot) s) ∧
    (s.ready n slot 5 = some (q, p) →
      let r := s.deviceWrite q.ctx 8 none (nth 0 p.words 2) (natBit (w 4) 0) (w 3)
      exec (.signalPacket n slot) s = .next (r.2.packetDone n slot r.1)) ∧
    (s.ready n slot 2 = some (q, p) →
      let c : Copy := {
        id := a.nextId, core := 256, wave := none, packet := some (n, slot), ctx := q.ctx, priv := a.ctxPriv q.ctx, src := .mem (nth 0 p.words 2),
        dst := .mem (nth 0 p.words 3), pitch := 0, multi := [], skipped := false, pat := none, total := w 4, off := 0, obj := none,
        hint := field (w 5) 8 2, launch := LKey.none, after := 0, suspended := false, moving := 0, peerFail := none }
      let b : State := { a with nextId := a.nextId + 1 }
      let k := w 5 % 32
      (natBit (w 5) 7 = false → exec (.copyPacket n slot) s = .next { b with copies := b.copies ++ [c] }) ∧
      (natBit (w 5) 7 = true →
        (s.pkg.cap.sgather = false → exec (.copyPacket n slot) s = .next (b.copyFail c 0x0112 0 0)) ∧
        (s.pkg.cap.sgather = true →
          let v := b.patternPass q.ctx k
          let failed := fun (code : BitVec 16) (addr : DWord) => exec (.copyPacket n slot) s = .next (v.copyFail c code addr 0)
          (∀ sec, b.patternBad q.ctx k = some sec → failed 0x0501 (BitVec.ofNat 64 sec)) ∧
          (b.patternBad q.ctx k = none → v.pattern q.ctx k = none → failed 0x0221 0) ∧
          (∀ x, b.patternBad q.ctx k = none → v.pattern q.ctx k = some x →
            let whole := w 4 % x.esize = 0 ∧ w 4 / x.esize ≤ x.counts.foldl (· * ·) 1
            let patterned : Copy := { c with pat := some (k, x.esize, x.counts, x.strides) }
            (whole → exec (.copyPacket n slot) s = .next { v with copies := v.copies ++ [patterned] }) ∧ (¬ whole → failed 0x0221 0)))))

/-- R52, R263, R264, R277, R283, R289: a LAUNCH whose payload keeps R277 is held at stage 0 and copied to every chip it names, one that does not ends
with 0x0614, one that names a chip out of reach with 0x0411, and one for which the launches in progress and those that wait with a higher priority
leave no place of the 256 waits; a chip with a place whose copy has a good header arrives at the start barrier, one with a bad header fails the launch with 0x0610, 0x0613 or 0x0612; the last arrival starts the launch on every
chip, an arrival of another generation fails it with 0x0410, and a barrier not complete after BARTMO milliseconds fails with 0x0411. -/
def Obligations.LaunchesStart : Prop :=
  ∀ s : State,
    let me := s.pkg.chipNo
    let place := fun (prio : Nat) => s.inProgress + (s.launches.filter fun l => s.copyWaiting l && decide (prio < l.prio)).length < 256
    (∀ (n slot : Nat) (q : Queue) (p : Packet), s.ready n slot 1 = some (q, p) →
      let a := s.stagePacket n slot 1
      let ws := p.words
      let key : LKey := { chip := me, queue := n, slot := slot, node := none }
      let va := q.slotVa slot
      let refused := fun (u : State) => exec (.launchPacket n slot) s = .next ((u.failRecord key q.ctx 0x0614 va slot).launchEnds key false)
      let named := fun (bs : List Byte) (u : State) =>
        if word ws 5 = 0 then (bs, u) = (natBytes 2 a.pkg.chipNo, a) else a.dpRead q.ctx (nth 0 ws 5) (2 * word ws 6) = (.inr bs, u)
      (¬ place q.prio → exec (.launchPacket n slot) s = .next s) ∧
      (place q.prio →
        (payloadBad ws [] 0 = true → refused a) ∧
        ∀ bs u r v, payloadBad ws [] 0 = false → named bs u → u.dpRead q.ctx (nth 0 ws 2) 64 = (r, v) →
          let chips := (List.range (word ws 6)).map fun i => ofBytes ((bs.drop (2 * i)).take 2)
          let waves := match r with | .inr h => (Kernel.ofBytes 0 h).waves | .inl _ => 0
          let words := launchWords ws va q.prio none chips
          let gen := match a.ctx? q.ctx with | some c => c.gen | none => 0
          let x := v.addLaunch (v.newLaunch key q.ctx words gen)
          (payloadBad ws chips waves = true → refused v) ∧
          (payloadBad ws chips waves = false → (∀ c ∈ chips, x.reaches c = true) → exec (.launchPacket n slot) s =
            .next ((chips.filter fun c => c != x.pkg.chipNo).foldl (fun s c => s.send c (.launch key q.ctx words gen)) x)) ∧
          (∀ c ∈ chips, payloadBad ws chips waves = false → x.reaches c = false →
            exec (.launchPacket n slot) s = .next (x.failLaunch key 0x0411 x.openAddr x.openDetail.toNat x.pkg.chipNo)))) ∧
    (∀ (key : LKey) (l : Launch) (bs : List Byte) (u : State),
      s.launch? key = some l → l.stage = 0 → l.k = none → l.index < l.chips.length → s.ctxHeld l.ctx = false →
      let k := Kernel.ofBytes l.hdr bs
      let room := ((List.range 256).map fun c => u.capacity k c).foldl (· + ·) 0
      let gen := match u.ctx? l.ctx with | some c => c.gen | none => 0
      let fails := fun (code : BitVec 16) (a : DWord) (d : Nat) => exec (.launchAdmit key) s = .next (u.failLaunch key code a d me)
      let has := l.counts me = true ∨ place l.prio
      (¬ has → exec (.launchAdmit key) s = .next s) ∧
      (has → s.dpRead l.ctx l.hdr 64 = (.inr bs, u) →
        (∀ off, Kernel.bad bs = some off → fails 0x0610 l.hdr off) ∧
        (Kernel.bad bs = none → k.msetMask ≠ 0 → k.coresident = false → fails 0x0613 l.slotVa key.slot) ∧
        (Kernel.bad bs = none → k.coresident = true → room < l.mine → fails 0x0612 l.slotVa key.slot) ∧
        (Kernel.bad bs = none → (k.msetMask = 0 ∨ k.coresident = true) → (k.coresident = true → l.mine ≤ room) →
          exec (.launchAdmit key) s = .next ((u.mapLaunch key fun l => { l with k := some k }).send key.chip (.arrive key me gen))))) ∧
    (∀ (key : LKey) (l : Launch) (chip : Nat) (stamp : Word),
      s.launch? key = some l → l.stage = 0 → key.chip = me → l.chips.contains chip = true →
      let same := l.arrived = [] ∨ l.gen = stamp
      let arrived := if l.arrived.contains chip then l.arrived else l.arrived ++ [chip]
      let u := s.mapLaunch key fun l => { l with gen := stamp, arrived := arrived }
      let n := s.pkg.launchSeq + 1
      let v : State := { u with pkg := { u.pkg with launchSeq := n } }
      (¬ same → exec (.startBarrierArrival key chip stamp) s = .next (s.failLaunch key 0x0410 s.openAddr s.openDetail.toNat me)) ∧
      (same → arrived.length < l.chips.length → exec (.startBarrierArrival key chip stamp) s = .next u) ∧
      (same → l.chips.length ≤ arrived.length → exec (.startBarrierArrival key chip stamp) s =
        .next (((l.chips.filter fun c => c != me).foldl (fun s c => s.send c (.barrierDone key n)) v).startLaunch key n))) ∧
    (∀ (key : LKey) (l : Launch) (n : Word), s.launch? key = some l → l.stage = 0 →
      s.startLaunch key n = s.fresh.2.mapLaunch key fun l =>
        { l with stage := 1, seqNo := n, since := s.fresh.2.clock, order := s.fresh.1 }) ∧
    ∀ (key : LKey) (l : Launch), s.launch? key = some l → l.stage = 0 → key.chip = me →
      (l.since + s.pkg.barTmo * 1900000 ≤ s.clock →
        exec (.barrierTimeout key) s = .next (s.failLaunch key 0x0411 s.openAddr s.openDetail.toNat me)) ∧
      (s.clock < l.since + s.pkg.barTmo * 1900000 → exec (.barrierTimeout key) s = .next s)

/-- R143, R278, R283, R291, R292: the next team of a launch goes to a core that has what it needs, and waits where it fits none; a co-resident
launch admits all its teams in one step or none, or its first team to a core where all the others then find a place too, which follow before anything
else (how they are spread is the model's, log 35); a launch whose team has waited 65,536 clocks is not passed again. A wave starts with its arguments
in s0 to s4, its thread numbers in v0 and cmm 0, also where its kernel declares set 0 (R318's membership is then kept beside cmm, log 22). -/
def Obligations.TeamsAdmitted : Prop :=
  (∀ (key : LKey) (core : Nat) (s : State) (l : Launch) (k : Kernel), s.launch? key = some l →
    let placed := fun (p : List Nat × Nat × List Nat) =>
      let u := s.place l k l.next core p
      u.mapLaunch key fun l => { l with
        next := l.next + l.chips.length, live := l.live + 1, since := u.clock, overdue := false,
        firstAdmitted := if l.firstAdmitted.contains core then l.firstAdmitted else l.firstAdmitted ++ [core] }
    (l.coresident = false →
      (s.mayAdmit l = false → exec (.teamAdmission key core) s = .next s) ∧
      (∀ p, s.mayAdmit l = true → l.k = some k → s.fits k core = some p → exec (.teamAdmission key core) s = .next (placed p)) ∧
      (s.mayAdmit l = true → l.k = some k → s.fits k core = none → exec (.teamAdmission key core) s = .next (s.noteOverweight l))) ∧
    (l.coresident = true → l.key = key →
      (∀ p u, s.mayPlace l = true → l.k = some k → s.fits k core = some p → State.admitAll key (l.left - 1) (placed p) = some u →
        exec (.teamAdmission key core) s = .next (placed p)) ∧
      (s.mayPlace l = false ∨ (l.k = some k ∧ s.fits k core = none) ∨
        (∃ p, l.k = some k ∧ s.fits k core = some p ∧ State.admitAll key (l.left - 1) (placed p) = none) →
        exec (.teamAdmission key core) s = .next s))) ∧
  (∀ (key : LKey) (s : State) (l : Launch), s.launch? key = some l → l.key = key →
    let may := s.waiting l = true ∧ l.coresident = true ∧ ∀ x ∈ s.launches, x.key ≠ key → s.waiting x = true → x.coresident = true → x.outranks l = false
    (∀ u, may → State.admitAll key l.left s = some u → exec (.coresidentAdmission key) s = .next u) ∧
    (may → State.admitAll key l.left s = none → exec (.coresidentAdmission key) s = .next (s.noteOverweight l)) ∧
    (¬ may → exec (.coresidentAdmission key) s = .next s)) ∧
  (∀ (key : LKey) (s : State) (l : Launch), s.launch? key = some l →
    (s.waiting l = true → l.since + 65536 ≤ s.clock →
      exec (.admissionWaitExpiry key) s = .next (s.mapLaunch key fun l => { l with overdue := true })) ∧
    (s.waiting l = false ∨ s.clock < l.since + 65536 → exec (.admissionWaitExpiry key) s = .next s)) ∧
  ∀ (l : Launch) (k : Kernel) (t w lane : Nat),
    let r := startRegs l k t w
    lane < 64 →
    r.sget 0 = l.karg.setWidth 32 ∧ r.sget 1 = (l.karg >>> 32).setWidth 32 ∧ r.sget 2 = BitVec.ofNat 32 t ∧
    r.sget 3 = BitVec.ofNat 32 (t * k.waves + w) ∧ r.sget 4 = BitVec.ofNat 32 l.index ∧ r.sget 5 = 0 ∧
    r.vget 0 lane = BitVec.ofNat 32 (64 * w + lane) ∧ r.vget 1 lane = 0 ∧ r.ctl.arm.pc = k.hdr + 64 ∧ r.ctl.arm.em = allLanes ∧
    r.ctl.live = allLanes ∧ r.ctl.other = none ∧ r.ctl.arm.stack = [] ∧ r.cmm = 0

/-- R124, R279 to R282, R285, R287, R289: a team whose waves have ended and left nothing at work is released; a launch with no team left retires and
reports, and the last report ends its packet, its counter left alone where a cancel came first; a graph of the current phase begins, the nodes a cancel
dropped before it retired at once, one of an earlier phase ends with 0x0615, one of a later waits, and one whose node table breaks R280 ends with
0x0611 at the field; its ready nodes start in order, and a complete packet leaves its queue with its counter incremented. That a failed graph leaves
its phase incomplete, and that a cancelled node counts as retired once its teams have gone, is the model's reading (DEDUCED, logs 34 and 36). -/
def Obligations.LaunchesEnd : Prop :=
  ∀ s : State,
    (∀ (team : Nat) (t : Team), s.team? team = some t →
      (s.mayRelease t = true → exec (.teamRelease team) s = .next ((s.freeTeam t).mapLaunch t.key fun l => { l with live := l.live - 1 })) ∧
      (s.mayRelease t = false → exec (.teamRelease team) s = .next s)) ∧
    (∀ (key : LKey) (l : Launch), s.launch? key = some l →
      (l.stage = 1 → l.index < l.chips.length → l.total ≤ l.next → l.live = 0 → exec (.launchRetire key) s =
        .next ((s.mapLaunch key fun l => { l with stage := 2 }).send key.chip (.retire key s.pkg.chipNo))) ∧
      (l.stage ≠ 1 ∨ l.next < l.total ∨ l.live ≠ 0 → exec (.launchRetire key) s = .next s)) ∧
    (∀ (key : LKey) (l : Launch) (chip : Nat), s.launch? key = some l → key.chip = s.pkg.chipNo → l.chips.contains chip = true →
      l.retired.contains chip = false → l.stage ≠ 0 → l.stage ≠ 3 →
      let a := s.mapLaunch key fun x => { x with retired := l.retired ++ [chip] }
      (l.retired.length + 1 < l.chips.length → exec (.retireReport key chip) s = .next a) ∧
      (l.chips.length ≤ l.retired.length + 1 → exec (.retireReport key chip) s =
        .next ((a.mapLaunch key fun l => { l with stage := 2 }).launchEnds key (!l.cancelled)))) ∧
    (∀ (n slot : Nat) (q : Queue) (p : Packet) (c : Ctx), s.ready n slot 3 = some (q, p) → s.ctx? q.ctx = some c →
      let w3 := word p.words 3
      let u := (s.stagePacket n slot 1).mapCtx q.ctx fun c => { c with closing := c.closing || natBit w3 32 }
      let node := fun (bs : List Byte) (i : Nat) => (bs.drop (128 * i)).take 128
      let firstBad := fun (bs : List Byte) => (List.range (w3 % 2 ^ 13)).findSome? fun i => (nodeBad i (node bs i)).map fun off => (i, off)
      let failed := fun (u : State) (code : BitVec 16) (a : DWord) (d : Nat) =>
        exec (.graphPacket n slot) s = .next ((u.packetRecord q.ctx code a d).packetDone n slot false)
      (p.phase < c.cur → failed s 0x0615 (q.slotVa slot) slot) ∧
      (c.cur < p.phase → exec (.graphPacket n slot) s = .next s) ∧
      (∀ code a, p.phase = c.cur → p.table = some (.inl (code, a)) →
        failed u code (u.recAddr code a) (u.recDetail code (u.engDetail (engFor 0 q.ctx) 0 .read a)).toNat) ∧
      (∀ bs i off, p.phase = c.cur → p.table = some (.inr bs) → firstBad bs = some (i, off) →
        failed u 0x0611 (q.slotVa slot) (i + off * 2 ^ 16)) ∧
      (∀ bs, p.phase = c.cur → p.table = some (.inr bs) → firstBad bs = none →
        let g : Graph := {
          id := u.fresh.1, ctx := q.ctx, queue := n, slot := slot, phase := p.phase, last := natBit w3 32, scope := p.scope, compl := p.compl,
          nodes := (List.range (w3 % 2 ^ 13)).map fun i => nodeOf (node bs i), failed := false }
        let drop := fun (s : State) (m : Nat) => s.nodeRetired { chip := s.pkg.chipNo, queue := n, slot := slot, node := some m } false
        exec (.graphPacket n slot) s = .next (p.dropped.foldl drop { u.fresh.2 with graphs := u.fresh.2.graphs ++ [g] }))) ∧
    (∀ (id node : Nat) (g : Graph) (x : GNode) (q : Queue), s.graphs.find? (fun g => g.id == id) = some g → (g.nodes.drop node).head? = some x →
      let due := g.nodeReady node = true ∧ (∀ m, m < node → g.nodeReady m = false) ∧ s.placeFor (s.graphPrio g) = true ∧ s.ctxHeld g.ctx = false
      let begun := fun (y : GNode × Nat) => if y.2 = node then { y.1 with stage := 1 } else y.1
      let u : State := { s with graphs := updateFirst (fun y => y.id == id) (fun y => { y with nodes := g.nodes.zipIdx.map begun }) s.graphs }
      (due → s.queue? g.queue = some q → exec (.graphNodeStart id node) s = .next (u.beginLaunch
        { chip := s.pkg.chipNo, queue := g.queue, slot := g.slot, node := some node } g.ctx q.prio (some g.phase) x.words (q.slotVa g.slot))) ∧
      (¬ due → exec (.graphNodeStart id node) s = .next s)) ∧
    ∀ (n slot : Nat) (q : Queue) (p : Packet), s.packet? n slot = some (q, p) →
      let key : Option LKey := if p.type = 1 then some { chip := s.pkg.chipNo, queue := n, slot := slot, node := none } else none
      let counted := if p.stage = 2 then s.bump q.ctx 8 key p.compl else s
      let u := counted.mapQueue n fun x => { x with packets := x.packets.filter fun y => y.slot != slot }
      let current := match u.ctx? q.ctx with | some c => c.cur | none => 0
      (p.stage < 2 → exec (.packetComplete n slot) s = .next s) ∧
      (2 ≤ p.stage → p.type ≠ 3 → exec (.packetComplete n slot) s = .next u) ∧
      (p.stage = 2 → p.type = 3 → exec (.packetComplete n slot) s = .next (u.settlePhase q.ctx)) ∧
      (2 < p.stage → p.type = 3 → exec (.packetComplete n slot) s =
        .next (if p.phase = current then u.breakPhase q.ctx p.phase else u))

/-! ### Resets, the host window and the mailbox -/

/-- R371, R384: a hot reset, the watchdog, the management target, a thermal trip and a power-stage fault clear contexts, queues and keys, count in
RESETCAUSE, and leave every byte of memory that no dirty L2 sector holds; a power-on reset clears memory too, and FLR destroys every context. What
each keeps or clears beyond R371's table (the security version, routes, HDM decoders, and what FLR leaves) is the model's reading (DEDUCED, log 41). -/
def Obligations.ResetsClear : Prop :=
  ∀ s : State,
    let cleared := fun (u t : State) (bit : Nat) =>
      t.ctxs = [] ∧ t.queues = [] ∧ t.launches = [] ∧ t.teams = [] ∧ t.others = [] ∧ t.w = Wave.idle ∧ t.pkg.keys = [] ∧ t.pkg.routes = [] ∧
      t.pkg.hdm = [] ∧ t.m.l2 = [] ∧ t.pkg.cap = s.pkg.cap ∧ t.pkg.resetCause.getLsbD bit = true ∧
      t.pkg.resetCause.toNat / 2 ^ 16 = min 255 (u.pkg.resetCause.toNat / 2 ^ 16 % 256 + 1) ∧
      ∀ a, (∀ l ∈ u.m.l2, l.line = a / 1024 → l.dirty.getLsbD (a % 1024 / 256) = false) → t.memByte a = u.memByte a
    (∃ t, exec .hotReset s = .next t ∧ cleared s t 1) ∧
    (∃ t, exec .watchdog s = .next t ∧ cleared s t 3) ∧
    (∃ t, exec .managementReset s = .next t ∧ cleared s t 1) ∧
    (∃ u t, exec .thermalTrip s = .next t ∧ u = s.failNoWave (s.bareRecord 11 0x0703 0 0) none ∧ (u.pkg.cap = s.pkg.cap → cleared u t 5)) ∧
    (∃ u t, exec .powerStageFault s = .next t ∧ u = s.failNoWave (s.bareRecord 11 0x0704 0 0) none ∧ (u.pkg.cap = s.pkg.cap → cleared u t 7)) ∧
    (∃ t, exec .powerOnReset s = .next t ∧ t.m = State.reset.m ∧ t.ctxs = [] ∧ t.queues = [] ∧ t.w = Wave.idle ∧ t.pkg.keys = [] ∧
      t.pkg.resetCause = 1 ∧ t.pkg.cap = s.pkg.cap ∧ t.pkg.secVersion = s.pkg.secVersion) ∧
    (∃ u, exec .flr s = .next ((s.ctxs.map (·.ctx)).foldl State.destroyCtx u) ∧ u.pkg.mbBusy = false ∧ u.pkg.keys = s.pkg.keys ∧
      u.pkg.resetCause = resetCauseAfter s.pkg.resetCause 2 ∧ u.ctxs = s.ctxs ∧ u.m = s.m ∧ u.teams = s.teams)

/-- R106, R108, R112, R114, R261, R290, R371, R374, R377, R379, R384: a write of the MMIO window at a register's offset changes that register and no
other; one that is not 4 or 8 aligned bytes of the window changes nothing, nor does a write to a port, core or slice that is absent, a PAIRLIM outside
1 to 64, or a BUDGET below 16. The I3C target answers a read of its registers and refuses a write; that
RESETCAUSE is its register 0x100 is PRESUMED (log 45), and that ENABLE = 0 takes a port down without a record is the model's choice (log 40). -/
def Obligations.HostWindowWrites : Prop :=
  ∀ s : State,
    (∀ addr (val : DWord), addr % 4 = 0 → addr < 0x10000 →
      exec (.mmioWrite addr 4 val) s = .next (s.mmioPut addr (val.toNat % 2 ^ 32))) ∧
    (∀ addr (val : DWord), addr % 8 = 0 → addr < 0x10000 →
      exec (.mmioWrite addr 8 val) s = .next ((s.mmioPut addr (val.toNat % 2 ^ 32)).mmioPut (addr + 4) (val.toNat / 2 ^ 32))) ∧
    (∀ addr size (val : DWord), size ≠ 4 ∧ size ≠ 8 ∨ addr % size ≠ 0 ∨ 0x10000 < addr + size →
      exec (.mmioWrite addr size val) s = .next { s with out := s.out ++ [.bus [] false] }) ∧
    (∀ n (m1 m0 : BitVec 16), ∃ t, exec (.l2tenmaskWrite n m1 m0) s = .next t ∧ (128 ≤ n → t = s) ∧
      (n < 128 → t.mmioWord (0x1000 + 0x40 * n) = m1.toNat * 2 ^ 16 + m0.toNat ∧ (t.slice n).pairlim = (s.slice n).pairlim) ∧
      ∀ k, k ≠ n → t.slice k = s.slice k) ∧
    (∀ n (lim : BitVec 7), ∃ t, exec (.pairlimWrite n lim) s = .next t ∧ (128 ≤ n ∨ lim = 0 ∨ 64 < lim.toNat → t = s) ∧
      (n < 128 → 1 ≤ lim.toNat → lim.toNat ≤ 64 → (t.slice n).pairlim = lim.toNat ∧ (t.slice n).mask0 = (s.slice n).mask0) ∧
      ∀ k, k ≠ n → t.slice k = s.slice k) ∧
    (∀ n,
      let u := fun b => ({ s with bypass := (s.bypass.filter fun x => x != n) ++ if b then [n] else [] } : State)
      (s.corePresent n = true → exec (.cpairctlBypassWrite n false) s = .next (u false) ∧
        exec (.cpairctlBypassWrite n true) s = .next ((u true).flushBuf (.core n) fun _ => true)) ∧
      (s.corePresent n = false → ∀ b, exec (.cpairctlBypassWrite n b) s = .next s)) ∧
    (∀ n b,
      let v : State := { s with ports := assign n { s.port n with enable := b } s.ports }
      (s.portPresent n = true →
        exec (.portBypassWrite n b) s = .next { s with ports := assign n { s.port n with bypass := b } s.ports } ∧
        exec (.portEnableWrite n b) s = .next (if b = false ∧ (s.port n).width ≠ 0 then v.portLost n else v)) ∧
      (s.portPresent n = false → exec (.portBypassWrite n b) s = .next s ∧ exec (.portEnableWrite n b) s = .next s)) ∧
    (∀ core (b : BitVec 8), exec (.cpwrctlBudgetWrite core b) s =
      .next (if s.corePresent core = true ∧ 16 ≤ b.toNat then { s with budgets := assign core b.toNat s.budgets } else s)) ∧
    (∀ mask : Word, ∃ t, exec (.resetcauseClear mask) s = .next t ∧
      (∀ i, i < 32 → t.pkg.resetCause.getLsbD i = (s.pkg.resetCause.getLsbD i && !(mask.getLsbD i && decide (i < 8)))) ∧ t.m = s.m) ∧
    exec .errpendClear s = .next { s with pkg := { s.pkg with errPend := false } } ∧
    (∀ reg (v : Word), exec (.i3cAccess reg (some v)) s = .next { s with out := s.out ++ [.i3c 0 false] }) ∧
    (∀ reg, exec (.i3cAccess reg none) s = .next (match s.i3cReg reg with
      | some v => { s with out := s.out ++ [.i3c (BitVec.ofNat 32 v) true], pkg := { s.pkg with readings := s.pkg.readings + 1 } }
      | none => { s with out := s.out ++ [.i3c 0 false] })) ∧
    s.i3cReg 0x100 = some s.pkg.resetCause.toNat ∧
    (∀ lanes rate, exec (.hostLinkTraining lanes rate) s =
      .next (if lanes ∈ [1, 2, 4, 8, 16] then { s with pkg := { s.pkg with link := some (lanes, rate) } } else s)) ∧
    exec .hostLinkDown s = .next { s with pkg := { s.pkg with link := none } }

/-- R276, R286, R287, R354, R363, R364, R380, R412: the mailbox's commands about contexts: a good descriptor makes a context and a bad one ends with
status 2; destroying, pre-empting, restoring and cancelling begin a job-wide command, a context in the wrong state ends with status 3 and one that
does not exist with 2; a parked wave resumes by retry, skip or end; and a job-wide command is carried out on each chip, the last report completing
it. A command whose reserved argument bits are set ends with status 2, and one the mailbox does not hold does nothing. Which chip decides a
cancel against a completion, the chips a command goes to (those with a route), and the carrying out here where the deciding chip has no route are the
model's reading (DEDUCED, log 36); so is that a retry goes on at a `bkpt` that cannot be fetched any more (DEDUCED, log 56). -/
def Obligations.ContextCommands : Prop :=
  ∀ s : State,
    let busy := fun (cmd : Nat) => s.pkg.mbBusy = true ∧ s.pkg.mbCmd.toNat = cmd ∧ s.pkg.mbWaits = []
    let go := fun (cmd : Nat) (masks : List Nat) => busy cmd ∧ s.mbArgsOk masks = true
    let a := s.mbArg
    let ends := fun (i : Instr) (status : Nat) => exec i s = .next (s.mbDone status [])
    (∀ x ∈ [(Instr.ctxCreate, 1, [2 ^ 64 - 1, 1, 2 ^ 32 - 1]), (.ctxDestroy, 2, [0xFFFF]), (.preempt, 0x20, [0xFFFF]), (.restore, 0x21, [0xFFFF]),
        (.cancel, 0x22, s.cancelMasks), (.resume, 0x23, [2 ^ 31 - 1, 3])],
      (¬ busy x.2.1 → exec x.1 s = .next s) ∧ (busy x.2.1 → s.mbArgsOk x.2.2 = false → ends x.1 2)) ∧
    (go 1 [2 ^ 64 - 1, 1, 2 ^ 32 - 1] →
      (∀ c, s.readCtx (a 0) (natBit (a 1) 0) (BitVec.ofNat 32 (a 2)) = some c →
        exec .ctxCreate s = .next (State.mbDone { s with ctxs := s.ctxs ++ [c] } 0 [(0, c.ctx)])) ∧
      (s.readCtx (a 0) (natBit (a 1) 0) (BitVec.ofNat 32 (a 2)) = none → ends .ctxCreate 2)) ∧
    (go 2 [0xFFFF] → ((s.ctx? (a 0)).isSome = true → exec .ctxDestroy s = .next (s.startJob 0x02 (s.mbArgs 1))) ∧
      (s.ctx? (a 0) = none → ends .ctxDestroy 2)) ∧
    (go 0x20 [0xFFFF] → (s.ctx? (a 0) = none → ends .preempt 2) ∧ ∀ c, s.ctx? (a 0) = some c →
      (c.stopped = false → c.ending = false → exec .preempt s = .next (s.startJob 0x20 (s.mbArgs 1))) ∧
      (c.stopped = true ∨ c.ending = true → ends .preempt 3)) ∧
    (go 0x21 [0xFFFF] → (s.ctx? (a 0) = none → ends .restore 2) ∧ ∀ c, s.ctx? (a 0) = some c →
      (c.stopped = true → c.ending = false → exec .restore s = .next (s.startJob 0x21 (s.mbArgs 1))) ∧
      (c.stopped = false ∨ c.ending = true → ends .restore 3)) ∧
    (go 0x22 s.cancelMasks → (s.ctx? (a 0 % 2 ^ 16) = none → ends .cancel 2) ∧ ((s.ctx? (a 0 % 2 ^ 16)).isSome = true →
      (s.cancelFinds (s.cancelOf (s.mbArgs 4)) = 0 → ends .cancel 2) ∧
      (s.cancelFinds (s.cancelOf (s.mbArgs 4)) = 1 → exec .cancel s = .next (s.mbDone 0 [(0, 1)])) ∧
      (2 ≤ s.cancelFinds (s.cancelOf (s.mbArgs 4)) → exec .cancel s = .next (s.startJob 0x22 (s.mbArgs 4))))) ∧
    (go 0x23 [2 ^ 31 - 1, 3] →
      let named := fun (w : Wave) => w.uid != 0 && w.ctx == a 0 % 2 ^ 16 && w.core == a 0 / 2 ^ 16 % 2 ^ 8 && w.slot == a 0 / 2 ^ 24 % 2 ^ 7
      (s.waves.find? named = none → ends .resume 2) ∧ ∀ w, s.waves.find? named = some w →
        let runs := fun (u : State) (n : Nat) => exec .resume s = .next ((u.mapWave w.uid fun w => { w with status := .run, r := { w.r with
          ctl := { w.r.ctl with arm := { w.r.ctl.arm with pc := w.r.ctl.arm.pc + BitVec.ofNat 64 n } } } }).mbDone 0 [])
        let skips := fun (code : BitVec 16) => w.status = .parked code ∧ (a 1 = 1 ∨ (a 1 = 0 ∧ code = 0x0143))
        let waits := w.status = .halted ∨ ∃ code, w.status = .parked code
        (a 1 = 3 → ends .resume 2) ∧
        (a 1 = 2 → waits → exec .resume s = .next ((s.killWave w.uid).mbDone 0 [])) ∧
        (a 1 < 2 → w.status = .halted → runs s 0) ∧
        (∀ code, a 1 = 0 → w.status = .parked code → code ≠ 0x0143 → runs s 0) ∧
        (∀ code u n, skips code → s.skipAt w = (some n, u) → runs u n) ∧
        (∀ code u, a 1 = 1 → skips code → s.skipAt w = (none, u) → exec .resume s = .next (u.mbDone 3 [])) ∧
        (∀ code u, a 1 = 0 → skips code → s.skipAt w = (none, u) → runs u 0) ∧
        (a 1 < 3 → ¬ waits → ends .resume 3)) ∧
    (∀ cmd args,
      let c := s.cancelOf args
      let mine := c.level = 3 ∨ c.chip = s.pkg.chipNo
      let sent := s.jobChips.foldl (fun s n => s.send n (.jobCmd cmd (jobWords args c.chip (2 ^ 16)))) s
      (word args 5 ≠ 0 → exec (.jobCommandForward cmd args) s =
        .next (s.applyJob cmd args (if word args 5 = 2 ^ 16 then none else some (word args 5 - 1)))) ∧
      (word args 5 = 0 → ¬ mine → s.routed c.chip = true → exec (.jobCommandForward cmd args) s = .next (s.send c.chip (.jobCmd cmd args))) ∧
      (word args 5 = 0 → mine → s.cancelLeft c = false → exec (.jobCommandForward cmd args) s = .next s) ∧
      (word args 5 = 0 → (mine ∧ s.cancelLeft c = true) ∨ (¬ mine ∧ s.routed c.chip = false) →
        exec (.jobCommandForward cmd args) s = .next (sent.applyJob cmd args none))) ∧
    (∀ ctx chip,
      let meant := s.pkg.mbBusy = true ∧ s.pkg.mbWaits.contains chip = true ∧ a 0 % 2 ^ 16 = ctx
      (¬ meant → exec (.jobCommandReport ctx chip) s = .next s) ∧
      (meant → (∃ c ∈ s.pkg.mbWaits, c ≠ chip) → exec (.jobCommandReport ctx chip) s =
        .next { s with pkg := { s.pkg with mbWaits := s.pkg.mbWaits.filter fun c => c != chip } }) ∧
      (meant → (∀ c ∈ s.pkg.mbWaits, c = chip) → exec (.jobCommandReport ctx chip) s =
        .next (s.mbDone 0 (if s.pkg.mbCmd = 0x22 then [(0, 0)] else []))))

/-- R79, R123, R260, R264, R265, R356, R372, R375, R380, R381, R412: the mailbox's other commands do what they name and end with STATUS 0 and MSI-X
vector 1; one with a reserved bit set or an argument its rule does not allow ends with status 2, one whose entry or slot is taken or held with 3, a
bad image with 4, and none of these changes anything else. Slot 0 of KEY_LOAD and KEY_RETIRE, COMM_SET with VALID 0, the checks of RING_PLACE and the
place of the image of FW_UPDATE are the model's reading (DEDUCED, log 42), as are a WIDX outside this chip's HBM, which is registered too (log 51),
and the place of the dump that DUMP_READ reads (log 13). -/
def Obligations.MailboxCommands : Prop :=
  ∀ s : State,
    let all := 2 ^ 64 - 1
    let busy := fun (cmd : Nat) => s.pkg.mbBusy = true ∧ s.pkg.mbCmd.toNat = cmd ∧ s.pkg.mbWaits = []
    let go := fun (cmd : Nat) (masks : List Nat) => busy cmd ∧ s.mbArgsOk masks = true
    let a := s.mbArg
    let va := fun n => (BitVec.ofNat 64 (a n) : DWord)
    let ends := fun (i : Instr) (u : State) (status : Nat) => exec i s = .next (u.mbDone status [])
    (∀ x ∈ [(Instr.queueReg, 3, [all, all, all, 0xFF07, 0xFFFF]), (.queueUnreg, 4, [0xFF]), (.keyLoad, 0x10, 0xFF :: List.replicate 8 all),
        (.keyRetire, 0x11, [0xFF]), (.hdmBind, 0x12, [0x1FF03]), (.routeSet, 0x30, [0xF0FFF]),
        (.commSet, 0x31, [0xFFFFF, 2 ^ 63 + 7 * 2 ^ 49 + 3, all, all, 2 ^ 32 - 1]), (.bartmoSet, 0x32, [0x3FFF]), (.ringPlace, 0x40, [all]),
        (.dumpRead, 0x41, [all, all]), (.fwUpdate, 0x50, [all, all]), (.manifestSelect, 0x51, [0xFFFF])],
      (¬ busy x.2.1 → exec x.1 s = .next s) ∧ (busy x.2.1 → s.mbArgsOk x.2.2 = false → ends x.1 s 2)) ∧
    (go 3 [all, all, all, 0xFF07, 0xFFFF] →
      let log2 := a 3 / 2 ^ 8 % 2 ^ 8
      let laid := 4 ≤ log2 ∧ log2 ≤ 16 ∧ a 0 % (64 * 2 ^ log2) = 0 ∧ a 1 % 8 = 0 ∧ a 2 % 8 = 0 ∧ (s.ctx? (a 4)).isSome = true
      let free := (List.range 256).find? fun n => (s.queue? n).isNone
      (¬ laid → ends .queueReg s 2) ∧ (laid → free = none → ends .queueReg s 3) ∧
      ∀ num w r u v, laid → free = some num → s.wordPlace (a 4) (va 1) = (w, u) → u.wordPlace (a 4) (va 2) = (r, v) →
        let placed := fun (pa : Nat) => w = some (1, pa) ∧ ∃ cls x, r = some (cls, x) ∧ cls ≤ 1
        ((∀ pa, ¬ placed pa) → ends .queueReg v 2) ∧
        (∀ pa x y, placed pa → v.dpNum (a 4) (va 2) 8 = (.inl x, y) → ends .queueReg y 2) ∧
        (∀ pa next y, placed pa → v.dpNum (a 4) (va 2) 8 = (.inr next, y) →
          exec .queueReg s = .next (State.mbDone { y with queues := y.queues ++ [{
            num := num, ring := va 0, widx := va 1, ridx := va 2, log2 := log2, prio := a 3 % 8, ctx := a 4, widxPa := pa, next := next,
            signalled := false, stopped := false, fault := none, packets := [], unreg := false, looking := true, reread := none,
            served := 0 }] } 0 [(0, num)]))) ∧
    (go 4 [0xFF] → (s.queue? (a 0) = none → ends .queueUnreg s 2) ∧ ∀ q, s.queue? (a 0) = some q →
      let u := (q.packets.filter fun p => p.type == 3 && p.stage == 0).foldl (fun s p => s.breakPhase q.ctx p.phase) s
      let v := u.mapQueue q.num fun q => { q with unreg := true, packets := q.packets.filter fun p => p.stage != 0 }
      exec .queueUnreg s = .next { v with pkg := { v.pkg with mbWaits := [4096] } }) ∧
    (∀ n q, s.queue? n = some q →
      (s.unregDone q = true → exec (.queueUnregComplete n) s =
        .next (State.mbDone { s with queues := s.queues.filter fun x => x.num != n } 0 [(0, q.next)])) ∧
      (s.unregDone q = false → exec (.queueUnregComplete n) s = .next s)) ∧
    (go 0x10 (0xFF :: List.replicate 8 all) → (a 0 = 0 → ends .keyLoad s 2) ∧ (a 0 ≠ 0 → s.keyLoaded (a 0) = true → ends .keyLoad s 3) ∧
      (a 0 ≠ 0 → s.keyLoaded (a 0) = false →
        ends .keyLoad (s.gainKey (a 0) (BitVec.ofNat 512 ((List.range 8).map fun i => a (1 + i) * 2 ^ (64 * i)).sum)) 0)) ∧
    (go 0x11 [0xFF] → (a 0 = 0 → ends .keyRetire s 2) ∧ (a 0 ≠ 0 → s.keyHeld (a 0) = true → ends .keyRetire s 3) ∧
      (a 0 ≠ 0 → s.keyHeld (a 0) = false → ends .keyRetire ((s.discardLines fun l => l.slot == a 0).loseKey (a 0)) 0)) ∧
    (go 0x12 [0x1FF03] →
      ends .hdmBind { s with pkg := { s.pkg with hdm := assign (a 0 % 4) (a 0 / 2 ^ 8 % 2 ^ 8, natBit (a 0) 16) s.pkg.hdm } } 0) ∧
    (go 0x30 [0xF0FFF] →
      let port := a 0 / 2 ^ 16 % 2 ^ 4
      (s.portPresent port = false → ends .routeSet s 2) ∧ (s.portPresent port = true →
        ends .routeSet { s with pkg := { s.pkg with routes := assign (a 0 % 2 ^ 12) port s.pkg.routes } } 0)) ∧
    (go 0x31 [0xFFFFF, 2 ^ 63 + 7 * 2 ^ 49 + 3, all, all, 2 ^ 32 - 1] →
      let w := fun i => a (1 + i)
      let ctx := a 0 % 2 ^ 16
      let n := (commOf w []).sizes.foldl (· * ·) 1
      let laid := (s.ctx? ctx).isSome = true ∧ commOk w = true
      (¬ laid → ends .commSet s 2) ∧
      (∀ x u, laid → s.dpRead ctx (BitVec.ofNat 64 (w 2)) (2 * n) = (.inl x, u) → ends .commSet u 2) ∧
      ∀ bs u, laid → s.dpRead ctx (BitVec.ofNat 64 (w 2)) (2 * n) = (.inr bs, u) →
        let ranks := (List.range n).map fun i => ofBytes ((bs.drop (2 * i)).take 2)
        let named := noRepeat ranks = true ∧ ∀ r ∈ ranks, r < 4096
        (¬ named → ends .commSet u 2) ∧
        (named → ends .commSet (u.putComm ctx (a 0 / 2 ^ 16 % 2 ^ 4) (if natBit (w 0) 63 then some (commOf w ranks) else none)) 0)) ∧
    (go 0x32 [0x3FFF] → (a 0 = 0 ∨ 10000 < a 0 → ends .bartmoSet s 2) ∧ (1 ≤ a 0 → a 0 ≤ 10000 →
      ends .bartmoSet { s with pkg := { s.pkg with barTmo := a 0 } } 0)) ∧
    (go 0x40 [all] →
      let log2 := s.peekPa 0 (a 0 + 0x10) 8
      let laid := a 0 % 4096 = 0 ∧ 4 ≤ log2 ∧ log2 ≤ 16 ∧ a 0 + 0x40 + 64 * 2 ^ log2 ≤ s.hbmBytes
      let placed : State := { s with pkg := { s.pkg with pkgRing := some (a 0), pkgBuf := [], pkgDropped := 0 } }
      let u := s.pkg.pkgBuf.foldl (State.copyRecord (a 0)) placed
      let v := if s.pkg.pkgDropped = 0 then u
        else u.sysPut (u.hostKeeps (a 0) 0x40) (a 0 + 0x18) (natBytes 8 (u.peekPa 0 (a 0 + 0x18) 8 + s.pkg.pkgDropped))
      (¬ laid → ends .ringPlace s 2) ∧
      (laid → ends .ringPlace { v with pkg := { v.pkg with pkgOvf := v.pkg.pkgOvf || s.pkg.pkgOvf } } 0)) ∧
    (go 0x41 [all, all] →
      let laid := a 0 % 8 = 0 ∧ a 1 % 8 = 0 ∧ 8 ≤ a 1 ∧ a 1 ≤ 3840
      let u := s.sysPass (s.dumpPa + a 0) (min (a 1) (s.pkg.dump - a 0))
      let bs := u.m.bytes u.free 0 (s.dumpPa + a 0) (min (a 1) (s.pkg.dump - a 0))
      (¬ laid → ends .dumpRead s 2) ∧
      (laid → exec .dumpRead s = .next (State.mbDone { u with free := u.free + 1 } 0 ((0, bs.length) ::
        (List.range ((bs.length + 7) / 8)).map fun i => (32 + i, ofBytes ((bs.drop (8 * i)).take 8)))))) ∧
    (go 0x50 [all, all] →
      let image := s.m.bytes s.free 0 (a 0) (a 1)
      let v := (Config.imageVersion image).toNat
      let u : State := { s with free := s.free + 1 }
      let laid := a 1 ≠ 0 ∧ a 0 + a 1 ≤ s.hbmBytes
      let good := Config.signatureOk image = true ∧ s.pkg.secVersion ≤ v
      (¬ laid → ends .fwUpdate s 2) ∧
      (laid → ¬ good → ends .fwUpdate (u.failNoWave (u.bareRecord 12 0x0802 u.openAddr u.openDetail) none) 4) ∧
      (laid → good → exec .fwUpdate s =
        .next ((State.mbDone { u with pkg := { u.pkg with secVersion := v, fwImage := some (sha256 image) } } 0 []).resetPackage 6))) ∧
    (go 0x51 [0xFFFF] → (s.ctx? (a 0) = none → ends .manifestSelect s 2) ∧ ((s.ctx? (a 0)).isSome = true →
      ends .manifestSelect { s with pkg := { s.pkg with manifest := some (a 0) } } 0)) ∧
    ∀ status results, (s.mbDone status results).pkg.mbBusy = false ∧ (s.mbDone status results).pkg.mbStat = BitVec.ofNat 16 status ∧
      (s.mbDone status results).out = s.out ++ [.msix 1]

/-- R382, R383: the SPDM requests the device answers; the digests and measurements are SHA-256, a signed answer carries a fresh nonce and a signature of
the identity key over the requester's nonce and what is answered. The codes and capability bits are the model's (log 7). -/
def Obligations.AttestationAnswers : Prop :=
  ∀ s : State,
    let answers := fun (i : Instr) (code : Nat) (words : List (BitVec 256)) =>
      exec i s = .next { s with out := s.out ++ [.spdm code words none] }
    let signs := fun (i : Instr) (code : Nat) (nonce : BitVec 256) (words : List (BitVec 256)) => ∃ own : BitVec 256,
      exec i s = .next { s with
        free := s.free + 4
        out := s.out ++ [.spdm code (words ++ [own])
          (some (Config.identitySignature (sha256 (bytes256 nonce ++ (words ++ [own]).flatMap bytes256))))] }
    answers .getVersion 0x04 [0x1300] ∧
    answers .getCapabilities 0x61 [0x16] ∧
    answers .negotiateAlgorithms 0x63 [4, 1] ∧
    answers .getDigests 0x01 [sha256 certificateChain] ∧
    (∀ offset size, if offset < Config.certificateLength then
        answers (.getCertificate offset size) 0x02 (((certificateChain.drop offset).take size).map fun b => b.setWidth 256)
      else answers (.getCertificate offset size) 0x7F [1]) ∧
    (∀ nonce, signs (.challenge nonce) 0x03 nonce [sha256 certificateChain]) ∧
    (∀ nonce, signs (.getMeasurements 0 nonce) 0x60 nonce [5]) ∧
    (∀ nonce index, index ∈ [1, 2, 3, 4] → ∃ d, s.measure index = some d ∧ signs (.getMeasurements index nonce) 0x60 nonce [d]) ∧
    (∀ nonce, signs (.getMeasurements 0x20 nonce) 0x60 nonce (sha256 s.manifestBytes :: s.manifestWords)) ∧
    (∀ nonce, signs (.getMeasurements 0xFF nonce) 0x60 nonce (([1, 2, 3, 4, 0x20].filterMap s.measure) ++ s.manifestWords)) ∧
    (∀ nonce index, index ≠ 0xFF → index ≠ 0 → s.measure index = none → answers (.getMeasurements index nonce) 0x7F [1]) ∧
    ∀ code : Byte, answers (.spdmUnsupportedRequest code) 0x7F [7, code.setWidth 256]

/-! ### Rules of the spec, one by one -/

/-- R304: `br` sets pc to the target; `bu` does where C is not 0 (nz), is 0 (z), has a bit in common with em (any) or holds every bit of em (all),
and else execution continues with the next instruction. Neither changes em, and each acts for its own arm alone. -/
def Obligations.BrAndBuTransfer : Prop :=
  ∀ (f : Fields) (s : State),
    let e := s.atIssue f
    let goes := fun (i : Instr) (pc : DWord) => ∃ t, exec i s = .next t ∧ t.w.r.ctl.arm.pc = pc ∧ t.w.r.ctl.arm.em = s.w.r.ctl.arm.em ∧
      t.w.r.ctl.other = s.w.r.ctl.other
    let target := s.w.r.ctl.arm.pc + BitVec.ofInt 64 (4 * f.off.toInt)
    let next := s.w.r.ctl.arm.pc + BitVec.ofNat 64 f.len.bytes
    let m := maskVal e.w.r f.c
    let em := s.w.r.ctl.arm.em
    (∀ q ∈ s.w.r.pend, ∀ w ∈ q.wrs, ∀ x, w ≠ .em x) →
    (issues brSpec true f s = true → goes (.br f) target) ∧
    (issues buSpec true f s = true → f.x = 0 → goes (.bu f) (if e.srcC f 18 0 ≠ 0 then target else next)) ∧
    (issues buSpec true f s = true → f.x = 1 → goes (.bu f) (if e.srcC f 18 0 = 0 then target else next)) ∧
    (issues buSpec true f s = true → f.x = 2 → goes (.bu f) (if m &&& em ≠ 0 then target else next)) ∧
    (issues buSpec true f s = true → f.x = 3 → goes (.bu f) (if m &&& em = em then target else next))

/-- R195: `lscl.step` on the pair, field by field, what D gets, and the table of four steps. It sets no NSTAT bit. -/
def Obligations.LossScaleStep : Prop :=
  (∀ a b : Word,
    let good := b.toNat % 2 ^ 16
    let interval := b.toNat / 2 ^ 16
    let is := fun (p : Word × Word) (exp : Int) (lo hi : Bool) (g : Nat) => lsaExp p.1 = exp ∧ p.1.getLsbD 1 = lo ∧ p.1.getLsbD 0 = hi ∧
      p.2.toNat % 2 ^ 16 = g ∧ p.2.toNat / 2 ^ 16 = interval ∧ lsaMax p.1 = lsaMax a ∧ lsaMin p.1 = lsaMin a
    let g := min (good + 1) 65535
    (lsaMin a < lsaExp a → is (lsStep a b true) (lsaExp a - 1) false false 0) ∧
    (lsaExp a ≤ lsaMin a → is (lsStep a b true) (lsaExp a) true false 0) ∧
    (interval ≠ 0 → interval ≤ g → lsaExp a < lsaMax a → is (lsStep a b false) (lsaExp a + 1) false false 0) ∧
    (interval ≠ 0 → interval ≤ g → lsaMax a ≤ lsaExp a → is (lsStep a b false) (lsaExp a) false true 0) ∧
    (interval = 0 ∨ g < interval → is (lsStep a b false) (lsaExp a) false (a.getLsbD 0) g) ∧
    (-126 ≤ lsaExp a → lsaExp a ≤ 127 → lsScale a = (lsaExp a + 127).toNat * 2 ^ 23)) ∧
  (lsStep 0x10000100 0x00020000 true = (0x10000000, 0x00020000) ∧ lsScale 0x10000000 = 0x3F800000 ∧
    lsStep 0x10000000 0x00020000 true = (0x10000002, 0x00020000) ∧ lsScale 0x10000002 = 0x3F800000 ∧
    lsStep 0x10000002 0x00020000 false = (0x10000000, 0x00020001) ∧
    lsStep 0x10000000 0x00020001 false = (0x10000100, 0x00020000) ∧ lsScale 0x10000100 = 0x40000000) ∧
  ∀ f : Fields, Completes lsclStepSpec false (.lsclStep f) f (fun slot s =>
    let p := lsStep s.w.r.lsa s.w.r.lsb (s.srcB f 18 0 != 0)
    ((s.withR fun r => { r with lsa := p.1, lsb := p.2 }).result slot 1 (dstWr 18 f.d 0 (lsScale p.1))).goOn false f slot none)

/-- R37, R38: a privileged instruction in a wave that does not run privileged traps with 0x010A, as `sset` does for the registers it may write; an
atomic that selects add with TY = 8 to 15 traps with 0x0105. -/
def Obligations.DecodeChecksTrap : Prop :=
  ∀ (f : Fields) (s : State),
    let traps := fun (i : Instr) (code : BitVec 16) => exec i s = .next (s.trapAt code s.pc (instrLow i) 1)
    s.w.status = .run → s.w.preempted = false →
    (∀ x ∈ privForms f, s.priv = false → traps x.2 0x010A) ∧
    (s.priv = false → f.x = 5 ∨ f.x = 8 → decodeCheck s { ssetSpec f with privVals := fun _ _ => none } f = none → traps (.sset f) 0x010A) ∧
    (∀ i ∈ [Instr.atom f, .atomr f, .red f], f.setf.toNat ≤ 11 → opxX f = 0 → 8 ≤ f.ty.toNat → f.ty.toNat ≤ 15 → traps i 0x0105)

/-- R17 to R36 and the worked encodings of the families: what the decoder reads from the bytes the spec writes out. -/
def Obligations.WordsDecode : Prop :=
  decode [0x02#8, 0xC0#8, 0x3D#8, 0, 0, 0, 0, 0, 0, 0, 0, 0, 0, 0, 0, 0] = some (.nop { Fields.plain .l128 with setf := 15 }, []) ∧
  decode [0x00#8, 0x92#8, 0x04#8, 0x01#8, 0x01#8, 0x40#8, 0x40#8, 0x02#8] =
    some (.fadd { Fields.plain .l64 with dist := 2, pred := 2, setf := 1, d := 4, wait := 1, a := 4, b := 9, ty := 8 }, []) ∧
  decode [0x12#8, 0xC2#8, 0xBD#8, 0x01#8, 0x00#8, 0x20#8, 0x40#8, 0xB6#8, 0x00#8, 0x20#8, 0x01#8, 0x00#8, 0x00#8, 0x00#8, 0x40#8, 0x40#8] =
    some (.fmul { Fields.plain .l128 with setf := 15, d := 6, a := 2, b := 729, ty := 8, mod := 1, imm := 0x40400000 }, []) ∧
  decode [0x02#8, 0xC3#8, 0x01#8, 0x01#8, 0x00#8, 0x80#8, 0x10#8, 0x00#8, 0x02#8, 0x48#8, 0x00#8, 0x80#8, 0x40#8, 0x00#8, 0x00#8, 0x00#8] =
    some (.ld { Fields.plain .l128 with d := 4, a := 264, c := 2, ty := 18, x := 0x800, imm := 64 }, []) ∧
  decode [0x41#8, 0xC0#8, 0x3D#8, 0x03#8, 0x00#8, 0x00#8, 0x00#8, 0x00#8, 0x14#8, 0x01#8, 0x10#8, 0x00#8] =
    some (.loop { Fields.plain .l96 with setf := 15, d := 12, c := 276, x := 1 }, []) ∧
  decode [0xA9#8, 0xC0#8, 0x3D#8, 0x00#8, 0x00#8, 0x20#8, 0x29#8, 0x00#8, 0x00#8, 0x00#8, 0x30#8, 0x00#8] =
    some (.waitFlag { Fields.plain .l96 with setf := 15, a := 658, x := 3 }, []) ∧
  decode [0x81#8, 0xC0#8, 0x3D#8, 0x00#8, 0x00#8, 0x00#8, 0x00#8, 0x00#8, 0x00#8, 0x00#8, 0x50#8, 0x00#8] =
    some (.trap { Fields.plain .l96 with setf := 15, x := 5 }, []) ∧
  decode [0x59#8, 0xC3#8, 0x01#8, 0x00#8, 0x00#8, 0x00#8, 0x00#8, 0x00#8, 0x00#8, 0x00#8, 0x10#8, 0x30#8] =
    some (.fence { Fields.plain .l96 with x := 0x301 }, []) ∧
  decode [0x82#8, 0xC4#8, 0x0D#8, 0x04#8, 0x00#8, 0x40#8, 0x11#8, 0xA6#8, 0x16#8, 0x39#8, 0x10#8, 0x00#8, 0x00#8, 0x04#8, 0x00#8, 0x00#8] =
    some (.mloop { Fields.plain .l128 with setf := 3, d := 16, a := 276, b := 664, c := 278, ty := 14, x := 1, imm := 0x400 }, []) ∧
  decode [0x09#8, 0xC5#8, 0x11#8, 0x0A#8, 0x00#8, 0x40#8, 0x01#8, 0x00#8, 0x00#8, 0x20#8, 0x10#8, 0x00#8] =
    some (.gld { Fields.plain .l96 with setf := 4, d := 40, a := 20, ty := 8, x := 1 }, []) ∧
  decode [0x81#8, 0xC5#8, 0x09#8, 0x00#8, 0x00#8, 0x40#8, 0x80#8, 0x01#8, 0x08#8, 0x20#8, 0x30#8, 0x00#8] =
    some (.ctb { Fields.plain .l96 with setf := 2, a := 4, b := 6, c := 8, ty := 8, x := 3 }, []) ∧
  decode [0xA9#8, 0xC5#8, 0x95#8, 0x47#8, 0x00#8, 0x80#8, 0x10#8, 0x00#8, 0x00#8, 0x00#8, 0x30#8, 0x00#8] =
    some (.coll { Fields.plain .l96 with setf := 5, d := 286, a := 264, x := 3 }, []) ∧
  decode [0x03#8, 0xC5#8, 0x95#8, 0x47#8] = some (.reservedOp 0x4795C503, []) ∧
  decode [0, 0, 0, 0, 0, 0, 0, 0] = some (.allZeroWord, [])

/-! ### The machine as a whole -/

/-- R17 to R36: every well-formed instruction is read back from its words, whatever bytes follow them. -/
def Obligations.DecodeReadsEncode : Prop :=
  ∀ (i : Instr) (bs rest : List Byte), i.wf = true → encode i = some bs → decode (bs ++ rest) = some (i, rest)

/-- R17, R40, R293: where nothing else is due, a step runs the instruction that the bytes at the pc of the wave whose turn it is decode to, and then
lets what waited look again. -/
def Obligations.StepRunsDecoded : Prop :=
  ∀ (s u t : State) (w : Wave) (bs rest : List Byte) (i : Instr),
    let e := (s.select w.uid).chooseArm
    s.agenda = [] → s.aside = none → s.due = none → s.turn = some w → e.iread e.pc = .ok bs u → decode bs = some (i, rest) →
    exec i u = .next t → step s = .next (if t.w.r.ctl.arm.stalled then t else t.wake)

/-- R40, R127, R264, R293, R349, R371, R380: no instruction and no event stops the machine: each has a next state, and so has every step. The rules give
each of them an effect, a trap, a record, a STATUS or a reset, so that the model needs no stop; that a value a rule leaves open is a free value rather
than a stop is log 6. -/
def Obligations.NothingStops : Prop :=
  (∀ (i : Instr) (s : State), ∃ t, exec i s = .next t) ∧ ∀ s : State, ∃ t, step s = .next t

/-- R79, R371 (the canonical form is the model's, log 2): every step keeps memory in its canonical form, addresses strictly rising and no byte listed
that an unlisted address reads as. -/
def Obligations.StepKeepsMemoryForm : Prop :=
  ∀ s t : State, Memory.wf s.m.mem → step s = .next t → Memory.wf t.m.mem

/-- R108, R261, R264, R290, R371, R379: after power-on there is no context, queue, launch, wave or key; RESETCAUSE is POWERON with COUNT 0; ways and
pairing limits, ports, budgets and the barrier time-out stand at their reset values; memory is in its canonical form. -/
def Obligations.ResetState : Prop :=
  let r := State.reset
  Memory.wf r.m.mem ∧ r.ctxs = [] ∧ r.queues = [] ∧ r.launches = [] ∧ r.teams = [] ∧ r.others = [] ∧ r.w.status = .ended ∧ r.pkg.keys = [] ∧
  r.m.l2 = [] ∧ r.pkg.resetCause = 0x00000001 ∧ r.pkg.errPend = false ∧ r.pkg.mbBusy = false ∧ r.pkg.barTmo = 100 ∧
  (∀ n, n < 128 → r.mmioWord (0x1000 + 0x40 * n) = 0xFFFFFFFF ∧ r.mmioWord (0x1004 + 0x40 * n) = 0 ∧ r.mmioWord (0x1008 + 0x40 * n) = 64) ∧
  (∀ n, n < 16 → r.mmioWord (0x3004 + 0x40 * n) = 1) ∧ ∀ n, n < 256 → r.budget n = 48 ∧ r.used n = 0

/-- R21, R28, R295 to R297: a short or long instruction that only makes a register result leaves memory, scratchpad, accumulators, every other wave and
the package as they were; of its own wave's registers it changes none as it issues but those whose results were due; what it will write stays within D
in the lanes it acts in (`vopt` writes B and C too, R192, `aread` as many registers as it reads rows, R218, and `ghash` two, R235); the short forms of
the integer, move and lane groups leave NSTAT; an earlier result that lands no sooner loses what a new one writes (R308). A draw and `rng.setc` change besides only the counters of the lanes they act in (R189; that a draw
counts at its issue is the model's reading, log 18). -/
def Obligations.RegisterFrames : Prop :=
  ∀ (f : Fields) (s t : State),
    let e := s.atIssue f
    let lanes := e.lanes f
    let short := fun (ok : Wr → Prop) => ∃ (due : Nat) (ws : List Wr), (∀ w ∈ ws, ok w) ∧
      (t.w.r.pend = e.w.r.pend ∨ t.w.r.pend = e.w.r.pend.map (Pend.under due ws) ++ [{ due := due, wrs := ws }])
    let long := fun (ok : Wr → Prop) =>
      State.quiet s t ∧ Regs.same e.w.r t.w.r ∧ t.w.r.nstat = e.w.r.nstat ∧ t.w.r.pend = e.w.r.pend ∧
      ∀ o ∈ t.w.ops, ∀ w ∈ o.wrs, ok w ∨ ∃ o' ∈ e.w.ops, w ∈ o'.wrs
    let counts := State.quiet s t ∧ Regs.same { e.w.r with rng := t.w.r.rng } t.w.r ∧ t.w.r.nstat = e.w.r.nstat ∧
      ∀ l, l < 64 → l ∉ lanes → t.w.r.rget l = e.w.r.rget l
    (∀ x ∈ shortForms f, issues x.1 false f s = true → exec x.2.1 s = .next t →
      State.quiet s t ∧ Regs.same e.w.r t.w.r ∧ (x.2.2.2 = false → t.w.r.nstat = e.w.r.nstat) ∧ short (·.within f x.2.2.1 lanes)) ∧
    (∀ x ∈ longForms f, issues x.1 x.2.2.2 f s = true → exec x.2.1 s = .next t → long (·.within f x.2.2.1 lanes)) ∧
    (issues (shflSpec f) false f s = true →
      (∀ l ∈ lanes, srcBad e.w.r (tyRegs f.ty.toNat) (1#64 <<< shflSrc f.x.toNat l (e.srcB f 18 l)) f.a = false) → exec (.shfl f) s = .next t →
      long (·.within f (tyRegs f.ty.toNat) lanes)) ∧
    (issues (voptSpec f) false f s = true → srcBad e.w.r 10 allLanes (BitVec.ofNat 10 (256 + f.x.toNat % 512)) = false →
      exec (.vopt f) s = .next t → long fun w => ∃ d ∈ [f.d, f.b, f.c], w.within { f with d := d } 1 lanes) ∧
    (issues (accRegSpec true) false f s = true → accRegCheck e f f.d = none → exec (.aread f) s = .next t →
      long (·.within f (e.srcC f 18 0) lanes)) ∧
    (∀ g, issues ghashSpec false f s = true → e.binding (gridX f) = false → e.grid? e.w.team (gridX f) = some g →
      vecNum f.a + g.dims ≤ e.w.k.vregs → groupBad e.w.r (vecNum f.a) g.dims (activeMask e.w.r f) = false → exec (.ghash f) s = .next t →
      long (·.within f 2 lanes)) ∧
    (issues rngDrawSpec false f s = true → exec (.rngDraw f) s = .next t → counts ∧ short (·.within f 1 lanes)) ∧
    (issues rngSetcSpec false f s = true → exec (.rngSetc f) s = .next t → counts ∧ t.w.r.pend = e.w.r.pend) ∧
    (∀ n l, l < 64 → (∀ q ∈ s.w.r.pend, ∀ w ∈ q.wrs, ∀ k j v, w = .v k j v → 64 * k + j ≠ 64 * n + l) →
      e.w.r.vget n l = s.w.r.vget n l) ∧
    (∀ n, (∀ q ∈ s.w.r.pend, ∀ w ∈ q.wrs, ∀ v, w ≠ .s n v) → e.w.r.sget n = s.w.r.sget n)

/-- R153 to R158, R304 to R307: a load, a store and an atomic, as they issue, and a jump or branch, leave every byte of memory and scratchpad, the
registers of the wave and every other wave as they were; a jump changes no other arm, and a branch that does not diverge no mask. -/
def Obligations.IssueFrames : Prop :=
  ∀ (f : Fields) (s t : State),
    let e := s.atIssue f
    let calm := State.quiet s t ∧ Regs.same e.w.r t.w.r ∧ t.w.r.nstat = e.w.r.nstat ∧ t.w.r.pend = e.w.r.pend
    let found := fun (i : Instr) (sp : Bool) (k : Kind) (scale : Nat) =>
      absentLane e f sp scale = false ∧ e.scopeValid e.w.ctx (scopeX f) = true ∧ ∃ ls, locateLanes e f i sp k scale = .ok ls
    let atomics := if f.x.getLsbD 11 then tyBits f.ty.toNat / 8 else 1
    (∀ sp, let i : Instr := if sp then .ldsp f else .ld f
      issues (loadSpec sp) false f s = true → found i sp .read (scaleX f) → exec i s = .next t → calm) ∧
    (∀ sp, let i : Instr := if sp then .stsp f else .st f
      issues (storeSpec sp) false f s = true → found i sp .write (scaleX f) → e.w.ahead = none → exec i s = .next t → calm) ∧
    (∀ ret, ∀ i ∈ (if ret then [Instr.atom f, .atomr f] else [.red f]),
      issues (atomSpec ret f) false f s = true → found i false .atomic atomics → exec i s = .next t → calm) ∧
    (issues (spatomSpec f) false f s = true → found (.spatom f) true .atomic (tyBits f.ty.toNat / 8) → exec (.spatom f) s = .next t → calm) ∧
    (issues brSpec true f s = true → exec (.br f) s = .next t → calm ∧ t.w.r.ctl.other = e.w.r.ctl.other ∧ t.w.r.ctl.live = e.w.r.ctl.live) ∧
    (issues buSpec true f s = true → exec (.bu f) s = .next t → calm ∧ t.w.r.ctl.other = e.w.r.ctl.other ∧ t.w.r.ctl.live = e.w.r.ctl.live) ∧
    (issues bcSpec true f s = true → e.w.r.em &&& ~~~ guardMask e.w.r f = 0 ∨ activeMask e.w.r f = 0 → exec (.bc f) s = .next t →
      calm ∧ t.w.r.ctl.other = e.w.r.ctl.other ∧ t.w.r.ctl.arm.em = e.w.r.ctl.arm.em)

/-- R81, R147, R331: an access performed at its point writes no byte outside the bytes it names, and a load no byte at all; it changes no register of any
wave (what it returns is written when its flag's operation retires) and nothing of the contexts or the package, where no `cwait` waits on an object
under the bytes it writes (one that does ends as R138 says, with a record where the object's ERR is set). -/
def Obligations.AccessFrames : Prop :=
  ∀ (id : Nat) (s t : State) (a : Acc) (i : Instr),
    i ∈ [Instr.homeSliceAccess id, .l2SectorFill id, .kettleAccess id false, .scratchpadArrayAccess id] → exec i s = .next t →
    s.acc? id = some a → (a.kind = .load ∨ a.kind = .store ∨ ∃ opx ty ret, a.kind = .atomic opx ty ret) → s.pointFault a = none → a.slot < 2 ^ 16 - 1 →
    (a.sp = true → a.kind ≠ .load → ∀ c ∈ s.cwaits, a.pa + a.size ≤ c.core * 2 ^ 19 + c.off ∨ c.core * 2 ^ 19 + c.off + 16 ≤ a.pa) →
    (∀ sec, a.pa / 256 ≤ sec → sec ≤ (a.pa + a.size - 1) / 256 → cget 0 s.m.secKey sec = 0 ∨ (cget 0 s.m.secKey sec).toNat = a.slot + 1) →
    (∀ b, (b < a.pa ∨ a.pa + a.size ≤ b) ∨ a.kind = .load ∨ a.sp = true → t.memByte b = s.memByte b) ∧
    (∀ b, (b < a.pa ∨ a.pa + a.size ≤ b) ∨ a.kind = .load ∨ a.sp = false → t.spByte b = s.spByte b) ∧
    t.waves.map (·.r) = s.waves.map (·.r) ∧ t.m.acc = s.m.acc ∧ t.ctxs = s.ctxs ∧ t.pkg = s.pkg ∧ t.teams = s.teams ∧ t.grids = s.grids
end

