-- ==== Sys2Proof/Laws/State.lean ====
section
/-! SUPPORT. What the named updates of State leave, field by field, so that no proof unfolds a record update. -/

namespace Sys2Proof.Machine

variable (s : State)

/-! ### withW -/

@[simp] theorem State.withW_clock (f : Wave → Wave) : (s.withW f).clock = s.clock := rfl
@[simp] theorem State.withW_polled (f : Wave → Wave) : (s.withW f).polled = s.polled := rfl
@[simp] theorem State.withW_free (f : Wave → Wave) : (s.withW f).free = s.free := rfl
@[simp] theorem State.withW_nextId (f : Wave → Wave) : (s.withW f).nextId = s.nextId := rfl
@[simp] theorem State.withW_agenda (f : Wave → Wave) : (s.withW f).agenda = s.agenda := rfl
@[simp] theorem State.withW_inbox (f : Wave → Wave) : (s.withW f).inbox = s.inbox := rfl
@[simp] theorem State.withW_upsets (f : Wave → Wave) : (s.withW f).upsets = s.upsets := rfl
@[simp] theorem State.withW_out (f : Wave → Wave) : (s.withW f).out = s.out := rfl
@[simp] theorem State.withW_w (f : Wave → Wave) : (s.withW f).w = f s.w := rfl
@[simp] theorem State.withW_others (f : Wave → Wave) : (s.withW f).others = s.others := rfl
@[simp] theorem State.withW_teams (f : Wave → Wave) : (s.withW f).teams = s.teams := rfl
@[simp] theorem State.withW_grids (f : Wave → Wave) : (s.withW f).grids = s.grids := rfl
@[simp] theorem State.withW_pipes (f : Wave → Wave) : (s.withW f).pipes = s.pipes := rfl
@[simp] theorem State.withW_m (f : Wave → Wave) : (s.withW f).m = s.m := rfl
@[simp] theorem State.withW_slices (f : Wave → Wave) : (s.withW f).slices = s.slices := rfl
@[simp] theorem State.withW_homes (f : Wave → Wave) : (s.withW f).homes = s.homes := rfl
@[simp] theorem State.withW_coreBuf (f : Wave → Wave) : (s.withW f).coreBuf = s.coreBuf := rfl
@[simp] theorem State.withW_bypass (f : Wave → Wave) : (s.withW f).bypass = s.bypass := rfl
@[simp] theorem State.withW_budgets (f : Wave → Wave) : (s.withW f).budgets = s.budgets := rfl
@[simp] theorem State.withW_mesh (f : Wave → Wave) : (s.withW f).mesh = s.mesh := rfl
@[simp] theorem State.withW_ports (f : Wave → Wave) : (s.withW f).ports = s.ports := rfl
@[simp] theorem State.withW_copies (f : Wave → Wave) : (s.withW f).copies = s.copies := rfl
@[simp] theorem State.withW_cwaits (f : Wave → Wave) : (s.withW f).cwaits = s.cwaits := rfl
@[simp] theorem State.withW_engines (f : Wave → Wave) : (s.withW f).engines = s.engines := rfl
@[simp] theorem State.withW_lattices (f : Wave → Wave) : (s.withW f).lattices = s.lattices := rfl
@[simp] theorem State.withW_ctxs (f : Wave → Wave) : (s.withW f).ctxs = s.ctxs := rfl
@[simp] theorem State.withW_queues (f : Wave → Wave) : (s.withW f).queues = s.queues := rfl
@[simp] theorem State.withW_launches (f : Wave → Wave) : (s.withW f).launches = s.launches := rfl
@[simp] theorem State.withW_graphs (f : Wave → Wave) : (s.withW f).graphs = s.graphs := rfl
@[simp] theorem State.withW_images (f : Wave → Wave) : (s.withW f).images = s.images := rfl
@[simp] theorem State.withW_fences (f : Wave → Wave) : (s.withW f).fences = s.fences := rfl
@[simp] theorem State.withW_pkg (f : Wave → Wave) : (s.withW f).pkg = s.pkg := rfl

/-! ### withR -/

@[simp] theorem State.withR_clock (f : Regs → Regs) : (s.withR f).clock = s.clock := rfl
@[simp] theorem State.withR_polled (f : Regs → Regs) : (s.withR f).polled = s.polled := rfl
@[simp] theorem State.withR_free (f : Regs → Regs) : (s.withR f).free = s.free := rfl
@[simp] theorem State.withR_nextId (f : Regs → Regs) : (s.withR f).nextId = s.nextId := rfl
@[simp] theorem State.withR_agenda (f : Regs → Regs) : (s.withR f).agenda = s.agenda := rfl
@[simp] theorem State.withR_inbox (f : Regs → Regs) : (s.withR f).inbox = s.inbox := rfl
@[simp] theorem State.withR_upsets (f : Regs → Regs) : (s.withR f).upsets = s.upsets := rfl
@[simp] theorem State.withR_out (f : Regs → Regs) : (s.withR f).out = s.out := rfl
@[simp] theorem State.withR_w (f : Regs → Regs) : (s.withR f).w = { s.w with r := f s.w.r } := rfl
@[simp] theorem State.withR_others (f : Regs → Regs) : (s.withR f).others = s.others := rfl
@[simp] theorem State.withR_teams (f : Regs → Regs) : (s.withR f).teams = s.teams := rfl
@[simp] theorem State.withR_grids (f : Regs → Regs) : (s.withR f).grids = s.grids := rfl
@[simp] theorem State.withR_pipes (f : Regs → Regs) : (s.withR f).pipes = s.pipes := rfl
@[simp] theorem State.withR_m (f : Regs → Regs) : (s.withR f).m = s.m := rfl
@[simp] theorem State.withR_slices (f : Regs → Regs) : (s.withR f).slices = s.slices := rfl
@[simp] theorem State.withR_homes (f : Regs → Regs) : (s.withR f).homes = s.homes := rfl
@[simp] theorem State.withR_coreBuf (f : Regs → Regs) : (s.withR f).coreBuf = s.coreBuf := rfl
@[simp] theorem State.withR_bypass (f : Regs → Regs) : (s.withR f).bypass = s.bypass := rfl
@[simp] theorem State.withR_budgets (f : Regs → Regs) : (s.withR f).budgets = s.budgets := rfl
@[simp] theorem State.withR_mesh (f : Regs → Regs) : (s.withR f).mesh = s.mesh := rfl
@[simp] theorem State.withR_ports (f : Regs → Regs) : (s.withR f).ports = s.ports := rfl
@[simp] theorem State.withR_copies (f : Regs → Regs) : (s.withR f).copies = s.copies := rfl
@[simp] theorem State.withR_cwaits (f : Regs → Regs) : (s.withR f).cwaits = s.cwaits := rfl
@[simp] theorem State.withR_engines (f : Regs → Regs) : (s.withR f).engines = s.engines := rfl
@[simp] theorem State.withR_lattices (f : Regs → Regs) : (s.withR f).lattices = s.lattices := rfl
@[simp] theorem State.withR_ctxs (f : Regs → Regs) : (s.withR f).ctxs = s.ctxs := rfl
@[simp] theorem State.withR_queues (f : Regs → Regs) : (s.withR f).queues = s.queues := rfl
@[simp] theorem State.withR_launches (f : Regs → Regs) : (s.withR f).launches = s.launches := rfl
@[simp] theorem State.withR_graphs (f : Regs → Regs) : (s.withR f).graphs = s.graphs := rfl
@[simp] theorem State.withR_images (f : Regs → Regs) : (s.withR f).images = s.images := rfl
@[simp] theorem State.withR_fences (f : Regs → Regs) : (s.withR f).fences = s.fences := rfl
@[simp] theorem State.withR_pkg (f : Regs → Regs) : (s.withR f).pkg = s.pkg := rfl

/-! ### withArm -/

@[simp] theorem State.withArm_clock (f : Arm → Arm) : (s.withArm f).clock = s.clock := rfl
@[simp] theorem State.withArm_polled (f : Arm → Arm) : (s.withArm f).polled = s.polled := rfl
@[simp] theorem State.withArm_free (f : Arm → Arm) : (s.withArm f).free = s.free := rfl
@[simp] theorem State.withArm_nextId (f : Arm → Arm) : (s.withArm f).nextId = s.nextId := rfl
@[simp] theorem State.withArm_agenda (f : Arm → Arm) : (s.withArm f).agenda = s.agenda := rfl
@[simp] theorem State.withArm_inbox (f : Arm → Arm) : (s.withArm f).inbox = s.inbox := rfl
@[simp] theorem State.withArm_upsets (f : Arm → Arm) : (s.withArm f).upsets = s.upsets := rfl
@[simp] theorem State.withArm_out (f : Arm → Arm) : (s.withArm f).out = s.out := rfl
@[simp] theorem State.withArm_w (f : Arm → Arm) : (s.withArm f).w = { s.w with r := { s.w.r with ctl := { s.w.r.ctl with arm := f s.w.r.ctl.arm } } } := rfl
@[simp] theorem State.withArm_others (f : Arm → Arm) : (s.withArm f).others = s.others := rfl
@[simp] theorem State.withArm_teams (f : Arm → Arm) : (s.withArm f).teams = s.teams := rfl
@[simp] theorem State.withArm_grids (f : Arm → Arm) : (s.withArm f).grids = s.grids := rfl
@[simp] theorem State.withArm_pipes (f : Arm → Arm) : (s.withArm f).pipes = s.pipes := rfl
@[simp] theorem State.withArm_m (f : Arm → Arm) : (s.withArm f).m = s.m := rfl
@[simp] theorem State.withArm_slices (f : Arm → Arm) : (s.withArm f).slices = s.slices := rfl
@[simp] theorem State.withArm_homes (f : Arm → Arm) : (s.withArm f).homes = s.homes := rfl
@[simp] theorem State.withArm_coreBuf (f : Arm → Arm) : (s.withArm f).coreBuf = s.coreBuf := rfl
@[simp] theorem State.withArm_bypass (f : Arm → Arm) : (s.withArm f).bypass = s.bypass := rfl
@[simp] theorem State.withArm_budgets (f : Arm → Arm) : (s.withArm f).budgets = s.budgets := rfl
@[simp] theorem State.withArm_mesh (f : Arm → Arm) : (s.withArm f).mesh = s.mesh := rfl
@[simp] theorem State.withArm_ports (f : Arm → Arm) : (s.withArm f).ports = s.ports := rfl
@[simp] theorem State.withArm_copies (f : Arm → Arm) : (s.withArm f).copies = s.copies := rfl
@[simp] theorem State.withArm_cwaits (f : Arm → Arm) : (s.withArm f).cwaits = s.cwaits := rfl
@[simp] theorem State.withArm_engines (f : Arm → Arm) : (s.withArm f).engines = s.engines := rfl
@[simp] theorem State.withArm_lattices (f : Arm → Arm) : (s.withArm f).lattices = s.lattices := rfl
@[simp] theorem State.withArm_ctxs (f : Arm → Arm) : (s.withArm f).ctxs = s.ctxs := rfl
@[simp] theorem State.withArm_queues (f : Arm → Arm) : (s.withArm f).queues = s.queues := rfl
@[simp] theorem State.withArm_launches (f : Arm → Arm) : (s.withArm f).launches = s.launches := rfl
@[simp] theorem State.withArm_graphs (f : Arm → Arm) : (s.withArm f).graphs = s.graphs := rfl
@[simp] theorem State.withArm_images (f : Arm → Arm) : (s.withArm f).images = s.images := rfl
@[simp] theorem State.withArm_fences (f : Arm → Arm) : (s.withArm f).fences = s.fences := rfl
@[simp] theorem State.withArm_pkg (f : Arm → Arm) : (s.withArm f).pkg = s.pkg := rfl

/-! ### withCtl -/

@[simp] theorem State.withCtl_clock (f : Ctl → Ctl) : (s.withCtl f).clock = s.clock := rfl
@[simp] theorem State.withCtl_polled (f : Ctl → Ctl) : (s.withCtl f).polled = s.polled := rfl
@[simp] theorem State.withCtl_free (f : Ctl → Ctl) : (s.withCtl f).free = s.free := rfl
@[simp] theorem State.withCtl_nextId (f : Ctl → Ctl) : (s.withCtl f).nextId = s.nextId := rfl
@[simp] theorem State.withCtl_agenda (f : Ctl → Ctl) : (s.withCtl f).agenda = s.agenda := rfl
@[simp] theorem State.withCtl_inbox (f : Ctl → Ctl) : (s.withCtl f).inbox = s.inbox := rfl
@[simp] theorem State.withCtl_upsets (f : Ctl → Ctl) : (s.withCtl f).upsets = s.upsets := rfl
@[simp] theorem State.withCtl_out (f : Ctl → Ctl) : (s.withCtl f).out = s.out := rfl
@[simp] theorem State.withCtl_w (f : Ctl → Ctl) : (s.withCtl f).w = { s.w with r := { s.w.r with ctl := f s.w.r.ctl } } := rfl
@[simp] theorem State.withCtl_others (f : Ctl → Ctl) : (s.withCtl f).others = s.others := rfl
@[simp] theorem State.withCtl_teams (f : Ctl → Ctl) : (s.withCtl f).teams = s.teams := rfl
@[simp] theorem State.withCtl_grids (f : Ctl → Ctl) : (s.withCtl f).grids = s.grids := rfl
@[simp] theorem State.withCtl_pipes (f : Ctl → Ctl) : (s.withCtl f).pipes = s.pipes := rfl
@[simp] theorem State.withCtl_m (f : Ctl → Ctl) : (s.withCtl f).m = s.m := rfl
@[simp] theorem State.withCtl_slices (f : Ctl → Ctl) : (s.withCtl f).slices = s.slices := rfl
@[simp] theorem State.withCtl_homes (f : Ctl → Ctl) : (s.withCtl f).homes = s.homes := rfl
@[simp] theorem State.withCtl_coreBuf (f : Ctl → Ctl) : (s.withCtl f).coreBuf = s.coreBuf := rfl
@[simp] theorem State.withCtl_bypass (f : Ctl → Ctl) : (s.withCtl f).bypass = s.bypass := rfl
@[simp] theorem State.withCtl_budgets (f : Ctl → Ctl) : (s.withCtl f).budgets = s.budgets := rfl
@[simp] theorem State.withCtl_mesh (f : Ctl → Ctl) : (s.withCtl f).mesh = s.mesh := rfl
@[simp] theorem State.withCtl_ports (f : Ctl → Ctl) : (s.withCtl f).ports = s.ports := rfl
@[simp] theorem State.withCtl_copies (f : Ctl → Ctl) : (s.withCtl f).copies = s.copies := rfl
@[simp] theorem State.withCtl_cwaits (f : Ctl → Ctl) : (s.withCtl f).cwaits = s.cwaits := rfl
@[simp] theorem State.withCtl_engines (f : Ctl → Ctl) : (s.withCtl f).engines = s.engines := rfl
@[simp] theorem State.withCtl_lattices (f : Ctl → Ctl) : (s.withCtl f).lattices = s.lattices := rfl
@[simp] theorem State.withCtl_ctxs (f : Ctl → Ctl) : (s.withCtl f).ctxs = s.ctxs := rfl
@[simp] theorem State.withCtl_queues (f : Ctl → Ctl) : (s.withCtl f).queues = s.queues := rfl
@[simp] theorem State.withCtl_launches (f : Ctl → Ctl) : (s.withCtl f).launches = s.launches := rfl
@[simp] theorem State.withCtl_graphs (f : Ctl → Ctl) : (s.withCtl f).graphs = s.graphs := rfl
@[simp] theorem State.withCtl_images (f : Ctl → Ctl) : (s.withCtl f).images = s.images := rfl
@[simp] theorem State.withCtl_fences (f : Ctl → Ctl) : (s.withCtl f).fences = s.fences := rfl
@[simp] theorem State.withCtl_pkg (f : Ctl → Ctl) : (s.withCtl f).pkg = s.pkg := rfl

/-! ### withM -/

@[simp] theorem State.withM_clock (f : MemSys → MemSys) : (s.withM f).clock = s.clock := rfl
@[simp] theorem State.withM_polled (f : MemSys → MemSys) : (s.withM f).polled = s.polled := rfl
@[simp] theorem State.withM_free (f : MemSys → MemSys) : (s.withM f).free = s.free := rfl
@[simp] theorem State.withM_nextId (f : MemSys → MemSys) : (s.withM f).nextId = s.nextId := rfl
@[simp] theorem State.withM_agenda (f : MemSys → MemSys) : (s.withM f).agenda = s.agenda := rfl
@[simp] theorem State.withM_inbox (f : MemSys → MemSys) : (s.withM f).inbox = s.inbox := rfl
@[simp] theorem State.withM_upsets (f : MemSys → MemSys) : (s.withM f).upsets = s.upsets := rfl
@[simp] theorem State.withM_out (f : MemSys → MemSys) : (s.withM f).out = s.out := rfl
@[simp] theorem State.withM_w (f : MemSys → MemSys) : (s.withM f).w = s.w := rfl
@[simp] theorem State.withM_others (f : MemSys → MemSys) : (s.withM f).others = s.others := rfl
@[simp] theorem State.withM_teams (f : MemSys → MemSys) : (s.withM f).teams = s.teams := rfl
@[simp] theorem State.withM_grids (f : MemSys → MemSys) : (s.withM f).grids = s.grids := rfl
@[simp] theorem State.withM_pipes (f : MemSys → MemSys) : (s.withM f).pipes = s.pipes := rfl
@[simp] theorem State.withM_m (f : MemSys → MemSys) : (s.withM f).m = f s.m := rfl
@[simp] theorem State.withM_slices (f : MemSys → MemSys) : (s.withM f).slices = s.slices := rfl
@[simp] theorem State.withM_homes (f : MemSys → MemSys) : (s.withM f).homes = s.homes := rfl
@[simp] theorem State.withM_coreBuf (f : MemSys → MemSys) : (s.withM f).coreBuf = s.coreBuf := rfl
@[simp] theorem State.withM_bypass (f : MemSys → MemSys) : (s.withM f).bypass = s.bypass := rfl
@[simp] theorem State.withM_budgets (f : MemSys → MemSys) : (s.withM f).budgets = s.budgets := rfl
@[simp] theorem State.withM_mesh (f : MemSys → MemSys) : (s.withM f).mesh = s.mesh := rfl
@[simp] theorem State.withM_ports (f : MemSys → MemSys) : (s.withM f).ports = s.ports := rfl
@[simp] theorem State.withM_copies (f : MemSys → MemSys) : (s.withM f).copies = s.copies := rfl
@[simp] theorem State.withM_cwaits (f : MemSys → MemSys) : (s.withM f).cwaits = s.cwaits := rfl
@[simp] theorem State.withM_engines (f : MemSys → MemSys) : (s.withM f).engines = s.engines := rfl
@[simp] theorem State.withM_lattices (f : MemSys → MemSys) : (s.withM f).lattices = s.lattices := rfl
@[simp] theorem State.withM_ctxs (f : MemSys → MemSys) : (s.withM f).ctxs = s.ctxs := rfl
@[simp] theorem State.withM_queues (f : MemSys → MemSys) : (s.withM f).queues = s.queues := rfl
@[simp] theorem State.withM_launches (f : MemSys → MemSys) : (s.withM f).launches = s.launches := rfl
@[simp] theorem State.withM_graphs (f : MemSys → MemSys) : (s.withM f).graphs = s.graphs := rfl
@[simp] theorem State.withM_images (f : MemSys → MemSys) : (s.withM f).images = s.images := rfl
@[simp] theorem State.withM_fences (f : MemSys → MemSys) : (s.withM f).fences = s.fences := rfl
@[simp] theorem State.withM_pkg (f : MemSys → MemSys) : (s.withM f).pkg = s.pkg := rfl

/-! ### mapCtx -/

@[simp] theorem State.mapCtx_clock (n : Nat) (f : Ctx → Ctx) : (s.mapCtx n f).clock = s.clock := rfl
@[simp] theorem State.mapCtx_polled (n : Nat) (f : Ctx → Ctx) : (s.mapCtx n f).polled = s.polled := rfl
@[simp] theorem State.mapCtx_free (n : Nat) (f : Ctx → Ctx) : (s.mapCtx n f).free = s.free := rfl
@[simp] theorem State.mapCtx_nextId (n : Nat) (f : Ctx → Ctx) : (s.mapCtx n f).nextId = s.nextId := rfl
@[simp] theorem State.mapCtx_agenda (n : Nat) (f : Ctx → Ctx) : (s.mapCtx n f).agenda = s.agenda := rfl
@[simp] theorem State.mapCtx_inbox (n : Nat) (f : Ctx → Ctx) : (s.mapCtx n f).inbox = s.inbox := rfl
@[simp] theorem State.mapCtx_upsets (n : Nat) (f : Ctx → Ctx) : (s.mapCtx n f).upsets = s.upsets := rfl
@[simp] theorem State.mapCtx_out (n : Nat) (f : Ctx → Ctx) : (s.mapCtx n f).out = s.out := rfl
@[simp] theorem State.mapCtx_w (n : Nat) (f : Ctx → Ctx) : (s.mapCtx n f).w = s.w := rfl
@[simp] theorem State.mapCtx_others (n : Nat) (f : Ctx → Ctx) : (s.mapCtx n f).others = s.others := rfl
@[simp] theorem State.mapCtx_teams (n : Nat) (f : Ctx → Ctx) : (s.mapCtx n f).teams = s.teams := rfl
@[simp] theorem State.mapCtx_grids (n : Nat) (f : Ctx → Ctx) : (s.mapCtx n f).grids = s.grids := rfl
@[simp] theorem State.mapCtx_pipes (n : Nat) (f : Ctx → Ctx) : (s.mapCtx n f).pipes = s.pipes := rfl
@[simp] theorem State.mapCtx_m (n : Nat) (f : Ctx → Ctx) : (s.mapCtx n f).m = s.m := rfl
@[simp] theorem State.mapCtx_slices (n : Nat) (f : Ctx → Ctx) : (s.mapCtx n f).slices = s.slices := rfl
@[simp] theorem State.mapCtx_homes (n : Nat) (f : Ctx → Ctx) : (s.mapCtx n f).homes = s.homes := rfl
@[simp] theorem State.mapCtx_coreBuf (n : Nat) (f : Ctx → Ctx) : (s.mapCtx n f).coreBuf = s.coreBuf := rfl
@[simp] theorem State.mapCtx_bypass (n : Nat) (f : Ctx → Ctx) : (s.mapCtx n f).bypass = s.bypass := rfl
@[simp] theorem State.mapCtx_budgets (n : Nat) (f : Ctx → Ctx) : (s.mapCtx n f).budgets = s.budgets := rfl
@[simp] theorem State.mapCtx_mesh (n : Nat) (f : Ctx → Ctx) : (s.mapCtx n f).mesh = s.mesh := rfl
@[simp] theorem State.mapCtx_ports (n : Nat) (f : Ctx → Ctx) : (s.mapCtx n f).ports = s.ports := rfl
@[simp] theorem State.mapCtx_copies (n : Nat) (f : Ctx → Ctx) : (s.mapCtx n f).copies = s.copies := rfl
@[simp] theorem State.mapCtx_cwaits (n : Nat) (f : Ctx → Ctx) : (s.mapCtx n f).cwaits = s.cwaits := rfl
@[simp] theorem State.mapCtx_engines (n : Nat) (f : Ctx → Ctx) : (s.mapCtx n f).engines = s.engines := rfl
@[simp] theorem State.mapCtx_lattices (n : Nat) (f : Ctx → Ctx) : (s.mapCtx n f).lattices = s.lattices := rfl
@[simp] theorem State.mapCtx_ctxs (n : Nat) (f : Ctx → Ctx) : (s.mapCtx n f).ctxs = updateFirst (fun c => c.ctx == n) f s.ctxs := rfl
@[simp] theorem State.mapCtx_queues (n : Nat) (f : Ctx → Ctx) : (s.mapCtx n f).queues = s.queues := rfl
@[simp] theorem State.mapCtx_launches (n : Nat) (f : Ctx → Ctx) : (s.mapCtx n f).launches = s.launches := rfl
@[simp] theorem State.mapCtx_graphs (n : Nat) (f : Ctx → Ctx) : (s.mapCtx n f).graphs = s.graphs := rfl
@[simp] theorem State.mapCtx_images (n : Nat) (f : Ctx → Ctx) : (s.mapCtx n f).images = s.images := rfl
@[simp] theorem State.mapCtx_fences (n : Nat) (f : Ctx → Ctx) : (s.mapCtx n f).fences = s.fences := rfl
@[simp] theorem State.mapCtx_pkg (n : Nat) (f : Ctx → Ctx) : (s.mapCtx n f).pkg = s.pkg := rfl

/-! ### mapTeam -/

@[simp] theorem State.mapTeam_clock (n : Nat) (f : Team → Team) : (s.mapTeam n f).clock = s.clock := rfl
@[simp] theorem State.mapTeam_polled (n : Nat) (f : Team → Team) : (s.mapTeam n f).polled = s.polled := rfl
@[simp] theorem State.mapTeam_free (n : Nat) (f : Team → Team) : (s.mapTeam n f).free = s.free := rfl
@[simp] theorem State.mapTeam_nextId (n : Nat) (f : Team → Team) : (s.mapTeam n f).nextId = s.nextId := rfl
@[simp] theorem State.mapTeam_agenda (n : Nat) (f : Team → Team) : (s.mapTeam n f).agenda = s.agenda := rfl
@[simp] theorem State.mapTeam_inbox (n : Nat) (f : Team → Team) : (s.mapTeam n f).inbox = s.inbox := rfl
@[simp] theorem State.mapTeam_upsets (n : Nat) (f : Team → Team) : (s.mapTeam n f).upsets = s.upsets := rfl
@[simp] theorem State.mapTeam_out (n : Nat) (f : Team → Team) : (s.mapTeam n f).out = s.out := rfl
@[simp] theorem State.mapTeam_w (n : Nat) (f : Team → Team) : (s.mapTeam n f).w = s.w := rfl
@[simp] theorem State.mapTeam_others (n : Nat) (f : Team → Team) : (s.mapTeam n f).others = s.others := rfl
@[simp] theorem State.mapTeam_teams (n : Nat) (f : Team → Team) : (s.mapTeam n f).teams = updateFirst (fun t => t.uid == n) f s.teams := rfl
@[simp] theorem State.mapTeam_grids (n : Nat) (f : Team → Team) : (s.mapTeam n f).grids = s.grids := rfl
@[simp] theorem State.mapTeam_pipes (n : Nat) (f : Team → Team) : (s.mapTeam n f).pipes = s.pipes := rfl
@[simp] theorem State.mapTeam_m (n : Nat) (f : Team → Team) : (s.mapTeam n f).m = s.m := rfl
@[simp] theorem State.mapTeam_slices (n : Nat) (f : Team → Team) : (s.mapTeam n f).slices = s.slices := rfl
@[simp] theorem State.mapTeam_homes (n : Nat) (f : Team → Team) : (s.mapTeam n f).homes = s.homes := rfl
@[simp] theorem State.mapTeam_coreBuf (n : Nat) (f : Team → Team) : (s.mapTeam n f).coreBuf = s.coreBuf := rfl
@[simp] theorem State.mapTeam_bypass (n : Nat) (f : Team → Team) : (s.mapTeam n f).bypass = s.bypass := rfl
@[simp] theorem State.mapTeam_budgets (n : Nat) (f : Team → Team) : (s.mapTeam n f).budgets = s.budgets := rfl
@[simp] theorem State.mapTeam_mesh (n : Nat) (f : Team → Team) : (s.mapTeam n f).mesh = s.mesh := rfl
@[simp] theorem State.mapTeam_ports (n : Nat) (f : Team → Team) : (s.mapTeam n f).ports = s.ports := rfl
@[simp] theorem State.mapTeam_copies (n : Nat) (f : Team → Team) : (s.mapTeam n f).copies = s.copies := rfl
@[simp] theorem State.mapTeam_cwaits (n : Nat) (f : Team → Team) : (s.mapTeam n f).cwaits = s.cwaits := rfl
@[simp] theorem State.mapTeam_engines (n : Nat) (f : Team → Team) : (s.mapTeam n f).engines = s.engines := rfl
@[simp] theorem State.mapTeam_lattices (n : Nat) (f : Team → Team) : (s.mapTeam n f).lattices = s.lattices := rfl
@[simp] theorem State.mapTeam_ctxs (n : Nat) (f : Team → Team) : (s.mapTeam n f).ctxs = s.ctxs := rfl
@[simp] theorem State.mapTeam_queues (n : Nat) (f : Team → Team) : (s.mapTeam n f).queues = s.queues := rfl
@[simp] theorem State.mapTeam_launches (n : Nat) (f : Team → Team) : (s.mapTeam n f).launches = s.launches := rfl
@[simp] theorem State.mapTeam_graphs (n : Nat) (f : Team → Team) : (s.mapTeam n f).graphs = s.graphs := rfl
@[simp] theorem State.mapTeam_images (n : Nat) (f : Team → Team) : (s.mapTeam n f).images = s.images := rfl
@[simp] theorem State.mapTeam_fences (n : Nat) (f : Team → Team) : (s.mapTeam n f).fences = s.fences := rfl
@[simp] theorem State.mapTeam_pkg (n : Nat) (f : Team → Team) : (s.mapTeam n f).pkg = s.pkg := rfl

/-! ### mapLaunch -/

@[simp] theorem State.mapLaunch_clock (k : LKey) (f : Launch → Launch) : (s.mapLaunch k f).clock = s.clock := rfl
@[simp] theorem State.mapLaunch_polled (k : LKey) (f : Launch → Launch) : (s.mapLaunch k f).polled = s.polled := rfl
@[simp] theorem State.mapLaunch_free (k : LKey) (f : Launch → Launch) : (s.mapLaunch k f).free = s.free := rfl
@[simp] theorem State.mapLaunch_nextId (k : LKey) (f : Launch → Launch) : (s.mapLaunch k f).nextId = s.nextId := rfl
@[simp] theorem State.mapLaunch_agenda (k : LKey) (f : Launch → Launch) : (s.mapLaunch k f).agenda = s.agenda := rfl
@[simp] theorem State.mapLaunch_inbox (k : LKey) (f : Launch → Launch) : (s.mapLaunch k f).inbox = s.inbox := rfl
@[simp] theorem State.mapLaunch_upsets (k : LKey) (f : Launch → Launch) : (s.mapLaunch k f).upsets = s.upsets := rfl
@[simp] theorem State.mapLaunch_out (k : LKey) (f : Launch → Launch) : (s.mapLaunch k f).out = s.out := rfl
@[simp] theorem State.mapLaunch_w (k : LKey) (f : Launch → Launch) : (s.mapLaunch k f).w = s.w := rfl
@[simp] theorem State.mapLaunch_others (k : LKey) (f : Launch → Launch) : (s.mapLaunch k f).others = s.others := rfl
@[simp] theorem State.mapLaunch_teams (k : LKey) (f : Launch → Launch) : (s.mapLaunch k f).teams = s.teams := rfl
@[simp] theorem State.mapLaunch_grids (k : LKey) (f : Launch → Launch) : (s.mapLaunch k f).grids = s.grids := rfl
@[simp] theorem State.mapLaunch_pipes (k : LKey) (f : Launch → Launch) : (s.mapLaunch k f).pipes = s.pipes := rfl
@[simp] theorem State.mapLaunch_m (k : LKey) (f : Launch → Launch) : (s.mapLaunch k f).m = s.m := rfl
@[simp] theorem State.mapLaunch_slices (k : LKey) (f : Launch → Launch) : (s.mapLaunch k f).slices = s.slices := rfl
@[simp] theorem State.mapLaunch_homes (k : LKey) (f : Launch → Launch) : (s.mapLaunch k f).homes = s.homes := rfl
@[simp] theorem State.mapLaunch_coreBuf (k : LKey) (f : Launch → Launch) : (s.mapLaunch k f).coreBuf = s.coreBuf := rfl
@[simp] theorem State.mapLaunch_bypass (k : LKey) (f : Launch → Launch) : (s.mapLaunch k f).bypass = s.bypass := rfl
@[simp] theorem State.mapLaunch_budgets (k : LKey) (f : Launch → Launch) : (s.mapLaunch k f).budgets = s.budgets := rfl
@[simp] theorem State.mapLaunch_mesh (k : LKey) (f : Launch → Launch) : (s.mapLaunch k f).mesh = s.mesh := rfl
@[simp] theorem State.mapLaunch_ports (k : LKey) (f : Launch → Launch) : (s.mapLaunch k f).ports = s.ports := rfl
@[simp] theorem State.mapLaunch_copies (k : LKey) (f : Launch → Launch) : (s.mapLaunch k f).copies = s.copies := rfl
@[simp] theorem State.mapLaunch_cwaits (k : LKey) (f : Launch → Launch) : (s.mapLaunch k f).cwaits = s.cwaits := rfl
@[simp] theorem State.mapLaunch_engines (k : LKey) (f : Launch → Launch) : (s.mapLaunch k f).engines = s.engines := rfl
@[simp] theorem State.mapLaunch_lattices (k : LKey) (f : Launch → Launch) : (s.mapLaunch k f).lattices = s.lattices := rfl
@[simp] theorem State.mapLaunch_ctxs (k : LKey) (f : Launch → Launch) : (s.mapLaunch k f).ctxs = s.ctxs := rfl
@[simp] theorem State.mapLaunch_queues (k : LKey) (f : Launch → Launch) : (s.mapLaunch k f).queues = s.queues := rfl
@[simp] theorem State.mapLaunch_launches (k : LKey) (f : Launch → Launch) : (s.mapLaunch k f).launches = updateFirst (fun l => l.key == k) f s.launches := rfl
@[simp] theorem State.mapLaunch_graphs (k : LKey) (f : Launch → Launch) : (s.mapLaunch k f).graphs = s.graphs := rfl
@[simp] theorem State.mapLaunch_images (k : LKey) (f : Launch → Launch) : (s.mapLaunch k f).images = s.images := rfl
@[simp] theorem State.mapLaunch_fences (k : LKey) (f : Launch → Launch) : (s.mapLaunch k f).fences = s.fences := rfl
@[simp] theorem State.mapLaunch_pkg (k : LKey) (f : Launch → Launch) : (s.mapLaunch k f).pkg = s.pkg := rfl

/-! ### mapQueue -/

@[simp] theorem State.mapQueue_clock (n : Nat) (f : Queue → Queue) : (s.mapQueue n f).clock = s.clock := rfl
@[simp] theorem State.mapQueue_polled (n : Nat) (f : Queue → Queue) : (s.mapQueue n f).polled = s.polled := rfl
@[simp] theorem State.mapQueue_free (n : Nat) (f : Queue → Queue) : (s.mapQueue n f).free = s.free := rfl
@[simp] theorem State.mapQueue_nextId (n : Nat) (f : Queue → Queue) : (s.mapQueue n f).nextId = s.nextId := rfl
@[simp] theorem State.mapQueue_agenda (n : Nat) (f : Queue → Queue) : (s.mapQueue n f).agenda = s.agenda := rfl
@[simp] theorem State.mapQueue_inbox (n : Nat) (f : Queue → Queue) : (s.mapQueue n f).inbox = s.inbox := rfl
@[simp] theorem State.mapQueue_upsets (n : Nat) (f : Queue → Queue) : (s.mapQueue n f).upsets = s.upsets := rfl
@[simp] theorem State.mapQueue_out (n : Nat) (f : Queue → Queue) : (s.mapQueue n f).out = s.out := rfl
@[simp] theorem State.mapQueue_w (n : Nat) (f : Queue → Queue) : (s.mapQueue n f).w = s.w := rfl
@[simp] theorem State.mapQueue_others (n : Nat) (f : Queue → Queue) : (s.mapQueue n f).others = s.others := rfl
@[simp] theorem State.mapQueue_teams (n : Nat) (f : Queue → Queue) : (s.mapQueue n f).teams = s.teams := rfl
@[simp] theorem State.mapQueue_grids (n : Nat) (f : Queue → Queue) : (s.mapQueue n f).grids = s.grids := rfl
@[simp] theorem State.mapQueue_pipes (n : Nat) (f : Queue → Queue) : (s.mapQueue n f).pipes = s.pipes := rfl
@[simp] theorem State.mapQueue_m (n : Nat) (f : Queue → Queue) : (s.mapQueue n f).m = s.m := rfl
@[simp] theorem State.mapQueue_slices (n : Nat) (f : Queue → Queue) : (s.mapQueue n f).slices = s.slices := rfl
@[simp] theorem State.mapQueue_homes (n : Nat) (f : Queue → Queue) : (s.mapQueue n f).homes = s.homes := rfl
@[simp] theorem State.mapQueue_coreBuf (n : Nat) (f : Queue → Queue) : (s.mapQueue n f).coreBuf = s.coreBuf := rfl
@[simp] theorem State.mapQueue_bypass (n : Nat) (f : Queue → Queue) : (s.mapQueue n f).bypass = s.bypass := rfl
@[simp] theorem State.mapQueue_budgets (n : Nat) (f : Queue → Queue) : (s.mapQueue n f).budgets = s.budgets := rfl
@[simp] theorem State.mapQueue_mesh (n : Nat) (f : Queue → Queue) : (s.mapQueue n f).mesh = s.mesh := rfl
@[simp] theorem State.mapQueue_ports (n : Nat) (f : Queue → Queue) : (s.mapQueue n f).ports = s.ports := rfl
@[simp] theorem State.mapQueue_copies (n : Nat) (f : Queue → Queue) : (s.mapQueue n f).copies = s.copies := rfl
@[simp] theorem State.mapQueue_cwaits (n : Nat) (f : Queue → Queue) : (s.mapQueue n f).cwaits = s.cwaits := rfl
@[simp] theorem State.mapQueue_engines (n : Nat) (f : Queue → Queue) : (s.mapQueue n f).engines = s.engines := rfl
@[simp] theorem State.mapQueue_lattices (n : Nat) (f : Queue → Queue) : (s.mapQueue n f).lattices = s.lattices := rfl
@[simp] theorem State.mapQueue_ctxs (n : Nat) (f : Queue → Queue) : (s.mapQueue n f).ctxs = s.ctxs := rfl
@[simp] theorem State.mapQueue_launches (n : Nat) (f : Queue → Queue) : (s.mapQueue n f).launches = s.launches := rfl
@[simp] theorem State.mapQueue_graphs (n : Nat) (f : Queue → Queue) : (s.mapQueue n f).graphs = s.graphs := rfl
@[simp] theorem State.mapQueue_images (n : Nat) (f : Queue → Queue) : (s.mapQueue n f).images = s.images := rfl
@[simp] theorem State.mapQueue_fences (n : Nat) (f : Queue → Queue) : (s.mapQueue n f).fences = s.fences := rfl
@[simp] theorem State.mapQueue_pkg (n : Nat) (f : Queue → Queue) : (s.mapQueue n f).pkg = s.pkg := rfl

/-! ### putEngine -/

@[simp] theorem State.putEngine_clock (n : Nat) (e : Engine) : (s.putEngine n e).clock = s.clock := rfl
@[simp] theorem State.putEngine_polled (n : Nat) (e : Engine) : (s.putEngine n e).polled = s.polled := rfl
@[simp] theorem State.putEngine_free (n : Nat) (e : Engine) : (s.putEngine n e).free = s.free := rfl
@[simp] theorem State.putEngine_nextId (n : Nat) (e : Engine) : (s.putEngine n e).nextId = s.nextId := rfl
@[simp] theorem State.putEngine_agenda (n : Nat) (e : Engine) : (s.putEngine n e).agenda = s.agenda := rfl
@[simp] theorem State.putEngine_inbox (n : Nat) (e : Engine) : (s.putEngine n e).inbox = s.inbox := rfl
@[simp] theorem State.putEngine_upsets (n : Nat) (e : Engine) : (s.putEngine n e).upsets = s.upsets := rfl
@[simp] theorem State.putEngine_out (n : Nat) (e : Engine) : (s.putEngine n e).out = s.out := rfl
@[simp] theorem State.putEngine_w (n : Nat) (e : Engine) : (s.putEngine n e).w = s.w := rfl
@[simp] theorem State.putEngine_others (n : Nat) (e : Engine) : (s.putEngine n e).others = s.others := rfl
@[simp] theorem State.putEngine_teams (n : Nat) (e : Engine) : (s.putEngine n e).teams = s.teams := rfl
@[simp] theorem State.putEngine_grids (n : Nat) (e : Engine) : (s.putEngine n e).grids = s.grids := rfl
@[simp] theorem State.putEngine_pipes (n : Nat) (e : Engine) : (s.putEngine n e).pipes = s.pipes := rfl
@[simp] theorem State.putEngine_m (n : Nat) (e : Engine) : (s.putEngine n e).m = s.m := rfl
@[simp] theorem State.putEngine_slices (n : Nat) (e : Engine) : (s.putEngine n e).slices = s.slices := rfl
@[simp] theorem State.putEngine_homes (n : Nat) (e : Engine) : (s.putEngine n e).homes = s.homes := rfl
@[simp] theorem State.putEngine_coreBuf (n : Nat) (e : Engine) : (s.putEngine n e).coreBuf = s.coreBuf := rfl
@[simp] theorem State.putEngine_bypass (n : Nat) (e : Engine) : (s.putEngine n e).bypass = s.bypass := rfl
@[simp] theorem State.putEngine_budgets (n : Nat) (e : Engine) : (s.putEngine n e).budgets = s.budgets := rfl
@[simp] theorem State.putEngine_mesh (n : Nat) (e : Engine) : (s.putEngine n e).mesh = s.mesh := rfl
@[simp] theorem State.putEngine_ports (n : Nat) (e : Engine) : (s.putEngine n e).ports = s.ports := rfl
@[simp] theorem State.putEngine_copies (n : Nat) (e : Engine) : (s.putEngine n e).copies = s.copies := rfl
@[simp] theorem State.putEngine_cwaits (n : Nat) (e : Engine) : (s.putEngine n e).cwaits = s.cwaits := rfl
@[simp] theorem State.putEngine_engines (n : Nat) (e : Engine) : (s.putEngine n e).engines = assign n e s.engines := rfl
@[simp] theorem State.putEngine_lattices (n : Nat) (e : Engine) : (s.putEngine n e).lattices = s.lattices := rfl
@[simp] theorem State.putEngine_ctxs (n : Nat) (e : Engine) : (s.putEngine n e).ctxs = s.ctxs := rfl
@[simp] theorem State.putEngine_queues (n : Nat) (e : Engine) : (s.putEngine n e).queues = s.queues := rfl
@[simp] theorem State.putEngine_launches (n : Nat) (e : Engine) : (s.putEngine n e).launches = s.launches := rfl
@[simp] theorem State.putEngine_graphs (n : Nat) (e : Engine) : (s.putEngine n e).graphs = s.graphs := rfl
@[simp] theorem State.putEngine_images (n : Nat) (e : Engine) : (s.putEngine n e).images = s.images := rfl
@[simp] theorem State.putEngine_fences (n : Nat) (e : Engine) : (s.putEngine n e).fences = s.fences := rfl
@[simp] theorem State.putEngine_pkg (n : Nat) (e : Engine) : (s.putEngine n e).pkg = s.pkg := rfl

/-! ### A new serial number -/

@[simp] theorem State.fresh_clock : s.fresh.2.clock = s.clock := rfl
@[simp] theorem State.fresh_polled : s.fresh.2.polled = s.polled := rfl
@[simp] theorem State.fresh_free : s.fresh.2.free = s.free := rfl
@[simp] theorem State.fresh_agenda : s.fresh.2.agenda = s.agenda := rfl
@[simp] theorem State.fresh_inbox : s.fresh.2.inbox = s.inbox := rfl
@[simp] theorem State.fresh_upsets : s.fresh.2.upsets = s.upsets := rfl
@[simp] theorem State.fresh_out : s.fresh.2.out = s.out := rfl
@[simp] theorem State.fresh_w : s.fresh.2.w = s.w := rfl
@[simp] theorem State.fresh_others : s.fresh.2.others = s.others := rfl
@[simp] theorem State.fresh_teams : s.fresh.2.teams = s.teams := rfl
@[simp] theorem State.fresh_grids : s.fresh.2.grids = s.grids := rfl
@[simp] theorem State.fresh_pipes : s.fresh.2.pipes = s.pipes := rfl
@[simp] theorem State.fresh_m : s.fresh.2.m = s.m := rfl
@[simp] theorem State.fresh_slices : s.fresh.2.slices = s.slices := rfl
@[simp] theorem State.fresh_homes : s.fresh.2.homes = s.homes := rfl
@[simp] theorem State.fresh_coreBuf : s.fresh.2.coreBuf = s.coreBuf := rfl
@[simp] theorem State.fresh_bypass : s.fresh.2.bypass = s.bypass := rfl
@[simp] theorem State.fresh_budgets : s.fresh.2.budgets = s.budgets := rfl
@[simp] theorem State.fresh_mesh : s.fresh.2.mesh = s.mesh := rfl
@[simp] theorem State.fresh_ports : s.fresh.2.ports = s.ports := rfl
@[simp] theorem State.fresh_copies : s.fresh.2.copies = s.copies := rfl
@[simp] theorem State.fresh_cwaits : s.fresh.2.cwaits = s.cwaits := rfl
@[simp] theorem State.fresh_engines : s.fresh.2.engines = s.engines := rfl
@[simp] theorem State.fresh_lattices : s.fresh.2.lattices = s.lattices := rfl
@[simp] theorem State.fresh_ctxs : s.fresh.2.ctxs = s.ctxs := rfl
@[simp] theorem State.fresh_queues : s.fresh.2.queues = s.queues := rfl
@[simp] theorem State.fresh_launches : s.fresh.2.launches = s.launches := rfl
@[simp] theorem State.fresh_graphs : s.fresh.2.graphs = s.graphs := rfl
@[simp] theorem State.fresh_images : s.fresh.2.images = s.images := rfl
@[simp] theorem State.fresh_fences : s.fresh.2.fences = s.fences := rfl
@[simp] theorem State.fresh_pkg : s.fresh.2.pkg = s.pkg := rfl
@[simp] theorem State.fresh_nextId : s.fresh.2.nextId = s.nextId + 1 := rfl

end Sys2Proof.Machine
end

