-- ==== Sys2Proof/Laws/Effects.lean ====
section
/-! SUPPORT. What the shared parts of an instruction's completion leave: queueing a short result, setting status bits, beginning and
finishing an operation of a flag, and going on to the next instruction. -/

namespace Sys2Proof.Machine

variable (s : State) (f : Fields)


/-! ### result: only results still to come change -/

@[simp] theorem State.result_clock (slot lam : Nat) (ws : List Wr) : (s.result slot lam ws).clock = s.clock := by
  unfold State.result; split <;> rfl
@[simp] theorem State.result_polled (slot lam : Nat) (ws : List Wr) : (s.result slot lam ws).polled = s.polled := by
  unfold State.result; split <;> rfl
@[simp] theorem State.result_free (slot lam : Nat) (ws : List Wr) : (s.result slot lam ws).free = s.free := by
  unfold State.result; split <;> rfl
@[simp] theorem State.result_nextId (slot lam : Nat) (ws : List Wr) : (s.result slot lam ws).nextId = s.nextId := by
  unfold State.result; split <;> rfl
@[simp] theorem State.result_agenda (slot lam : Nat) (ws : List Wr) : (s.result slot lam ws).agenda = s.agenda := by
  unfold State.result; split <;> rfl
@[simp] theorem State.result_inbox (slot lam : Nat) (ws : List Wr) : (s.result slot lam ws).inbox = s.inbox := by
  unfold State.result; split <;> rfl
@[simp] theorem State.result_upsets (slot lam : Nat) (ws : List Wr) : (s.result slot lam ws).upsets = s.upsets := by
  unfold State.result; split <;> rfl
@[simp] theorem State.result_out (slot lam : Nat) (ws : List Wr) : (s.result slot lam ws).out = s.out := by
  unfold State.result; split <;> rfl
@[simp] theorem State.result_others (slot lam : Nat) (ws : List Wr) : (s.result slot lam ws).others = s.others := by
  unfold State.result; split <;> rfl
@[simp] theorem State.result_teams (slot lam : Nat) (ws : List Wr) : (s.result slot lam ws).teams = s.teams := by
  unfold State.result; split <;> rfl
@[simp] theorem State.result_grids (slot lam : Nat) (ws : List Wr) : (s.result slot lam ws).grids = s.grids := by
  unfold State.result; split <;> rfl
@[simp] theorem State.result_pipes (slot lam : Nat) (ws : List Wr) : (s.result slot lam ws).pipes = s.pipes := by
  unfold State.result; split <;> rfl
@[simp] theorem State.result_m (slot lam : Nat) (ws : List Wr) : (s.result slot lam ws).m = s.m := by
  unfold State.result; split <;> rfl
@[simp] theorem State.result_slices (slot lam : Nat) (ws : List Wr) : (s.result slot lam ws).slices = s.slices := by
  unfold State.result; split <;> rfl
@[simp] theorem State.result_homes (slot lam : Nat) (ws : List Wr) : (s.result slot lam ws).homes = s.homes := by
  unfold State.result; split <;> rfl
@[simp] theorem State.result_coreBuf (slot lam : Nat) (ws : List Wr) : (s.result slot lam ws).coreBuf = s.coreBuf := by
  unfold State.result; split <;> rfl
@[simp] theorem State.result_bypass (slot lam : Nat) (ws : List Wr) : (s.result slot lam ws).bypass = s.bypass := by
  unfold State.result; split <;> rfl
@[simp] theorem State.result_budgets (slot lam : Nat) (ws : List Wr) : (s.result slot lam ws).budgets = s.budgets := by
  unfold State.result; split <;> rfl
@[simp] theorem State.result_mesh (slot lam : Nat) (ws : List Wr) : (s.result slot lam ws).mesh = s.mesh := by
  unfold State.result; split <;> rfl
@[simp] theorem State.result_ports (slot lam : Nat) (ws : List Wr) : (s.result slot lam ws).ports = s.ports := by
  unfold State.result; split <;> rfl
@[simp] theorem State.result_copies (slot lam : Nat) (ws : List Wr) : (s.result slot lam ws).copies = s.copies := by
  unfold State.result; split <;> rfl
@[simp] theorem State.result_cwaits (slot lam : Nat) (ws : List Wr) : (s.result slot lam ws).cwaits = s.cwaits := by
  unfold State.result; split <;> rfl
@[simp] theorem State.result_engines (slot lam : Nat) (ws : List Wr) : (s.result slot lam ws).engines = s.engines := by
  unfold State.result; split <;> rfl
@[simp] theorem State.result_lattices (slot lam : Nat) (ws : List Wr) : (s.result slot lam ws).lattices = s.lattices := by
  unfold State.result; split <;> rfl
@[simp] theorem State.result_ctxs (slot lam : Nat) (ws : List Wr) : (s.result slot lam ws).ctxs = s.ctxs := by
  unfold State.result; split <;> rfl
@[simp] theorem State.result_queues (slot lam : Nat) (ws : List Wr) : (s.result slot lam ws).queues = s.queues := by
  unfold State.result; split <;> rfl
@[simp] theorem State.result_launches (slot lam : Nat) (ws : List Wr) : (s.result slot lam ws).launches = s.launches := by
  unfold State.result; split <;> rfl
@[simp] theorem State.result_graphs (slot lam : Nat) (ws : List Wr) : (s.result slot lam ws).graphs = s.graphs := by
  unfold State.result; split <;> rfl
@[simp] theorem State.result_images (slot lam : Nat) (ws : List Wr) : (s.result slot lam ws).images = s.images := by
  unfold State.result; split <;> rfl
@[simp] theorem State.result_fences (slot lam : Nat) (ws : List Wr) : (s.result slot lam ws).fences = s.fences := by
  unfold State.result; split <;> rfl
@[simp] theorem State.result_pkg (slot lam : Nat) (ws : List Wr) : (s.result slot lam ws).pkg = s.pkg := by
  unfold State.result; split <;> rfl
@[simp] theorem State.result_r_v (slot lam : Nat) (ws : List Wr) : (s.result slot lam ws).w.r.v = s.w.r.v := by
  unfold State.result; split <;> rfl
@[simp] theorem State.result_r_s (slot lam : Nat) (ws : List Wr) : (s.result slot lam ws).w.r.s = s.w.r.s := by
  unfold State.result; split <;> rfl
@[simp] theorem State.result_r_p (slot lam : Nat) (ws : List Wr) : (s.result slot lam ws).w.r.p = s.w.r.p := by
  unfold State.result; split <;> rfl
@[simp] theorem State.result_r_rng (slot lam : Nat) (ws : List Wr) : (s.result slot lam ws).w.r.rng = s.w.r.rng := by
  unfold State.result; split <;> rfl
@[simp] theorem State.result_r_nstat (slot lam : Nat) (ws : List Wr) : (s.result slot lam ws).w.r.nstat = s.w.r.nstat := by
  unfold State.result; split <;> rfl
@[simp] theorem State.result_r_lsa (slot lam : Nat) (ws : List Wr) : (s.result slot lam ws).w.r.lsa = s.w.r.lsa := by
  unfold State.result; split <;> rfl
@[simp] theorem State.result_r_lsb (slot lam : Nat) (ws : List Wr) : (s.result slot lam ws).w.r.lsb = s.w.r.lsb := by
  unfold State.result; split <;> rfl
@[simp] theorem State.result_r_ctl (slot lam : Nat) (ws : List Wr) : (s.result slot lam ws).w.r.ctl = s.w.r.ctl := by
  unfold State.result; split <;> rfl
@[simp] theorem State.result_r_cmm (slot lam : Nat) (ws : List Wr) : (s.result slot lam ws).w.r.cmm = s.w.r.cmm := by
  unfold State.result; split <;> rfl
@[simp] theorem State.result_r_next (slot lam : Nat) (ws : List Wr) : (s.result slot lam ws).w.r.next = s.w.r.next := by
  unfold State.result; split <;> rfl
@[simp] theorem State.result_r_bad (slot lam : Nat) (ws : List Wr) : (s.result slot lam ws).w.r.bad = s.w.r.bad := by
  unfold State.result; split <;> rfl
/-- What is to come once a result is queued. -/
theorem State.result_r_pend (slot lam : Nat) (ws : List Wr) :
    (s.result slot lam ws).w.r.pend =
      if ws.isEmpty then s.w.r.pend else s.w.r.pend.map (Pend.under (slot + lam) ws) ++ [{ due := slot + lam, wrs := ws }] := by
  unfold State.result; split <;> rfl

/-! ### setNstat -/

@[simp] theorem State.setNstat_clock (b : Word) : (s.setNstat b).clock = s.clock := rfl
@[simp] theorem State.setNstat_polled (b : Word) : (s.setNstat b).polled = s.polled := rfl
@[simp] theorem State.setNstat_free (b : Word) : (s.setNstat b).free = s.free := rfl
@[simp] theorem State.setNstat_nextId (b : Word) : (s.setNstat b).nextId = s.nextId := rfl
@[simp] theorem State.setNstat_agenda (b : Word) : (s.setNstat b).agenda = s.agenda := rfl
@[simp] theorem State.setNstat_inbox (b : Word) : (s.setNstat b).inbox = s.inbox := rfl
@[simp] theorem State.setNstat_upsets (b : Word) : (s.setNstat b).upsets = s.upsets := rfl
@[simp] theorem State.setNstat_out (b : Word) : (s.setNstat b).out = s.out := rfl
@[simp] theorem State.setNstat_others (b : Word) : (s.setNstat b).others = s.others := rfl
@[simp] theorem State.setNstat_teams (b : Word) : (s.setNstat b).teams = s.teams := rfl
@[simp] theorem State.setNstat_grids (b : Word) : (s.setNstat b).grids = s.grids := rfl
@[simp] theorem State.setNstat_pipes (b : Word) : (s.setNstat b).pipes = s.pipes := rfl
@[simp] theorem State.setNstat_m (b : Word) : (s.setNstat b).m = s.m := rfl
@[simp] theorem State.setNstat_slices (b : Word) : (s.setNstat b).slices = s.slices := rfl
@[simp] theorem State.setNstat_homes (b : Word) : (s.setNstat b).homes = s.homes := rfl
@[simp] theorem State.setNstat_coreBuf (b : Word) : (s.setNstat b).coreBuf = s.coreBuf := rfl
@[simp] theorem State.setNstat_bypass (b : Word) : (s.setNstat b).bypass = s.bypass := rfl
@[simp] theorem State.setNstat_budgets (b : Word) : (s.setNstat b).budgets = s.budgets := rfl
@[simp] theorem State.setNstat_mesh (b : Word) : (s.setNstat b).mesh = s.mesh := rfl
@[simp] theorem State.setNstat_ports (b : Word) : (s.setNstat b).ports = s.ports := rfl
@[simp] theorem State.setNstat_copies (b : Word) : (s.setNstat b).copies = s.copies := rfl
@[simp] theorem State.setNstat_cwaits (b : Word) : (s.setNstat b).cwaits = s.cwaits := rfl
@[simp] theorem State.setNstat_engines (b : Word) : (s.setNstat b).engines = s.engines := rfl
@[simp] theorem State.setNstat_lattices (b : Word) : (s.setNstat b).lattices = s.lattices := rfl
@[simp] theorem State.setNstat_ctxs (b : Word) : (s.setNstat b).ctxs = s.ctxs := rfl
@[simp] theorem State.setNstat_queues (b : Word) : (s.setNstat b).queues = s.queues := rfl
@[simp] theorem State.setNstat_launches (b : Word) : (s.setNstat b).launches = s.launches := rfl
@[simp] theorem State.setNstat_graphs (b : Word) : (s.setNstat b).graphs = s.graphs := rfl
@[simp] theorem State.setNstat_images (b : Word) : (s.setNstat b).images = s.images := rfl
@[simp] theorem State.setNstat_fences (b : Word) : (s.setNstat b).fences = s.fences := rfl
@[simp] theorem State.setNstat_pkg (b : Word) : (s.setNstat b).pkg = s.pkg := rfl
@[simp] theorem State.setNstat_r_v (b : Word) : (s.setNstat b).w.r.v = s.w.r.v := rfl
@[simp] theorem State.setNstat_r_s (b : Word) : (s.setNstat b).w.r.s = s.w.r.s := rfl
@[simp] theorem State.setNstat_r_p (b : Word) : (s.setNstat b).w.r.p = s.w.r.p := rfl
@[simp] theorem State.setNstat_r_rng (b : Word) : (s.setNstat b).w.r.rng = s.w.r.rng := rfl
@[simp] theorem State.setNstat_r_nstat (b : Word) : (s.setNstat b).w.r.nstat = s.w.r.nstat ||| b := rfl
@[simp] theorem State.setNstat_r_lsa (b : Word) : (s.setNstat b).w.r.lsa = s.w.r.lsa := rfl
@[simp] theorem State.setNstat_r_lsb (b : Word) : (s.setNstat b).w.r.lsb = s.w.r.lsb := rfl
@[simp] theorem State.setNstat_r_ctl (b : Word) : (s.setNstat b).w.r.ctl = s.w.r.ctl := rfl
@[simp] theorem State.setNstat_r_cmm (b : Word) : (s.setNstat b).w.r.cmm = s.w.r.cmm := rfl
@[simp] theorem State.setNstat_r_next (b : Word) : (s.setNstat b).w.r.next = s.w.r.next := rfl
@[simp] theorem State.setNstat_r_pend (b : Word) : (s.setNstat b).w.r.pend = s.w.r.pend := rfl
@[simp] theorem State.setNstat_r_bad (b : Word) : (s.setNstat b).w.r.bad = s.w.r.bad := rfl

/-! ### An operation begins and finishes -/

@[simp] theorem State.startOp_clock (a l : Bool) : (s.startOp f a l).2.clock = s.clock := by
  unfold State.startOp State.fresh; dsimp only; split <;> rfl
@[simp] theorem State.finishedOp_clock : (s.finishedOp f).clock = s.clock := by
  unfold State.finishedOp State.fresh; split <;> rfl
@[simp] theorem State.startOp_polled (a l : Bool) : (s.startOp f a l).2.polled = s.polled := by
  unfold State.startOp State.fresh; dsimp only; split <;> rfl
@[simp] theorem State.finishedOp_polled : (s.finishedOp f).polled = s.polled := by
  unfold State.finishedOp State.fresh; split <;> rfl
@[simp] theorem State.startOp_free (a l : Bool) : (s.startOp f a l).2.free = s.free := by
  unfold State.startOp State.fresh; dsimp only; split <;> rfl
@[simp] theorem State.finishedOp_free : (s.finishedOp f).free = s.free := by
  unfold State.finishedOp State.fresh; split <;> rfl
@[simp] theorem State.startOp_agenda (a l : Bool) : (s.startOp f a l).2.agenda = s.agenda := by
  unfold State.startOp State.fresh; dsimp only; split <;> rfl
@[simp] theorem State.finishedOp_agenda : (s.finishedOp f).agenda = s.agenda := by
  unfold State.finishedOp State.fresh; split <;> rfl
@[simp] theorem State.startOp_inbox (a l : Bool) : (s.startOp f a l).2.inbox = s.inbox := by
  unfold State.startOp State.fresh; dsimp only; split <;> rfl
@[simp] theorem State.finishedOp_inbox : (s.finishedOp f).inbox = s.inbox := by
  unfold State.finishedOp State.fresh; split <;> rfl
@[simp] theorem State.startOp_upsets (a l : Bool) : (s.startOp f a l).2.upsets = s.upsets := by
  unfold State.startOp State.fresh; dsimp only; split <;> rfl
@[simp] theorem State.finishedOp_upsets : (s.finishedOp f).upsets = s.upsets := by
  unfold State.finishedOp State.fresh; split <;> rfl
@[simp] theorem State.startOp_out (a l : Bool) : (s.startOp f a l).2.out = s.out := by
  unfold State.startOp State.fresh; dsimp only; split <;> rfl
@[simp] theorem State.finishedOp_out : (s.finishedOp f).out = s.out := by
  unfold State.finishedOp State.fresh; split <;> rfl
@[simp] theorem State.startOp_others (a l : Bool) : (s.startOp f a l).2.others = s.others := by
  unfold State.startOp State.fresh; dsimp only; split <;> rfl
@[simp] theorem State.finishedOp_others : (s.finishedOp f).others = s.others := by
  unfold State.finishedOp State.fresh; split <;> rfl
@[simp] theorem State.startOp_teams (a l : Bool) : (s.startOp f a l).2.teams = s.teams := by
  unfold State.startOp State.fresh; dsimp only; split <;> rfl
@[simp] theorem State.finishedOp_teams : (s.finishedOp f).teams = s.teams := by
  unfold State.finishedOp State.fresh; split <;> rfl
@[simp] theorem State.startOp_grids (a l : Bool) : (s.startOp f a l).2.grids = s.grids := by
  unfold State.startOp State.fresh; dsimp only; split <;> rfl
@[simp] theorem State.finishedOp_grids : (s.finishedOp f).grids = s.grids := by
  unfold State.finishedOp State.fresh; split <;> rfl
@[simp] theorem State.startOp_pipes (a l : Bool) : (s.startOp f a l).2.pipes = s.pipes := by
  unfold State.startOp State.fresh; dsimp only; split <;> rfl
@[simp] theorem State.finishedOp_pipes : (s.finishedOp f).pipes = s.pipes := by
  unfold State.finishedOp State.fresh; split <;> rfl
@[simp] theorem State.startOp_m (a l : Bool) : (s.startOp f a l).2.m = s.m := by
  unfold State.startOp State.fresh; dsimp only; split <;> rfl
@[simp] theorem State.finishedOp_m : (s.finishedOp f).m = s.m := by
  unfold State.finishedOp State.fresh; split <;> rfl
@[simp] theorem State.startOp_slices (a l : Bool) : (s.startOp f a l).2.slices = s.slices := by
  unfold State.startOp State.fresh; dsimp only; split <;> rfl
@[simp] theorem State.finishedOp_slices : (s.finishedOp f).slices = s.slices := by
  unfold State.finishedOp State.fresh; split <;> rfl
@[simp] theorem State.startOp_homes (a l : Bool) : (s.startOp f a l).2.homes = s.homes := by
  unfold State.startOp State.fresh; dsimp only; split <;> rfl
@[simp] theorem State.finishedOp_homes : (s.finishedOp f).homes = s.homes := by
  unfold State.finishedOp State.fresh; split <;> rfl
@[simp] theorem State.startOp_coreBuf (a l : Bool) : (s.startOp f a l).2.coreBuf = s.coreBuf := by
  unfold State.startOp State.fresh; dsimp only; split <;> rfl
@[simp] theorem State.finishedOp_coreBuf : (s.finishedOp f).coreBuf = s.coreBuf := by
  unfold State.finishedOp State.fresh; split <;> rfl
@[simp] theorem State.startOp_bypass (a l : Bool) : (s.startOp f a l).2.bypass = s.bypass := by
  unfold State.startOp State.fresh; dsimp only; split <;> rfl
@[simp] theorem State.finishedOp_bypass : (s.finishedOp f).bypass = s.bypass := by
  unfold State.finishedOp State.fresh; split <;> rfl
@[simp] theorem State.startOp_budgets (a l : Bool) : (s.startOp f a l).2.budgets = s.budgets := by
  unfold State.startOp State.fresh; dsimp only; split <;> rfl
@[simp] theorem State.finishedOp_budgets : (s.finishedOp f).budgets = s.budgets := by
  unfold State.finishedOp State.fresh; split <;> rfl
@[simp] theorem State.startOp_mesh (a l : Bool) : (s.startOp f a l).2.mesh = s.mesh := by
  unfold State.startOp State.fresh; dsimp only; split <;> rfl
@[simp] theorem State.finishedOp_mesh : (s.finishedOp f).mesh = s.mesh := by
  unfold State.finishedOp State.fresh; split <;> rfl
@[simp] theorem State.startOp_ports (a l : Bool) : (s.startOp f a l).2.ports = s.ports := by
  unfold State.startOp State.fresh; dsimp only; split <;> rfl
@[simp] theorem State.finishedOp_ports : (s.finishedOp f).ports = s.ports := by
  unfold State.finishedOp State.fresh; split <;> rfl
@[simp] theorem State.startOp_copies (a l : Bool) : (s.startOp f a l).2.copies = s.copies := by
  unfold State.startOp State.fresh; dsimp only; split <;> rfl
@[simp] theorem State.finishedOp_copies : (s.finishedOp f).copies = s.copies := by
  unfold State.finishedOp State.fresh; split <;> rfl
@[simp] theorem State.startOp_cwaits (a l : Bool) : (s.startOp f a l).2.cwaits = s.cwaits := by
  unfold State.startOp State.fresh; dsimp only; split <;> rfl
@[simp] theorem State.finishedOp_cwaits : (s.finishedOp f).cwaits = s.cwaits := by
  unfold State.finishedOp State.fresh; split <;> rfl
@[simp] theorem State.startOp_engines (a l : Bool) : (s.startOp f a l).2.engines = s.engines := by
  unfold State.startOp State.fresh; dsimp only; split <;> rfl
@[simp] theorem State.finishedOp_engines : (s.finishedOp f).engines = s.engines := by
  unfold State.finishedOp State.fresh; split <;> rfl
@[simp] theorem State.startOp_lattices (a l : Bool) : (s.startOp f a l).2.lattices = s.lattices := by
  unfold State.startOp State.fresh; dsimp only; split <;> rfl
@[simp] theorem State.finishedOp_lattices : (s.finishedOp f).lattices = s.lattices := by
  unfold State.finishedOp State.fresh; split <;> rfl
@[simp] theorem State.startOp_ctxs (a l : Bool) : (s.startOp f a l).2.ctxs = s.ctxs := by
  unfold State.startOp State.fresh; dsimp only; split <;> rfl
@[simp] theorem State.finishedOp_ctxs : (s.finishedOp f).ctxs = s.ctxs := by
  unfold State.finishedOp State.fresh; split <;> rfl
@[simp] theorem State.startOp_queues (a l : Bool) : (s.startOp f a l).2.queues = s.queues := by
  unfold State.startOp State.fresh; dsimp only; split <;> rfl
@[simp] theorem State.finishedOp_queues : (s.finishedOp f).queues = s.queues := by
  unfold State.finishedOp State.fresh; split <;> rfl
@[simp] theorem State.startOp_launches (a l : Bool) : (s.startOp f a l).2.launches = s.launches := by
  unfold State.startOp State.fresh; dsimp only; split <;> rfl
@[simp] theorem State.finishedOp_launches : (s.finishedOp f).launches = s.launches := by
  unfold State.finishedOp State.fresh; split <;> rfl
@[simp] theorem State.startOp_graphs (a l : Bool) : (s.startOp f a l).2.graphs = s.graphs := by
  unfold State.startOp State.fresh; dsimp only; split <;> rfl
@[simp] theorem State.finishedOp_graphs : (s.finishedOp f).graphs = s.graphs := by
  unfold State.finishedOp State.fresh; split <;> rfl
@[simp] theorem State.startOp_images (a l : Bool) : (s.startOp f a l).2.images = s.images := by
  unfold State.startOp State.fresh; dsimp only; split <;> rfl
@[simp] theorem State.finishedOp_images : (s.finishedOp f).images = s.images := by
  unfold State.finishedOp State.fresh; split <;> rfl
@[simp] theorem State.startOp_fences (a l : Bool) : (s.startOp f a l).2.fences = s.fences := by
  unfold State.startOp State.fresh; dsimp only; split <;> rfl
@[simp] theorem State.finishedOp_fences : (s.finishedOp f).fences = s.fences := by
  unfold State.finishedOp State.fresh; split <;> rfl
@[simp] theorem State.startOp_pkg (a l : Bool) : (s.startOp f a l).2.pkg = s.pkg := by
  unfold State.startOp State.fresh; dsimp only; split <;> rfl
@[simp] theorem State.finishedOp_pkg : (s.finishedOp f).pkg = s.pkg := by
  unfold State.finishedOp State.fresh; split <;> rfl
@[simp] theorem State.startOp_r (a l : Bool) : (s.startOp f a l).2.w.r = s.w.r := by
  unfold State.startOp State.fresh; dsimp only; split <;> rfl
@[simp] theorem State.startOp_uid (a l : Bool) : (s.startOp f a l).2.w.uid = s.w.uid := by
  unfold State.startOp State.fresh; dsimp only; split <;> rfl
@[simp] theorem State.finishedOp_r : (s.finishedOp f).w.r = s.w.r := by
  unfold State.finishedOp State.fresh; split <;> rfl

/-! ### longDone: one operation, finished, holds what is to be written -/

/-- A change of the wave on the issue port. -/
theorem State.mapAnyWave_self (s : State) (g : Wave → Wave) : s.mapAnyWave s.w.uid g = s.withW g := by
  simp [State.mapAnyWave, State.wave, State.mapWave, State.withW]

/-- `longDone` begins an operation of the wave on the issue port and finishes it with its results to come. -/
theorem State.longDone_eq (ws : List Wr) (b : Word) : s.longDone f ws b =
    (s.startOp f false false).2.withW fun w => w.mapOp (s.startOp f false false).1 fun o => o.finish ws b none := by
  simp [State.longDone, State.finishOp, ← State.mapAnyWave_self]


@[simp] theorem State.longDone_clock (ws : List Wr) (b : Word) : (s.longDone f ws b).clock = s.clock := by
  simp [State.longDone_eq]
@[simp] theorem State.longDone_polled (ws : List Wr) (b : Word) : (s.longDone f ws b).polled = s.polled := by
  simp [State.longDone_eq]
@[simp] theorem State.longDone_free (ws : List Wr) (b : Word) : (s.longDone f ws b).free = s.free := by
  simp [State.longDone_eq]
@[simp] theorem State.longDone_agenda (ws : List Wr) (b : Word) : (s.longDone f ws b).agenda = s.agenda := by
  simp [State.longDone_eq]
@[simp] theorem State.longDone_inbox (ws : List Wr) (b : Word) : (s.longDone f ws b).inbox = s.inbox := by
  simp [State.longDone_eq]
@[simp] theorem State.longDone_upsets (ws : List Wr) (b : Word) : (s.longDone f ws b).upsets = s.upsets := by
  simp [State.longDone_eq]
@[simp] theorem State.longDone_out (ws : List Wr) (b : Word) : (s.longDone f ws b).out = s.out := by
  simp [State.longDone_eq]
@[simp] theorem State.longDone_others (ws : List Wr) (b : Word) : (s.longDone f ws b).others = s.others := by
  simp [State.longDone_eq]
@[simp] theorem State.longDone_teams (ws : List Wr) (b : Word) : (s.longDone f ws b).teams = s.teams := by
  simp [State.longDone_eq]
@[simp] theorem State.longDone_grids (ws : List Wr) (b : Word) : (s.longDone f ws b).grids = s.grids := by
  simp [State.longDone_eq]
@[simp] theorem State.longDone_pipes (ws : List Wr) (b : Word) : (s.longDone f ws b).pipes = s.pipes := by
  simp [State.longDone_eq]
@[simp] theorem State.longDone_m (ws : List Wr) (b : Word) : (s.longDone f ws b).m = s.m := by
  simp [State.longDone_eq]
@[simp] theorem State.longDone_slices (ws : List Wr) (b : Word) : (s.longDone f ws b).slices = s.slices := by
  simp [State.longDone_eq]
@[simp] theorem State.longDone_homes (ws : List Wr) (b : Word) : (s.longDone f ws b).homes = s.homes := by
  simp [State.longDone_eq]
@[simp] theorem State.longDone_coreBuf (ws : List Wr) (b : Word) : (s.longDone f ws b).coreBuf = s.coreBuf := by
  simp [State.longDone_eq]
@[simp] theorem State.longDone_bypass (ws : List Wr) (b : Word) : (s.longDone f ws b).bypass = s.bypass := by
  simp [State.longDone_eq]
@[simp] theorem State.longDone_budgets (ws : List Wr) (b : Word) : (s.longDone f ws b).budgets = s.budgets := by
  simp [State.longDone_eq]
@[simp] theorem State.longDone_mesh (ws : List Wr) (b : Word) : (s.longDone f ws b).mesh = s.mesh := by
  simp [State.longDone_eq]
@[simp] theorem State.longDone_ports (ws : List Wr) (b : Word) : (s.longDone f ws b).ports = s.ports := by
  simp [State.longDone_eq]
@[simp] theorem State.longDone_copies (ws : List Wr) (b : Word) : (s.longDone f ws b).copies = s.copies := by
  simp [State.longDone_eq]
@[simp] theorem State.longDone_cwaits (ws : List Wr) (b : Word) : (s.longDone f ws b).cwaits = s.cwaits := by
  simp [State.longDone_eq]
@[simp] theorem State.longDone_engines (ws : List Wr) (b : Word) : (s.longDone f ws b).engines = s.engines := by
  simp [State.longDone_eq]
@[simp] theorem State.longDone_lattices (ws : List Wr) (b : Word) : (s.longDone f ws b).lattices = s.lattices := by
  simp [State.longDone_eq]
@[simp] theorem State.longDone_ctxs (ws : List Wr) (b : Word) : (s.longDone f ws b).ctxs = s.ctxs := by
  simp [State.longDone_eq]
@[simp] theorem State.longDone_queues (ws : List Wr) (b : Word) : (s.longDone f ws b).queues = s.queues := by
  simp [State.longDone_eq]
@[simp] theorem State.longDone_launches (ws : List Wr) (b : Word) : (s.longDone f ws b).launches = s.launches := by
  simp [State.longDone_eq]
@[simp] theorem State.longDone_graphs (ws : List Wr) (b : Word) : (s.longDone f ws b).graphs = s.graphs := by
  simp [State.longDone_eq]
@[simp] theorem State.longDone_images (ws : List Wr) (b : Word) : (s.longDone f ws b).images = s.images := by
  simp [State.longDone_eq]
@[simp] theorem State.longDone_fences (ws : List Wr) (b : Word) : (s.longDone f ws b).fences = s.fences := by
  simp [State.longDone_eq]
@[simp] theorem State.longDone_pkg (ws : List Wr) (b : Word) : (s.longDone f ws b).pkg = s.pkg := by
  simp [State.longDone_eq]
@[simp] theorem State.longDone_r (ws : List Wr) (b : Word) : (s.longDone f ws b).w.r = s.w.r := by
  rw [State.longDone_eq]; exact State.startOp_r s f false false

/-! ### goOn: the wave goes on -/

@[simp] theorem State.goOn_polled (long : Bool) (slot : Nat) (dest : Option DWord) : (s.goOn long f slot dest).polled = s.polled := by
  unfold State.goOn State.issued; dsimp only; split <;> simp
@[simp] theorem State.goOn_free (long : Bool) (slot : Nat) (dest : Option DWord) : (s.goOn long f slot dest).free = s.free := by
  unfold State.goOn State.issued; dsimp only; split <;> simp
@[simp] theorem State.goOn_agenda (long : Bool) (slot : Nat) (dest : Option DWord) : (s.goOn long f slot dest).agenda = s.agenda := by
  unfold State.goOn State.issued; dsimp only; split <;> simp
@[simp] theorem State.goOn_inbox (long : Bool) (slot : Nat) (dest : Option DWord) : (s.goOn long f slot dest).inbox = s.inbox := by
  unfold State.goOn State.issued; dsimp only; split <;> simp
@[simp] theorem State.goOn_upsets (long : Bool) (slot : Nat) (dest : Option DWord) : (s.goOn long f slot dest).upsets = s.upsets := by
  unfold State.goOn State.issued; dsimp only; split <;> simp
@[simp] theorem State.goOn_out (long : Bool) (slot : Nat) (dest : Option DWord) : (s.goOn long f slot dest).out = s.out := by
  unfold State.goOn State.issued; dsimp only; split <;> simp
@[simp] theorem State.goOn_others (long : Bool) (slot : Nat) (dest : Option DWord) : (s.goOn long f slot dest).others = s.others := by
  unfold State.goOn State.issued; dsimp only; split <;> simp
@[simp] theorem State.goOn_teams (long : Bool) (slot : Nat) (dest : Option DWord) : (s.goOn long f slot dest).teams = s.teams := by
  unfold State.goOn State.issued; dsimp only; split <;> simp
@[simp] theorem State.goOn_grids (long : Bool) (slot : Nat) (dest : Option DWord) : (s.goOn long f slot dest).grids = s.grids := by
  unfold State.goOn State.issued; dsimp only; split <;> simp
@[simp] theorem State.goOn_m (long : Bool) (slot : Nat) (dest : Option DWord) : (s.goOn long f slot dest).m = s.m := by
  unfold State.goOn State.issued; dsimp only; split <;> simp
@[simp] theorem State.goOn_slices (long : Bool) (slot : Nat) (dest : Option DWord) : (s.goOn long f slot dest).slices = s.slices := by
  unfold State.goOn State.issued; dsimp only; split <;> simp
@[simp] theorem State.goOn_homes (long : Bool) (slot : Nat) (dest : Option DWord) : (s.goOn long f slot dest).homes = s.homes := by
  unfold State.goOn State.issued; dsimp only; split <;> simp
@[simp] theorem State.goOn_coreBuf (long : Bool) (slot : Nat) (dest : Option DWord) : (s.goOn long f slot dest).coreBuf = s.coreBuf := by
  unfold State.goOn State.issued; dsimp only; split <;> simp
@[simp] theorem State.goOn_bypass (long : Bool) (slot : Nat) (dest : Option DWord) : (s.goOn long f slot dest).bypass = s.bypass := by
  unfold State.goOn State.issued; dsimp only; split <;> simp
@[simp] theorem State.goOn_budgets (long : Bool) (slot : Nat) (dest : Option DWord) : (s.goOn long f slot dest).budgets = s.budgets := by
  unfold State.goOn State.issued; dsimp only; split <;> simp
@[simp] theorem State.goOn_mesh (long : Bool) (slot : Nat) (dest : Option DWord) : (s.goOn long f slot dest).mesh = s.mesh := by
  unfold State.goOn State.issued; dsimp only; split <;> simp
@[simp] theorem State.goOn_ports (long : Bool) (slot : Nat) (dest : Option DWord) : (s.goOn long f slot dest).ports = s.ports := by
  unfold State.goOn State.issued; dsimp only; split <;> simp
@[simp] theorem State.goOn_copies (long : Bool) (slot : Nat) (dest : Option DWord) : (s.goOn long f slot dest).copies = s.copies := by
  unfold State.goOn State.issued; dsimp only; split <;> simp
@[simp] theorem State.goOn_cwaits (long : Bool) (slot : Nat) (dest : Option DWord) : (s.goOn long f slot dest).cwaits = s.cwaits := by
  unfold State.goOn State.issued; dsimp only; split <;> simp
@[simp] theorem State.goOn_engines (long : Bool) (slot : Nat) (dest : Option DWord) : (s.goOn long f slot dest).engines = s.engines := by
  unfold State.goOn State.issued; dsimp only; split <;> simp
@[simp] theorem State.goOn_lattices (long : Bool) (slot : Nat) (dest : Option DWord) : (s.goOn long f slot dest).lattices = s.lattices := by
  unfold State.goOn State.issued; dsimp only; split <;> simp
@[simp] theorem State.goOn_ctxs (long : Bool) (slot : Nat) (dest : Option DWord) : (s.goOn long f slot dest).ctxs = s.ctxs := by
  unfold State.goOn State.issued; dsimp only; split <;> simp
@[simp] theorem State.goOn_queues (long : Bool) (slot : Nat) (dest : Option DWord) : (s.goOn long f slot dest).queues = s.queues := by
  unfold State.goOn State.issued; dsimp only; split <;> simp
@[simp] theorem State.goOn_launches (long : Bool) (slot : Nat) (dest : Option DWord) : (s.goOn long f slot dest).launches = s.launches := by
  unfold State.goOn State.issued; dsimp only; split <;> simp
@[simp] theorem State.goOn_graphs (long : Bool) (slot : Nat) (dest : Option DWord) : (s.goOn long f slot dest).graphs = s.graphs := by
  unfold State.goOn State.issued; dsimp only; split <;> simp
@[simp] theorem State.goOn_images (long : Bool) (slot : Nat) (dest : Option DWord) : (s.goOn long f slot dest).images = s.images := by
  unfold State.goOn State.issued; dsimp only; split <;> simp
@[simp] theorem State.goOn_fences (long : Bool) (slot : Nat) (dest : Option DWord) : (s.goOn long f slot dest).fences = s.fences := by
  unfold State.goOn State.issued; dsimp only; split <;> simp
@[simp] theorem State.goOn_pkg (long : Bool) (slot : Nat) (dest : Option DWord) : (s.goOn long f slot dest).pkg = s.pkg := by
  unfold State.goOn State.issued; dsimp only; split <;> simp
@[simp] theorem State.goOn_r_v (long : Bool) (slot : Nat) (dest : Option DWord) : (s.goOn long f slot dest).w.r.v = s.w.r.v := by
  unfold State.goOn State.issued; dsimp only; split <;> simp
@[simp] theorem State.goOn_r_s (long : Bool) (slot : Nat) (dest : Option DWord) : (s.goOn long f slot dest).w.r.s = s.w.r.s := by
  unfold State.goOn State.issued; dsimp only; split <;> simp
@[simp] theorem State.goOn_r_p (long : Bool) (slot : Nat) (dest : Option DWord) : (s.goOn long f slot dest).w.r.p = s.w.r.p := by
  unfold State.goOn State.issued; dsimp only; split <;> simp
@[simp] theorem State.goOn_r_rng (long : Bool) (slot : Nat) (dest : Option DWord) : (s.goOn long f slot dest).w.r.rng = s.w.r.rng := by
  unfold State.goOn State.issued; dsimp only; split <;> simp
@[simp] theorem State.goOn_r_nstat (long : Bool) (slot : Nat) (dest : Option DWord) : (s.goOn long f slot dest).w.r.nstat = s.w.r.nstat := by
  unfold State.goOn State.issued; dsimp only; split <;> simp
@[simp] theorem State.goOn_r_lsa (long : Bool) (slot : Nat) (dest : Option DWord) : (s.goOn long f slot dest).w.r.lsa = s.w.r.lsa := by
  unfold State.goOn State.issued; dsimp only; split <;> simp
@[simp] theorem State.goOn_r_lsb (long : Bool) (slot : Nat) (dest : Option DWord) : (s.goOn long f slot dest).w.r.lsb = s.w.r.lsb := by
  unfold State.goOn State.issued; dsimp only; split <;> simp
@[simp] theorem State.goOn_r_cmm (long : Bool) (slot : Nat) (dest : Option DWord) : (s.goOn long f slot dest).w.r.cmm = s.w.r.cmm := by
  unfold State.goOn State.issued; dsimp only; split <;> simp
@[simp] theorem State.goOn_r_next (long : Bool) (slot : Nat) (dest : Option DWord) : (s.goOn long f slot dest).w.r.next = s.w.r.next := by
  unfold State.goOn State.issued; dsimp only; split <;> simp
@[simp] theorem State.goOn_r_pend (long : Bool) (slot : Nat) (dest : Option DWord) : (s.goOn long f slot dest).w.r.pend = s.w.r.pend := by
  unfold State.goOn State.issued; dsimp only; split <;> simp
@[simp] theorem State.goOn_r_bad (long : Bool) (slot : Nat) (dest : Option DWord) : (s.goOn long f slot dest).w.r.bad = s.w.r.bad := by
  unfold State.goOn State.issued; dsimp only; split <;> simp
@[simp] theorem State.goOn_r_ctl (long : Bool) (slot : Nat) (dest : Option DWord) :
    (s.goOn long f slot dest).w.r.ctl = { s.w.r.ctl with arm := s.w.r.ctl.arm.after slot f.len.bytes dest } := by
  unfold State.goOn State.issued; dsimp only; split <;> simp

/-! ### A record: the rings, the package and free values change, no wave -/

@[simp] theorem State.writePa_w (s : State) (slot a n v : Nat) : (s.writePa slot a n v).w = s.w := rfl
@[simp] theorem State.writePa_others (s : State) (slot a n v : Nat) : (s.writePa slot a n v).others = s.others := rfl

/-- A line that leaves the L2 changes no wave. -/
theorem State.l2Leave_waves (s : State) (x : Nat) : (s.l2Leave x).w = s.w ∧ (s.l2Leave x).others = s.others := ⟨rfl, rfl⟩

/-- What hardware passes on its way to memory changes no wave. -/
theorem State.sysPass_waves (s : State) (pa n : Nat) : (s.sysPass pa n).w = s.w ∧ (s.sysPass pa n).others = s.others := by
  unfold State.sysPass
  split
  · rename_i h
    clear h
    generalize sectorsOf pa n = l
    induction l generalizing s with
    | nil => exact ⟨rfl, rfl⟩
    | cons x l ih => exact ih (s.l2Leave x)
  · exact ⟨rfl, rfl⟩

/-- A write of hardware, at once or held for the host, changes no wave. -/
theorem State.sysPut_waves (s : State) (late : Bool) (pa : Nat) (bs : List Byte) :
    (s.sysPut late pa bs).w = s.w ∧ (s.sysPut late pa bs).others = s.others := by
  unfold State.sysPut
  split
  · exact ⟨rfl, rfl⟩
  · exact s.sysPass_waves pa bs.length

theorem ringWrite_waves (s : State) (base : Nat) (ws : List DWord) :
    (ringWrite s base ws).1.w = s.w ∧ (ringWrite s base ws).1.others = s.others := by
  unfold ringWrite
  dsimp only
  split
  · exact ⟨(State.sysPut_waves ..).1.trans (s.sysPass_waves ..).1, (State.sysPut_waves ..).2.trans (s.sysPass_waves ..).2⟩
  · exact ⟨(State.sysPut_waves ..).1.trans ((State.sysPut_waves ..).1.trans (s.sysPass_waves ..).1),
      (State.sysPut_waves ..).2.trans ((State.sysPut_waves ..).2.trans (s.sysPass_waves ..).2)⟩

theorem State.packageRecord_waves (s : State) (r : Record) (n : Word) :
    (s.packageRecord r n).w = s.w ∧ (s.packageRecord r n).others = s.others := by
  unfold State.packageRecord
  split
  · rename_i base _
    have h := ringWrite_waves s base (r.words s.pkg.pkgOvf n s.clock)
    generalize ringWrite s base (r.words s.pkg.pkgOvf n s.clock) = q at h
    obtain ⟨t, drop⟩ := q
    unfold State.errPendSet
    cases drop
    · dsimp only at h ⊢
      simp only [Bool.false_eq_true, if_false]
      split <;> exact h
    · exact h
  · split <;> exact ⟨rfl, rfl⟩

theorem State.contextRecord_waves (s : State) (r : Record) (n : Word) :
    (s.contextRecord r n).w = s.w ∧ (s.contextRecord r n).others = s.others := by
  unfold State.contextRecord
  split
  · exact ⟨rfl, rfl⟩
  · rename_i c _
    have h := ringWrite_waves s c.errRing.toNat (r.words c.ringOvf n s.clock)
    generalize ringWrite s c.errRing.toNat (r.words c.ringOvf n s.clock) = q at h
    exact h

@[simp] theorem State.record_w (s : State) (r : Record) : (s.record r).2.w = s.w := by
  unfold State.record
  dsimp only
  rw [(State.contextRecord_waves ..).1, (State.packageRecord_waves ..).1]
@[simp] theorem State.record_others (s : State) (r : Record) : (s.record r).2.others = s.others := by
  unfold State.record
  dsimp only
  rw [(State.contextRecord_waves ..).2, (State.packageRecord_waves ..).2]
@[simp] theorem State.failAsync_w (s : State) (w : Wave) (g : Nat) (c : BitVec 16) (a d : DWord) : (s.failAsync w g c a d).w = s.w :=
  s.record_w _
@[simp] theorem State.failAsync_others (s : State) (w : Wave) (g : Nat) (c : BitVec 16) (a d : DWord) :
    (s.failAsync w g c a d).others = s.others := s.record_others _

end Sys2Proof.Machine
end

