-- ==== Sys2Proof/Laws/Issue.lean ====
section
/-! SUPPORT. What the issue of an encoded instruction can do, said once: the statements' provers cite these and never unfold `issue`. -/

namespace Sys2Proof.Machine

/-- A one-word operand is the operand read as TY 18. -/
theorem src32_eq (r : Regs) (f : Fields) (spec : BitVec 10) (l : Nat) : src32 r f spec l = srcVal r f 18 spec l := rfl

/-- What `issues` says, condition by condition. -/
theorem issues_iff {sp : Spec} {always : Bool} {f : Fields} {s : State} (h : issues sp always f s = true) :
    s.w.status = .run ∧ s.w.preempted = false ∧ decodeCheck s sp f = none ∧ s.w.waitReady f = true ∧ s.w.waitError f = none ∧
    s.w.flagFull f = false ∧ s.w.aheadHolds sp f = false ∧ s.w.acquires sp = false ∧
    readsBad sp (s.atIssue f).w.r f = false ∧ ((s.atIssue f).heldRegs (s.atIssue f).w).isEmpty = true ∧
    acts always (s.atIssue f).w.r f = true := by
  simp only [issues, Bool.and_eq_true, Bool.not_eq_true', beq_iff_eq, Option.isNone_iff_eq_none] at h
  obtain ⟨⟨⟨⟨⟨⟨⟨⟨⟨⟨h1, h2⟩, h3⟩, h4⟩, h5⟩, h6⟩, h7⟩, h8⟩, h9⟩, h10⟩, h11⟩ := h
  exact ⟨h1, h2, h3, h4, h5, h6, h7, h8, h9, h10, h11⟩

/-- Where the engine holds no register of the wave, an effect runs on the state as it is. -/
theorem withHeld_free {eff : Nat → State → Try} {slot : Nat} {s : State} (h : (s.heldRegs s.w).isEmpty = true) :
    withHeld eff slot s = eff slot s := by
  simp [withHeld, h]

/-- An instruction that issues runs its effect, and what the effect answers decides the next state. -/
theorem issue_eq {sp : Spec} {always : Bool} {i : Instr} {f : Fields} {eff : Nat → State → Try} {s : State}
    (h : issues sp always f s = true) :
    issue sp always i f eff s =
      match eff (issueSlot s f) (s.atIssue f) with
      | .trap c a d => (s.atIssue f).trapBy c a d
      | .trapIn t c a d => t.trapBy c a d
      | .stall t => t.waits
      | .moved t => (s.atIssue f).goOnMoved t sp.long f (issueSlot s f)
      | .ok t dest => t.goOn sp.long f (issueSlot s f) dest := by
  obtain ⟨h1, h2, h3, h4, h5, h6, h7, h8, h9, h10, h11⟩ := issues_iff h
  unfold issue
  simp only [h1, h2, h3, h4, h5, h6, h7, h8, h9, h11, withHeld_free h10, ne_eq, not_true_eq_false, Bool.false_eq_true, or_self,
    if_false, if_true, Bool.not_true, Bool.and_false] <;>
  cases eff (issueSlot s f) (s.atIssue f) <;> rfl

/-- The completion of an instruction whose effect is done at issue. -/
theorem issue_ok {sp : Spec} {always : Bool} {i : Instr} {f : Fields} {eff : Nat → State → Try} {s t : State} {dest : Option DWord}
    (h : issues sp always f s = true) (he : eff (issueSlot s f) (s.atIssue f) = .ok t dest) :
    issue sp always i f eff s = t.goOn sp.long f (issueSlot s f) dest := by
  rw [issue_eq h, he]

/-- The completion of an instruction whose effect sets the control state itself. -/
theorem issue_moved {sp : Spec} {always : Bool} {i : Instr} {f : Fields} {eff : Nat → State → Try} {s t : State}
    (h : issues sp always f s = true) (he : eff (issueSlot s f) (s.atIssue f) = .moved t) :
    issue sp always i f eff s = (s.atIssue f).goOnMoved t sp.long f (issueSlot s f) := by
  rw [issue_eq h, he]

/-- A trap precise at an instruction that has passed its decode checks. -/
theorem issue_trap {sp : Spec} {always : Bool} {i : Instr} {f : Fields} {eff : Nat → State → Try} {s : State} {c : BitVec 16}
    {a d : DWord} (h : issues sp always f s = true) (he : eff (issueSlot s f) (s.atIssue f) = .trap c a d) :
    issue sp always i f eff s = (s.atIssue f).trapBy c a d := by
  rw [issue_eq h, he]

/-- An instruction that fails a decode check traps, with its address and its first 64 bits (R39, R40). -/
theorem issue_decode {sp : Spec} {always : Bool} {i : Instr} {f : Fields} {eff : Nat → State → Try} {s : State} {c : BitVec 16}
    (h1 : s.w.status = .run) (h2 : s.w.preempted = false) (h3 : decodeCheck s sp f = some c) :
    issue sp always i f eff s = s.trapAt c s.pc (instrLow i) (actionOf c) := by
  unfold issue
  simp [h1, h2, h3]

end Sys2Proof.Machine
end

