-- ==== Sys2Proof/Laws/Store.lean ====
section
/-! SUPPORT. Sparse storage: what a write leaves at its key and at every other, and that every write keeps the canonical form. -/

namespace Sys2Proof.Machine

variable {n : Nat}

/-- A key below every listed key is not listed. -/
theorem cget_below {d : BitVec n} : ∀ {c : Cells n} {a : Nat}, (∀ x ∈ c, a < x.1) → cget d c a = d
  | [], _, _ => rfl
  | (k, v) :: cs, a, h => by
    have hk : a < k := h (k, v) (by simp)
    simp [cget, Nat.ne_of_gt hk, cget_below (c := cs) fun x hx => h x (by simp [hx])]

/-- In canonical form every later key is larger. -/
theorem cwf_rising {d : BitVec n} : ∀ {c : Cells n} {k : Nat} {v : BitVec n}, cwf d ((k, v) :: c) = true → ∀ x ∈ c, k < x.1
  | [], _, _, _ => by simp
  | (k', v') :: cs, k, v, h => by
    simp only [cwf, Bool.and_eq_true, decide_eq_true_eq] at h
    obtain ⟨⟨-, hk⟩, h'⟩ := h
    intro x hx
    rcases List.mem_cons.mp hx with rfl | hx
    · exact hk
    · exact Nat.lt_trans hk (cwf_rising (c := cs) (d := d) (k := k') (v := v') (by simpa [cwf] using h') x hx)

/-- The rest of a canonical list is canonical. -/
theorem cwf_tail {d : BitVec n} {c : Cells n} {x : Nat × BitVec n} (h : cwf d (x :: c) = true) : cwf d c = true := by
  obtain ⟨k, v⟩ := x
  cases c <;> simp_all [cwf]

/-- A value in front of a canonical list of larger keys, not the default, makes a canonical list. -/
theorem cwf_cons {d v : BitVec n} {k : Nat} {c : Cells n} (hv : v ≠ d) (hk : ∀ x ∈ c, k < x.1) (hc : cwf d c = true) :
    cwf d ((k, v) :: c) = true := by
  cases c with
  | nil => simp [cwf, hv]
  | cons y cs =>
    obtain ⟨k', v'⟩ := y
    have := hk (k', v') (by simp)
    simp only [cwf, Bool.and_eq_true] at hc ⊢
    simp_all

/-- The value of the first pair of a canonical list is not the default. -/
theorem cwf_value {d v : BitVec n} {k : Nat} {c : Cells n} (h : cwf d ((k, v) :: c) = true) : v ≠ d := by
  simp only [cwf, Bool.and_eq_true, bne_iff_ne] at h
  exact h.1.1

theorem mem_cput {v : BitVec n} : ∀ {c : Cells n} {a : Nat} {x : Nat × BitVec n}, x ∈ cput v c a → x.1 = a ∨ x ∈ c
  | [], _, _, h => by simp_all [cput]
  | (k, w) :: cs, a, x, h => by
    simp only [cput] at h
    split at h
    · rcases List.mem_cons.mp h with rfl | h
      · exact .inl rfl
      · exact .inr h
    · split at h
      · rcases List.mem_cons.mp h with rfl | h
        · exact .inl rfl
        · exact .inr (by simp [h])
      · rcases List.mem_cons.mp h with rfl | h
        · exact .inr (by simp)
        · exact (mem_cput h).imp id fun h => by simp [h]

theorem mem_cdel : ∀ {c : Cells n} {a : Nat} {x : Nat × BitVec n}, x ∈ cdel c a → x ∈ c
  | [], _, _, h => h
  | (k, w) :: cs, a, x, h => by
    simp only [cdel] at h
    split at h
    · simp [h]
    · rcases List.mem_cons.mp h with rfl | h
      · simp
      · simp [mem_cdel h]

theorem cwf_cput {d v : BitVec n} (hv : v ≠ d) : ∀ {c : Cells n} {a : Nat}, cwf d c = true → cwf d (cput v c a) = true
  | [], a, _ => by simp [cput, cwf, hv]
  | (k, w) :: cs, a, h => by
    simp only [cput]
    split
    · rename_i hlt
      exact cwf_cons hv (fun x hx => by
        rcases List.mem_cons.mp hx with rfl | hx
        · exact hlt
        · exact Nat.lt_trans hlt (cwf_rising h x hx)) h
    · split
      · rename_i _ heq
        exact cwf_cons hv (fun x hx => heq ▸ cwf_rising h x hx) (cwf_tail h)
      · rename_i h1 h2
        exact cwf_cons (cwf_value h) (fun x hx => by
          rcases mem_cput hx with hx | hx
          · omega
          · exact cwf_rising h x hx) (cwf_cput hv (cwf_tail h))

theorem cwf_cdel {d : BitVec n} : ∀ {c : Cells n} {a : Nat}, cwf d c = true → cwf d (cdel c a) = true
  | [], _, h => h
  | (k, w) :: cs, a, h => by
    simp only [cdel]
    split
    · exact cwf_tail h
    · exact cwf_cons (cwf_value h) (fun x hx => cwf_rising h x (mem_cdel hx)) (cwf_cdel (cwf_tail h))

/-- A write keeps the canonical form. -/
theorem cwf_cset {d v : BitVec n} {c : Cells n} {a : Nat} (h : cwf d c = true) : cwf d (cset d v c a) = true := by
  unfold cset
  split
  · exact cwf_cdel h
  · exact cwf_cput ‹_› h

/-- A run of writes keeps the canonical form. -/
theorem cwf_csetMany {d : BitVec n} : ∀ {vs : List (BitVec n)} {c : Cells n} {a : Nat}, cwf d c = true → cwf d (csetMany d c a vs) = true
  | [], _, _, h => h
  | v :: vs, c, a, h => by
    simp only [csetMany]
    exact cwf_csetMany (cwf_cset h)

theorem cget_cput_same {d v : BitVec n} : ∀ {c : Cells n} {a : Nat}, cget d (cput v c a) a = v
  | [], a => by simp [cput, cget]
  | (k, w) :: cs, a => by
    simp only [cput]
    split
    · simp [cget]
    · split
      · simp [cget]
      · simp [cget, show ¬k = a by omega, cget_cput_same]

theorem cget_cput_other {d v : BitVec n} : ∀ {c : Cells n} {a b : Nat}, b ≠ a → cget d (cput v c a) b = cget d c b
  | [], a, b, h => by simp [cput, cget, h.symm]
  | (k, w) :: cs, a, b, h => by
    simp only [cput]
    split
    · simp [cget, h.symm]
    · split
      · rename_i _ heq
        simp [cget, h.symm, ← heq]
      · simp only [cget]
        split
        · rfl
        · exact cget_cput_other h

theorem cget_cdel_other {d : BitVec n} : ∀ {c : Cells n} {a b : Nat}, b ≠ a → cget d (cdel c a) b = cget d c b
  | [], _, _, _ => rfl
  | (k, w) :: cs, a, b, h => by
    simp only [cdel]
    split
    · rename_i heq
      simp [cget, heq, h.symm]
    · simp only [cget]
      split
      · rfl
      · exact cget_cdel_other h

theorem cget_cdel_same {d : BitVec n} : ∀ {c : Cells n} {a : Nat}, cwf d c = true → cget d (cdel c a) a = d
  | [], _, _ => rfl
  | (k, w) :: cs, a, h => by
    simp only [cdel]
    split
    · rename_i heq
      exact cget_below fun x hx => heq ▸ cwf_rising h x hx
    · rename_i hne
      simp [cget, hne, cget_cdel_same (cwf_tail h)]

/-- A read of a key just written gives the value written. -/
theorem cget_cset_same {d v : BitVec n} {c : Cells n} {a : Nat} (h : cwf d c = true) : cget d (cset d v c a) a = v := by
  unfold cset
  split
  · rename_i hv
    rw [cget_cdel_same h, hv]
  · exact cget_cput_same

/-- A read of another key gives what it gave, whatever the list's form. -/
theorem cget_cset_other {d v : BitVec n} {c : Cells n} {a b : Nat} (h : b ≠ a) : cget d (cset d v c a) b = cget d c b := by
  unfold cset
  split
  · exact cget_cdel_other h
  · exact cget_cput_other h

/-- A read outside a run of written keys gives what it gave. -/
theorem cget_csetMany_outside {d : BitVec n} : ∀ {vs : List (BitVec n)} {c : Cells n} {a b : Nat}, b < a ∨ a + vs.length ≤ b →
    cget d (csetMany d c a vs) b = cget d c b
  | [], _, _, _, _ => rfl
  | v :: vs, c, a, b, h => by
    simp only [csetMany, List.length_cons] at h ⊢
    rw [cget_csetMany_outside (by omega), cget_cset_other (by omega)]

/-- A read inside a run of written keys gives the value written there. -/
theorem cget_csetMany_inside {d : BitVec n} : ∀ {vs : List (BitVec n)} {c : Cells n} {a i : Nat} {v : BitVec n}, cwf d c = true →
    vs[i]? = some v → cget d (csetMany d c a vs) (a + i) = v
  | [], _, _, _, _, _, h => by simp at h
  | x :: vs, c, a, 0, v, hc, h => by
    simp only [List.getElem?_cons_zero, Option.some.injEq] at h
    simp only [csetMany, Nat.add_zero]
    rw [cget_csetMany_outside (by omega), cget_cset_same hc, h]
  | x :: vs, c, a, i + 1, v, hc, h => by
    simp only [List.getElem?_cons_succ] at h
    simp only [csetMany]
    rw [show a + (i + 1) = a + 1 + i by omega]
    exact cget_csetMany_inside (cwf_cset hc) h

end Sys2Proof.Machine
end

