-- ==== Sys2Proof/Laws/Memory.lean ====
section
/-! SUPPORT. Every operation that writes memory keeps its canonical form, and what a write leaves at each byte. -/

namespace Sys2Proof.Machine

/-- What a fold of steps keeps, where each step keeps it. -/
theorem foldl_keeps {α β : Type} {p : α → Prop} {f : α → β → α} (h : ∀ x y, p x → p (f x y)) : ∀ (l : List β) (x : α), p x → p (l.foldl f x)
  | [], _, hx => hx
  | y :: l, x, hx => foldl_keeps h l (f x y) (h x y hx)

theorem MemSys.rekey_wf {m : MemSys} {free slot sec : Nat} (h : Memory.wf m.mem) : Memory.wf (m.rekey free slot sec).mem := by
  unfold MemSys.rekey
  dsimp only
  split
  · exact h
  · dsimp only
    generalize (List.range 256).map _ = lost
    split
    · exact h
    · exact cwf_csetMany h

/-- A write of memory keeps its form. -/
theorem MemSys.write_wf {m : MemSys} {free slot pa : Nat} {bs : List Byte} (h : Memory.wf m.mem) : Memory.wf (m.write free slot pa bs).mem := by
  unfold MemSys.write
  split
  · exact h
  · dsimp only
    exact cwf_csetMany (foldl_keeps (p := fun m : MemSys => Memory.wf m.mem) (fun _ _ hm => MemSys.rekey_wf hm) _ m h)

theorem State.writePa_wf {s : State} {slot pa n v : Nat} (h : Memory.wf s.m.mem) : Memory.wf (s.writePa slot pa n v).m.mem :=
  MemSys.write_wf h

/-- Discarding lines keeps the form. -/
theorem State.discardLines_wf {s : State} {p : L2Line → Bool} (h : Memory.wf s.m.mem) : Memory.wf (s.discardLines p).m.mem := by
  unfold State.discardLines
  dsimp only
  refine foldl_keeps (p := fun m : MemSys => Memory.wf m.mem) (fun m l hm => ?_) _ s.m h
  refine foldl_keeps (p := fun m : MemSys => Memory.wf m.mem) (fun m i hm => ?_) _ m hm
  generalize (List.range 256).map _ = lost
  split
  · exact cwf_csetMany hm
  · exact hm

/-- Memory after reset lists nothing. -/
theorem State.reset_wf : Memory.wf State.reset.m.mem := rfl

/-- A sector that is open, or already under the slot, keeps its bytes when it is made one of the slot. -/
theorem MemSys.rekey_mem {m : MemSys} {free slot sec : Nat}
    (h : cget 0 m.secKey sec = 0 ∨ (cget 0 m.secKey sec).toNat = slot + 1) : (m.rekey free slot sec).mem = m.mem := by
  unfold MemSys.rekey
  dsimp only
  split
  · rfl
  · rename_i hn
    rcases h with h | h
    · rw [if_pos (by rw [h]; rfl)]
    · exact absurd (.inr h) hn

/-- Making a sector one of a slot leaves every byte outside the sector. -/
theorem MemSys.rekey_outside {m : MemSys} {free slot sec a : Nat} (h : a / 256 ≠ sec) :
    cget 0 (m.rekey free slot sec).mem a = cget 0 m.mem a := by
  unfold MemSys.rekey
  dsimp only
  split
  · rfl
  · have hl : ((List.range 256).map fun i => (Config.freeByte (free * 2 ^ 56 + sec * 256 + i) : Byte)).length = 256 := by
      rw [List.length_map, List.length_range]
    revert hl
    generalize (List.range 256).map _ = lost
    intro hl
    split
    · rfl
    · exact cget_csetMany_outside (by omega)

end Sys2Proof.Machine
end

