-- ==== Sys2Proof/Tests/Slice0.lean ====
section
/-! SUPPORT. Tests: well-formedness, words of the spec, single steps worked out by hand, and for every statement with hypotheses a
witness that they can be met. -/

namespace Sys2Proof.Tests
open Sys2Proof.Machine

-- One theorem at a time: each evaluates a machine in the kernel.
set_option Elab.async false

/-- The machine with one wave about to issue, alone on core 0 (log 8). -/
def base : State := State.reset.boot

/-- Operands of a 64-bit instruction word without a flag. -/
def fab (ty d a b : Nat) : Fields :=
  { Fields.plain .l64 with setf := 15, ty := BitVec.ofNat 6 ty, d := BitVec.ofNat 10 d, a := BitVec.ofNat 10 a, b := BitVec.ofNat 10 b }
/-- Operands of a 96-bit word without a flag. -/
def fabc (ty d a b c x : Nat) : Fields := { fab ty d a b with len := .l96, c := BitVec.ofNat 10 c, x := BitVec.ofNat 12 x }
/-- The same of a 128-bit word. -/
def fimm (ty d a b c x imm : Nat) : Fields := { fabc ty d a b c x with len := .l128, imm := BitVec.ofNat 32 imm }
/-- The same with flag 0. -/
def withFlag (f : Fields) : Fields := { f with setf := 0 }

/-- Every pair of a description and operands issues with its own effect. -/
def allIssue (s : State) (always : Bool) (l : List (Spec × Fields)) : Bool := l.all fun x => issues x.1 always x.2 s

/-! ### Words written out from R20 and R36

Every word has LEN 2, UNI 1, DIST 5, PRED 9, SETF 3, D 0x155, WAIT 0xA5A, A 0x2AB, B 0x1CD, C 0x333, TY 0x2A, MOD 6, IMM32 0xDEADBEEF. -/

/-- The decoder reads from each word the constructor, its X and those fields. -/
def reads128 (l : List (Nat × Nat × (Fields → Instr))) : Bool := l.all fun (w, x, c) =>
  decode (bytesOf 16 (BitVec.ofNat 128 w)) == some (c {
    len := .l128, uni := true, dist := 5, pred := 9, setf := 3, d := 0x155, wait := 0xA5A, a := 0x2AB, b := 0x1CD, c := 0x333, ty := 0x2A, mod := 6, x := BitVec.ofNat 12 x, imm := 0xDEADBEEF }, [])

theorem test_words_control_and_system : reads128 [
  (0xDEADBEEF8C06AB33736ABA5A554E6806, 0x8C0, .nop), (0xDEADBEEF8C06AB33736ABA5A554E680E, 0x8C0, .endWave),
  (0xDEADBEEF8C06AB33736ABA5A554E6816, 0x8C0, .br), (0xDEADBEEF8C06AB33736ABA5A554E681E, 0x8C0, .bc),
  (0xDEADBEEF8C06AB33736ABA5A554E6826, 0x8C0, .bu), (0xDEADBEEF8C06AB33736ABA5A554E682E, 0x8C0, .call),
  (0xDEADBEEF8C06AB33736ABA5A554E6836, 0x8C0, .ret), (0xDEADBEEF8C06AB33736ABA5A554E683E, 0x8C0, .jtab),
  (0xDEADBEEF8C06AB33736ABA5A554E6846, 0x8C0, .loop), (0xDEADBEEF8C06AB33736ABA5A554E684E, 0x8C0, .brk),
  (0xDEADBEEF8C06AB33736ABA5A554E6856, 0x8C0, .full), (0xDEADBEEF8C06AB33736ABA5A554E685E, 0x8C0, .endfull),
  (0xDEADBEEF8C06AB33736ABA5A554E6866, 0x8C0, .yield), (0xDEADBEEF8C06AB33736ABA5A554E686E, 0x8C0, .cbr),
  (0xDEADBEEF8C06AB33736ABA5A554E6876, 0x8C0, .cmjoin), (0xDEADBEEF8C06AB33736ABA5A554E687E, 0x8C0, .cmleave),
  (0xDEADBEEF8C06AB33736ABA5A554E6886, 0x8C0, .trap), (0xDEADBEEF4C06AB33736ABA5A554E6886, 0x4C0, .trapRd),
  (0xDEADBEEF8C06AB33736ABA5A554E688E, 0x8C0, .rteRetry), (0xDEADBEEF8C16AB33736ABA5A554E688E, 0x8C1, .rteSkip),
  (0xDEADBEEF8C26AB33736ABA5A554E688E, 0x8C2, .rteEnd), (0xDEADBEEF8C36AB33736ABA5A554E688E, 0x8C3, .rteTo),
  (0xDEADBEEF8C06AB33736ABA5A554E68A6, 0x8C0, .bkpt), (0xDEADBEEF8C06AB33736ABA5A554E6896, 0x8C0, .sget),
  (0xDEADBEEF8C06AB33736ABA5A554E689E, 0x8C0, .sset), (0xDEADBEEF8C06AB33736ABA5A554E68AE, 0x8C0, .waitFlag),
  (0xDEADBEEF8C06AB33736ABA5A554E68B6, 0x8C0, .lsclStep), (0xDEADBEEF8C16AB33736ABA5A554E68B6, 0x8C1, .lsclGet),
  (0xDEADBEEF8C26AB33736ABA5A554E68B6, 0x8C2, .lsclSet), (0xDEADBEEF8C36AB33736ABA5A554E68B6, 0x8C3, .lsclRdst),
  (0xDEADBEEF8C46AB33736ABA5A554E68B6, 0x8C4, .lsclClrst), (0xDEADBEEF8C56AB33736ABA5A554E68B6, 0x8C5, .lsclMode)] = true := by decide +kernel

theorem test_words_integer : reads128 [
  (0xDEADBEEF8C06AB33736ABA5A554E6906, 0x8C0, .add), (0xDEADBEEF8C06AB33736ABA5A554E690E, 0x8C0, .sub),
  (0xDEADBEEF8C06AB33736ABA5A554E6916, 0x8C0, .mul), (0xDEADBEEF8C06AB33736ABA5A554E691E, 0x8C0, .mulhi),
  (0xDEADBEEF8C06AB33736ABA5A554E6926, 0x8C0, .mad), (0xDEADBEEF8C06AB33736ABA5A554E692E, 0x8C0, .min),
  (0xDEADBEEF8C06AB33736ABA5A554E6936, 0x8C0, .max), (0xDEADBEEF8C06AB33736ABA5A554E693E, 0x8C0, .abs),
  (0xDEADBEEF8C06AB33736ABA5A554E6946, 0x8C0, .andB), (0xDEADBEEF8C06AB33736ABA5A554E694E, 0x8C0, .orB),
  (0xDEADBEEF8C06AB33736ABA5A554E6956, 0x8C0, .xorB), (0xDEADBEEF8C06AB33736ABA5A554E695E, 0x8C0, .notB),
  (0xDEADBEEF8C06AB33736ABA5A554E6966, 0x8C0, .shl), (0xDEADBEEF8C06AB33736ABA5A554E696E, 0x8C0, .shr),
  (0xDEADBEEF8C06AB33736ABA5A554E6976, 0x8C0, .sra), (0xDEADBEEF8C06AB33736ABA5A554E697E, 0x8C0, .rot),
  (0xDEADBEEF8C06AB33736ABA5A554E6986, 0x8C0, .clz), (0xDEADBEEF8C06AB33736ABA5A554E698E, 0x8C0, .popc),
  (0xDEADBEEF8C06AB33736ABA5A554E6996, 0x8C0, .brev), (0xDEADBEEF8C06AB33736ABA5A554E699E, 0x8C0, .bfe),
  (0xDEADBEEF8C06AB33736ABA5A554E69A6, 0x8C0, .bfi), (0xDEADBEEF8C06AB33736ABA5A554E69AE, 0x8C0, .sel),
  (0xDEADBEEF8C06AB33736ABA5A554E69B6, 0x8C0, .cmp), (0xDEADBEEF8C06AB33736ABA5A554E69BE, 0x8C0, .mov),
  (0xDEADBEEF8C06AB33736ABA5A554E69C6, 0x8C0, .movi), (0xDEADBEEF8C06AB33736ABA5A554E69CE, 0x8C0, .lea),
  (0xDEADBEEF8C06AB33736ABA5A554E69D6, 0x8C0, .addw)] = true := by decide +kernel

theorem test_words_floating_point_and_lane : reads128 [
  (0xDEADBEEF8C06AB33736ABA5A554E6A06, 0x8C0, .fadd), (0xDEADBEEF8C06AB33736ABA5A554E6A0E, 0x8C0, .fsub),
  (0xDEADBEEF8C06AB33736ABA5A554E6A16, 0x8C0, .fmul), (0xDEADBEEF8C06AB33736ABA5A554E6A1E, 0x8C0, .ffma),
  (0xDEADBEEF8C06AB33736ABA5A554E6A26, 0x8C0, .fmin), (0xDEADBEEF8C06AB33736ABA5A554E6A2E, 0x8C0, .fmax),
  (0xDEADBEEF8C06AB33736ABA5A554E6A36, 0x8C0, .fcmp), (0xDEADBEEF8C06AB33736ABA5A554E6A3E, 0x8C0, .fclass),
  (0xDEADBEEF8C06AB33736ABA5A554E6A46, 0x8C0, .frnd), (0xDEADBEEF8C06AB33736ABA5A554E6A4E, 0x8C0, .fdiv),
  (0xDEADBEEF8C06AB33736ABA5A554E6A56, 0x8C0, .fsqrt), (0xDEADBEEF8C06AB33736ABA5A554E6A5E, 0x8C0, .frcp),
  (0xDEADBEEF8C06AB33736ABA5A554E6A66, 0x8C0, .frsq), (0xDEADBEEF8C06AB33736ABA5A554E6A6E, 0x8C0, .fexp2),
  (0xDEADBEEF8C06AB33736ABA5A554E6A76, 0x8C0, .flog2), (0xDEADBEEF8C06AB33736ABA5A554E6A7E, 0x8C0, .fsin),
  (0xDEADBEEF8C06AB33736ABA5A554E6A86, 0x8C0, .fcos), (0xDEADBEEF8C06AB33736ABA5A554E6A8E, 0x8C0, .cvt),
  (0xDEADBEEF8C06AB33736ABA5A554E6A96, 0x8C0, .fscl), (0xDEADBEEF8C06AB33736ABA5A554E6A9E, 0x8C0, .vopt),
  (0xDEADBEEF8C06AB33736ABA5A554E6AA6, 0x8C0, .rngDraw), (0xDEADBEEF8C16AB33736ABA5A554E6AA6, 0x8C1, .rngSetc),
  (0xDEADBEEF8C26AB33736ABA5A554E6AA6, 0x8C2, .rngGetc), (0xDEADBEEF8C06AB33736ABA5A554E6AAE, 0x8C0, .vote),
  (0xDEADBEEF8C06AB33736ABA5A554E6AB6, 0x8C0, .shfl), (0xDEADBEEF8C06AB33736ABA5A554E6ABE, 0x8C0, .wred),
  (0xDEADBEEF8C06AB33736ABA5A554E6AC6, 0x8C0, .pset), (0xDEADBEEF8C06AB33736ABA5A554E6ACE, 0x8C0, .pop)] = true := by decide +kernel

theorem test_words_memory : reads128 [
  (0xDEADBEEF8C06AB33736ABA5A554E6B06, 0x8C0, .ld), (0xDEADBEEF8C06AB33736ABA5A554E6B0E, 0x8C0, .st),
  (0xDEADBEEF8C06AB33736ABA5A554E6B16, 0x8C0, .ldsp), (0xDEADBEEF8C06AB33736ABA5A554E6B1E, 0x8C0, .stsp),
  (0xDEADBEEF8C06AB33736ABA5A554E6B26, 0x8C0, .ldlit), (0xDEADBEEF8C06AB33736ABA5A554E6B2E, 0x8C0, .atom),
  (0xDEADBEEF8C06AB33736ABA5A554E6B36, 0x8C0, .atomr), (0xDEADBEEF8C06AB33736ABA5A554E6B3E, 0x8C0, .red),
  (0xDEADBEEF8C06AB33736ABA5A554E6B7E, 0x8C0, .spatom), (0xDEADBEEF8C06AB33736ABA5A554E6B46, 0x8C0, .pf),
  (0xDEADBEEF8C06AB33736ABA5A554E6B4E, 0x8C0, .cinv), (0xDEADBEEF8C16AB33736ABA5A554E6B4E, 0x8C1, .cinvSector),
  (0xDEADBEEF8C06AB33736ABA5A554E6B56, 0x8C0, .cwb), (0xDEADBEEF8C16AB33736ABA5A554E6B56, 0x8C1, .cwbInv),
  (0xDEADBEEF8C26AB33736ABA5A554E6B56, 0x8C2, .cwbCtx), (0xDEADBEEF8C06AB33736ABA5A554E6B5E, 0x8C0, .fence),
  (0xDEADBEEF8C06AB33736ABA5A554E6B66, 0x8C0, .bar), (0xDEADBEEF8C06AB33736ABA5A554E6B6E, 0x8C0, .bara),
  (0xDEADBEEF8C06AB33736ABA5A554E6B76, 0x8C0, .barw), (0xDEADBEEF8C06AB33736ABA5A554E6BA6, 0x8C0, .cinit),
  (0xDEADBEEF8C06AB33736ABA5A554E6B86, 0x8C0, .carr), (0xDEADBEEF8C06AB33736ABA5A554E6B8E, 0x8C0, .cexp),
  (0xDEADBEEF8C06AB33736ABA5A554E6B96, 0x8C0, .cwait), (0xDEADBEEF8C06AB33736ABA5A554E6B9E, 0x8C0, .ctest)] = true := by decide +kernel

theorem test_words_transfer_and_matrix : reads128 [
  (0xDEADBEEF8C06AB33736ABA5A554E6C06, 0x8C0, .cpy), (0xDEADBEEF8C06AB33736ABA5A554E6C0E, 0x8C0, .cpys),
  (0xDEADBEEF8C06AB33736ABA5A554E6C16, 0x8C0, .cpym), (0xDEADBEEF8C06AB33736ABA5A554E6C1E, 0x8C0, .qclaim),
  (0xDEADBEEF8C06AB33736ABA5A554E6C26, 0x8C0, .qpost), (0xDEADBEEF8C06AB33736ABA5A554E6C2E, 0x8C0, .accld),
  (0xDEADBEEF8C06AB33736ABA5A554E6C36, 0x8C0, .accst), (0xDEADBEEF8C06AB33736ABA5A554E6C3E, 0x8C0, .aread),
  (0xDEADBEEF8C06AB33736ABA5A554E6C46, 0x8C0, .awrite), (0xDEADBEEF8C06AB33736ABA5A554E6C96, 0x8C0, .mzero),
  (0xDEADBEEF8C06AB33736ABA5A554E6CB6, 0x8C0, .mfmt), (0xDEADBEEF8C06AB33736ABA5A554E6C8E, 0x8C0, .mrdy),
  (0xDEADBEEF8C06AB33736ABA5A554E6CAE, 0x8C0, .mbank), (0xDEADBEEF8C06AB33736ABA5A554E6C86, 0x8C0, .mloop),
  (0xDEADBEEF8C06AB33736ABA5A554E6C9E, 0x8C0, .mdrn), (0xDEADBEEF8C06AB33736ABA5A554E6CA6, 0x8C0, .mdrnn),
  (0xDEADBEEF8C06AB33736ABA5A554E6CBE, 0x8C0, .mstat)] = true := by decide +kernel

theorem test_words_grid_and_reduction : reads128 [
  (0xDEADBEEF8C06AB33736ABA5A554E6D06, 0x8C0, .gbind), (0xDEADBEEF8C86AB33736ABA5A554E6D06, 0x8C8, .gbindUnbind),
  (0xDEADBEEF8C06AB33736ABA5A554E6D0E, 0x8C0, .gld), (0xDEADBEEF8C06AB33736ABA5A554E6D16, 0x8C0, .gsc),
  (0xDEADBEEF8C06AB33736ABA5A554E6D1E, 0x8C0, .ghash), (0xDEADBEEF8C06AB33736ABA5A554E6D86, 0x8C0, .ctb),
  (0xDEADBEEF8C06AB33736ABA5A554E6D8E, 0x8C0, .ctbn), (0xDEADBEEF8C06AB33736ABA5A554E6D96, 0x8C0, .ropen),
  (0xDEADBEEF8C06AB33736ABA5A554E6D9E, 0x8C0, .rclose), (0xDEADBEEF8C06AB33736ABA5A554E6DA6, 0x8C0, .rstat),
  (0xDEADBEEF8C06AB33736ABA5A554E6DAE, 0x8C0, .coll), (0xDEADBEEF8C06AB33736ABA5A554E6DB6, 0x8C0, .collx)] = true := by decide +kernel

theorem test_words_privileged : reads128 [
  (0xDEADBEEF8C06AB33736ABA5A554E6E26, 0x8C0, .halt), (0xDEADBEEF8C06AB33736ABA5A554E6E06, 0x8C0, .csave),
  (0xDEADBEEF8C06AB33736ABA5A554E6E0E, 0x8C0, .crest), (0xDEADBEEF8C06AB33736ABA5A554E6E16, 0x8C0, .tlbiVa),
  (0xDEADBEEF8C16AB33736ABA5A554E6E16, 0x8C1, .tlbiCtx), (0xDEADBEEF8C26AB33736ABA5A554E6E16, 0x8C2, .tlbiAll),
  (0xDEADBEEF8C06AB33736ABA5A554E6E1E, 0x8C0, .pmsetBudget), (0xDEADBEEF8C16AB33736ABA5A554E6E1E, 0x8C1, .pmsetRead),
  (0xDEADBEEF8C06AB33736ABA5A554E6E2E, 0x8C0, .esig)] = true := by decide +kernel

/-! ### Well-formedness: a term that each check refuses -/

theorem test_wf_c_needs_96_bits : (Instr.add { fab 0 4 5 6 with c := 1 }).wf = false := by decide +kernel
theorem test_wf_type_is_implied : (Instr.fadd { fab 8 4 5 6 with ty := 9 }).wf = false ∧ (Instr.ld (fab 0 4 5 6)).wf = false := by decide +kernel
theorem test_wf_mod_needs_96_bits : (Instr.fadd { fab 8 4 5 6 with mod := 1 }).wf = false := by decide +kernel
theorem test_wf_x_needs_96_bits : (Instr.fadd { fab 8 4 5 6 with x := 1 }).wf = false := by decide +kernel
theorem test_wf_imm_needs_128_bits :
    (Instr.fadd { fab 8 4 5 6 with imm := 1 }).wf = false ∧ (Instr.fadd { fabc 8 4 5 6 0 0 with imm := 1 }).wf = false := by decide +kernel
/-- X of another form of the same OP. -/
theorem test_wf_sub_operation : let f := fun x => fabc 0 0 0 0 0 x
    [Instr.trap (f 0x400), .trapRd (f 0), .rteRetry (f 1), .rteSkip (f 0), .rteEnd (f 1), .rteTo (f 0), .rngDraw (f 1), .rngSetc (f 2),
     .rngGetc (f 1), .lsclStep (f 5), .lsclGet (f 2), .lsclSet (f 1), .lsclRdst (f 0), .lsclClrst (f 3), .lsclMode (f 0), .cinv (f 1),
     .cinvSector (f 0), .cwb (f 1), .cwbInv (f 2), .cwbCtx (f 0), .gbind (f 8), .gbindUnbind (f 0), .tlbiVa (f 1), .tlbiCtx (f 2),
     .tlbiAll (f 0), .pmsetBudget (f 1), .pmsetRead (f 0)].all (fun i => !i.wf) = true := by decide +kernel
theorem test_wf_reserved_word : (Instr.reservedOp 0).wf = false ∧ (Instr.reservedOp 0x100000003).wf = false ∧
    (Instr.reservedOp 0x4795C503).wf = true := by decide +kernel
theorem test_wf_nop_of_zeros : (Instr.nop { Fields.plain .l64 with pred := 0 }).wf = false ∧ Instr.allZeroWord.wf = true := by decide +kernel
theorem test_wf_event : (Instr.thermalTrip).wf = false ∧ (Instr.pageWalk 3).wf = false := by decide +kernel

/-! ### Steps, their results worked out by hand -/

/-- The wave after one step from reset with a word placed where it is fetched. -/
def afterWord (i : Instr) : Option Wave :=
  match i.bits with
  | none => none
  | some w => match step (State.reset.withFetchWord 128 w.toNat) with | .next t => some t.w | _ => none

/-- R304 with an offset of -2 words from 0x10040. -/
theorem test_step_br_back : (afterWord (.br { Fields.plain .l64 with setf := 15, d := 0x3FE, a := 0x3FF, b := 0x3FF })).map (·.r.ctl.arm.pc) =
    some 0x10038 := by decide +kernel
/-- 2^32 - 1 + 2 is 1 in a u32: -1 is constant 655, 2 is 658 (R30). -/
theorem test_step_add_wraps : (afterWord (.add { fab 0 260 655 658 with uni := true })).map (fun w => w.r.pend.map (·.wrs)) =
    some [[Wr.s 4 1]] := by decide +kernel
/-- A word of zeros traps: the wave, which has no handler, parks (R24, R41). -/
theorem test_step_zero_word : (afterWord .allZeroWord).map (fun w => w.status != .run) = some true := by decide +kernel

/-! ### Witnesses: registers

Each shows concrete states and operands that meet the hypotheses of a statement's clauses. -/

theorem witness_IntegerGroupWrites : allIssue base false
    ([intSpec tys07 true true false, intSpec tys07 false true false].map (·, fab 0 4 5 6) ++
     [(intSpec [0, 1, 2, 3] false true false, fab 3 4 6 8), (intSpec tys07 true true true, fabc 0 4 5 6 7 0),
      (intSpec [0, 2, 4, 6] true false false, fab 6 4 5 0), (intSpec tysBits false true false, fab 20 4 8 12),
      (intSpec tysBits false false false, fab 16 4 5 0), (intSpec tysWord false false false, fab 2 4 6 0), (shiftSpec, fab 3 4 6 8),
      (bfeSpec, fab 0 4 5 6), (bfiSpec (fabc 1 4 5 6 7 0), fabc 1 4 5 6 7 0)]) = true := by decide +kernel

theorem witness_SelectCompareAndMove : allIssue base false
    ([fabc 0 4 5 6 721 0, { fabc 0 260 261 5 262 0 with uni := true, b := 263 }].map (fun f => (selSpec f, f)) ++
     [fabc 2 721 4 6 0 5, { fabc 0 260 261 656 0 0 with uni := true }, fabc 0 4 5 6 0 0].map (fun f => (cmpSpec f, f)) ++
     [(movSpec, fab 0 4 5 0), (movSpec, fab 0 720 5 0), (movSpec, fab 19 260 720 0), (moviSpec, fimm 18 4 0 0 0 0 7),
      (moviSpec, fimm 19 260 0 0 0 1 7), (addwSpec, fab 0 4 260 5)] ++
     [fabc 0 4 256 0 5 0, fabc 0 4 256 0 5 1].map (fun f => (leaSpec f, f)) ++
     ([0, 1, 8].map fun x => (sgetSpec (fabc 0 4 0 0 0 x), fabc 0 4 0 0 0 x)) ++
     [(sgetSpec (fabc 0 260 0 0 0 8), fabc 0 260 0 0 0 8), (ssetSpec (fabc 0 0 260 0 0 5), fabc 0 0 260 0 0 5),
      (ssetSpec (fabc 0 0 260 0 0 8), fabc 0 0 260 0 0 8)]) = true := by decide +kernel

theorem witness_FloatShortGroup : allIssue base false
    ([(fpSpec 15 false true false, fab 8 4 5 6), (fpSpec 15 false true false, { fab 8 260 261 262 with uni := true }),
      (fpSpec 15 false true true, fabc 10 4 5 6 7 0), (fpSpec 8 false true false, fab 12 4 5 6), (fpSpec 11 false false false, fab 8 4 5 0)] ++
     ([0, 7].map fun x => (fcmpSpec (fabc 8 720 5 6 0 x), fabc 8 720 5 6 0 x)) ++
     [(fcmpSpec (fab 8 4 5 6), fab 8 4 5 6), (fclassSpec (fabc 8 720 5 0 0 511), fabc 8 720 5 0 0 511), (fclassSpec (fab 8 4 5 0), fab 8 4 5 0),
      (cvtSpec (fab 8 4 5 0), fab 8 4 5 0), (fsclSpec (fab 8 4 5 6), fab 8 4 5 6)]) = true := by decide +kernel

theorem witness_FloatLongProduces :
    allIssue base false [(fpSpec 15 true true false, withFlag (fab 8 4 5 6)), (fpSpec 15 true false false, withFlag (fab 8 4 5 0))] = true ∧
    (let f := withFlag (fabc 8 4 5 6 7 4)
     issues (voptSpec f) false f base = true ∧
     srcBad (base.atIssue f).w.r 10 allLanes (BitVec.ofNat 10 (256 + f.x.toNat % 512)) = false) ∧
    (let f := withFlag (fabc 8 4 5 6 7 4)
     let s := base.withR fun r => { r with bad := [2 ^ 20 + 13] }
     issues (voptSpec f) false f s = true ∧
     srcBad (s.atIssue f).w.r 10 allLanes (BitVec.ofNat 10 (256 + f.x.toNat % 512)) = true) := by decide +kernel

/-- A wave with lanes active. -/
def emAt (s : State) (em : Nat) : State := s.withArm fun a => { a with em := BitVec.ofNat 64 em }

theorem witness_LaneInstructionsWrite :
    allIssue base false ([(voteSpec, withFlag (fabc 8 721 720 0 0 0)), (voteSpec, withFlag (fabc 8 260 720 0 0 2)),
      (wredSpec (withFlag (fab 8 4 5 0)), withFlag (fab 8 4 5 0)), (wredSpec (withFlag (fab 0 260 5 0)), withFlag (fab 0 260 5 0))] ++
      ([fabc 8 721 720 722 0 0, fabc 8 721 720 0 0 5].map fun f => (psetSpec f, f)) ++
      ([fabc 8 260 720 0 0 0, fabc 8 4 720 0 0 3].map fun f => (popSpec, f))) = true ∧
    (let f := withFlag (fab 8 4 5 656)
     issues (shflSpec f) false f base = true ∧ ((base.atIssue f).lanes f).any (fun l =>
       srcBad (base.atIssue f).w.r (tyRegs 8) (1#64 <<< shflSrc f.x.toNat l ((base.atIssue f).srcB f 18 l)) f.a) = false) ∧
    (let f := withFlag (fabc 8 260 720 0 0 1)
     let g := withFlag (fab 0 260 5 0)
     let s := emAt base 0
     issues voteSpec (writesOnce f) f s = true ∧ issues (wredSpec g) (writesOnce g) g s = true) := by decide +kernel

/-- A loss-scale pair in s4 and s5. -/
def lsAt (a b : Nat) : State := base.withR fun r => { r with s := cput (BitVec.ofNat 32 a) (cput (BitVec.ofNat 32 b) r.s 5) 4 }

theorem witness_GeneratorAndLossScale :
    allIssue base false [(rngDrawSpec, fabc 1 4 656 0 0 0), (rngSetcSpec, fabc 1 0 656 0 0 1), (rngGetcSpec, fabc 1 4 0 0 0 2),
      (lsclGetSpec, fabc 0 260 0 0 0 1), (lsclRdstSpec, fabc 0 260 0 0 0 3), (lsclClrstSpec, fabc 0 0 0 656 0 4),
      (lsclModeSpec, fabc 0 0 0 656 0 5)] = true ∧
    (let f := fabc 0 0 260 0 0 2
     let pair := fun (s : State) => (BitVec.ofNat 32 (s.srcA f 19 0), BitVec.ofNat 32 (s.srcA f 19 0 / 2 ^ 32))
     let ok := fun (s : State) => issues lsclSetSpec false f s && lsOk (pair (s.atIssue f)).1 (pair (s.atIssue f)).2
     let bad := fun (s : State) => issues lsclSetSpec false f s && !lsOk (pair (s.atIssue f)).1 (pair (s.atIssue f)).2
     ok (lsAt 0x10000100 0x00020000) = true ∧ ok (lsAt 0x7F828200 0x00020002) = true ∧
     bad (lsAt 0x7F828100 0) = true ∧ bad (lsAt 0x10000100 0x00020003) = true) := by decide +kernel

/-! ### Witnesses: control flow -/

/-- A fetch that answers. -/
def reads (s : State) (ea : DWord) : Bool := match s.iread ea with | .ok _ _ => true | _ => false

/-- The bytes at an address are fetched as a number. -/
def word4 (s : State) (ea : DWord) : Nat := match s.iread ea with | .ok bs _ => ofBytes (bs.take 4) | _ => 0

/-- A 64 KiB kernel whose first 32 bytes stand in the instruction cache: a word of zeros. -/
def codeAt (w : Nat) : State :=
  (base.withW fun x => { x with k := { x.k with codeSize := 0xFFC0 } }).placeCode (bytesOf 16 (BitVec.ofNat 128 w))

/-- A control instruction of a length, its fields d, a and b holding an offset in words. -/
def ctl (l : Len) (x off : Nat) : Fields :=
  { Fields.plain l with setf := 15, x := BitVec.ofNat 12 x, d := BitVec.ofNat 10 off }

theorem witness_JumpsAndWaits :
    allIssue base false [(nopSpec, fab 0 0 0 0), (yieldSpec, fab 0 0 656 0)] = true ∧
    (∀ f ∈ [fabc 0 0 656 0 0 0, fabc 0 0 703 0 0 11], issues waitFlagSpec false f base = true ∧
      (base.atIssue f).w.count f.x.toNat ≤ (base.atIssue f).srcA f 18 0 ∧ (base.atIssue f).w.errOf f.x.toNat = none) ∧
    issues callSpec true { ctl .l96 0 4 with c := 260 } base = true ∧
    (let f := { ctl .l64 0 0 with a := 260 }
     issues retSpec true f base = true ∧ (BitVec.ofNat 64 ((base.atIssue f).srcA f 19 0)).toNat % 4 = 0) ∧
    (∀ x ∈ [0, 4], let f := { ctl .l96 x 4 with c := 656 + BitVec.ofNat 10 x }
     issues jtabSpec true f base = true ∧ f.x.toNat ≤ (base.atIssue f).srcC f 18 0) ∧
    (∀ c ∈ [656, 659], let f := { ctl .l96 4 4 with c := c }
     let e := (codeAt 0).atIssue f
     issues jtabSpec true f (codeAt 0) = true ∧ e.srcC f 18 0 < f.x.toNat ∧
     e.w.k.outside (e.target f + BitVec.ofNat 64 (4 * e.srcC f 18 0)) 4 = false ∧
     reads e (e.target f + BitVec.ofNat 64 (4 * e.srcC f 18 0)) = true ∧
     (e.target f + BitVec.ofInt 64 (sext 32 (word4 e (e.target f + BitVec.ofNat 64 (4 * e.srcC f 18 0))))).toNat % 4 = 0) := by
  decide +kernel

/-- The guard is lane 0 alone, in p1. -/
def guarded : State := base.withR fun r => { r with p := [(1, 1)] }

/-- Inside a full region, so that a branch is serialised, with n divergences open. -/
def serial (n : Nat) : State := guarded.withCtl fun c =>
  let x : DivEntry := { j := 0x10100, fpc := 0x10080, fmask := 1, rmask := 3, la0 := false, la1 := false, fdone := false }
  { c with full := [{ em := allLanes, depth := 0, taken := false }], arm := { c.arm with stack := List.replicate n x } }

theorem witness_BranchDiverges :
    let f : Fields := { ctl .l128 0 8 with pred := 1, imm := 0x40 }
    let fall := fun (s : State) => s.w.r.em &&& ~~~ guardMask s.w.r f
    let take := fun (s : State) => activeMask s.w.r f
    let dual := fun (s : State) => s.w.r.ctl.other = none ∧ s.w.r.ctl.full = []
    (∀ s ∈ [emAt guarded 1, emAt guarded 2, guarded, serial 15], issues bcSpec true f s = true) ∧
    fall ((emAt guarded 1).atIssue f) = 0 ∧ fall ((emAt guarded 2).atIssue f) ≠ 0 ∧ take ((emAt guarded 2).atIssue f) = 0 ∧
    fall (guarded.atIssue f) ≠ 0 ∧ take (guarded.atIssue f) ≠ 0 ∧ dual (guarded.atIssue f) ∧
    fall ((serial 15).atIssue f) ≠ 0 ∧ take ((serial 15).atIssue f) ≠ 0 ∧ ¬dual ((serial 15).atIssue f) ∧
    ((serial 15).atIssue f).w.r.ctl.arm.stack.length < 16 := by decide +kernel

/-- A wave with its two arms: the other one's em is `o`, and each may stand at the join. -/
def twoArms (own other : DWord) (s : State) : State := s.withCtl fun c =>
  { c with arm := { c.arm with pc := own, em := 1 }, other := some { c.arm with taken := true, pc := other, em := 2 }, join := 0x10100 }

/-- Both counters active, at START 0x10044 and END 0x10040. -/
def looping (cnt : Nat) : State := (codeAt 0).withArm fun a =>
  let l : LoopRec := { active := true, cnt := BitVec.ofNat 32 cnt, start := 0x10044, stop := 0x10040 }
  { a with lp0 := l, lp1 := l }

/-- The same with an open divergence that locks them. -/
def lockedLoops : State := (looping 2).withArm fun a =>
  { a with stack := [{ j := 0x10100, fpc := 0x10080, fmask := 1, rmask := 3, la0 := true, la1 := true, fdone := false }] }

theorem witness_RegionsAndLoops :
    (let f := ctl .l64 0 0
     issues endWaveSpec true f base = true ∧ issues endWaveSpec true f (emAt base 1) = true ∧
     ((emAt base 1).atIssue f).w.r.ctl.live &&& ~~~ ((emAt base 1).atIssue f).w.r.ctl.arm.em ≠ 0 ∧
     (base.atIssue f).w.r.ctl.live &&& ~~~ (base.atIssue f).w.r.ctl.arm.em = 0 ∧ (base.atIssue f).endWaits = false ∧
     issues (ctlSpec 1) true f base = true ∧ (base.atIssue f).w.r.ctl.full.length < 4 ∧ (base.atIssue f).w.r.ctl.fullWaits = false ∧
     issues (ctlSpec 1) true f (serial 0) = true ∧ ((serial 0).atIssue f).w.r.ctl.full.map (·.depth) = [((serial 0).atIssue f).w.r.ctl.arm.stack.length] ∧
     (∀ s ∈ [base, (serial 0).withArm fun a => { a with stack := (serial 1).w.r.ctl.arm.stack }], issues (ctlSpec 1) true f s = true ∧
       ∀ e ∈ (s.atIssue f).w.r.ctl.full.head?.toList, e.depth ≠ (s.atIssue f).w.r.ctl.arm.stack.length) ∧
     (let s := (serial 0).withCtl fun c => { c with full := List.replicate 4 { em := 1, depth := 0, taken := false } }
      issues (ctlSpec 1) true f s = true ∧ (s.atIssue f).w.r.ctl.full.length ≥ 4 ∧ (s.atIssue f).w.r.ctl.fullWaits = false)) ∧
    (∀ x ∈ [0, 1], let f := { ctl .l96 x 4 with c := 657 }
     let g := { ctl .l96 x 4 with c := 656 }
     let b := ctl .l64 x 0
     issues loopSpec true f base = true ∧ (base.atIssue f).w.r.ctl.locked x = false ∧ (base.atIssue f).srcC f 18 0 = 1 ∧
     issues loopSpec true g (codeAt 0) = true ∧ ((codeAt 0).atIssue g).w.r.ctl.locked x = false ∧ ((codeAt 0).atIssue g).srcC g 18 0 = 0 ∧
     reads ((codeAt 0).atIssue g) (((codeAt 0).atIssue g).target g) = true ∧
     issues (ctlSpec 2) true b base = true ∧ (base.atIssue b).w.r.ctl.locked x = false ∧ ((base.atIssue b).w.r.ctl.arm.lp x).active = false ∧
     issues (ctlSpec 2) true b (looping 1) = true ∧ ((looping 1).atIssue b).w.r.ctl.locked x = false ∧
     (((looping 1).atIssue b).w.r.ctl.arm.lp x).active = true ∧
     reads ((looping 1).atIssue b) (((looping 1).atIssue b).w.r.ctl.arm.lp x).stop = true ∧
     issues loopSpec true f lockedLoops = true ∧ (lockedLoops.atIssue f).w.r.ctl.locked x = true ∧
     issues (ctlSpec 2) true b lockedLoops = true ∧ (lockedLoops.atIssue b).w.r.ctl.locked x = true) := by decide +kernel

/-- The serial number of the wave of `base`. -/
def uid : Nat := base.w.uid

theorem witness_BoundaryEvents :
    (let e := ((looping 1).withArm fun a => { a with done := some 0x10040 }).select uid
     e.w.uid = uid ∧ e.w.atBoundary = true ∧ e.w.r.ctl.arm.done = some 0x10040 ∧ e.w.r.ctl.locked 0 = false ∧ e.w.r.ctl.locked 1 = false) ∧
    (∀ fdone ∈ [false, true], let x : DivEntry :=
       { j := 0x10040, fpc := 0x10080, fmask := 1, rmask := 3, la0 := false, la1 := false, fdone := fdone }
     let e := (base.withArm fun a => { a with stack := [x] }).select uid
     e.w.uid = uid ∧ e.w.atBoundary = true ∧ e.w.r.ctl.arm.stack = [x] ∧ e.w.r.ctl.arm.pc = x.j ∧ x.fdone = fdone ∧
     e.w.r.ctl.arm.leaks x.la0 x.la1 = false) ∧
    (let e := (twoArms 0x10100 0x10100 base).select uid
     let c := e.w.r.ctl
     e.w.uid = uid ∧ e.w.atBoundary = true ∧ ∃ t n, c.arms = some (t, n) ∧ c.openFull t = false ∧ c.openFull n = false ∧
     c.parkedArm t = true ∧ c.parkedArm n = true ∧ n.leaks c.la0 c.la1 = false ∧ t.leaks c.la0 c.la1 = false) := by
  refine ⟨by decide +kernel, by decide +kernel, by decide +kernel, by decide +kernel, _, _, rfl, ?_⟩
  decide +kernel

/-! ### Witnesses: membership sets -/

/-- Set 1 of the context, at home here with two members expected, and set 15. -/
def sets : State := base.mapCtx 1 fun c =>
  let e : MSet := { home := 0, expect := 2, exclude := false }
  { c with msets := [(1, e), (15, e)] }

/-- The wave is a member of sets 0, 1 and 15. -/
def joined : State := sets.withR fun r => { r with cmm := 0x8003 }

/-- The outcome of the wave's next instance of a set is known. -/
def knownOutcome (set : Nat) (taken : Bool) : State := joined.mapCtx 1 fun c =>
  { c with outcomes := [{ ref := joined.w.setRef set, inst := 0, taken := taken, err := false }] }

/-- A `cbr` of a set with its function and prediction. -/
def cbrOf (set func : Nat) (pred : Bool) : Fields :=
  { ctl .l128 (func + 4 * set + if pred then 64 else 0) 8 with setf := 0, c := 720 }

theorem witness_CollectiveBranchIssues :
    (∀ set ∈ [0, 1, 15], ∀ taken ∈ [false, true], let f := cbrOf set 0 taken
     let s := knownOutcome set taken
     issues (cbrSpec f) true f s = true ∧ (s.atIssue f).setCheck (cbrSet f) false (some true) = none ∧
     (s.atIssue f).w.membWaits (cbrSet f) = false ∧
     ((s.atIssue f).outcome? ((s.atIssue f).w.setRef (cbrSet f)) (cget 0 (s.atIssue f).w.r.next (cbrSet f))).isSome = true) ∧
    (∀ f ∈ [cbrOf 0 0 false, cbrOf 1 1 true, cbrOf 15 2 false], let e := joined.atIssue f
     issues (cbrSpec f) true f joined = true ∧ e.setCheck (cbrSet f) false (some true) = none ∧ e.w.membWaits (cbrSet f) = false ∧
     e.outcome? (e.w.setRef (cbrSet f)) (cget 0 e.w.r.next (cbrSet f)) = none ∧
     e.w.excl.contains (cbrSet f, cget 0 e.w.r.next (cbrSet f)) = false ∧ e.routed (e.setHome (e.w.setRef (cbrSet f))) = true) ∧
    (∀ x ∈ [1, 15], let f := { ctl .l96 x 0 with setf := 0, d := 260 }
     issues (cmSpec true) true f sets = true ∧ (sets.atIssue f).setCheck f.x.toNat true (some false) = none ∧
     (sets.atIssue f).routed ((sets.atIssue f).setHome ((sets.atIssue f).w.setRef f.x.toNat)) = true) ∧
    (∀ x ∈ [1, 15], let f := { ctl .l96 x 0 with setf := 0 }
     issues (cmSpec false) true f joined = true ∧ (joined.atIssue f).setCheck f.x.toNat true (some true) = none ∧
     (joined.atIssue f).routed ((joined.atIssue f).setHome ((joined.atIssue f).w.setRef f.x.toNat)) = true) := by decide +kernel

/-- Set 1's name. -/
def set1 : SetRef := joined.w.setRef 1

/-- Set 1 at its home with some members, and votes given. -/
def homeOf (n : Nat) (formed : Bool) (votes : Nat) : State := sets.putHome
  { SetHome.fresh set1 with njoin := n, formed := formed, chips := [0],
                            votes := List.replicate votes ({ chip := 0, uid := 7 }, some { func := 0, thr := 0, value := 1 }) }

theorem witness_SetHomeCounts :
    (∀ n ∈ [1, 2], let h := (homeOf n true n).home set1
     h.formed = true ∧ h.votes.length = h.njoin ∧ ¬(h.votes = [] ∧ h.gone = []) ∧ h.early = []) ∧
    (∀ s ∈ [homeOf 2 true 1, homeOf 2 false 2, homeOf 0 true 0], let h := s.home set1
     ¬(h.formed = true ∧ h.votes.length = h.njoin ∧ ¬(h.votes = [] ∧ h.gone = []))) := by decide +kernel

/-- The wave runs ahead of set 1's instance 0, predicted taken. -/
def ahead : State := joined.withW fun w =>
  let a : Ahead := { set := 1, inst := 0, pred := true, takenPc := 0x10080, fallPc := 0x10050, ckpt := w.r, count := 1, stores := [],
                     fault := none, fails := [], op := 1, voted := true }
  { w with ahead := some a }

/-- The same with the outcome known. -/
def aheadKnown (taken : Bool) : State := ahead.mapCtx 1 fun c =>
  { c with outcomes := [{ ref := set1, inst := 0, taken := taken, err := false }] }

theorem witness_RunAheadResolves :
    (∀ taken ∈ [true, false], let e := (aheadKnown taken).select uid
     e.w.uid = uid ∧ ∃ a ∈ e.w.ahead.toList, (e.outcome? (e.w.setRef a.set) a.inst).map (·.taken == a.pred) = some taken) ∧
    ahead.w.ctx = set1.ctx ∧ ahead.w.setRef set1.set = set1 ∧ ahead.w.membWaits set1.set = false ∧
    (ahead.w.ahead.map (·.set)) = some set1.set ∧
    (let e := (ahead.mapCtx 1 fun c => { c with outcomes := [{ ref := set1, inst := 256, taken := true, err := false }] }).select uid
     e.outcome? set1 0 = none ∧ e.outcomeLost set1 0 = true) ∧
    (base.select uid).w.setRef 1 ≠ { set1 with ctx := 2 } ∧
    (let s := joined.withW fun w => { w with ops := [{ Op.fresh 9 3 with memb := some (1, true) }] }
     s.w.ahead = none ∧ ∃ o ∈ s.w.ops, s.w.ops = [o] ∧ o.fin = false ∧ o.memb = some (set1.set, true)) := by decide +kernel

/-! ### Witnesses: traps and privileged instructions -/

/-- A value in a scalar pair. -/
def pairAt (s : State) (n v : Nat) : State :=
  s.withR fun r => { r with s := cset 0 (BitVec.ofNat 32 v) (cset 0 (BitVec.ofNat 32 (v / 2 ^ 32)) r.s (n + 1)) n }

theorem witness_SystemInstructions :
    (∀ f ∈ [fabc 0 0 0 0 0 0, fabc 0 0 0 0 0 1023], issues (trapSpec (fun x => decide (x < 1024)) false false) false f base = true) ∧
    issues (trapSpec (fun _ => true) false false) false (fabc 0 0 0 0 0 4095) base = true ∧ base.w.status = .run ∧
    base.w.preempted = false ∧ issues haltSpec false (fab 0 0 0 0) base = true ∧
    (∀ v ∈ [0xF000, 0xFFFF], let f := withFlag (fabc 0 0 260 262 264 5)
     issues esigSpec false f (pairAt base 4 v) = true ∧ 0xF000 ≤ (BitVec.ofNat 16 (((pairAt base 4 v).atIssue f).srcA f 18 0)).toNat) ∧
    (∀ v ∈ [16, 255], let f := fabc 0 0 260 262 0 0
     let e := (pairAt (pairAt base 4 0) 6 v).atIssue f
     issues (pmsetSpec false) false f (pairAt (pairAt base 4 0) 6 v) = true ∧ e.corePresent (e.srcA f 18 0) = true ∧
     16 ≤ e.srcB f 18 0 ∧ e.srcB f 18 0 ≤ 255) ∧
    (let f := fabc 0 262 260 0 0 1
     issues (pmsetSpec true) false f base = true ∧ (base.atIssue f).corePresent ((base.atIssue f).srcA f 18 0) = true) := by decide +kernel

/-- A kernel with a trap handler. -/
def handled (s : State) : State := s.withW fun w => { w with k := { w.k with trapOff := 0x100 } }

/-- A wave in its handler, after a trap at the first instruction, whose word is given. -/
def handling (code : BitVec 16) (at_ : Nat) : State := (codeAt at_).withW fun w =>
  let fr : Frame := { word0 := code.setWidth 32, code := code, addr := 0x10040, detail := 5, xpc := 0x10040, em := allLanes, seqNo := 1,
                      ctl := w.r.ctl }
  { w with frame := some fr }

theorem witness_TakingATrap :
    ahead.w.ahead.isSome = true ∧
    (∀ s ∈ [base, handled base, handling 0x0140 1], s.w.ahead = none) ∧
    (handled base).w.frame = none ∧ (handled base).w.k.trapOff ≠ 0 ∧ base.w.frame = none ∧ base.w.k.trapOff = 0 ∧
    (handling 0x0140 1).w.frame.isSome = true := by decide +kernel

/-- What the word at XPC says of its length: known or refused. -/
def skips (s : State) (pc : DWord) : Option Bool := match s.skipLen pc with | .ok _ _ => some true | .refused => some false | .wait _ => none

theorem witness_HandlerInstructions :
    ([1024, 1033].all fun x => [handling 0x0140 1, base].all fun s => issues trapRdSpec false (fabc 0 260 0 0 0 x) s) = true ∧
    ([0, 3].all fun x => [0x0140, 0x0143, 0x0630].all fun c => [(1, true), (3, false)].all fun (at_, known) =>
      let s := handling (BitVec.ofNat 16 c) at_
      let f := fabc 0 0 0 0 0 x
      issues (trapSpec (fun x => decide (x < 4)) false false) false f s && (s.atIssue f).w.frame.map (·.code.toNat) == some c &&
        skips (s.atIssue f) 0x10040 == some known) = true ∧
    ([(0x0140, 0), (0x0140, 2), (0x0630, 0)].all fun (c, v) =>
      let s := pairAt (handling (BitVec.ofNat 16 c) 1) 4 v
      let f := fabc 0 0 260 0 0 3
      issues (trapSpec (fun x => decide (x < 4)) false true) false f s && (BitVec.ofNat 64 ((s.atIssue f).srcA f 19 0)).toNat % 4 == v) = true ∧
    issues (trapSpec (fun x => decide (x < 4)) false true) false (fabc 0 0 260 0 0 3) base = true ∧
    issues (trapSpec (fun x => decide (x < 4)) false false) false (fabc 0 0 0 0 0 0) base = true ∧
    (base.atIssue (fabc 0 0 0 0 0 0)).w.frame = none := by decide +kernel

/-- The wave has one operation of flag 3, finished. -/
def finished : State := base.withW fun w => { w with ops := [{ Op.fresh 9 3 with fin := true }] }

theorem witness_WaveEvents :
    (let e := base.select uid
     e.w.uid = uid ∧ e.w.status ≠ .ended ∧ e.w.preempted = false) ∧
    (let e := (base.withW fun w => { w with cancel := some (base.bareRecord 0 0x0630 0 0, 1) }).select uid
     e.w.uid = uid ∧ e.w.status ≠ .ended ∧ e.w.preempted = false ∧ e.w.cancel.isSome = true) ∧
    ((finished.wave uid).bind fun x => retirable 3 [] x.ops).map (·.eng) = some false ∧
    base.corePresent 0 = true ∧ base.budget 0 ≤ (255 : BitVec 8).toNat ∧ 16 ≤ (16 : BitVec 8).toNat ∧
    (16 : BitVec 8).toNat < base.budget 0 := by decide +kernel

/-! ### Witnesses: memory, caches and order -/

/-- A page of 64 KiB that translates to itself. -/
def page (va cls : Nat) : TlbEnt := { unit := 0, ctx := 1, va := va, size := 0x10000, pa := va, cls := cls, u := true, x := true, w := true }

/-- A wave of a team of 16 with 4 KiB of scratchpad, pages of classes 0, 1 and 3, pattern 1 in memory, and s4:s5 = 0x18000, s6 = 16,
s8:s9 = 0x28000, s10:s11 = 0x38000. -/
def work : State :=
  let k := { base.w.k with codeSize := 0xFFC0, scratch := 0x1000, waves := 16 }
  let s := pairAt (pairAt (pairAt (pairAt base 4 0x18000) 6 16) 8 0x28000) 10 0x38000
  let s : State := { s with teams := s.teams.map fun t => { t with k := k } }
  (s.withW fun w => { w with k := k }).withM fun m => { m with
    tlb := [page 0x10000 0, page 0x20000 1, page 0x30000 3]
    mem := csetMany 0 (csetMany 0 (csetMany 0 [] 0x40 (natBytes 8 (2 ^ 63 + 6))) 0x50 (natBytes 4 8)) 0x60 (natBytes 8 16) }

/-- Every lane's address is found. -/
def found (s : State) (f : Fields) (i : Instr) (sp : Bool) (k : Kind) (scale : Nat) : Bool :=
  !absentLane s f sp scale && s.scopeValid s.w.ctx (scopeX f) && match locateLanes s f i sp k scale with | .ok _ => true | _ => false

/-- Operands of a memory instruction: base s4 or, in scratchpad, s6. -/
def memF (sp : Bool) (ty d b x : Nat) : Fields :=
  { fabc ty d (if sp then 262 else 260) b 0 x with len := .l128, setf := 0, imm := 16 }

theorem witness_LoadsAndStoresIssue : ∀ sp ∈ [false, true],
    (∀ f ∈ [memF sp 18 16 0 0, memF sp 20 16 0 0, memF sp 16 16 0 0x103], let i : Instr := if sp then .ldsp f else .ld f
     issues (loadSpec sp) false f work = true ∧ found (work.atIssue f) f i sp .read (scaleX f) = true) ∧
    (∀ f ∈ [memF sp 18 0 16 0, memF sp 20 0 16 0, memF sp 16 0 16 0x203], let i : Instr := if sp then .stsp f else .st f
     issues (storeSpec sp) false f work = true ∧ found (work.atIssue f) f i sp .write (scaleX f) = true ∧ (work.atIssue f).w.ahead = none) ∧
    (let f := memF sp 18 0 16 0
     let s := work.withW fun w => { w with ahead := ahead.w.ahead }
     let i : Instr := if sp then .stsp f else .st f
     issues (storeSpec sp) false f s = true ∧ found (s.atIssue f) f i sp .write (scaleX f) = true ∧
     (s.atIssue f).w.ahead.isSome = true ∧
     (match locateLanes (s.atIssue f) f i sp .write (scaleX f) with
      | .ok ls => decide (heldBlocks (storeAccs (s.atIssue f) f sp 0 ls) ≤ 32) | _ => false) = true) := by decide +kernel

theorem witness_AtomicsAndLiteralsIssue :
    (∀ f ∈ [memF false 0 16 20 0, memF false 3 16 20 0x600, memF false 18 16 20 0xE0],
      issues (atomSpec true f) false f work = true ∧ found (work.atIssue f) f (.atom f) false .atomic 1 = true) ∧
    (∀ f ∈ [memF false 0 0 20 0, memF false 3 0 20 0x603],
      issues (atomSpec false f) false f work = true ∧ found (work.atIssue f) f (.red f) false .atomic 1 = true) ∧
    (∀ f ∈ [memF true 0 16 20 0, memF true 1 731 20 0], issues (spatomSpec f) false f work = true ∧
      found (work.atIssue f) f (.spatom f) true .atomic (tyBits f.ty.toNat / 8) = true) ∧
    (let f : Fields := { fimm 18 16 656 0 0 0 16 with setf := 0 }
     let s := work.placeCode (bytesOf 16 0)
     let e := s.atIssue f
     let eas := (memLanes e f).map fun l => (l, e.pc + f.imm.signExtend 64 + BitVec.ofInt 64 (sext 32 (e.srcA f 18 l) * 4))
     issues (ldlitSpec f) false f s = true ∧ (∀ ea ∈ eas, e.w.k.outside ea.2 4 = false ∧ ea.2.toNat % 4 = 0) ∧
     (match xlateLanes e .fetch 4 eas with | .ok _ => true | _ => false) = true ∧
     (match litReads 18 f e eas [] none with | .inl x => x.2.2.isNone | .inr _ => false) = true) ∧
    (let f : Fields := { fimm 18 16 656 0 0 0 0x400 with setf := 0 }
     let s := work.withM fun m => { m with poison := [0x104] }
     let e := s.atIssue f
     let eas := (memLanes e f).map fun l => (l, e.pc + f.imm.signExtend 64 + BitVec.ofInt 64 (sext 32 (e.srcA f 18 l) * 4))
     issues (ldlitSpec f) false f s = true ∧ (∀ ea ∈ eas, e.w.k.outside ea.2 4 = false) ∧
     (match xlateLanes e .fetch 4 eas with | .ok _ => true | _ => false) = true ∧
     (match litReads 18 f e eas [] none with | .inl x => x.2.2.map (·.1) | .inr _ => none) = some 0x0501) ∧
    (let f : Fields := { fimm 18 16 656 0 0 0 0x20000 with setf := 0 }
     let e := work.atIssue f
     issues (ldlitSpec f) false f work = true ∧ (((memLanes e f).map fun l =>
       (l, e.pc + f.imm.signExtend 64 + BitVec.ofInt 64 (sext 32 (e.srcA f 18 l) * 4))).find? fun x => e.w.k.outside x.2 4).isSome = true) := by
  decide +kernel

theorem witness_CacheInstructionsIssue :
    (∀ x ∈ [0, 2], let f := memF false 0 0 0 x
     let g := { f with a := 268 }
     let missed := fun (f : Fields) => (cacheAddrs (work.atIssue f) f).filter fun x => (work.atIssue f).xlate x.2 == .miss
     issues (cacheSpec true false 4 fun x => x != 3) false f work = true ∧ missed f = [] ∧
     issues (cacheSpec true false 4 fun x => x != 3) false g work = true ∧ missed g ≠ []) ∧
    issues (cacheSpec false true 1 fun x => x == 0) false (withFlag (fabc 0 0 0 0 0 0)) work = true ∧
    (let f := memF false 0 0 0 1
     issues (cacheSpec true true 1 fun x => x == 1) false f work = true ∧
     (match memLocate (work.atIssue f) .read 1 (cacheAddrs (work.atIssue f) f) with | .ok _ => true | _ => false) = true) ∧
    (∀ m ∈ [0, 1], issues (cacheSpec true true 1 fun x => x == m) false (memF false 0 0 0 m) work = true) ∧
    issues (cacheSpec false true 1 fun x => x == 2) false (withFlag (fabc 0 0 0 0 0 2)) work = true := by decide +kernel

/-- One page is found for the barrier word. -/
def wordFound (s : State) (f : Fields) : Bool :=
  match xlateLanes s .atomic 8 [(0, memAddr s.w.r { f with c := 0, imm := 0 } 1 0)] with | .ok [_] => true | _ => false

theorem witness_FencesAndBarriersIssue :
    (∀ x ∈ [0x103, 0x200, 0x702], let f := withFlag (fabc 0 0 0 0 0 x)
     issues (fenceSpec f) false f work = true ∧ (work.atIssue f).scopeValid (work.atIssue f).w.ctx (scopeX f) = true) ∧
    (∀ b ∈ [657, 672], ∀ x ∈ [0, 15], let f := withFlag (fabc 0 0 0 b 0 x)
     let g := { f with d := 260 }
     let e := work.atIssue f
     issues (barSpec false false f) false f work = true ∧ issues (barSpec false true g) false g work = true ∧ memX f = false ∧
     barCheck e (.bar f) f (some (e.srcB f 18 0)) = none ∧ barCheck e (.bara g) g (some (e.srcB f 18 0)) = none ∧
     ¬((e.bar (scopeX f)).arrived ≠ 0 ∧ (e.bar (scopeX f)).expect ≠ e.srcB f 18 0) ∧ releaseHolds e.w.core e.w.uid 0 false e.m.port = false ∧
     issues (barSpec true false f) false f work = true ∧ barCheck e (.barw f) f none = none ∧
     (let s : State := { work with teams := work.teams.map fun t => { t with bars := [(x, { phase := false, arrived := 1, expect := 9, waiters := 1 })] } }
      let e := s.atIssue f
      issues (barSpec false false f) false f s = true ∧ issues (barSpec false true g) false g s = true ∧
      barCheck e (.bar f) f (some (e.srcB f 18 0)) = none ∧ barCheck e (.bara g) g (some (e.srcB f 18 0)) = none ∧
      releaseHolds e.w.core e.w.uid 0 false e.m.port = false ∧ (e.bar (scopeX f)).arrived ≠ 0 ∧ (e.bar (scopeX f)).expect ≠ e.srcB f 18 0)) ∧
    (∀ x ∈ [0x21, 0x22], let f := withFlag (fabc 0 0 260 657 0 x)
     let g := { f with d := 260 }
     let e := work.atIssue f
     memX f = true ∧ issues (barSpec false false f) false f work = true ∧ issues (barSpec false true g) false g work = true ∧
     issues (barSpec true false f) false f work = true ∧ barCheck e (.bar f) f (some 1) = none ∧ barCheck e (.bara g) g (some 1) = none ∧
     barCheck e (.barw f) f none = none ∧ wordFound e f = true) ∧
    (∀ x ∈ [(0x18000, 0), (0x28000, 1), (0x38004, 2), (2 ^ 60, 3)],
     let s := (work.withM fun m => { m with tlb := m.tlb.map fun t => { t with unit := 256 } }).withW fun w =>
       { w with status := .sleepWord (BitVec.ofNat 64 x.1) 1 7 false }
     let e := s.select uid
     e.w.uid = uid ∧ e.w.status = .sleepWord (BitVec.ofNat 64 x.1) 1 7 false ∧ (e.m.port.any fun a => a.op == 7) = false ∧
     (match e.engXlate (dieOf e.w.core) e.w.ctx (BitVec.ofNat 64 x.1) with
      | (.hit h, u) => match accessFault (u.reachable u.w h.pa) u.priv .atomic 8 x.1 h with
        | none => decide (x.2 ≤ 1)
        | some _ => decide (x.2 = 2)
      | (.fail _ _, _) => decide (x.2 = 3)
      | (.miss, _) => false) = true) := by decide +kernel

/-! ### Witnesses: copies, queues and completion objects -/

/-- A copy's checks pass. -/
def copies (s : State) (f : Fields) (dm sm : Bool) (n : Nat) : Bool := (copyChecks s f dm sm n).isRight && !s.copyFull

/-- A copy in progress of `total` bytes, `off` moved. -/
def oneCopy (off total : Nat) : Copy :=
  { work.newCopy 0 (.sp 0 0) (.sp 0 0x800) total none 0 with wave := none, off := off, id := 5 }

/-- The machine with that copy. -/
def copying (off total : Nat) : State := { work with copies := [oneCopy off total] }

/-- The codes with which a copy's checks refuse it, if they do. -/
def refusedWith (s : State) (f : Fields) (dm sm : Bool) (n : Nat) : Option (BitVec 16) :=
  match copyChecks s f dm sm n with | .inl c => some c | .inr _ => none

theorem witness_CopiesIssueAndMove :
    (∀ f ∈ [withFlag (fabc 0 262 260 660 0 0), withFlag (fabc 0 260 262 700 262 0x21), withFlag (fabc 0 260 264 656 0 2),
        withFlag (fabc 0 262 262 660 0 3)],
     let dir := f.x.toNat % 4
     let dm : Bool := dir = 1 ∨ dir = 2
     let sm : Bool := dir = 0 ∨ dir = 2
     let g : Fields := { f with b := 657 }
     issues (cpySpec f dm sm fun f => f.x.toNat &&& 0x23 == f.x.toNat) false f work = true ∧
     copies (work.atIssue f) f dm sm ((work.atIssue f).srcB f 18 0) = true ∧
     issues (cpySpec g dm sm fun f => f.x.toNat &&& 0x23 == f.x.toNat) false g work = true ∧
     refusedWith (work.atIssue g) g dm sm ((work.atIssue g).srcB g 18 0) = some 0x0620) ∧
    (∀ x ∈ [(656, 1, some true), (664, 1, some true), (665, 1, some false), (664, 2, none)],
     let f := withFlag (fabc 0 262 260 x.1 0 (0x40 * x.2.1))
     let e := work.atIssue f
     issues (cpysSpec f) false f work = true ∧ copies e f false true (e.srcB f 18 0 * 4) = true ∧ (e.patternBad e.w.ctx x.2.1).isNone = true ∧
     (e.pattern e.w.ctx x.2.1).map (fun p => p.esize == 4 && decide (e.srcB f 18 0 ≤ p.counts.foldl (· * ·) 1)) = x.2.2) ∧
    (let f := withFlag (fabc 0 262 260 664 0 0x40)
     let s := work.withM fun m => { m with poison := [0] }
     issues (cpysSpec f) false f s = true ∧ ((s.atIssue f).patternBad 1 1).isSome = true ∧
     refusedWith ((pairAt work 4 0x18002).atIssue f) f false true 32 = some 0x0620 ∧ issues (cpysSpec f) false f (pairAt work 4 0x18002) = true) ∧
    (∀ x ∈ [(660, false), (661, true)], let f := withFlag (fabc 0 262 260 x.1 0 0)
     let e := work.atIssue f
     issues (cpySpec f false true fun f => decide (f.x.toNat < 64) && f.x.toNat % 32 != 2 && f.x.toNat % 32 != 3) false f work = true ∧
     e.scopeValid e.w.ctx 0 = true ∧ (refusedWith e f false true (e.srcB f 18 0)).isSome = x.2 ∧ e.copyFull = false) ∧
    (let f := withFlag (fabc 0 266 260 660 0 0)
     let t : State := { work with teams := work.teams ++ work.teams.map fun t => { t with core := 5, uid := 40, base := 0x2000 } }
     let e := (pairAt t 10 (2 ^ 31 + 5 * 2 ^ 19 + 0x2000)).atIssue f
     issues (cpySpec f false true fun f => decide (f.x.toNat < 64) && f.x.toNat % 32 != 2 && f.x.toNat % 32 != 3) false f e = true ∧
     copies e f false true 4 = true ∧ e.srcB f 18 0 = 4 ∧ ((List.range 256).filter fun k => e.corePresent k && e.scopeCovers e.w.ctx 0 e.w.core k) = [0] ∧
     e.spAllocated e.w.key 0 0x2000 4 = false) ∧
    (copying 512 512).copies.find? (fun x => x.id == 5) = some (oneCopy 512 512) ∧ (copying 512 512).copyWaits (oneCopy 512 512) = false ∧
    (copying 0 512).copyWaits (oneCopy 0 512) = false ∧ (copying 0 512).peerWaits (.copy 5) = false ∧
    (let c := oneCopy 0 512
     c.peerFail = none ∧ c.moving = 0 ∧ c.off < c.total ∧ c.pat = none ∧
     (match (copying 0 512).copySrc { c with src := .sp 0 0x1000 } 256 with | (.inl x, _) => x.1 == 0x0210 | _ => false) = true ∧
     (match (copying 0 512).copySrc c 256 with
      | (.inr bs, u) => (u.copyDst c (u.groupBytes c 256 bs)).1.isNone && (u.copyDst { c with dst := .sp 0 0x1000 } (u.groupBytes c 256 bs)).1.isSome
      | _ => false) = true) := by decide +kernel

/-- A queue address is found. -/
def placed (x : Located) : Bool := match x with | .ok _ => true | _ => false

theorem witness_QueueInstructionsIssue :
    (∀ b ∈ [657, 672], let f := withFlag (fabc 0 268 264 b 0 0)
     let e := work.atIssue f
     issues qclaimSpec false f work = true ∧ 1 ≤ e.srcB f 18 0 ∧ e.srcB f 18 0 ≤ 16 ∧ e.scopeValid e.w.ctx 0 = true ∧
     placed (queueAddr e (.qclaim f) .atomic (BitVec.ofNat 64 (e.srcA f 19 0)) (· == 1)) = true) ∧
    (∀ b ∈ [656, 673], let f := withFlag (fabc 0 268 264 b 0 0)
     issues qclaimSpec false f work = true ∧ ((work.atIssue f).srcB f 18 0 = 0 ∨ 16 < (work.atIssue f).srcB f 18 0)) ∧
    (let f := withFlag (fabc 0 0 260 262 272 1)
     let s := pairAt work 4 0x18008
     issues qpostSpec false f s = true ∧ (s.atIssue f).scopeValid (s.atIssue f).w.ctx 1 = true ∧ (s.atIssue f).srcA f 19 0 % 64 ≠ 0) ∧
    (∀ a ∈ [260, 264], let f := withFlag (fabc 0 0 a 262 272 1)
     let e := work.atIssue f
     issues qpostSpec false f work = true ∧ e.scopeValid e.w.ctx 1 = true ∧ e.srcA f 19 0 % 64 = 0 ∧
     placed (queueAddr e (.qpost f) .write (BitVec.ofNat 64 (e.srcA f 19 0)) (fun c => decide (c ≤ 1))) = true) := by decide +kernel

theorem witness_ObjectsAndRowsIssue :
    (∀ b ∈ [257, 260], let s := pairAt (pairAt work 0 0xFFFF00000001) 4 65535
     let f := withFlag (fabc 0 0 262 b 0 0)
     let g := { f with d := 260 }
     let e := s.atIssue f
     (b = 257 ∨ (1 ≤ e.srcB f 18 0 ∧ e.srcB f 18 0 ≤ 65535)) ∧ e.scopeValid e.w.ctx 0 = true ∧
     (e.objRange (BitVec.ofNat 32 (e.srcA f 18 0))).isRight = true ∧ issues (objSpec 32 none) false f s = true ∧
     issues (objSpec 1 (some fun k d => sregOrNull k 18 d)) false g s = true ∧ issues (objSpec 1 none) false f s = true ∧
     issues (objSpec 1 (some fun k d => sregOk k 18 d)) false g s = true) ∧
    (∀ v ∈ [0, 65536], let s := pairAt work 4 v
     let f := withFlag (fabc 0 0 262 260 0 0)
     let g := { f with d := 260 }
     let e := s.atIssue f
     ¬(1 ≤ e.srcB f 18 0 ∧ e.srcB f 18 0 ≤ 65535) ∧ issues (objSpec 32 none) false f s = true ∧
     issues (objSpec 1 (some fun k d => sregOrNull k 18 d)) false g s = true) ∧
    (∀ b ∈ [656, 700], ∀ x ∈ [0, 1], let f : Fields := { fimm 18 0 (260 + 2 * x) b 660 x 256 with setf := 0 }
     let e := work.atIssue f
     issues (accMoveSpec f) false f work = true ∧ 1 ≤ e.srcC f 18 0 ∧ e.srcC f 18 0 ≤ 256 ∧ e.srcB f 18 0 + e.srcC f 18 0 ≤ 256 ∧ e.copyFull = false ∧
     (if f.x.getLsbD 0 then ∀ r, r < e.srcC f 18 0 → e.spRowFault (BitVec.ofNat 32 (e.srcA f 18 0)) (r * f.imm.toNat) = none
      else (BitVec.ofNat 64 (e.srcA f 19 0)).toNat % 4 = 0)) ∧
    (∀ v ∈ [(0, 0, 0x18000), (257, 0, 0x18000), (2, 255, 0x18000), (1, 255, 0x18002)],
     let s := pairAt (pairAt (pairAt work 4 v.2.2) 12 v.1) 14 v.2.1
     let f : Fields := { fimm 18 0 260 270 268 0 256 with setf := 0 }
     let e := s.atIssue f
     issues (accMoveSpec f) false f s = true ∧ e.srcC f 18 0 = v.1 ∧ e.srcB f 18 0 = v.2.1 ∧ e.srcA f 19 0 = v.2.2) ∧
    (let s : State := { pairAt work 6 0x80280000 with pkg := { work.pkg with cap := { work.pkg.cap with coreMap := 1 } } }
     let f := withFlag (fabc 0 0 262 660 0 0)
     let g := { f with d := 260 }
     let h : Fields := { fimm 18 0 262 656 660 1 256 with setf := 0 }
     (s.atIssue f).absentCore (BitVec.ofNat 32 ((s.atIssue f).srcA f 18 0)) = true ∧ issues (objSpec 32 none) false f s = true ∧
     issues (objSpec 1 (some fun k d => sregOrNull k 18 d)) false g s = true ∧ issues (objSpec 1 none) false f s = true ∧
     issues (objSpec 1 (some fun k d => sregOk k 18 d)) false g s = true ∧ issues (accMoveSpec h) false h s = true ∧
     (s.atIssue h).absentCore (BitVec.ofNat 32 ((s.atIssue h).srcA h 18 0)) = true ∧ h.x.getLsbD 0 = true) := by decide +kernel

/-! ### Witnesses: accesses at their points -/

/-- An access of the wave in its core's port, serial number 50. -/
def accOf (kind : AKind) (cls : Nat) (sp : Bool) (stage : AStage) : Acc :=
  { work.newAcc 0 sp { lane := 0, va := 0x18000, pa := if sp then 0x100 else 0x18000, peer := none, cls := cls } 8 kind with
    id := 50, stage := stage, parts := [{ lane := 0, data := 5, cmp := 0 }] }

/-- It is alone there. -/
def porting (a : Acc) : State := work.withM fun m => { m with port := [a] }

/-- Its sector stands in its home slice. -/
def cached (a : Acc) : State := (porting a).l2Fill a.pa a.slot a.tenant 0

/-- A promotion under way for the access, and the record it asks for. -/
def promoting : State := (porting (accOf .load 0 false .promo)).withM fun m => { m with
  promos := [{ sp := false, kettle := false, loc := 0x18000, size := 8, core := 1, seqNo := 9, out := false }]
  promoReqs := [{ id := 60, seqNo := 9, acc := some 50, sp := false, loc := 0x18000, size := 8, core := 1, need := [], asked := false,
                  remote := none }] }

theorem witness_AccessesAtTheirPoints :
    (∀ kind ∈ [AKind.load, .store, .atomic 0 1 1], let a := accOf kind 0 false .port
     let s := cached a
     s.acc? 50 = some a ∧ a.sp = false ∧ a.stage = .port ∧ s.mayLeave a = true ∧ a.peer = none ∧ a.pa < 2 ^ 51 ∧
     s.pkg.hostHeld.contains (lineOf a.pa) = false ∧ (match a.kind with | .clean _ => false | _ => true) = true ∧ (s.promoHold a).isNone = true ∧
     (∀ l ∈ (s.m.l2Find a.pa).toList, l.slot = a.slot) ∧ s.m.l2Has a.pa a.slot = true ∧ (porting a).m.l2Has a.pa a.slot = false ∧
     ((porting a).promoHold a).isNone = true ∧ (porting a).mayLeave a = true ∧
     (porting a).tenMask (homeSlice a.pa) a.tenant ≠ 0) ∧
    (∀ cls ∈ [1, 3], let a := accOf .load cls false .port
     (porting a).acc? 50 = some a ∧ (porting a).mayLeave a = true ∧ a.cls = cls ∧
     ((porting { a with stage := .fwd }).promoHold { a with stage := .fwd }).isNone = true) ∧
    (let a := accOf .load 0 false .fill
     (porting a).acc? 50 = some a ∧ ((porting a).pointFault a).isNone = true ∧
     ((porting a).l2Fill a.pa a.slot a.tenant a.hint).m.l2Has a.pa a.slot = true) ∧
    (let a := accOf .store 0 true .port
     (porting a).acc? 50 = some a ∧ a.sp = true ∧ (porting a).mayLeave a = true ∧ ((porting a).promoHold a).isNone = true) ∧
    (let a := { accOf .load 0 false .port with acq := true, scope := 1 }
     let s := (porting a).withM fun m => { m with promos := promoting.m.promos }
     s.mayLeave a = true ∧ a.kind.reads = true ∧ (s.promoFor a).isSome = true ∧ (s.promoHold a).isSome = true) ∧
    (let a := { accOf .store 0 false .port with peer := some 1 }
     (porting a).acc? 50 = some a ∧ (porting a).mayLeave a = true) ∧
    (let a := accOf .store 0 false .port
     let s := { porting a with pkg := { work.pkg with hostHeld := [96] } }
     s.mayLeave a = true ∧ a.kind.writes = true ∧ s.pkg.hostHeld.contains (lineOf a.pa) = true) ∧
    (let a := accOf (.clean 0) 0 false .port
     (porting a).mayLeave a = true ∧ a.kind.writes = false) ∧
    (∀ cls ∈ [0, 1], let a := { accOf .load cls false .port with pa := 2 ^ 51 + 64 }
     (porting a).mayLeave a = true ∧ 2 ^ 51 ≤ a.pa ∧ (a.cls = 1 ∨ (porting a).pkg.hostOwned.contains (lineOf a.pa) = false)) ∧
    (let a := accOf .load 0 false .port
     let s := { porting a with slices := [(homeSlice a.pa, { mask1 := 0, mask0 := 0, pairlim := 64 })] }
     s.mayLeave a = true ∧ (s.l2Rekey a.slot a.pa).tenMask (homeSlice a.pa) a.tenant = 0 ∧ (s.l2Rekey a.slot a.pa).m.l2Has a.pa a.slot = false) ∧
    (∃ q ∈ promoting.m.promoReqs, promoting.m.promoReqs.find? (fun x => x.id == 60) = some q ∧ q.asked = false ∧ q.remote = none ∧
      ∃ s ∈ [promoting.withM fun m => { m with promoReqs := [{ q with asked := true }] },
        promoting.withM fun m => { m with promoReqs := [{ q with asked := true, remote := some (1, 8) }] }],
      ∀ x ∈ s.m.promoReqs, s.m.promoReqs.find? (fun x => x.id == 60) = some x ∧ s.promoReady x = true) := by
  decide +kernel

/-- The host linked at four lanes with line 96 of HBM in its hands, and a decoder bound to the key. -/
def hosted (s : State) : State := { s with pkg := { s.pkg with link := some (4, 64), hdm := [(0, 1, true)], hostHeld := [96] } }

/-- Another package's read of a word at 0x18000. -/
def asking (acq : Bool) : PeerReq :=
  { src := 1, id := 3, ctx := 1, cls := 0, addr := 0x18000, size := 4, write := none, atomic := none, acq := acq }

theorem witness_AccessesFromOutside :
    (hosted work).cxlUp = true ∧ (hosted work).m.hostWrites = [] ∧
    (∀ stage ∈ [AStage.inval, .host], ∀ cls ∈ [0, 1], let a := accOf .store cls false stage
     (hosted (porting a)).acc? 50 = some a ∧ a.stage = stage ∧ a.cls = cls ∧ ((hosted (porting a)).promoHold a).isNone = true) ∧
    (let h : HostWrite := { id := 70, slot := 0, cls := 0, pa := 0x18000, bytes := [1], add := false, atomic := false, tenant := false, hint := 0,
                            prior := none }
     let s := (hosted work).withM fun m => { m with hostWrites := [h] }
     s.acc? 70 = none ∧ s.m.hostWrites.find? (fun x => x.id == 70) = some h) ∧
    (let s := hosted work
     (∀ size ∈ [8, 64], s.pkg.hdm.find? (fun x => x.1 == 0 && s.keyLoaded x.2.1 && decide (0x1000 + size ≤ s.hbmBytes)) = some (0, 1, true) ∧
       s.m.poisoned 0x1000 size = false ∧ (s.withM fun m => { m with poison := [sectorOf 0x1000] }).m.poisoned 0x1000 size = true) ∧
     (∀ v ∈ [(3, 0x1000), (0, s.hbmBytes)],
       s.pkg.hdm.find? (fun x => x.1 == v.1 && s.keyLoaded x.2.1 && decide (v.2 + 8 ≤ s.hbmBytes)) = none) ∧
     (let u := { s with pkg := { s.pkg with keys := [] } }
      u.pkg.hdm.find? (fun x => x.1 == 0 && u.keyLoaded x.2.1 && decide (0x1000 + 8 ≤ u.hbmBytes)) = none)) ∧
    (∀ x ∈ [none, some (1, 0, [(1, 0)])], ∀ acq ∈ [false, true], let r := { asking acq with atomic := x }
     work.m.promos.find? (fun p => p.meets false r.addr r.size) = none ∧ work.hostKeeps r.addr r.size = false ∧
     (promoting.m.promos.find? fun p => p.meets false r.addr r.size).isSome = true ∧ promoting.hostKeeps r.addr r.size = false) ∧
    (let r := asking false
     ({ work with pkg := { work.pkg with hostHeld := [lineOf r.addr] } } : State).hostKeeps r.addr r.size = true) ∧
    (let r := asking false
     r.addr + r.size ≤ work.hbmBytes ∧ work.keyLoaded (work.slotFor r.ctx r.cls) = true ∧ work.m.poisoned r.addr r.size = false ∧
     (work.withM fun m => { m with poison := [sectorOf r.addr] }).m.poisoned r.addr r.size = true ∧
     work.hbmBytes < work.hbmBytes + 4 ∧ ({ work with pkg := { work.pkg with keys := [] } } : State).keyLoaded (work.slotFor r.ctx r.cls) = false) := by
  decide +kernel

/-! ### Witnesses: the matrix engine -/

/-- The quad's entry with a preloaded bank or none and instructions queued. -/
def quadOf (int : Bool) (pre : Option Nat) (rdy : List Nat) (queue : List MEntry) : QuadSt :=
  { team := base.w.team, quad := 0, queue := queue, ikind := int, ik := 64, iF := 0, inext := 0, istart := 0, ibfmt := if int then 6 else 10,
    ibpre := pre, rdy := rdy, loads := 0, iloads := 0, irel := false, early := [] }

/-- The quad holds the claim of its core's engine. -/
def claimed (q : QuadSt) : State := work.putEngine 0 { Engine.reset with claim := some q }

/-- An object in slot 0 of the context's table. -/
def objOf (sparse : Bool) (state : Nat) : RObj :=
  { idx := 0, state := state, home := true, chip := 0, oseq := 3, bind := 0, launch := LKey.none, closes := [], finished := [],
    doneElems := [], poisoned := [], lateClose := [], phase := none,
    desc := { rbase := 0x18000, m := 4, n := 16, closes := 2, cscope := 1, accum := false, sat := false, ftz := false, fmt := 0, opr := 0,
              sparse := sparse, ccount := 0, spbase := 0, log2s := 0 } }

/-- A machine with that object. -/
def withObj (s : State) (o : RObj) : State := s.mapCtx 1 fun c => { c with robjs := [o] }

/-- There is room to queue, decided. -/
def room (s : State) (f : Fields) (all : Bool) : Bool :=
  match s.quadCur s.w with | some q => decide (q.queue.length < 8) && !(all && s.matesFull f) | none => false

theorem witness_EngineInstructionsQueue :
    (∀ v ∈ [0x100000000, 0x1000000000000000], let s := pairAt work 4 (v + v / 2 ^ 60 * 0xFFFFFF)
     let f := withFlag (fabc 0 0 260 261 0 1)
     let e := s.atIssue f
     issues mzeroSpec false f s = true ∧ matTurn e true false = none ∧ 1 ≤ e.srcB f 18 0 ∧ e.srcB f 18 0 ≤ 2 ^ 28 ∧
     e.srcA f 18 0 < (e.srcB f 18 0 + 15) / 16 ∧ (e.quadCur e.w).isNone = true) ∧
    (let f := withFlag (fabc 0 0 656 657 0 0)
     let s := claimed (quadOf false none [1, 1, 1, 1] [])
     issues mzeroSpec false f s = true ∧ room (s.atIssue f) f false = true) ∧
    (∀ ty ∈ [6, 14], let f := withFlag (fabc ty 0 0 0 0 0)
     let s := claimed (quadOf false none [1, 1, 1, 1] [])
     issues mfmtSpec false f s = true ∧ matTurn (s.atIssue f) true true = none ∧ room (s.atIssue f) f false = true) ∧
    (∀ d ∈ [16, 254], let f := withFlag (fabc 0 d 0 0 0 0)
     let s := claimed (quadOf false none [1, 1, 1, 1] [])
     let e := s.atIssue f
     issues mbankSpec false f s = true ∧ matTurn e true true = none ∧
     (e.quadCur e.w).map (fun q => badBlock e q.ibfmt (vecNum f.d) || e.blocksGone q 1) = some false ∧ room e f true = true) ∧
    (∀ x ∈ [(true, fimm 0 0 0 0 0 2 0xC0C0), (false, fimm 8 0 0 0 0 1 0), (false, { fimm 14 0 0 0 0 0 0 with mod := 4 })],
     let f := withFlag x.2
     let s := claimed (quadOf x.1 none [1, 1, 1, 1] [])
     let e := s.atIssue f
     issues mdrnSpec false f s = true ∧ matTurn e true true = none ∧ room e f true = true ∧
     (if x.1 then f.ty = 0 ∧ f.mod = 0 else f.ty = 8 ∨ f.ty = 10 ∨ f.ty = 11 ∨ (f.ty = 14 ∧ f.mod.toNat % 4 = 0)) ∧
     field f.imm.toNat 0 8 ≤ 192 ∧ field f.imm.toNat 8 8 ≤ 192) ∧
    (let f := withFlag (fabc 0 0 260 262 0 0x40)
     let s := withObj (claimed (quadOf false none [1, 1, 1, 1] [])) (objOf false 1)
     let e := s.atIssue f
     issues mdrnnSpec false f s = true ∧ matTurn e true true = none ∧ room e f true = true ∧ e.openObj (robjX f) = some (objOf false 1) ∧
     (e.quadCur e.w).map (·.ikind) = some false) := by decide +kernel

/-- A wave that is not its quad's leader. -/
def follower : State := work.withW fun w => { w with idx := 1 }

theorem witness_EngineInstructionsTrap :
    (∀ x ∈ [(mzeroSpec, fabc 0 0 656 657 0 0), (mfmtSpec, fabc 6 0 0 0 0 0), (mbankSpec, fabc 0 16 0 0 0 0), (mdrnSpec, fimm 8 0 0 0 0 0 0),
        (mdrnnSpec, fabc 0 0 260 262 0 0), (mloopSpec, fimm 10 16 262 657 264 2 1024)],
      (∀ s ∈ [work, follower], issues x.1 false (withFlag x.2) s = true) ∧ matTurn (work.atIssue (withFlag x.2)) true true = some 0x0130 ∧
      matTurn (follower.atIssue (withFlag x.2)) true false = some 0x0134) ∧
    (∀ v ∈ [0, 2 ^ 28 + 1, 16], let f := withFlag (fabc 0 0 657 260 0 0)
     let e := (pairAt work 4 v).atIssue f
     issues mzeroSpec false f (pairAt work 4 v) = true ∧ matTurn e true false = none ∧
     (e.srcB f 18 0 = 0 ∨ 2 ^ 28 < e.srcB f 18 0 ∨ (e.srcB f 18 0 + 15) / 16 ≤ e.srcA f 18 0)) ∧
    (∀ x ∈ [(255, 0), (16, 1)], let f := withFlag (fabc 0 x.1 0 0 0 0)
     let s : State := { claimed (quadOf false none [1, 1, 1, 1] []) with others := if x.2 = 1 then [{ work.w with uid := 95, idx := 2, status := .ended }] else [] }
     let s := { s with engines := s.engines.map fun e => (e.1, { e.2 with claim := some (quadOf false none [1, 1, 0, 1] []) }) }
     let e := s.atIssue f
     issues mbankSpec false f s = true ∧ matTurn e true true = none ∧
     (e.quadCur e.w).map (fun q => (badBlock e q.ibfmt (vecNum f.d), e.blocksGone q 1)) = some (x.2 == 0, x.2 == 1)) ∧
    (∀ m ∈ [1, 3], mdrnSpec.vals { fimm 14 0 0 0 0 0 0 with mod := m } = some 0x0103) ∧
    (∀ x ∈ [(true, fimm 8 0 0 0 0 1 0), (false, fimm 0 0 0 0 0 2 0), (false, fimm 8 0 0 0 0 1 0xC1)],
     let f := withFlag x.2
     let s := claimed (quadOf x.1 none [1, 1, 1, 1] [])
     issues mdrnSpec false f s = true ∧ matTurn (s.atIssue f) true true = none ∧
     ((s.atIssue f).quadCur (s.atIssue f).w).map (·.ikind) = some x.1) ∧
    (∀ int ∈ [true, false], let f := withFlag (fabc 0 0 260 262 0 0x40)
     let s := claimed (quadOf int none [1, 1, 1, 1] [])
     issues mdrnnSpec false f s = true ∧ matTurn (s.atIssue f) true true = none ∧ (s.atIssue f).openObj (robjX f) = none) := by decide +kernel

theorem witness_MatrixLoopQueues :
    (∀ x ∈ [(none, 657), (some 10, 657), (none, 660), (some 10, 660)],
     let f := withFlag (fimm 10 16 262 x.2 264 2 1024)
     let s := pairAt (pairAt (claimed (quadOf false x.1 [1, 1, 1, 1] [])) 6 0) 8 0
     let s : State := s.withW fun w => { w with k := { w.k with scratch := 0x10000 } }
     let e := s.atIssue f
     let n := e.srcB f 18 0
     let pre := if x.1.isSome then 1 else 0
     let a : Word := BitVec.ofNat 32 (e.srcA f 18 0)
     issues mloopSpec false f s = true ∧ matTurn e true true = none ∧ room e f true = true ∧ n ≠ 0 ∧ n ≤ 2 ^ 24 ∧
     (e.quadCur e.w).map (fun q => decide (e.srcC f 18 0 = q.inext ∧ q.inext + n ≤ (q.ik + 15) / 16) && matInt f.ty.toNat == q.ikind &&
       matInt q.ibfmt == q.ikind && !stackOverflows q.istart q.inext n && !e.blocksGone q (n - pre) &&
       ((List.range n).drop pre).all fun i => !badBlock e q.ibfmt ((16 : Int) + (i : Int) * 2)) = some true ∧
     badStream e a f.imm.toInt (matSize f.ty.toNat) n = false) ∧
    (let f := withFlag (fimm 10 16 262 656 264 2 1024)
     let s := pairAt (pairAt (claimed (quadOf false none [1, 1, 1, 1] [])) 6 0) 8 0
     let e := s.atIssue f
     issues mloopSpec false f s = true ∧ matTurn e true true = none ∧ e.srcB f 18 0 = 0 ∧ e.matesFull f = false ∧
     (e.quadCur e.w).map (fun q => decide (e.srcC f 18 0 = q.inext ∧ q.inext ≤ (q.ik + 15) / 16) && matInt f.ty.toNat == q.ikind) = some true ∧
     badStream e (BitVec.ofNat 32 (e.srcA f 18 0)) f.imm.toInt (matSize f.ty.toNat) 0 = false) ∧
    (∀ x ∈ [(quadOf false none [1, 1, 1, 1] [], 1, 0, false, false), (quadOf true none [1, 1, 1, 1] [], 0, 0, false, false),
        ({ quadOf false none [1, 1, 1, 1] [] with ik := 2 ^ 18, istart := 1, inext := 16382 }, 16382, 0, true, false),
        (quadOf false none [1, 1, 1, 1] [], 0, 8, false, true)],
     let f := withFlag (fimm 10 16 262 657 264 2 1024)
     let s := pairAt (pairAt (claimed x.1) 6 x.2.2.1) 8 x.2.1
     let s : State := s.withW fun w => { w with k := { w.k with scratch := 0x10000 } }
     let e := s.atIssue f
     issues mloopSpec false f s = true ∧ matTurn e true true = none ∧ e.quadCur e.w = some x.1 ∧ e.srcC f 18 0 = x.2.1 ∧
     stackOverflows x.1.istart x.1.inext (e.srcB f 18 0) = x.2.2.2.1 ∧
     badStream e (BitVec.ofNat 32 (e.srcA f 18 0)) f.imm.toInt (matSize f.ty.toNat) (e.srcB f 18 0) = x.2.2.2.2 ∧
     e.absentCore (BitVec.ofNat 32 (e.srcA f 18 0)) = false) ∧
    (let f := withFlag (fimm 10 16 262 657 264 2 1024)
     let s : State := { pairAt work 6 0x80280000 with pkg := { work.pkg with cap := { work.pkg.cap with coreMap := 1 } } }
     issues mloopSpec false f s = true ∧ (s.atIssue f).absentCore (BitVec.ofNat 32 ((s.atIssue f).srcA f 18 0)) = true) := by decide +kernel

theorem witness_EngineStateInstructions :
    (let f := fabc 0 0 0 0 0 0
     let q := quadOf false none [0, 0, 0, 0] []
     let e := (claimed q).atIssue f
     issues mrdySpec false f (claimed q) = true ∧ e.w.vecPending = false ∧ (e.engine e.w.core).claim = some q ∧ q.ofWave e.w = true ∧
     issues mrdySpec false f work = true ∧ ((work.atIssue f).engine 0).claim = none ∧ ((work.atIssue f).engine 0).pending = []) ∧
    (∀ x ∈ [(16, 0, 0x0103), (16, 9, 0x0103), (252, 8, 0x0107), (16, 8, 0x0137)],
     let s := pairAt (pairAt work 6 250) 12 x.2.1
     let f := withFlag (fabc 18 x.1 262 0 268 0)
     let g := withFlag (fabc 18 0 262 x.1 268 0)
     issues (accRegSpec true) false f s = true ∧ accRegCheck (s.atIssue f) f f.d = some (BitVec.ofNat 16 x.2.2) ∧
     issues (accRegSpec false) false g s = true ∧ accRegCheck (s.atIssue g) g g.b = some (BitVec.ofNat 16 x.2.2)) ∧
    (∀ x ∈ [0, 3], issues mstatSpec false (withFlag (fabc 0 260 0 0 0 x)) work = true) ∧
    (∀ c ∈ [657, 664], let f := withFlag (fabc 18 16 262 0 c 63)
     let g := withFlag (fabc 18 0 262 16 c 0)
     issues (accRegSpec true) false f work = true ∧ accRegCheck (work.atIssue f) f f.d = none ∧
     issues (accRegSpec false) false g work = true ∧ accRegCheck (work.atIssue g) g g.b = none) ∧
    (let q := quadOf false none [0, 0, 0, 0] [{ cmd := .zero false 64 0, ops := [] }]
     let s := work.putEngine 0 { Engine.reset with pending := [q] }
     let t : State := { s with teams := s.teams.map fun t => { t with saved := some ((claimed q).engine 0) } }
     (s.engine 0).claim = none ∧ (s.engine 0).pending = [q] ∧ s.savedEngine q = none ∧ (t.engine 0).claim = none ∧ (t.engine 0).pending = [q] ∧
     (t.savedEngine q).isSome = true ∧ ((claimed q).engine 0).claim ≠ none) := by decide +kernel

theorem witness_EngineSteps :
    (∀ cmd ∈ [MCmd.zero false 64 0, .fmt 10, .bank 16, .loop 16 0 1 0 0 2 10 0, .loop 16 0 2 0 0 2 10 0, .drn 8 0 false false true 0 0, .drnn 0 0 0 true],
      let q := quadOf false none [1, 1, 1, 1] [{ cmd := cmd, ops := [] }]
      let e := (claimed q).engine 0
      e.claim = some q ∧ q.queue = [{ cmd := cmd, ops := [] }] ∧ e.bpre = false ∧ ∀ j, j < 4 → q.loads < nth 0 q.rdy j) ∧
    (let q := quadOf false none [1, 1, 0, 1] []
     ¬∀ j, j < 4 → q.loads < nth 0 q.rdy j) ∧
    (∃ e ∈ [{ (claimed (quadOf false none [0, 0, 0, 0] [])).engine 0 with bpre := true }], (0 : Nat) = 0 ∧ e.bpre = true) := by decide +kernel

/-! ### Witnesses: grids, reduction objects and collectives -/

/-- Little-endian numbers in memory: address, bytes, value. -/
def withNums (s : State) (l : List (Nat × Nat × Nat)) : State :=
  s.withM fun m => { m with mem := l.foldl (fun mem x => csetMany 0 mem x.1 (natBytes x.2.1 x.2.2)) m.mem }

/-- A page as the units of die 0 see it. -/
def unitPage (va cls : Nat) : TlbEnt := { page va cls with unit := 256 }

/-- The machine with pages of classes 0, 2 and 3 and the host-readable class 1 for the units of die 0, a grid descriptor at 0x48000 and an
object descriptor at 0x18000. -/
def units : State :=
  let s := work.withM fun m => { m with
    tlb := [unitPage 0x10000 0, unitPage 0x20000 1, unitPage 0x30000 3, unitPage 0x40000 2, page 0x10000 0, page 0x40000 2] }
  withNums s [(0x48000, 8, 2 + 2 ^ 8 + 2 * 2 ^ 20 + 4 * 2 ^ 24), (0x48008, 8, 0x40000), (0x48010, 4, 3), (0x40000, 4, 0x3F800000),
    (0x18000, 8, 0x40000), (0x18008, 8, 4), (0x18010, 8, 16), (0x18018, 8, 1 + 2 ^ 32)]

/-- A grid of two dimensions and one level over the page of class 2. -/
def gridOf : Grid := { robj := 0, log2t := 4, efmt := 2, log2f := 0, levels := 1, dims := 2, base := 0x40000, res := [3], mults := [] }

/-- Handle 0 of the wave's team is bound to it, and object 0 is open for its gradients. -/
def bound : State := withObj { units with grids := [(gridKey units.w.team 0, gridOf)] } (objOf true 1)

/-- Vector register 20 holds coordinates, 24 a gradient. -/
def gridF : Fields := withFlag (fabc 8 16 0 0 0 0)

/-- The handle may be used, decided. -/
def usable (s : State) (g : Grid) (f : Fields) : Bool :=
  !s.binding (gridX f) && s.grid? s.w.team (gridX f) == some g && decide (vecNum f.a + g.dims ≤ s.w.k.vregs) &&
    !groupBad s.w.r (vecNum f.a) g.dims (activeMask s.w.r f)

theorem witness_GridInstructionsIssue :
    (∀ x ∈ [0, 7], let f := withFlag (fabc 0 0 260 0 0 x)
     let s := pairAt units 4 0x48000
     issues gbindSpec false f s = true ∧ canonicalVa (BitVec.ofNat 64 ((s.atIssue f).srcA f 19 0)) = true ∧
     (BitVec.ofNat 64 ((s.atIssue f).srcA f 19 0)).toNat % 128 = 0 ∧ (s.atIssue f).binding (gridX f) = false) ∧
    (let f := withFlag (fabc 0 0 656 0 0 0)
     issues gbindUnbindSpec false f bound = true ∧ (bound.atIssue f).binding (gridX f) = false) ∧
    (let f := { gridF with a := 4 }
     issues gldSpec false f bound = true ∧ usable (bound.atIssue f) gridOf f = true ∧
     vecNum f.d + gridOf.levels * gridOf.feats ≤ (bound.atIssue f).w.k.vregs) ∧
    (let f := { gridF with d := 0, a := 4, b := 8, c := 10 }
     let e := bound.atIssue f
     issues gscSpec false f bound = true ∧ usable e gridOf f = true ∧ vecNum f.b + gridOf.levels * gridOf.feats ≤ e.w.k.vregs ∧
     groupBad e.w.r (vecNum f.b) (gridOf.levels * gridOf.feats) (activeMask e.w.r f) = false ∧
     e.openObj gridOf.robj = some (objOf true 1) ∧ (objOf true 1).desc.sparse = true ∧ (objOf true 1).desc.opr = 0) ∧
    (let f := { gridF with a := 4, b := 656, c := 657 }
     issues ghashSpec false f bound = true ∧ usable (bound.atIssue f) gridOf f = true) ∧
    (∀ x ∈ [(2 ^ 60, false, 0), (0x48040, true, 64)], let f := withFlag (fabc 0 0 260 0 0 0)
     let s := pairAt units 4 x.1
     let va : DWord := BitVec.ofNat 64 ((s.atIssue f).srcA f 19 0)
     issues gbindSpec false f s = true ∧ canonicalVa va = x.2.1 ∧ va.toNat % 128 = x.2.2) ∧
    (∀ x ∈ [(gldSpec, { gridF with a := 4 }), (gscSpec, { gridF with d := 0, a := 4, b := 8, c := 10 }), (ghashSpec, { gridF with a := 4, b := 656, c := 657 })],
     let dirty := bound.withR fun r => { r with bad := [64 * 5 + 3] }
     let wide := { x.2 with a := 255 }
     issues x.1 false x.2 units = true ∧ (units.atIssue x.2).binding (gridX x.2) = false ∧ (units.atIssue x.2).grid? (units.atIssue x.2).w.team (gridX x.2) = none ∧
     issues x.1 false wide bound = true ∧ ¬(vecNum wide.a + gridOf.dims ≤ (bound.atIssue wide).w.k.vregs) ∧ issues x.1 false x.2 dirty = true ∧
     groupBad (dirty.atIssue x.2).w.r (vecNum x.2.a) gridOf.dims (activeMask (dirty.atIssue x.2).w.r x.2) = true) ∧
    (let f := { gridF with d := 0, a := 4, b := 8, c := 10 }
     let s := withObj bound (objOf true 0)
     issues gscSpec false f s = true ∧ usable (s.atIssue f) gridOf f = true ∧ (s.atIssue f).openObj gridOf.robj = none) := by decide +kernel

/-- A lattice instruction with serial number 70. -/
def latOf (binds grads : Bool) : Lattice :=
  { bound.newLattice 0 with
    id := 70, lanes := 3, dst := 16, grid := if binds then none else some gridOf,
    bindTo := if binds then some (0, 0x48000) else none, grads := if grads then some [] else none }

/-- It stands in the unit. -/
def latticeAt (x : Lattice) : State := { bound with lattices := [x] }

/-- What reading a binding's descriptor gives. -/
def descReads (s : State) (va : DWord) : Option (Option Nat) :=
  match s.latRead (latOf true false) [0, 2] va 128 with | (.inr bs, _) => some (Grid.bad bs) | _ => none

/-- The code of a lane's next entry read, 0 for one that returns its data. -/
def entryRead (s : State) (x : Lattice) (g : Grid) (lane : Nat) : Nat :=
  let cs := g.corners x.level (coordsOf x.coords g.dims lane)
  let ix := match cs.1[x.got.length]? with | some c => c.1 | none => 0
  match s.latRead x [2] (g.base + BitVec.ofNat 64 ((x.level * 2 ^ g.log2t + ix) * (g.feats * g.esize))) (g.feats * g.esize) with
  | (.inr _, _) => 0
  | (.inl c, _) => c.1.toNat

theorem witness_LatticeUnitWorks :
    (∀ x ∈ [latOf true false, latOf false false, latOf false true], (latticeAt x).lattices.find? (fun y => y.id == 70) = some x ∧
      (latticeAt x).latWaits x = false ∧ (latticeAt { x with suspended := true }).latWaits { x with suspended := true } = true) ∧
    descReads (latticeAt (latOf true false)) 0x48000 = some none ∧ descReads (latticeAt (latOf true false)) 0x48080 = some (some 0) ∧
    descReads (latticeAt (latOf true false)) 0x90000 = none ∧
    (∀ v ∈ [(0, [], some 0), (1, [some [0, 0, 0, 0]], some 1), (2, [], none)], let x := { latOf false false with lane := v.1, got := v.2.1 }
     let s := latticeAt x
     ((lanesOf x.lanes).filter fun l => l / 16 == x.group)[x.lane]? = v.2.2 ∧ x.bindTo = none ∧ x.grid = some gridOf ∧ x.grads = none ∧
     entryRead s x gridOf v.1 = 0 ∧ entryRead (s.withM fun m => { m with poison := [sectorOf 0x40000] }) x gridOf v.1 = 0x0501 ∧
     entryRead s x { gridOf with base := 0x90000 } v.1 = 0x0202) ∧
    (latticeAt (latOf false true)).robj? 1 gridOf.robj = some (objOf true 1) := by decide +kernel

/-- Every lane's element and tag are in range, decided. -/
def inRange (s : State) (f : Fields) (o : RObj) (tagged : Bool) : Bool :=
  (memLanes s f).all fun l => decide (s.srcA f 3 l < o.desc.m) &&
    (if tagged then namesNode o.desc.n (s.srcB f 3 l / 2 ^ 58) (s.srcB f 3 l % 2 ^ 58) else namesNode o.desc.n 0 (s.srcB f 3 l))

/-- `ropen` finds its descriptor good and its home, decided. -/
def opens (s : State) (f : Fields) : Bool :=
  let e := s.atIssue f
  let eng := e.engOf 0 e.w
  match (e.startOp f false false).2.engResolve eng false (BitVec.ofNat 64 (e.srcA f 19 0)) 64 with
  | (.inr ls, u) =>
    let (bs, v) := u.engBytes u.w.ctx ls
    let d := RDesc.ofBytes bs
    let r := (v.dropPins 0 []).rangeHome eng d
    RDesc.bad v.pkg.cap.fp64 bs == none && r.1 == some none &&
      (if f.x.getLsbD 6 then r.2.clearSpill eng d else some r.2).isSome
  | _ => false

/-- The object descriptor of a region for its partials too, in the page of class 3. -/
def regioned : State := pairAt (withNums units [(0x18028, 8, 0x30000 + 4)]) 4 0x18000

theorem witness_ContributionsIssue :
    (∀ ty ∈ [8, 10], let f := withFlag (fabc ty 0 657 658 700 0)
     let s := withObj units (objOf true 1)
     issues ctbSpec false f s = true ∧ (s.atIssue f).openObj (robjX f) = some (objOf true 1) ∧
     inRange (s.atIssue f) f (objOf true 1) false = true ∧ inRange (s.atIssue f) f (objOf true 1) true = true) ∧
    (∀ home ∈ [true, false], let f := withFlag (fabc 0 0 0 0 0 0)
     let o : RObj := { objOf true 1 with home := home, chip := if home then 0 else 1 }
     let s := withObj units o
     issues rcloseSpec false f s = true ∧ (s.atIssue f).openObj (robjX f) = some o ∧ o.desc.sparse = true ∧ (s.atIssue f).stillSends = false) ∧
    (let f := withFlag (fabc 0 260 0 0 0 0xC0)
     issues rstatSpec false f units = true) ∧
    (∀ x ∈ [0, 0x40], let f := withFlag (fabc 0 0 260 0 0 x)
     let s := regioned
     issues ropenSpec false f s = true ∧ ((s.atIssue f).robj? (s.atIssue f).w.ctx (robjX f)).isNone = true ∧
     canonicalVa (BitVec.ofNat 64 ((s.atIssue f).srcA f 19 0)) = true ∧ (BitVec.ofNat 64 ((s.atIssue f).srcA f 19 0)).toNat % 64 = 0 ∧
     (s.atIssue f).storesPending = false ∧ opens s f = true) := by decide +kernel

/-- What `ropen` finds at its address: the field that fails, and whether the range has a home and the spill region can be cleared. -/
def openFinds (s : State) (f : Fields) : Option (Option (BitVec 16 × Nat) × Bool × Bool) :=
  let e := s.atIssue f
  let eng := e.engOf 0 e.w
  match (e.startOp f false false).2.engResolve eng false (BitVec.ofNat 64 (e.srcA f 19 0)) 64 with
  | (.inr ls, u) =>
    let (bs, v) := u.engBytes u.w.ctx ls
    let d := RDesc.ofBytes bs
    let r := (v.dropPins 0 []).rangeHome eng d
    some (RDesc.bad v.pkg.cap.fp64 bs, r.1.isSome, (r.2.clearSpill eng d).isSome)
  | _ => none

theorem witness_ContributionsTrap :
    (∀ x ∈ [(ctbSpec, fabc 8 0 657 658 700 0), (rcloseSpec, fabc 0 0 0 0 0 0)],
     issues x.1 false (withFlag x.2) units = true ∧ (units.atIssue (withFlag x.2)).openObj (robjX x.2) = none) ∧
    (∀ x ∈ [(660, 658), (657, 672)], let f := withFlag (fabc 8 0 x.1 x.2 700 0)
     let s := withObj units (objOf true 1)
     issues ctbSpec false f s = true ∧ inRange (s.atIssue f) f (objOf true 1) false = false) ∧
    (let f := withFlag (fabc 0 0 0 0 0 0)
     let s := withObj units (objOf false 1)
     issues rcloseSpec false f s = true ∧ (s.atIssue f).openObj (robjX f) = some (objOf false 1)) ∧
    (let f := withFlag (fabc 0 0 260 0 0 0x40)
     let shifted := fun (va w : Nat) => withNums regioned [(va, 8, w)]
     issues ropenSpec false f (withObj regioned (objOf true 1)) = true ∧
     ((withObj regioned (objOf true 1)).atIssue f).robj? 1 (robjX f) = some (objOf true 1) ∧
     openFinds regioned f == some (none, true, true) ∧ (openFinds (shifted 0x18018 (2 ^ 40)) f).map (·.1.isSome) == some true ∧
     openFinds (shifted 0x18000 0x90000) f == some (none, false, true) ∧ openFinds (shifted 0x18028 0x90004) f == some (none, true, false)) := by
  decide +kernel

/-! ### Witnesses: partials, collectives and translation -/

/-- A partial of object 0, element 2, leaf 5. -/
def partialOf (o : RObj) : Partial :=
  { o.blank 1 with elem := 2, index := 5, val := 0x3F800000 }

/-- Its object is open, and it waits in core 0's buffer. -/
def waiting : State := { withObj units (objOf true 1) with coreBuf := [(0, [{ part := partialOf (objOf true 1), since := 0 }])], clock := 300 }

theorem witness_PartialsArrive :
    let o := objOf true 1
    let p := partialOf o
    let due := fun (o : RObj) => o.state = 1 ∧ o.home = true ∧ o.oseq = 3 ∧ o.desc.sparse = true ∧ (lookup o.closes 127).getD 0 < o.desc.closes
    let away : Mesh → Bool := fun x => match x with | .part _ q _ => q == p | _ => false
    let homeward : Mesh → Bool := fun x => match x with | .part m q _ => m == homeSlice 0x18000 && q == p | _ => false
    (∀ f ∈ [away, homeward], let s : State := { waiting with mesh := [.part (homeSlice 0x18000) p none] }
      let h : State := { withObj (porting (accOf .store 0 false .port)) o with mesh := [.part (homeSlice 0x18000) p (some (0, 60))] }
      s.mesh.any f = true ∧ (s.fromMesh f).isSome = true ∧ h.mesh.any f = true ∧ (h.fromMesh f).isNone = true) ∧
    waiting.mesh = [] ∧ waiting.bypassed (.core 0) = false ∧ waiting.ctxStopped 1 = false ∧
    (waiting.mapCtx 1 fun c => { c with stopped := true }).ctxStopped 1 = true ∧ State.bypassed { waiting with bypass := [0] } (.core 0) = true ∧
    (waiting.bufOf (.core 0)).find? (fun w => w.part == p) = some { part := p, since := 0 } ∧ 0 + (BufRef.core 0).limits.2 ≤ waiting.clock ∧
    (∃ s ∈ [{ waiting with clock := 255 }], s.clock < 0 + (BufRef.core 0).limits.2) ∧
    waiting.robj? p.ctx p.idx = some o ∧ o.state = 1 ∧ o.home = true ∧ o.oseq = p.oseq ∧ p.kind = (if o.desc.sparse then 1 else 0) ∧
    p.opr = o.desc.opr ∧ p.fmt = o.desc.fmt ∧ p.n = o.desc.n ∧ work.robj? p.ctx p.idx = none ∧
    (withObj work { o with state := 2 }).robj? p.ctx p.idx = some { o with state := 2 } ∧
    (withObj work { o with desc := { o.desc with n := 8 } }).robj? p.ctx p.idx = some { o with desc := { o.desc with n := 8 } } ∧ p.n ≠ 8 ∧
    (∀ x ∈ [o, { o with closes := [(127, 1)] }, { o with closes := [(127, 2)] }, { o with closes := [(127, 2)], lateClose := [(0, 0)] }],
      let s : State := { withObj work x with mesh := [.close 127 1 0 3 none 0 LKey.none] }
      s.robj? 1 0 = some x ∧ s.mesh = [Mesh.close 127 1 0 3 none 0 LKey.none]) ∧
    due o ∧ (lookup o.closes 127).getD 0 + 1 < o.desc.closes ∧ due { o with closes := [(127, 1)] } ∧ 1 + 1 = o.desc.closes ∧
    ¬due { o with closes := [(127, 2)] } ∧ o.lateClose.contains (0, 0) = false ∧ [(0, 0)].contains ((0, 0) : Nat × Nat) = true := by decide +kernel

/-- A communicator of one dimension and this chip alone. -/
def commOne : Comm := { prio := 0, sizes := [1], bufKib := 64, ranks := [0] }

/-- A context with it as entry 3, and an instance numbered k of it at a stage. -/
def withColl (s : State) (l : List Coll) : State := s.mapCtx 1 fun c => { c with comms := [(3, commOne)], colls := l, collNext := [(3, 8)] }

/-- An instance in flight. -/
def instOf (sent written : Nat) : Coll :=
  { Coll.fresh 3 7 with
    started := true, sent := sent, written := written, inputs := [(0, 0, 7)], starts := [(0, digestOf commOne (CDesc.ofBytes []))]
    desc := some (CDesc.ofBytes (natBytes 8 0x18000 ++ natBytes 8 0x18100 ++ natBytes 8 0x1000000 ++ natBytes 8 0 ++ natBytes 2 1 ++ natBytes 30 0)) }

/-- Queue 2 holds a packet in slot 4 of a type, its payload given from word 2. -/
def queued (s : State) (type stage : Nat) (payload : List Nat) : State :=
  { s with queues := [{
    num := 2, ring := 0x18000, widx := 0x18400, ridx := 0x18408, log2 := 4, prio := 0, ctx := 1, widxPa := 0x18400, next := 5,
    signalled := true, stopped := false, fault := none,
    packets := [{ queue := 2, slot := 4, stage := stage, words := ([4 * 2 ^ 16 + type, 0] ++ payload).map (BitVec.ofNat 64), table := none,
                  dropped := [] }],
    unreg := false, looking := true, reread := none, served := 0 }] }

theorem witness_CollectivesRun :
    (let f := withFlag (fabc 0 260 260 0 0 3)
     let s := withColl (pairAt work 4 0x18040) []
     let e := s.atIssue f
     issues collFields false f s = true ∧ e.comm? e.w.ctx (commX f) = some commOne ∧ canonicalVa (BitVec.ofNat 64 (e.srcA f 19 0)) = true ∧
     (BitVec.ofNat 64 (e.srcA f 19 0)).toNat % 64 = 0 ∧ e.storesPending = false) ∧
    (∀ v ∈ [(0x18041, true), (2 ^ 60, false)], let f := withFlag (fabc 0 260 260 0 0 3)
     let s := withColl (pairAt work 4 v.1) []
     let va : DWord := BitVec.ofNat 64 ((s.atIssue f).srcA f 19 0)
     issues collFields false f s = true ∧ canonicalVa va = v.2 ∧ (v.2 = true → va.toNat % 64 ≠ 0) ∧
     issues collFields false f work = true ∧ (work.atIssue f).comm? 1 (commX f) = none) ∧
    (∀ a ∈ [(664, 0), (663, 0), (663, 1), (663, 2), (662, 0)], let f := withFlag (fabc 0 260 a.1 0 0 3)
     let x := { instOf 0 0 with stage := a.2 }
     let s := withColl work [x]
     let e := s.atIssue f
     let k : Word := BitVec.ofNat 32 (e.srcA f 18 0)
     let newest := e.nextInst e.w.ctx (commX f) - 1
     issues collxSpec false f s = true ∧ e.comm? e.w.ctx (commX f) = some commOne ∧
     (if a.1 = 664 then 1 ≤ (k - newest).toNat ∧ (k - newest).toNat ≤ 255
      else (newest - k).toNat ≤ 255 ∧ ¬(1 ≤ (k - newest).toNat ∧ (k - newest).toNat ≤ 255) ∧
        e.coll? e.w.ctx (commX f) k = if a.1 = 663 then some x else none)) ∧
    (∀ va ∈ [0x18040, 0x18041, 2 ^ 60], let s := queued (withColl work []) 6 0 [va, 3]
     (s.ready 2 4 6).isSome = true ∧ (s.stagePacket 2 4 1).comm? 1 3 = some commOne) ∧
    (queued work 6 0 [0x18040, 3]).comm? 1 3 = none ∧ (withColl work []).comm? 1 5 = none ∧
    (∀ x ∈ [(instOf 0 0, CollStep.send), (instOf 4 0, .write), (instOf 4 4, .done), ({ instOf 0 0 with starts := [] }, .wait)],
     let s := withColl work [x.1]
     s.coll? 1 3 7 = some x.1 ∧ s.comm? 1 3 = some commOne ∧ x.1.desc.map (fun d => s.collNextStep 1 x.1 d commOne) = some x.2 ∧
     x.1.desc.map (fun d => s.collWritten 1 x.1 d commOne) = some (x.2 == .done)) := by decide +kernel

/-- A walk of die 0 for a page, serial number 80, the root table at 0x20000 with a leaf of 64 KiB pages five levels down. -/
def walking : State :=
  let e := fun (pa : Nat) => pa * 1 + 1
  let s := withNums work [(0x20000, 8, e 0x21000), (0x21000, 8, e 0x22000), (0x22000, 8, e 0x23000), (0x23000, 8, e 0x24000),
    (0x24000 + 8, 8, 0x50000 + 0x1F)]
  (s.mapCtx 1 fun c => { c with ptRoot := 0x20000 }).withM fun m => { m with
    walks := [{ id := 80, die := 0, ctx := 1, page := 1, waiters := [s.w.uid] }, { id := 81, die := 0, ctx := 1, page := 2, waiters := [s.w.uid] }]
    invs := [{ id := 82, ctx := none, va := none, pre := [], began := true, accs := [], held := [], op := some (s.w.uid, 0) }] }

theorem witness_TranslationEvents :
    (let s := pairAt work 4 0x18000
     issues tlbiVaSpec false (withFlag (fabc 0 0 260 262 0 0)) s = true ∧
     canonicalVa (BitVec.ofNat 64 ((s.atIssue (withFlag (fabc 0 0 260 262 0 0))).srcA (withFlag (fabc 0 0 260 262 0 0)) 19 0)) = true ∧
     (let f := withFlag (fabc 0 0 260 262 0 0)
      let e := (pairAt work 4 (2 ^ 60)).atIssue f
      issues tlbiVaSpec false f (pairAt work 4 (2 ^ 60)) = true ∧ canonicalVa (BitVec.ofNat 64 (e.srcA f 19 0)) = false) ∧
     issues tlbiCtxSpec false (withFlag (fabc 0 0 262 0 0 1)) s = true ∧ issues tlbiAllSpec false (withFlag (fabc 0 0 0 0 0 2)) s = true) ∧
    (∀ id ∈ [80, 81], ∀ x ∈ (walking.m.walks.find? (fun x => x.id == id)).toList,
      (match (walking.walk x.die x.ctx (x.page * 2 ^ 16)).1 with | .leaf _ _ => id == 80 | .fail _ _ => id == 81) = true) ∧
    (∃ x ∈ walking.m.invs, walking.m.invs.find? (fun x => x.id == 82) = some x ∧ x.began = true ∧ walking.invReady x = true ∧
      walking.invDone x = true ∧ x.op = some (walking.w.uid, 0) ∧
      (porting (accOf .store 0 false .port)).invReady { x with pre := [50] } = false ∧
      (porting (accOf .store 0 false .port)).invDone { x with accs := [50] } = false ∧
      walking.invReady { x with began := false } = true ∧
      ((walking.invBegin { x with began := false }).m.invs.find? (fun y => y.id == 82)).isSome = true) := by decide +kernel

/-! ### Witnesses: saving and links -/

/-- A second team on core 0, its one wave halted in slot 1: no vector registers. -/
def mateWave : Wave :=
  { bootWave 91 with uid := 91, team := 90, slot := 1, status := .halted, k := { (bootWave 91).k with vregs := 0, quads := 0, sregs := 128 } }

/-- Its team. -/
def mateTeam : Team := { uid := 90, core := 0, ctx := 1, key := LKey.none, idx := 0, k := mateWave.k, base := 0x8000, slot0 := 1, wins := [], bars := [], saved := none }

/-- The image of that team. -/
def mateImage : Image :=
  { id := 7, top := 100, addr := 0, size := 0, ctx := 1, held := false, team := mateTeam, waves := [mateWave], engine := none, copies := [], cwaits := [], lattices := [],
    inSaveArea := false }

/-- A privileged wave, the second team beside it, s10:s11 = 0x38000, s6 = 256: core 0, slot 1. -/
def saving : State :=
  let s := pairAt (work.withM fun m => { m with tlb := [unitPage 0x30000 3, page 0x30000 3] }) 6 256
  { s with teams := s.teams ++ [mateTeam], others := [mateWave] }

/-- The operands. -/
def saveF (x : Nat) : Fields := withFlag (fabc 0 0 266 262 0 x)

/-- What `csave` finds: the team named, a place for the image, and whether all of it can be written, decided. -/
def saves (s : State) (f : Fields) (all : Bool) : Bool :=
  let e := s.atIssue f
  let b := e.startOp f false false
  let va : DWord := BitVec.ofNat 64 (e.srcA f 19 0)
  issues saveSpec false f s && e.teams.find? (fun t => t.core == e.srcB f 18 0 % 256 && t.slot0 == field (e.srcB f 18 0) 8 7) == some mateTeam &&
    decide (mateTeam.uid ≠ e.w.team) && (e.teamWaves mateTeam.uid).all Wave.halts && (match e.imageAt .write va with | .ok _ => true | _ => false) &&
    e.teamQuiet mateTeam &&
    (State.writeImage { b.2 with nextId := b.2.nextId + 1 } e.w b.1 va (b.2.imageBytes (b.2.teamImage mateTeam 0 (!f.x.getLsbD 0)))).1 == all

theorem witness_SaveAndRestore :
    (∀ x ∈ [0, 1], saves saving (saveF x) true = true) ∧
    saves (saving.withM fun m => { m with tlb := [page 0x30000 3] }) (saveF 0) false = true ∧
    (let s := pairAt saving 6 512
     let e := s.atIssue (saveF 0)
     issues saveSpec false (saveF 0) s = true ∧
     e.teams.find? (fun t => t.core == e.srcB (saveF 0) 18 0 % 256 && t.slot0 == field (e.srcB (saveF 0) 18 0) 8 7) = none) ∧
    (let s := pairAt { saving with pkg := { work.pkg with cap := { work.pkg.cap with coreMap := 1 } } } 6 257
     issues saveSpec false (saveF 0) s = true ∧ (s.atIssue (saveF 0)).corePresent ((s.atIssue (saveF 0)).srcB (saveF 0) 18 0 % 256) = false) ∧
    (∃ c ∈ [{ bootCtx with stopped := true }], ∃ s ∈ [{ saving with ctxs := [c], teams := [mateTeam] }], s.ctx? 1 = some c ∧
      s.savable c = true) ∧
    (∃ c ∈ [{ bootCtx with stopped := true, restoring := some [] }], ∃ s ∈ [{ saving with ctxs := [c] }],
      let u := s.mapCtx 1 fun c => { c with restoring := if c.stopped then some (assign 0 0 (c.restoring.getD [])) else c.restoring }
      (u.ctx? 1).map (fun c => u.restoreMeets c) = some true) ∧
    base.ctx? 1 = some bootCtx ∧ base.savable bootCtx = false ∧ base.restoreMeets bootCtx = false := by decide +kernel

/-- An image stands at 0x38000: its header, and what of the rest is not 0. -/
def savedAs (bs : List Byte) : State :=
  let mem := ((bs.take 256).zipIdx.map fun (b, i) => (0x38000 + i, b)) ++
    (bs.drop 256).zipIdx.filterMap fun (b, i) => if b ≠ 0 then some (0x38100 + i, b) else none
  { saving with teams := work.teams, others := [], m := { saving.m with mem := mem } }

/-- The image's bytes. -/
def mateBytes : List Byte := saving.imageBytes mateImage

/-- The state in which its `crest` begins. -/
def crestAt : State := (savedAs mateBytes).atIssue (saveF 0)

/-- Reading n bytes of the image: they resolve, and the bytes with the state they leave. -/
def crestReads (s : State) (n : Nat) : Bool × List Byte × State :=
  match s.engResolve (s.engOf 0 crestAt.w) false (BitVec.ofNat 64 (crestAt.srcA (saveF 0) 19 0)) n with
  | (.inr ls, u) => (true, u.engBytes crestAt.w.ctx ls)
  | (.inl _, u) => (false, [], u)

/-- The header, and then the image. -/
def crestHeader : Bool × List Byte × State := crestReads (crestAt.startOp (saveF 0) false false).2 256
def crestImage : Bool × List Byte × State := crestReads crestHeader.2.2 (at4 crestHeader.2.1 0x20 8)

theorem headerOk_of {hd : List Byte} (h1 : hd.take 6 = [0x44, 0x4C, 0x53, 0x56, 1, 0])
    (h2 : (hd.drop 0x28).take 4 = natBytes 4 Config.microcodeRevision.toNat) (h3 : 256 ≤ at4 hd 0x20 8 ∧ at4 hd 0x20 8 ≤ 2 ^ 24) :
    headerOk hd = true := by
  rw [headerOk, h1, h2, beq_self_eq_true, beq_self_eq_true, decide_eq_true h3]; rfl

theorem witness_RestoreHeader : headerOk crestHeader.2.1 = true := headerOk_of (by decide +kernel) (by rfl) (by decide +kernel)

theorem witness_RestoreImage :
    issues saveSpec false (saveF 0) (savedAs mateBytes) && crestAt.corePresent (crestAt.srcB (saveF 0) 18 0 % 256) &&
    (match crestAt.imageAt .read (BitVec.ofNat 64 (crestAt.srcA (saveF 0) 19 0)) with | .ok _ => true | _ => false) &&
    crestHeader.1 && crestImage.1 && (match crestImage.2.2.imageOf crestImage.2.1 with
      | some im => (crestImage.2.2.fits im.team.k 0).isSome | none => false) = true := by decide +kernel

/-! ### Witnesses: links, queues, packets and launches -/

/-- Port 2 trained, a lane of it failing. -/
def linked (fails : List (Nat × Nat)) : State := { work with ports := [(2, { Port.reset with width := 2, fails := fails })], inbox := [.collAbort 1 3 0 0x420] }

theorem witness_LinksCarryFlits :
    (linked []).inbox = [Msg.collAbort 1 3 0 0x420] ∧ (linked []).portUp 2 = true ∧ lookup ((linked []).port 2).fails 7 = none ∧
    ((linked [(7, 16)]).port 2).fails.find? (fun x => x.2 == 16) = some (7, 16) ∧
    ((assign 7 17 ((linked [(7, 16)]).port 2).fails).filter fun x => x.2 == 17).length ≤ 4 ∧ (linked [(7, 16)]).portUp 2 = true ∧
    (linked []).portPresent 2 = true ∧ ((linked []).port 2).width ≠ 0 ∧ ((linked []).port 2).enable = true ∧ work.portUp 2 = false ∧
    (∀ x ∈ ((linked [(7, 15)]).port 2).fails, x.2 ≠ 16) ∧
    (let fails := [(1, 17), (2, 17), (3, 17), (4, 17), (7, 16)]
     fails.find? (fun x => x.2 == 16) = some (7, 16) ∧ 4 < ((assign 7 17 fails).filter fun x => x.2 == 17).length) := by decide +kernel

/-- A machine whose units see the pages, and a queue of 16 slots at 0x20000 whose WIDX at 0x20400 is past slot 5. -/
def rings (words : List Nat) : State :=
  let s := withNums units ((0x20400, 8, 9) :: words.zipIdx.map fun x => (0x20140 + 8 * x.2, 8, x.1))
  { queued s 0 3 [] with queues := ((queued s 0 3 []).queues.map fun q => { q with ring := 0x20000, widx := 0x20400, ridx := 0x20408, widxPa := 0x20400 }) }

/-- What its next slot reads as: the stamp's case and whether the packet is malformed. -/
def slotReads (s : State) : Option (Nat × Bool) :=
  match s.queue? 2 with
  | some q => match s.dpRead q.ctx (q.slotVa q.next) 64 with
    | (.inr bs, _) => some (stampCase q.log2 (word (dwords bs) 0 / 2 ^ 16) q.next, malformed (dwords bs))
    | _ => none
  | none => none

theorem witness_QueuesAreServed :
    (∀ x ∈ [([5 * 2 ^ 16], 0, false), ([5 * 2 ^ 16 + 9], 0, true), ([21 * 2 ^ 16], 1, false), ([4 * 2 ^ 16], 2, false)],
      slotReads (rings x.1) = some x.2) ∧
    (∀ q ∈ ((rings []).queue? 2).toList, q.open = true ∧ q.looking = true ∧ q.fault = none ∧ q.reread = none ∧ q.stopped = false ∧
      q.next < (rings []).readPa ((rings []).slotFor q.ctx 1) q.widxPa 8 ∧ q.log2 ≤ 16 ∧
      (withNums (rings []) [(0x20400, 8, 5)]).readPa ((rings []).slotFor q.ctx 1) q.widxPa 8 ≤ q.next ∧
      (match (rings []).dpRead q.ctx ({ q with ring := 0x90000 }.slotVa q.next) 64 with | (.inl _, _) => true | _ => false) = true ∧
      ({ q with fault := some 5, looking := false } : Queue).open = true ∧ 4 < q.next ∧ q.widxPa < (rings []).hbmBytes ∧
      (match (rings []).widxNow { q with widxPa := 2 ^ 50 } with | (.inr w, _) => decide (q.next < w) | _ => false) = true ∧
      (match (rings []).widxNow { q with widxPa := 2 ^ 50, widx := 0x90000 } with | (.inl _, _) => true | _ => false) = true) ∧
    ((rings []).queue? 2).isSome = true := by decide +kernel

/-- What a WAIT packet finds at an address: nothing, its word, or its word with a release kept there. -/
def waitFinds (s : State) (scope : Nat) (va : DWord) : Nat :=
  match s.queue? 2 with
  | some q => match s.engResolve (engFor 0 q.ctx) false va 8 with
    | (.inr [.here pa _ m], u) => if ((u.dropPins 0 []).promoAt q.ctx scope 256 false pa m).isNone then 1 else 2
    | _ => 0
  | none => 9

theorem witness_PacketsBegin :
    (∀ t ∈ [0, 4, 5, 2, 6, 3, 1], ((queued units t 0 [0x20400, 9, 2 ^ 64 - 1, 0]).ready 2 4 t).isSome = true) ∧
    (∀ stage ∈ [0, 1], let s := queued units 4 stage [0x20400]
      (s.packet? 2 4).map (fun x => (x.2.type, x.2.stage)) = some (4, stage) ∧ waitFinds s 0 0x20400 = 1 ∧ waitFinds s 0 0x90000 = 0 ∧
      (∀ x ∈ ((queued units (4 + 2 ^ 11) stage [0x20400]).packet? 2 4).toList, x.2.scope = 1 ∧ x.2.type = 4) ∧
      waitFinds (s.withM fun m => { m with promos := [{ sp := false, kettle := true, loc := 0x20400, size := 8, core := 1, seqNo := 9, out := false }] }) 1 0x20400 = 2) ∧
    (∀ x ∈ [(16, 0x81, true), (18, 0x81, false), (36, 0x81, false), (16, 1, true)],
     let s := queued work 2 0 [0x20400, 0x20500, x.1, x.2.1]
     s.pkg.cap.sgather = true ∧ ((s.ready 2 4 2).map fun y => natBit (word y.2.words 5) 7) = some (x.2.1 == 0x81) ∧ s.patternBad 1 1 = none ∧
     (s.pattern 1 1).map (fun p => decide (x.1 % p.esize = 0 ∧ x.1 / p.esize ≤ p.counts.foldl (· * ·) 1)) = some x.2.2 ∧
     s.pattern 1 2 = none ∧ ((s.withM fun m => { m with poison := [0] }).patternBad 1 1).isSome = true ∧
     (({ s with pkg := { s.pkg with cap := { s.pkg.cap with sgather := false } } } : State).ready 2 4 2).isSome = true) := by decide +kernel

/-- A kernel header: 8 registers, 256 bytes of scratchpad, one wave. -/
def headerBytes (flags : Nat) : List (Nat × Nat × Nat) :=
  [(0x18000, 4, 0x4B4E4C44), (0x18004, 2, 1), (0x18006, 2, flags), (0x18008, 2, 8), (0x1800A, 2, 8), (0x1800C, 4, 256), (0x18010, 1, 1), (0x18028, 4, 64)]

/-- The launch of packet 4 of queue 2. -/
def keyOf : LKey := { chip := 0, queue := 2, slot := 4, node := none }

/-- It, of three teams, on this chip alone. -/
def launchOf (stage next : Nat) (k : Option Kernel) : Launch :=
  let s := queued units 1 1 [0x18000, 0, 3 + 2 ^ 32 + 2 ^ 48, 0, 1, 0]
  { s.newLaunch keyOf 1 (launchWords (((s.packet? 2 4).map fun x => x.2.words).getD []) 0x18100 0 none [0]) 0 with stage := stage, next := next, k := k }

/-- A machine that holds it. -/
def launching (l : Launch) : State := { withNums (queued units 1 1 [0x18000, 0, 3 + 2 ^ 32 + 2 ^ 48, 0, 1, 0]) (headerBytes 0) with launches := [l] }

/-- A LAUNCH packet to begin, its words from the third given. -/
def launchable (ws : List Nat) : State := withNums (queued units 1 0 ws) (headerBytes 0 ++ [(0x20000, 2, 0), (0x20002, 2, 5)])

/-- Its payload: good before the chips are read, good after, and whether every chip is reached. -/
def payloadCase (s : State) : Option (Bool × Bool × Bool) :=
  match s.ready 2 4 1 with
  | none => none
  | some (q, p) =>
    let a := s.stagePacket 2 4 1
    let named := if word p.words 5 = 0 then some (natBytes 2 a.pkg.chipNo, a)
      else match a.dpRead q.ctx (nth 0 p.words 5) (2 * word p.words 6) with | (.inr bs, u) => some (bs, u) | _ => none
    named.map fun x =>
      let chips := (List.range (word p.words 6)).map fun i => ofBytes ((x.1.drop (2 * i)).take 2)
      let waves := match (x.2.dpRead q.ctx (nth 0 p.words 2) 64).1 with | .inr h => (Kernel.ofBytes 0 h).waves | .inl _ => 0
      (payloadBad p.words [] 0, payloadBad p.words chips waves, chips.all fun c => x.2.reaches c)

theorem witness_LaunchesStart :
    (∀ x ∈ [([0x18000, 0, 3 + 2 ^ 32 + 2 ^ 48, 0, 1, 0], (false, false, true)), ([0x18000, 0, 0, 0, 1, 0], (true, true, true)),
        ([0x18000, 0, 3 + 2 ^ 32 + 2 ^ 48, 0x20004, 2, 0], (false, true, true)),
        ([0x18000, 0, 3 + 2 ^ 32 + 2 ^ 48, 0x20000, 2, 0], (false, false, false))],
      payloadCase (launchable x.1) = some x.2 ∧ (launchable x.1).inProgress < 256) ∧
    (let l := launchOf 1 0 none
     let c := { l with stage := 0, key := { keyOf with chip := 1 } }
     let s := { launchable [0x18000, 0, 3 + 2 ^ 32 + 2 ^ 48, 0, 1, 0] with launches := c :: List.replicate 256 l }
     (s.ready 2 4 1).isSome = true ∧ 256 ≤ s.inProgress ∧ s.launch? c.key = some c ∧ s.hasPlace c = false) ∧
    (∀ x ∈ [(0, 0, 1, (none, false)), (1, 0, 1, (none, true)), (2, 0, 1, (some 6, false)), (0, 2, 1, (none, false)), (1, 0, 2 ^ 30, (none, true))],
     let l := { launchOf 0 0 none with gx := x.2.2.1 }
     let s := withNums (launching l) (headerBytes x.1 ++ [(0x18014, 2, x.2.1)])
     s.launch? keyOf = some l ∧ l.stage = 0 ∧ l.k = none ∧ l.index < l.chips.length ∧ s.ctxHeld l.ctx = false ∧ s.hasPlace l = true ∧
     (match s.dpRead l.ctx l.hdr 64 with
      | (.inr bs, u) => let k := Kernel.ofBytes l.hdr bs
        decide ((Kernel.bad bs, k.coresident) = x.2.2.2) && k.msetMask == x.2.1 &&
          decide (l.mine ≤ ((List.range 256).map fun c => u.capacity k c).foldl (· + ·) 0) == (x.2.2.1 == 1)
      | _ => false) = true) ∧
    (let l := launchOf 0 0 none
     l.chips = [0] ∧ l.arrived = [] ∧ keyOf.chip = (launching l).pkg.chipNo ∧ l.chips.contains 0 = true ∧ (launching l).launch? keyOf = some l ∧
     l.gen ≠ 9 ∧ (∃ m ∈ [{ l with chips := [0, 1], arrived := [] }], m.arrived.length + 1 < m.chips.length ∧ m.arrived.contains 1 = false) ∧
     (∃ m ∈ [{ l with chips := [0, 1], arrived := [1] }], ¬(m.arrived = [] ∨ m.gen = 9)) ∧ (launching l).clock < l.since + (launching l).pkg.barTmo * 1900000 ∧
     (∃ s ∈ [{ launching l with clock := 200 * 1900000 }], s.launch? keyOf = some l ∧ l.since + s.pkg.barTmo * 1900000 ≤ s.clock)) := by
  decide +kernel

/-- Its kernel. -/
def kernelOf (flags : Nat) : Kernel :=
  { Kernel.none with hdr := 0x18000, flags := flags, vregs := 8, sregs := 8, scratch := 256, waves := 1, quads := 0, codeSize := 64 }

theorem witness_TeamsAdmitted :
    (let l := launchOf 1 0 (some (kernelOf 0))
     let s := launching l
     s.launch? keyOf = some l ∧ s.mayAdmit l = true ∧ (s.fits (kernelOf 0) 7).isSome = true ∧ s.waiting l = true ∧
     ∃ t ∈ [{ s with clock := 70000 }], t.waiting l = true ∧ l.since + 65536 ≤ t.clock) ∧
    (let l := launchOf 1 0 (some (kernelOf 1))
     let s := launching l
     s.waiting l = true ∧ l.coresident = true ∧ (s.launches.any fun x => x.key != keyOf && s.waiting x && x.coresident && x.outranks l) = false ∧
     (State.admitAll keyOf l.mine s).isSome = true) ∧
    (let l := launchOf 1 0 (some { kernelOf 0 with scratch := 2 ^ 20 })
     (launching l).mayAdmit l = true ∧ ((launching l).fits { kernelOf 0 with scratch := 2 ^ 20 } 7).isNone = true ∧ (launching l).clock < l.since + 65536 ∧
     (launching (launchOf 1 3 l.k)).mayAdmit (launchOf 1 3 l.k) = false ∧ (launching (launchOf 1 3 l.k)).waiting (launchOf 1 3 l.k) = false) ∧
    (let l := launchOf 1 0 (some { kernelOf 1 with scratch := 2 ^ 20 })
     let s := { launching l with pkg := { work.pkg with cap := { work.pkg.cap with coreMap := 1 } } }
     s.launch? keyOf = some l ∧ s.waiting l = true ∧ l.coresident = true ∧ (State.admitAll keyOf l.mine s).isNone = true) ∧
    (∀ x ∈ [(256, true), (0x50000, false)],
     let l := { launchOf 1 0 (some { kernelOf 1 with scratch := x.1 }) with gx := 2 }
     let s := { launching l with pkg := { work.pkg with cap := { work.pkg.cap with coreMap := 1 } } }
     s.launch? keyOf = some l ∧ l.key = keyOf ∧ s.mayPlace l = true ∧ (s.fits { kernelOf 1 with scratch := x.1 } 0).isSome = true ∧
     (s.fits { kernelOf 1 with scratch := x.1 } 5).isNone = true ∧
     ((s.admitTo keyOf 0).bind fun t => State.admitAll keyOf (l.left - 1) t).isSome = x.2 ∧ s.mayPlace { l with next := 2 } = false) := by decide +kernel

/-- A GRAPH packet of one node of a phase, its table read; the context's phase is 2. -/
def graphing (phase : Nat) (table : Sum (BitVec 16 × DWord) (List Byte)) : State :=
  let s := (queued units 3 0 [0x20000, 1, phase, 0, 0, 0]).mapCtx 1 fun c => { c with cur := 2 }
  { s with queues := s.queues.map fun q => { q with packets := q.packets.map fun p => { p with table := some table } } }

/-- A graph with its one node ready. -/
def graphOf : Graph :=
  { id := 60, ctx := 1, queue := 2, slot := 4, phase := 2, last := false, nodes := [{ words := [1], preds := [], stage := 0 }], failed := false,
    scope := 0, compl := 0 }

theorem witness_LaunchesEnd :
    (∃ w ∈ [{ work.w with status := .ended }], ∃ s ∈ [{ work with w := w }], ∀ t ∈ s.teams, s.team? t.uid = some t ∧ s.mayRelease t = true) ∧
    (let l := launchOf 1 3 (some (kernelOf 0))
     let s := launching l
     s.launch? keyOf = some l ∧ l.stage = 1 ∧ l.index < l.chips.length ∧ l.total ≤ l.next ∧ l.live = 0 ∧ keyOf.chip = s.pkg.chipNo ∧
     l.chips.contains 0 = true ∧ l.retired.contains 0 = false ∧ l.chips.length ≤ l.retired.length + 1 ∧
     ∃ m ∈ [{ l with chips := [0, 1] }], m.retired.length + 1 < m.chips.length ∧ m.chips.contains 1 = true) ∧
    (∀ x ∈ [(1, .inr []), (3, .inr []), (2, .inl (0x0203, 0x20000)), (2, .inr (natBytes 128 1)), (2, .inr (natBytes 128 (2 ^ 1023)))],
     let s := graphing x.1 x.2
     (s.ready 2 4 3).isSome = true ∧ ∀ y ∈ (s.ready 2 4 3).toList, y.2.phase = x.1 ∧ y.2.table = some x.2 ∧ (s.ctx? y.1.ctx).map (·.cur) = some 2 ∧
      word y.2.words 3 % 2 ^ 13 = 1) ∧
    nodeBad 0 (natBytes 128 1) = none ∧ (nodeBad 0 (natBytes 128 (2 ^ 1023))).isSome = true ∧
    (∀ stage ∈ [0, 1], let g := { graphOf with nodes := [{ words := [1], preds := [], stage := stage }] }
     let s := { graphing 2 (.inr []) with graphs := [g] }
     s.graphs.find? (fun g => g.id == 60) = some g ∧ (g.nodes.drop 0).head?.isSome = true ∧ g.nodeReady 0 = (stage == 0) ∧ s.placeFor (s.graphPrio g) = true ∧
     s.ctxHeld g.ctx = false ∧ (s.queue? g.queue).isSome = true) ∧
    (∀ stage ∈ [1, 2, 3], ∀ type ∈ [0, 3], ((queued units type stage []).packet? 2 4).map (fun x => (x.2.type, x.2.stage)) = some (type, stage)) ∧
    work.teams.all (fun t => !work.mayRelease t) = true := by decide +kernel

/-! ### Witnesses: the host window, the mailbox and the whole machine -/

theorem witness_HostWindowWrites :
    let few : State := { work with pkg := { work.pkg with cap := { work.pkg.cap with coreMap := 1 } } }
    work.corePresent 0 = true ∧ few.corePresent 5 = false ∧ work.portPresent 2 = true ∧ ((linked []).port 2).width ≠ 0 ∧ (work.port 2).width = 0 ∧
    (linked []).portPresent 2 = true ∧ work.portPresent 16 = false ∧ (0xFFFC : Nat) % 4 = 0 ∧ (0xFFF8 : Nat) % 8 = 0 ∧ (6 : Nat) % 4 ≠ 0 := by
  decide +kernel

/-- A machine whose mailbox holds a command and its arguments. -/
def asked (s : State) (cmd : Nat) (args : List Nat) : State :=
  { s with pkg := { s.pkg with mbBusy := true, mbCmd := BitVec.ofNat 16 cmd, mbWaits := [], mbData := csetMany 0 [] 0 (args.map (BitVec.ofNat 64)) } }

/-- The command stands there with its reserved bits clear, decided. -/
def goes (s : State) (cmd : Nat) (masks : List Nat) : Bool :=
  s.pkg.mbBusy && s.pkg.mbCmd.toNat == cmd && s.pkg.mbWaits.isEmpty && s.mbArgsOk masks

/-- A good descriptor of context 2 at 0x50000. -/
def described : State := withNums units (((List.range 7).map fun i => (0x50008 + 8 * i, 8, 0x60000 + 0x1000 * i)) ++
  ((List.range 4).map fun i => (0x62000 + 64 * i, 8, 2 ^ 63)) ++ [(0x50000, 8, 0x10002), (0x65010, 8, 4)])

/-- A context stopped for pre-emption. -/
def stopped : State := work.mapCtx 1 fun c => { c with stopped := true }

/-- A wave parked with a code. -/
def parked : State := work.withW fun w => { w with status := .parked 0x0120 }

theorem witness_ContextCommands :
    (∀ x ∈ [(0x50000, true), (0x51000, false)], let s := asked described 1 [x.1, 1, 7]
     goes s 1 [2 ^ 64 - 1, 1, 2 ^ 32 - 1] = true ∧
     (s.readCtx (s.mbArg 0) (natBit (s.mbArg 1) 0) (BitVec.ofNat 32 (s.mbArg 2))).isSome = x.2) ∧
    (∀ cmd ∈ [2, 0x20], let s := asked work cmd [1]
     goes s cmd [0xFFFF] = true ∧ ∃ c ∈ s.ctxs, s.ctx? (s.mbArg 0) = some c ∧ c.stopped = false ∧ c.ending = false) ∧
    (let s := asked stopped 0x21 [1]
     goes s 0x21 [0xFFFF] = true ∧ ∃ c ∈ s.ctxs, s.ctx? (s.mbArg 0) = some c ∧ c.stopped = true ∧ c.ending = false) ∧
    (∀ x ∈ [([1 + 2 ^ 16, 9, 4], 0), ([1 + 2 ^ 17, 0, 0], 2), ([1 + 3 * 2 ^ 16], 2), ([1, 2, 3], 1)], let s := asked (queued units 1 0 []) 0x22 x.1
     goes s 0x22 s.cancelMasks = true ∧ (s.ctx? (s.mbArg 0 % 2 ^ 16)).isSome = true ∧ s.cancelFinds (s.cancelOf (s.mbArgs 4)) = x.2) ∧
    (let s := asked parked 0x23 [1]
     goes s 0x23 [2 ^ 31 - 1, 3] = true ∧ s.mbArg 1 = 0 ∧ s.w.status = .parked 0x0120 ∧
     s.waves.find? (fun w => w.uid != 0 && w.ctx == s.mbArg 0 % 2 ^ 16 && w.core == s.mbArg 0 / 2 ^ 16 % 2 ^ 8 &&
       w.slot == s.mbArg 0 / 2 ^ 24 % 2 ^ 7) = some s.w) ∧
    word ([1, 0, 0, 0, 0, 0x10000] : List DWord) 5 = 2 ^ 16 ∧
    (∃ s ∈ [asked work 0x20 [1]], ∃ t ∈ [{ s with pkg := { s.pkg with mbWaits := [0] } }], t.pkg.mbBusy = true ∧ t.pkg.mbWaits.contains 0 = true ∧
      t.mbArg 0 % 2 ^ 16 = 1 ∧ (∀ c ∈ t.pkg.mbWaits, c = 0) ∧ t.pkg.mbCmd ≠ 0x22) ∧
    (∃ s ∈ [asked work 0x20 [1]], ∃ t ∈ [{ s with pkg := { s.pkg with mbWaits := [0, 3] } }], t.pkg.mbWaits.contains 0 = true ∧
      ∃ c ∈ t.pkg.mbWaits, c ≠ 0) := by decide +kernel

/-- The wave at a word, fetched from its instruction cache: `add v4, v5, v6` of 8 bytes. -/
def coded : State := base.placeCode (((encode (.add (fab 0 4 5 6))).getD []) ++ List.replicate 8 0)

/-- What a skip finds at a wave's pc. -/
def skipFinds (s : State) (w : Wave) : Bool := (s.skipAt w).1.isSome

theorem witness_ContextCommandsRefused :
    (∀ x ∈ [(2, [0xFFFF]), (0x20, [0xFFFF]), (0x21, [0xFFFF]), (0x22, [2 ^ 18 - 1, 0xFF, 2 ^ 64 - 1, 0])],
      goes (asked work x.1 [7]) x.1 x.2 = true ∧ (asked work x.1 [7]).ctx? 7 = none ∧ (asked work x.1 [2 ^ 20]).mbArgsOk x.2 = false) ∧
    goes (asked stopped 0x20 [1]) 0x20 [0xFFFF] = true ∧ (stopped.ctx? 1).map (·.stopped) = some true ∧
    goes (asked work 0x21 [1]) 0x21 [0xFFFF] = true ∧ (work.ctx? 1).map (fun c => (c.stopped, c.ending)) = some (false, false) ∧
    (let s := asked parked 0x23 [1 + 2 ^ 24]
     s.waves.find? (fun w => w.uid != 0 && w.ctx == s.mbArg 0 % 2 ^ 16 && w.core == s.mbArg 0 / 2 ^ 16 % 2 ^ 8 &&
       w.slot == s.mbArg 0 / 2 ^ 24 % 2 ^ 7) = none) ∧
    (∀ n ∈ [0, 1, 2, 3], ∀ w ∈ [parked.w, { work.w with status := .halted }, work.w], goes (asked { work with w := w } 0x23 [1, n]) 0x23 [2 ^ 31 - 1, 3] = true ∧
      (asked { work with w := w } 0x23 [1, n]).mbArg 1 = n) ∧
    (let s := (coded.withM fun m => { m with tlb := m.tlb.map fun t => { t with unit := 256 } })
     skipFinds s s.w = true ∧ skipFinds work (work.withArm fun a => { a with pc := 2 ^ 60 }).w = false) ∧
    (let s := queued units 1 0 []
     let c := fun (args : List DWord) => s.cancelOf args
     (c [1 + 3 * 2 ^ 16]).level = 3 ∧ s.cancelLeft (c [1 + 3 * 2 ^ 16]) = true ∧ s.cancelLeft (c [7 + 3 * 2 ^ 16]) = false ∧
     (c [1, 2, 4, 0, 1]).chip = s.pkg.chipNo ∧ (c [1, 2, 4, 0, 10]).chip = 9 ∧ s.routed 9 = false ∧ work.routed work.pkg.chipNo = true ∧
     (∃ t ∈ [{ s with pkg := { s.pkg with routes := [(9, 2)] }, ports := (linked []).ports }], t.routed 9 = true)) := by decide +kernel

/-- `QUEUE_REG` finds its words, decided. -/
def registers (s : State) : Bool :=
  let a := s.mbArg
  let va := fun n => (BitVec.ofNat 64 (a n) : DWord)
  match s.wordPlace (a 4) (va 1) with
  | (some (1, _), u) => match u.wordPlace (a 4) (va 2) with
    | (some (cls, _), v) => decide (cls ≤ 1) && match v.dpNum (a 4) (va 2) 8 with | (.inr _, _) => true | _ => false
    | _ => false
  | _ => false

/-- `COMM_SET` finds a good entry, decided. -/
def enters (s : State) : Bool :=
  let w := fun i => s.mbArg (1 + i)
  let n := (commOf w []).sizes.foldl (· * ·) 1
  natBit (w 0) 63 && commOk w && match s.dpRead (s.mbArg 0 % 2 ^ 16) (BitVec.ofNat 64 (w 2)) (2 * n) with
  | (.inr bs, _) => let ranks := (List.range n).map fun i => ofBytes ((bs.drop (2 * i)).take 2)
    noRepeat ranks && ranks.all fun r => r < 4096
  | _ => false

theorem witness_MailboxCommands :
    let all := 2 ^ 64 - 1
    (let s := asked units 3 [0x20000, 0x20400, 0x20408, 4 * 2 ^ 8, 1]
     goes s 3 [all, all, all, 0xFF07, 0xFFFF] = true ∧ (s.ctx? (s.mbArg 4)).isSome = true ∧ s.mbArg 0 % (64 * 2 ^ 4) = 0 ∧
     (List.range 256).find? (fun n => (s.queue? n).isNone) = some 0 ∧ registers s = true) ∧
    (let s := asked (queued units 0 1 []) 4 [2]
     goes s 4 [0xFF] = true ∧ ∃ q ∈ s.queues, s.queue? (s.mbArg 0) = some q ∧ ∀ p ∈ q.packets, p.stage ≠ 0) ∧
    (∃ s ∈ [asked (queued units 0 1 []) 4 [2]], ∃ q ∈ s.queues, ∃ q' ∈ [{ q with packets := [], unreg := true }],
      ∃ t ∈ [{ s with queues := [q'] }], t.queue? 2 = some q' ∧ t.unregDone q' = true) ∧
    (let s := asked units 0x10 [9, 1]
     goes s 0x10 (0xFF :: List.replicate 8 all) = true ∧ s.mbArg 0 ≠ 0 ∧ s.keyLoaded (s.mbArg 0) = false) ∧
    (let s := asked units 0x11 [9]
     goes s 0x11 [0xFF] = true ∧ s.mbArg 0 ≠ 0 ∧ s.keyHeld (s.mbArg 0) = false) ∧
    goes (asked units 0x12 [0x10903]) 0x12 [0x1FF03] = true ∧
    (let s := asked units 0x30 [5 + 2 * 2 ^ 16]
     goes s 0x30 [0xF0FFF] = true ∧ s.portPresent (s.mbArg 0 / 2 ^ 16 % 2 ^ 4) = true) ∧
    (let s := asked units 0x31 [1 + 3 * 2 ^ 16, 2 ^ 63, 1, 0x20000, 64]
     goes s 0x31 [0xFFFFF, 2 ^ 63 + 7 * 2 ^ 49 + 3, all, all, 2 ^ 32 - 1] = true ∧ (s.ctx? (s.mbArg 0 % 2 ^ 16)).isSome = true ∧ enters s = true) ∧
    (∀ n ∈ [1, 10000], let s := asked units 0x32 [n]
     goes s 0x32 [0x3FFF] = true ∧ 1 ≤ s.mbArg 0 ∧ s.mbArg 0 ≤ 10000) ∧
    (let s := asked described 0x40 [0x65000]
     goes s 0x40 [all] = true ∧ s.mbArg 0 % 4096 = 0 ∧ s.readPa 0 (s.mbArg 0 + 0x10) 8 = 4 ∧ s.mbArg 0 + 0x40 + 64 * 2 ^ 4 ≤ s.hbmBytes ∧
     s.pkg.pkgBuf = [] ∧ s.pkg.pkgDropped = 0 ∧ s.pkg.pkgOvf = false) ∧
    (∀ n ∈ [8, 3840], let s := asked units 0x41 [16, n]
     goes s 0x41 [all, all] = true ∧ s.mbArg 0 % 8 = 0 ∧ s.mbArg 1 % 8 = 0 ∧ 8 ≤ s.mbArg 1 ∧ s.mbArg 1 ≤ 3840) ∧
    (let s := asked units 0x50 [0x70000, 64]
     goes s 0x50 [all, all] = true ∧ s.mbArg 1 ≠ 0 ∧ s.mbArg 0 + s.mbArg 1 ≤ s.hbmBytes) ∧
    (let s := asked units 0x51 [1]
     goes s 0x51 [0xFFFF] = true ∧ (s.ctx? (s.mbArg 0)).isSome = true) ∧
    (let s := asked units 0x32 [0x4000]
     s.pkg.mbBusy = true ∧ s.pkg.mbCmd.toNat = 0x32 ∧ s.pkg.mbWaits = [] ∧ s.mbArgsOk [0x3FFF] = false) := by decide +kernel

theorem witness_MailboxRefusals :
    let all := 2 ^ 64 - 1
    (∀ x ∈ [(3, [all, all, all, 0xFF07, 0xFFFF]), (4, [0xFF]), (0x10, 0xFF :: List.replicate 8 all), (0x11, [0xFF]), (0x12, [0x1FF03]), (0x30, [0xF0FFF]),
        (0x31, [0xFFFFF, 2 ^ 63 + 7 * 2 ^ 49 + 3, all, all, 2 ^ 32 - 1]), (0x32, [0x3FFF]), (0x40, [all]), (0x41, [all, all]), (0x50, [all, all]),
        (0x51, [0xFFFF])],
      let s := asked units x.1 [0, 0, 0, 0, 0, 0, 0, 0, 0, 0, 1]
      s.pkg.mbBusy = true ∧ s.pkg.mbCmd.toNat = x.1 ∧ s.pkg.mbWaits = [] ∧ s.mbArgsOk x.2 = false ∧ units.pkg.mbBusy = false) ∧
    (∀ x ∈ [[0x20000, 0x20400, 0x20408, 3 * 2 ^ 8, 1], [0x20008, 0x20400, 0x20408, 4 * 2 ^ 8, 1], [0x20000, 0x20404, 0x20408, 4 * 2 ^ 8, 1],
        [0x20000, 0x20400, 0x20408, 4 * 2 ^ 8, 7]], let s := asked units 3 x
      goes s 3 [all, all, all, 0xFF07, 0xFFFF] = true ∧ ¬ (4 ≤ s.mbArg 3 / 2 ^ 8 % 2 ^ 8 ∧ s.mbArg 3 / 2 ^ 8 % 2 ^ 8 ≤ 16 ∧
        s.mbArg 0 % (64 * 2 ^ (s.mbArg 3 / 2 ^ 8 % 2 ^ 8)) = 0 ∧ s.mbArg 1 % 8 = 0 ∧ s.mbArg 2 % 8 = 0 ∧ (s.ctx? (s.mbArg 4)).isSome = true)) ∧
    (let q := (queued units 0 1 []).queues
     let s := asked { units with queues := (List.range 256).flatMap fun n => q.map fun x => { x with num := n } } 3 [0x20000, 0x20400, 0x20408, 4 * 2 ^ 8, 1]
     goes s 3 [all, all, all, 0xFF07, 0xFFFF] = true ∧ (List.range 256).find? (fun n => (s.queue? n).isNone) = none) ∧
    (∀ x ∈ [[0x20000, 0x10400, 0x20408, 4 * 2 ^ 8, 1], [0x20000, 0x20400, 0x30408, 4 * 2 ^ 8, 1], [0x20000, 0x20400, 0x77408, 4 * 2 ^ 8, 1]],
      let s := asked units 3 x
      goes s 3 [all, all, all, 0xFF07, 0xFFFF] = true ∧ registers s = false) ∧
    (let s := asked (queued units 0 1 []) 4 [9]
     goes s 4 [0xFF] = true ∧ s.queue? (s.mbArg 0) = none) ∧
    (∃ s ∈ [asked (queued units 0 1 []) 4 [2]], ∃ q ∈ s.queues, s.queue? 2 = some q ∧ s.unregDone q = false) ∧
    (let s := asked units 0x10 [0, 1]
     goes s 0x10 (0xFF :: List.replicate 8 all) = true ∧ s.mbArg 0 = 0) ∧
    (let s := asked (units.gainKey 9 5) 0x10 [9, 1]
     goes s 0x10 (0xFF :: List.replicate 8 all) = true ∧ s.mbArg 0 ≠ 0 ∧ s.keyLoaded (s.mbArg 0) = true) ∧
    goes (asked units 0x11 [0]) 0x11 [0xFF] = true ∧
    (let s := asked (units.mapCtx 1 fun c => { c with keySlot := 9 }) 0x11 [9]
     goes s 0x11 [0xFF] = true ∧ s.mbArg 0 ≠ 0 ∧ s.keyHeld (s.mbArg 0) = true) ∧
    (let s := asked { units with pkg := { units.pkg with cap := { units.pkg.cap with portMap := 0xFF } } } 0x30 [5 + 15 * 2 ^ 16]
     goes s 0x30 [0xF0FFF] = true ∧ s.portPresent (s.mbArg 0 / 2 ^ 16 % 2 ^ 4) = false) ∧
    (∀ x ∈ [([7, 2 ^ 63, 1, 0x20000, 64], false), ([1, 0, 0, 0x20000, 64], false), ([1, 2 ^ 63, 1, 0x77000, 64], true), ([1, 2 ^ 63, 2, 0x20000, 64], true)],
      let s := asked units 0x31 x.1
      goes s 0x31 [0xFFFFF, 2 ^ 63 + 7 * 2 ^ 49 + 3, all, all, 2 ^ 32 - 1] = true ∧ enters s = false ∧
      ((s.ctx? (s.mbArg 0 % 2 ^ 16)).isSome && commOk fun i => s.mbArg (1 + i)) = x.2) ∧
    (∀ n ∈ [0, 10001], goes (asked units 0x32 [n]) 0x32 [0x3FFF] = true) ∧
    (∀ p ∈ [0x65008, 0x66000], let s := asked described 0x40 [p]
     goes s 0x40 [all] = true ∧ ¬ (s.mbArg 0 % 4096 = 0 ∧ 4 ≤ s.readPa 0 (s.mbArg 0 + 0x10) 8)) ∧
    (∀ x ∈ [[4, 8], [8, 4], [8, 0], [8, 3848]], let s := asked units 0x41 x
     goes s 0x41 [all, all] = true ∧ ¬ (s.mbArg 0 % 8 = 0 ∧ s.mbArg 1 % 8 = 0 ∧ 8 ≤ s.mbArg 1 ∧ s.mbArg 1 ≤ 3840)) ∧
    (∀ x ∈ [[0, 0], [2 ^ 60, 64]], let s := asked units 0x50 x
     goes s 0x50 [all, all] = true ∧ ¬ (s.mbArg 1 ≠ 0 ∧ s.mbArg 0 + s.mbArg 1 ≤ s.hbmBytes)) ∧
    (let s := asked units 0x51 [7]
     goes s 0x51 [0xFFFF] = true ∧ s.ctx? (s.mbArg 0) = none) := by decide +kernel

theorem witness_AttestationAnswers : work.measure 7 = none ∧ ∀ i ∈ [1, 2, 3, 4], (work.measure i).isSome = true := by decide +kernel

theorem witness_BrAndBuTransfer :
    base.w.r.pend = [] ∧ issues brSpec true (ctl .l64 0 8) base = true ∧
    (∀ x ∈ [0, 1, 2, 3], issues buSpec true { ctl .l96 x 8 with c := if x < 2 then 260 else 721 } base = true) := by decide +kernel

theorem witness_LossScaleStep :
    lsaMin 0x10000100 < lsaExp 0x10000100 ∧ lsaExp 0x10000000 ≤ lsaMin 0x10000000 ∧
    (let b : Word := 0x00020001
     b.toNat / 2 ^ 16 ≠ 0 ∧ b.toNat / 2 ^ 16 ≤ min (b.toNat % 2 ^ 16 + 1) 65535 ∧ lsaExp 0x10000000 < lsaMax 0x10000000) ∧
    lsaMax 0x10101000 ≤ lsaExp 0x10101000 ∧ -126 ≤ lsaExp 0x10000100 ∧ lsaExp 0x10000100 ≤ 127 ∧
    issues lsclStepSpec false (fabc 0 260 0 657 0 0) base = true := by decide +kernel

/-- A wave of a tenant's context that does not run privileged. -/
def tenant : State := base.mapCtx 1 fun c => { c with system := false }

theorem witness_DecodeChecksTrap :
    tenant.w.status = .run ∧ tenant.w.preempted = false ∧ tenant.priv = false ∧ base.w.status = .run ∧
    (∀ x ∈ [5, 8], let f := fabc 0 0 260 0 0 x
     (f.x = 5 ∨ f.x = 8) ∧ decodeCheck tenant { ssetSpec f with privVals := fun _ _ => none } f = none) ∧
    (∀ ty ∈ [8, 15], let f := withFlag (fabc ty 16 260 16 0 0)
     f.setf.toNat ≤ 11 ∧ opxX f = 0 ∧ 8 ≤ f.ty.toNat ∧ f.ty.toNat ≤ 15) := by decide +kernel

theorem witness_DecodeReadsEncode : ∀ i ∈ [Instr.fadd (fab 8 4 5 6), .ld (memF false 18 16 0 0), .br (ctl .l64 0 8), .mloop (withFlag (fimm 10 16 262 657 264 2 64)),
    .coll (withFlag (fabc 0 260 264 0 0 3)), .reservedOp 0x4795C503, .allZeroWord],
    i.wf = true ∧ (encode i).isSome = true := by decide +kernel

theorem witness_StepRunsDecoded :
    coded.agenda = [] ∧ coded.aside = none ∧ coded.due = none ∧ (∀ w ∈ coded.turn.toList,
      let e := (coded.select w.uid).chooseArm
      (match e.iread e.pc with
       | .ok bs u => (decode bs).any fun x => x.1 == .add (fab 0 4 5 6) && (match exec x.1 u with | .next _ => true | _ => false)
       | _ => false) = true) ∧ coded.turn.isSome = true := by decide +kernel

theorem witness_StepKeepsMemoryForm : Memory.wf work.m.mem ∧ work.m.mem ≠ [] ∧ Memory.wf State.reset.m.mem ∧
    (match step State.reset with | .next _ => true | _ => false) = true := by decide +kernel

/-- An instruction answers a next state. -/
def answers (i : Instr) (s : State) : Bool := match exec i s with | .next _ => true | _ => false

theorem witness_RegisterFrames :
    ((shortForms (fab 0 4 5 6)).any fun x => issues x.1 false (fab 0 4 5 6) base && (match exec x.2.1 base with | .next _ => true | _ => false)) = true ∧
    ((longForms (withFlag (fab 8 4 5 6))).any fun x =>
      issues x.1 x.2.2.2 (withFlag (fab 8 4 5 6)) base && (match exec x.2.1 base with | .next _ => true | _ => false)) = true ∧
    ((longForms (withFlag (fab 8 260 5 0))).any fun x =>
      issues x.1 x.2.2.2 (withFlag (fab 8 260 5 0)) (emAt base 0) && x.2.2.2 &&
      (match exec x.2.1 (emAt base 0) with | .next _ => true | _ => false)) = true ∧
    (let f := fab 8 4 7 0
     (shortForms f).any fun x => issues x.1 false f base && x.2.2.2 && (match exec x.2.1 base with | .next _ => true | _ => false)) = true ∧
    (let f := withFlag (fab 8 4 5 656)
     issues (shflSpec f) false f base = true ∧ (∀ l ∈ (base.atIssue f).lanes f,
       srcBad (base.atIssue f).w.r (tyRegs 8) (1#64 <<< shflSrc f.x.toNat l ((base.atIssue f).srcB f 18 l)) f.a = false) ∧
     answers (.shfl f) base = true) ∧
    (let f := withFlag (fabc 8 4 5 6 7 4)
     issues (voptSpec f) false f base = true ∧
     srcBad (base.atIssue f).w.r 10 allLanes (BitVec.ofNat 10 (256 + f.x.toNat % 512)) = false ∧ answers (.vopt f) base = true) ∧
    (let f := withFlag (fabc 18 16 262 0 664 63)
     issues (accRegSpec true) false f work = true ∧ accRegCheck (work.atIssue f) f f.d = none ∧ answers (.aread f) work = true) ∧
    (let f := { gridF with a := 4, b := 656, c := 657 }
     let e := bound.atIssue f
     issues ghashSpec false f bound = true ∧ usable e gridOf f = true ∧ e.binding (gridX f) = false ∧ answers (.ghash f) bound = true) ∧
    (let f := fabc 1 4 656 0 0 0
     let g := fabc 1 0 656 0 0 1
     issues rngDrawSpec false f base = true ∧ answers (.rngDraw f) base = true ∧ issues rngSetcSpec false g base = true ∧
     answers (.rngSetc g) base = true) ∧
    (∀ q ∈ base.w.r.pend, ∀ w ∈ q.wrs, w = .em 0) := by decide +kernel

theorem witness_IssueFrames :
    (∀ sp ∈ [false, true], let f := memF sp 18 16 0 0
     let i : Instr := if sp then .ldsp f else .ld f
     issues (loadSpec sp) false f work = true ∧ found (work.atIssue f) f i sp .read (scaleX f) = true ∧ answers i work = true) ∧
    (∀ sp ∈ [false, true], let f := memF sp 18 0 16 0
     let i : Instr := if sp then .stsp f else .st f
     issues (storeSpec sp) false f work = true ∧ found (work.atIssue f) f i sp .write (scaleX f) = true ∧ (work.atIssue f).w.ahead = none ∧
     answers i work = true) ∧
    (let f := memF false 0 16 20 0
     issues (atomSpec true f) false f work = true ∧ found (work.atIssue f) f (.atom f) false .atomic 1 = true ∧ answers (.atom f) work = true) ∧
    (let f := memF true 0 16 20 0
     issues (spatomSpec f) false f work = true ∧ found (work.atIssue f) f (.spatom f) true .atomic 4 = true ∧ answers (.spatom f) work = true) ∧
    issues brSpec true (ctl .l64 0 8) base = true ∧ issues buSpec true { ctl .l96 1 8 with c := 260 } base = true ∧
    (let f : Fields := { ctl .l128 0 8 with pred := 1, imm := 0x40 }
     ∀ s ∈ [emAt guarded 1, emAt guarded 2], issues bcSpec true f s = true ∧
      ((s.atIssue f).w.r.em &&& ~~~ guardMask (s.atIssue f).w.r f = 0 ∨ activeMask (s.atIssue f).w.r f = 0)) ∧
    (∀ x ∈ [(false, memF false 0 0 20 0), (true, memF false 0 16 20 2)], issues (atomSpec x.1 x.2) false x.2 work = true ∧
      found (work.atIssue x.2) x.2 (if x.1 then .atomr x.2 else .red x.2) false .atomic (if x.2.x.getLsbD 11 then tyBits x.2.ty.toNat / 8 else 1) = true ∧
      answers (if x.1 then .atomr x.2 else .red x.2) work = true) := by decide +kernel

theorem witness_AccessFrames :
    (∀ kind ∈ [AKind.load, .store, .atomic 0 1 1], let a := accOf kind 0 false .port
     let s := cached a
     answers (.homeSliceAccess 50) s = true ∧ s.acc? 50 = some a ∧ (s.pointFault a).isNone = true ∧ a.slot < 2 ^ 16 - 1 ∧ a.sp = false ∧
     (∀ sec ∈ [a.pa / 256, (a.pa + a.size - 1) / 256], cget 0 s.m.secKey sec = 0 ∨ (cget 0 s.m.secKey sec).toNat = a.slot + 1)) ∧
    (∀ x ∈ [(AStage.fill, Instr.l2SectorFill 50), (.fwd, .kettleAccess 50 false)], let a := accOf .store 0 false x.1
     (porting a).acc? 50 = some a ∧ ((porting a).pointFault a).isNone = true ∧ answers x.2 (porting a) = true) ∧
    (∀ kind ∈ [AKind.load, .store, .atomic 0 1 1], let a := accOf kind 0 true .port
     let s := { porting a with cwaits := [{ core := 0, off := 0x108, parity := false, wave := base.w.uid, op := 1 },
                                          { core := 0, off := 0xF0, parity := false, wave := base.w.uid, op := 1 }] }
     s.acc? 50 = some a ∧ (s.pointFault a).isNone = true ∧ answers (.scratchpadArrayAccess 50) s = true ∧
     ∀ c ∈ s.cwaits, a.pa + a.size ≤ c.core * 2 ^ 19 + c.off ∨ c.core * 2 ^ 19 + c.off + 16 ≤ a.pa) := by
  decide +kernel

end Sys2Proof.Tests
end

/-! Decode checks that trap (R37, R38, R40). -/

namespace Sys2Proof.Machine

/-- An encoded instruction that fails a decode check whose recovery is KILL-WAVE traps (R39, R40). -/
theorem run_traps_of_decodeCheck {sp : Spec} {i : Instr} {f : Fields} {eff : Nat → State → Try} {s : State} {code : BitVec 16}
    (hrun : s.w.status = .run) (hpre : s.w.preempted = false) (hcheck : decodeCheck s sp f = some code)
    (hact : actionOf code = 1) : run sp i f eff s = .next (s.trapAt code s.pc (instrLow i) 1) := by
  rw [run, issue_decode hrun hpre hcheck, hact]

/-- Step 5 of R40: privilege comes before every other check of an instruction's fields. -/
theorem decodeCheck_of_unprivileged {s : State} {sp : Spec} (f : Fields) (hsp : sp.priv = true) (hs : s.priv = false) :
    decodeCheck s sp f = some 0x010A := by
  simp [decodeCheck, hsp, hs]

/-- The fields of an instruction pass the checks that R40 makes before those by value: steps 5 to 8. -/
structure PassesHeader (s : State) (sp : Spec) (f : Fields) : Prop where
  priv : (sp.priv && !s.priv) = false
  len : ¬ lenNum f.len < sp.minLen
  setf : ¬ ((12 ≤ f.setf.toNat ∧ f.setf.toNat ≤ 14) ∨ (sp.long = true ∧ f.setf = 15))
  ty : (decide (f.ty.toNat ≤ 20) && sp.ty f.ty.toNat) = true

/-- Step 9 of R40: past steps 5 to 8 the check by value decides the code. -/
theorem decodeCheck_of_vals {s : State} {sp : Spec} {f : Fields} {code : BitVec 16} (hhead : PassesHeader s sp f)
    (hvals : sp.vals f = some code) : decodeCheck s sp f = some code := by
  obtain ⟨hpriv, hlen, hset, hty⟩ := hhead
  simp only [decodeCheck, hpriv, hlen, hset, hty, hvals, Bool.not_true, Bool.false_eq_true, if_false]

/-- Past the checks by value, the check of a privileged value decides the code. -/
theorem decodeCheck_of_privVals {s : State} {sp : Spec} {f : Fields} {code : BitVec 16} (hhead : PassesHeader s sp f)
    (hvals : sp.vals f = none) (hpred : (sp.pred7 && f.pred != 7) = false) (hpv : sp.privVals s f = some code) :
    decodeCheck s sp f = some code := by
  obtain ⟨hpriv, hlen, hset, hty⟩ := hhead
  simp only [decodeCheck, hpriv, hlen, hset, hty, hvals, hpred, hpv, Bool.not_true, Bool.false_eq_true, if_false]

/-- An instruction that fails no decode check passes in particular those made before that of a privileged value. -/
theorem passes_of_decodeCheck_eq_none {s : State} {sp : Spec} {f : Fields} (h : decodeCheck s sp f = none) :
    PassesHeader s sp f ∧ sp.vals f = none ∧ (sp.pred7 && f.pred != 7) = false := by
  unfold decodeCheck at h
  split at h
  · cases h
  next hpriv =>
  split at h
  · cases h
  next hlen =>
  split at h
  · cases h
  next hset =>
  split at h
  · cases h
  next hty =>
  split at h
  · cases h
  next hvals =>
  split at h
  · cases h
  next hpred =>
  exact ⟨⟨Bool.eq_false_iff.mpr hpriv, hlen, hset, by simpa using hty⟩, hvals, Bool.eq_false_iff.mpr hpred⟩

/-- Every form that a system context alone may issue is described as privileged (R37). -/
theorem priv_of_mem_privForms {f : Fields} {x : Spec × Instr} (hx : x ∈ privForms f) : x.1.priv = true := by
  simp only [privForms, List.mem_cons, List.not_mem_nil, or_false] at hx
  rcases hx with rfl | rfl | rfl | rfl | rfl | rfl | rfl | rfl | rfl <;> rfl

/-- Every form that a system context alone may issue is an encoded instruction that issues by its description. -/
theorem exec_eq_run_of_mem_privForms {f : Fields} {x : Spec × Instr} (s : State) (hx : x ∈ privForms f) :
    ∃ eff, exec x.2 s = run x.1 x.2 f eff s := by
  simp only [privForms, List.mem_cons, List.not_mem_nil, or_false] at hx
  rcases hx with rfl | rfl | rfl | rfl | rfl | rfl | rfl | rfl | rfl <;> exact ⟨_, rfl⟩

/-- Add on a floating-point type is refused with 0x0105 by the atomics' check of operation and type (R38). -/
theorem opxVals_of_floatAdd {f : Fields} (cas : Bool) (hadd : opxX f = 0) (hlo : 8 ≤ f.ty.toNat) (hhi : f.ty.toNat ≤ 15) :
    opxVals cas f = some 0x0105 := by
  simp [opxVals, hadd, hlo, hhi]

/-- The atomics take every floating-point type, so that R38's check is reached. -/
theorem tyIn_tysAtomic_of_float {t : Nat} (hlo : 8 ≤ t) (hhi : t ≤ 15) : tyIn tysAtomic t = true := by
  simp only [tyIn, tysAtomic, List.contains_eq_mem, List.mem_cons, decide_eq_true_eq]
  omega

/-- An atomic on a floating-point type that names a flag passes steps 5 to 8 of R40, at every length. -/
theorem passesHeader_atomSpec_of_float {f : Fields} (s : State) (ret : Bool) (hset : f.setf.toNat ≤ 11) (hlo : 8 ≤ f.ty.toNat)
    (hhi : f.ty.toNat ≤ 15) : PassesHeader s (atomSpec ret f) f where
  priv := rfl
  len := Nat.not_lt_zero _
  setf := by
    rintro (⟨h, -⟩ | ⟨-, h⟩)
    · omega
    · simp [h] at hset
  ty := by simp [atomSpec, tyIn_tysAtomic_of_float hlo hhi, show f.ty.toNat ≤ 20 by omega]

/-- A floating-point add of `atom`, `atomr` or `red` fails with 0x0105 (R38). -/
theorem decodeCheck_atomSpec_of_floatAdd {f : Fields} (s : State) (ret : Bool) (hset : f.setf.toNat ≤ 11) (hadd : opxX f = 0)
    (hlo : 8 ≤ f.ty.toNat) (hhi : f.ty.toNat ≤ 15) : decodeCheck s (atomSpec ret f) f = some 0x0105 :=
  decodeCheck_of_vals (passesHeader_atomSpec_of_float s ret hset hlo hhi) (by simp [atomSpec, opxVals_of_floatAdd ret hadd hlo hhi])

/-- `sset` in a wave that does not run privileged fails with 0x010A where nothing else is wrong with it (R37, R164). -/
theorem decodeCheck_ssetSpec_of_unprivileged {f : Fields} {s : State} (hs : s.priv = false)
    (hrest : decodeCheck s { ssetSpec f with privVals := fun _ _ => none } f = none) :
    decodeCheck s (ssetSpec f) f = some 0x010A := by
  obtain ⟨⟨hpriv, hlen, hset, hty⟩, hvals, hpred⟩ := passes_of_decodeCheck_eq_none hrest
  exact decodeCheck_of_privVals ⟨hpriv, hlen, hset, hty⟩ hvals hpred (by simp [ssetSpec, hs])

/-- Settles O51: each check answers its code before the instruction's effect, and the issue takes the trap. -/
theorem decodeChecksTrap : Obligations.DecodeChecksTrap := by
  intro f s traps hrun hpre
  refine ⟨fun x hx hs => ?_, fun hs _ hrest => ?_, fun i hi hset hadd hlo hhi => ?_⟩
  · obtain ⟨eff, hexec⟩ := exec_eq_run_of_mem_privForms s hx
    exact hexec.trans (run_traps_of_decodeCheck hrun hpre (decodeCheck_of_unprivileged f (priv_of_mem_privForms hx) hs) rfl)
  · exact run_traps_of_decodeCheck hrun hpre (decodeCheck_ssetSpec_of_unprivileged hs hrest) rfl
  · have hcheck := fun ret => decodeCheck_atomSpec_of_floatAdd s ret hset hadd hlo hhi
    simp only [List.mem_cons, List.not_mem_nil, or_false] at hi
    rcases hi with rfl | rfl | rfl
    · exact run_traps_of_decodeCheck hrun hpre (hcheck true) rfl
    · exact run_traps_of_decodeCheck hrun hpre (hcheck true) rfl
    · exact run_traps_of_decodeCheck hrun hpre (hcheck false) rfl

end Sys2Proof.Machine

/-! The loss-scale step: the packing of LSA and LSB, and the branches of R195. -/

namespace Sys2Proof.Machine

/-! ### Signed bytes -/

/-- A byte read as two's complement lies in -128 to 127. -/
theorem sext_eight_mem (v : Nat) : -128 ≤ sext 8 v ∧ sext 8 v ≤ 127 := by
  unfold sext
  split <;> omega

/-- An exponent of a signed byte comes back from the byte it is stored in. -/
theorem sext_wrap_eight {e : Int} (hlo : -128 ≤ e) (hhi : e ≤ 127) : sext 8 (wrap 8 e) = e := by
  unfold sext wrap
  split <;> omega

/-- What `wrap 8` stores fits in a byte. -/
theorem wrap_eight_lt (e : Int) : wrap 8 e < 256 := by
  unfold wrap
  omega

/-! ### The fields of LSA and LSB (R193) -/

/-- LSB with a new GOOD under the same INTERVAL. -/
def lsbPut (b : Word) (good : Nat) : Word := BitVec.ofNat 32 (b.toNat / 2 ^ 16 * 2 ^ 16 + good)

/-- GOOD of `lsbPut` is the new one. -/
theorem lsbPut_good (b : Word) {good : Nat} (hg : good < 2 ^ 16) : (lsbPut b good).toNat % 2 ^ 16 = good := by
  rw [lsbPut, BitVec.toNat_ofNat]
  omega

/-- `lsbPut` keeps INTERVAL. -/
theorem lsbPut_interval (b : Word) {good : Nat} (hg : good < 2 ^ 16) : (lsbPut b good).toNat / 2 ^ 16 = b.toNat / 2 ^ 16 := by
  have hb := b.isLt
  rw [lsbPut, BitVec.toNat_ofNat]
  omega

/-- The number `lsaPut` packs: its fields do not run into each other or past bit 31. -/
theorem toNat_lsaPut (a : Word) (exp : Int) (lo hi : Bool) :
    (lsaPut a exp lo hi).toNat =
      a.toNat / 2 ^ 16 * 2 ^ 16 + wrap 8 exp * 256 + a.toNat / 4 % 64 * 4 + lo.toNat * 2 + hi.toNat := by
  have ha := a.isLt
  have he := wrap_eight_lt exp
  have hlo : (if lo then 2 else 0) = lo.toNat * 2 := by cases lo <;> rfl
  have hhi : (if hi then 1 else 0) = hi.toNat := by cases hi <;> rfl
  have hlo' := lo.toNat_le
  have hhi' := hi.toNat_le
  rw [lsaPut, BitVec.toNat_ofNat, hlo, hhi]
  omega

/-- `lsaPut` keeps the half of LSA that holds MAXEXP and MINEXP. -/
theorem lsaPut_limits (a : Word) (exp : Int) (lo hi : Bool) : (lsaPut a exp lo hi).toNat / 2 ^ 16 = a.toNat / 2 ^ 16 := by
  have he := wrap_eight_lt exp
  have hlo := lo.toNat_le
  have hhi := hi.toNat_le
  rw [toNat_lsaPut]
  omega

@[simp] theorem lsaMax_lsaPut (a : Word) (exp : Int) (lo hi : Bool) : lsaMax (lsaPut a exp lo hi) = lsaMax a := by
  have h := lsaPut_limits a exp lo hi
  rw [lsaMax, lsaMax, show (lsaPut a exp lo hi).toNat / 2 ^ 24 = a.toNat / 2 ^ 24 by omega]

@[simp] theorem lsaMin_lsaPut (a : Word) (exp : Int) (lo hi : Bool) : lsaMin (lsaPut a exp lo hi) = lsaMin a := by
  rw [lsaMin, lsaMin, lsaPut_limits]

theorem lsaExp_lsaPut (a : Word) {exp : Int} (lo hi : Bool) (hmin : -128 ≤ exp) (hmax : exp ≤ 127) :
    lsaExp (lsaPut a exp lo hi) = exp := by
  have he := wrap_eight_lt exp
  have hlo := lo.toNat_le
  have hhi := hi.toNat_le
  have hbyte : (lsaPut a exp lo hi).toNat / 2 ^ 8 % 256 = wrap 8 exp := by
    rw [toNat_lsaPut]
    omega
  rw [lsaExp, hbyte, sext_wrap_eight hmin hmax]

@[simp] theorem pinlo_lsaPut (a : Word) (exp : Int) (lo hi : Bool) : (lsaPut a exp lo hi).getLsbD 1 = lo := by
  have hlo := lo.toNat_le
  have hhi := hi.toNat_le
  have hbit : (lsaPut a exp lo hi).toNat / 2 ^ 1 % 2 = lo.toNat := by
    rw [toNat_lsaPut]
    omega
  rw [BitVec.getLsbD, Nat.testBit_eq_decide_div_mod_eq, hbit]
  cases lo <;> rfl

@[simp] theorem pinhi_lsaPut (a : Word) (exp : Int) (lo hi : Bool) : (lsaPut a exp lo hi).getLsbD 0 = hi := by
  have hlo := lo.toNat_le
  have hhi := hi.toNat_le
  have hbit : (lsaPut a exp lo hi).toNat / 2 ^ 0 % 2 = hi.toNat := by
    rw [toNat_lsaPut]
    omega
  rw [BitVec.getLsbD, Nat.testBit_eq_decide_div_mod_eq, hbit]
  cases hi <;> rfl

/-- MAXEXP, MINEXP and EXP are signed bytes, so that a step of EXP inside its limits does not wrap. -/
theorem lsa_mem (a : Word) : -128 ≤ lsaMin a ∧ lsaMax a ≤ 127 ∧ -128 ≤ lsaExp a ∧ lsaExp a ≤ 127 :=
  ⟨(sext_eight_mem _).1, (sext_eight_mem _).2, sext_eight_mem _⟩

/-! ### The branches of `lscl.step` (R195) -/

/-- GOOD after a step without overflow, before it is compared with INTERVAL. -/
def nextGood (b : Word) : Nat := min (b.toNat % 2 ^ 16 + 1) 65535

theorem nextGood_lt (b : Word) : nextGood b < 2 ^ 16 := by
  unfold nextGood
  omega

theorem lsStep_overflow_lowers {a : Word} (b : Word) (h : lsaMin a < lsaExp a) :
    lsStep a b true = (lsaPut a (lsaExp a - 1) false false, lsbPut b 0) := by
  unfold lsStep
  rw [if_pos rfl]
  exact if_pos h

theorem lsStep_overflow_pins {a : Word} (b : Word) (h : lsaExp a ≤ lsaMin a) :
    lsStep a b true = (lsaPut a (lsaExp a) true false, lsbPut b 0) := by
  unfold lsStep
  rw [if_pos rfl]
  exact if_neg (Int.not_lt.mpr h)

theorem lsStep_interval_raises {a b : Word} (hon : b.toNat / 2 ^ 16 ≠ 0) (hfull : b.toNat / 2 ^ 16 ≤ nextGood b)
    (h : lsaExp a < lsaMax a) : lsStep a b false = (lsaPut a (lsaExp a + 1) false false, lsbPut b 0) := by
  unfold lsStep
  rw [if_neg Bool.false_ne_true]
  exact (if_pos ⟨hon, hfull⟩).trans (if_pos h)

theorem lsStep_interval_pins {a b : Word} (hon : b.toNat / 2 ^ 16 ≠ 0) (hfull : b.toNat / 2 ^ 16 ≤ nextGood b)
    (h : lsaMax a ≤ lsaExp a) : lsStep a b false = (lsaPut a (lsaExp a) false true, lsbPut b 0) := by
  unfold lsStep
  rw [if_neg Bool.false_ne_true]
  exact (if_pos ⟨hon, hfull⟩).trans (if_neg (Int.not_lt.mpr h))

theorem lsStep_counts (a : Word) {b : Word} (h : b.toNat / 2 ^ 16 = 0 ∨ nextGood b < b.toNat / 2 ^ 16) :
    lsStep a b false = (lsaPut a (lsaExp a) false (a.getLsbD 0), lsbPut b (nextGood b)) := by
  unfold lsStep
  rw [if_neg Bool.false_ne_true]
  exact if_neg fun ⟨hon, hfull⟩ => h.elim hon (Nat.not_lt.mpr hfull)

/-- Every field of a pair that a step writes. -/
theorem fields_of_put {a b : Word} {p : Word × Word} {exp : Int} {lo hi : Bool} {good : Nat}
    (hp : p = (lsaPut a exp lo hi, lsbPut b good)) (hmin : -128 ≤ exp) (hmax : exp ≤ 127) (hg : good < 2 ^ 16) :
    lsaExp p.1 = exp ∧ p.1.getLsbD 1 = lo ∧ p.1.getLsbD 0 = hi ∧ p.2.toNat % 2 ^ 16 = good ∧
      p.2.toNat / 2 ^ 16 = b.toNat / 2 ^ 16 ∧ lsaMax p.1 = lsaMax a ∧ lsaMin p.1 = lsaMin a := by
  subst hp
  exact ⟨lsaExp_lsaPut a lo hi hmin hmax, pinlo_lsaPut .., pinhi_lsaPut .., lsbPut_good b hg, lsbPut_interval b hg,
    lsaMax_lsaPut .., lsaMin_lsaPut ..⟩

/-- A power of two in the normal range of FP32 is its biased exponent over a zero fraction (R53, R55). -/
theorem rnd_f32_pow {e : Int} (hlo : -126 ≤ e) (hhi : e ≤ 127) : (rnd .f32 {} false 1 e).1 = (e + 127).toNat * 2 ^ 23 := by
  have hlen : bitLen 1 = 1 := by decide
  have hfrac : Fmt.f32.frac = 23 := rfl
  have hqmin : Fmt.f32.qmin = -149 := by decide
  have hinf : Fmt.f32.infBits = 255 * 2 ^ 23 := by decide
  have hq : max (e + (1 : Nat) - 1 - (23 : Nat)) (-149 : Int) = e - 23 := by omega
  have hshift : roundShift .rne false 1 (-23) false = (2 ^ 23, false) := by decide
  have hmag : (e - 23 - -149).toNat * 2 ^ 23 + 2 ^ 23 = (e + 127).toNat * 2 ^ 23 := by omega
  have hfinite : ¬ (e + 127).toNat * 2 ^ 23 ≥ 255 * 2 ^ 23 := by omega
  simp only [rnd, hlen, hfrac, hqmin, hinf, hq, show e - 23 - e = -23 by omega, hshift, hmag, hfinite, if_false, Bool.false_and,
    Bool.false_eq_true, Fmt.withSign, Nat.zero_add]

/-- `lsScale` rounds 2^EXP once. An equation of functions: applied to an LSA, the two sides differ by a projection, which the kernel
would compute through `rnd` before it unfolds `lsScale`. -/
theorem lsScale_def : lsScale = fun a => ((FVal.fin false 1 (lsaExp a)).exact.round .f32 {}).1 := rfl

/-- A non-zero magnitude that is known exactly rounds by `rnd` (R55). -/
theorem round_exact_fin {m : Nat} (fmt : Fmt) (c : RCtl) (neg : Bool) (e : Int) (hm : m ≠ 0) :
    (FVal.fin neg m e).exact.round fmt c = rnd fmt c neg m e := by
  rw [FVal.exact, if_neg hm]
  exact if_neg fun h => hm h.1

/-- 2^EXP as FP32, for every EXP that `lscl.set` lets in (R194, R195). -/
theorem lsScale_eq {a : Word} (hlo : -126 ≤ lsaExp a) (hhi : lsaExp a ≤ 127) :
    lsScale a = (lsaExp a + 127).toNat * 2 ^ 23 := by
  rw [lsScale_def]
  simp only [round_exact_fin _ _ _ _ Nat.one_ne_zero, rnd_f32_pow hlo hhi]

/-- Where `lscl.step` issues, it steps the pair and D gets the new scale an issue slot later; NSTAT is not in its effect. -/
theorem completes_lsclStep (f : Fields) : Completes lsclStepSpec false (.lsclStep f) f (fun slot s =>
    let p := lsStep s.w.r.lsa s.w.r.lsb (s.srcB f 18 0 != 0)
    ((s.withR fun r => { r with lsa := p.1, lsb := p.2 }).result slot 1 (dstWr 18 f.d 0 (lsScale p.1))).goOn false f slot none) :=
  fun _ h => congrArg Host.Outcome.next (issue_ok h rfl)

/-- Settles O50: each branch of R195 writes a pair whose fields are read back. -/
theorem lossScaleStep : Obligations.LossScaleStep := by
  refine ⟨fun a b => ?_, by decide +kernel, completes_lsclStep⟩
  obtain ⟨hmin, hmax, hexpLo, hexpHi⟩ := lsa_mem a
  refine ⟨fun h => ?_, fun h => ?_, fun hon hfull h => ?_, fun hon hfull h => ?_, fun h => ?_, lsScale_eq⟩
  · exact fields_of_put (lsStep_overflow_lowers b h) (by omega) (by omega) (by decide)
  · exact fields_of_put (lsStep_overflow_pins b h) hexpLo hexpHi (by decide)
  · exact fields_of_put (lsStep_interval_raises hon hfull h) (by omega) (by omega) (by decide)
  · exact fields_of_put (lsStep_interval_pins hon hfull h) hexpLo hexpHi (by decide)
  · exact fields_of_put (lsStep_counts a h) hexpLo hexpHi (nextGood_lt b)

end Sys2Proof.Machine

/-! `br` and `bu` (R304): what the issue of an instruction leaves of the control state, and where the two go on. -/

namespace Sys2Proof.Machine

/-! ### The control state as an effect begins -/

/-- Only a write to em changes the control state. -/
theorem Regs.put_ctl {w : Wr} (r : Regs) (hw : ∀ x, w ≠ .em x) : (r.put w).ctl = r.ctl := by
  cases w with
  | v n lane x => rfl
  | s n x => rfl
  | p n mask bits => unfold Regs.put; dsimp only; split <;> rfl
  | em x => exact absurd rfl (hw x)

/-- A list of writes leaves the control state where none of them is to em. -/
theorem Regs.puts_ctl {ws : List Wr} (r : Regs) (hws : ∀ w ∈ ws, ∀ x, w ≠ .em x) : (r.puts ws).ctl = r.ctl := by
  induction ws generalizing r with
  | nil => rfl
  | cons w ws ih =>
    obtain ⟨hw, hws⟩ := List.forall_mem_cons.mp hws
    exact (ih (r.put w) hws).trans (r.put_ctl hw)

theorem Pend.insert_perm (q : Pend) (l : List Pend) : (Pend.insert q l).Perm (q :: l) := by
  induction l with
  | nil => exact .refl _
  | cons x xs ih =>
    unfold Pend.insert
    split
    · exact .refl _
    · exact (ih.cons x).trans (.swap q x xs)

/-- Putting short results in the order of their slots loses none and makes none. -/
theorem Pend.foldr_insert_perm (l : List Pend) : (l.foldr Pend.insert []).Perm l := by
  induction l with
  | nil => exact .refl _
  | cons x xs ih => exact (Pend.insert_perm x _).trans (ih.cons x)

/-- What becomes available at a slot was still to come. -/
theorem Regs.mem_pend_of_mem_ripe {r : Regs} {slot : Nat} {q : Pend} (hq : q ∈ r.ripe slot) : q ∈ r.pend :=
  (List.mem_filter.mp ((Pend.foldr_insert_perm _).mem_iff.mp hq)).1

theorem Regs.foldl_puts_ctl {l : List Pend} (r : Regs) (hl : ∀ q ∈ l, ∀ w ∈ q.wrs, ∀ x, w ≠ .em x) :
    (l.foldl (fun r q => r.puts q.wrs) r).ctl = r.ctl := by
  induction l generalizing r with
  | nil => rfl
  | cons q qs ih =>
    obtain ⟨hq, hqs⟩ := List.forall_mem_cons.mp hl
    exact (ih (r.puts q.wrs) hqs).trans (r.puts_ctl hq)

/-- Short results that become available leave the control state where no write to em is among them (R295). -/
theorem Regs.settle_ctl {r : Regs} (slot : Nat) (hem : ∀ q ∈ r.pend, ∀ w ∈ q.wrs, ∀ x, w ≠ .em x) :
    (r.settle slot).ctl = r.ctl :=
  r.foldl_puts_ctl fun q hq => hem q (Regs.mem_pend_of_mem_ripe hq)

@[simp] theorem State.noteEarly_w (s : State) (w : Wave) (ws : List Wr) : (s.noteEarly w ws).w = s.w := by
  unfold State.noteEarly
  split
  · rfl
  · split <;> rfl

/-- What the engine remembers of a write to a held register is its own (R207). -/
@[simp] theorem State.touchHeld_w (s : State) (w : Wave) (ws : List Wr) : (s.touchHeld w ws).w = s.w := by
  unfold State.touchHeld
  dsimp only
  split
  · exact s.noteEarly_w w ws
  · split <;> exact s.noteEarly_w w ws

/-- An instruction's effect begins with the registers that have settled by its issue slot. -/
theorem State.atIssue_r (s : State) (f : Fields) : (s.atIssue f).w.r = s.w.r.settle (issueSlot s f) := by
  simp [State.atIssue]

/-- An instruction's effect begins with the control state that stood before its issue, where no write to em is to come. -/
theorem State.atIssue_ctl {s : State} (f : Fields) (hem : ∀ q ∈ s.w.r.pend, ∀ w ∈ q.wrs, ∀ x, w ≠ .em x) :
    (s.atIssue f).w.r.ctl = s.w.r.ctl := by
  rw [s.atIssue_r, Regs.settle_ctl _ hem]

/-! ### The arm after an instruction -/

@[simp] theorem Arm.after_pc (a : Arm) (slot size : Nat) (dest : Option DWord) :
    (a.after slot size dest).pc = dest.getD (a.pc + BitVec.ofNat 64 size) := by
  cases dest <;> rfl

@[simp] theorem Arm.after_em (a : Arm) (slot size : Nat) (dest : Option DWord) : (a.after slot size dest).em = a.em := by
  cases dest <;> rfl

/-! ### `br` and `bu` -/

theorem completes_br (f : Fields) :
    Completes brSpec true (.br f) f (fun slot s => s.goOn false f slot (some (s.target f))) :=
  fun _ h => congrArg Host.Outcome.next (issue_ok h rfl)

theorem completes_bu (f : Fields) :
    Completes buSpec true (.bu f) f
      (fun slot s => s.goOn false f slot (if buTaken s.w.r f then some (s.target f) else none)) :=
  fun _ h => congrArg Host.Outcome.next (issue_ok h rfl)

section Modes

variable {r : Regs} {f : Fields}

theorem buTaken_nz (hx : f.x = 0) : buTaken r f = true ↔ srcVal r f 18 f.c 0 ≠ 0 := by
  simp [buTaken, hx, src32_eq]

theorem buTaken_z (hx : f.x = 1) : buTaken r f = true ↔ srcVal r f 18 f.c 0 = 0 := by
  simp [buTaken, hx, src32_eq]

theorem buTaken_any (hx : f.x = 2) : buTaken r f = true ↔ maskVal r f.c &&& r.em ≠ 0 := by
  simp [buTaken, hx]

theorem buTaken_all (hx : f.x = 3) : buTaken r f = true ↔ maskVal r f.c &&& r.em = r.em := by
  simp [buTaken, hx]

end Modes

/-- An instruction answers a next state with its arm at an address, em and the other arm as they were. -/
def GoesTo (i : Instr) (s : State) (pc : DWord) : Prop :=
  ∃ t, exec i s = .next t ∧ t.w.r.ctl.arm.pc = pc ∧ t.w.r.ctl.arm.em = s.w.r.ctl.arm.em ∧ t.w.r.ctl.other = s.w.r.ctl.other

section Transfer

variable {s : State} {f : Fields} (hem : ∀ q ∈ s.w.r.pend, ∀ w ∈ q.wrs, ∀ x, w ≠ .em x)
include hem

/-- An instruction that only goes on, to `dest` or past itself, sets the pc of its own arm and leaves em and the other arm. -/
theorem goesTo_of_goOn {i : Instr} {long : Bool} {slot : Nat} {dest : Option DWord}
    (h : exec i s = .next ((s.atIssue f).goOn long f slot dest)) :
    GoesTo i s (dest.getD (s.w.r.ctl.arm.pc + BitVec.ofNat 64 f.len.bytes)) :=
  ⟨_, h, by simp [State.atIssue_ctl f hem]⟩

theorem State.atIssue_target : (s.atIssue f).target f = s.w.r.ctl.arm.pc + BitVec.ofInt 64 (4 * f.off.toInt) := by
  rw [State.target, State.pc, State.atIssue_ctl f hem]

theorem goesTo_br (h : issues brSpec true f s = true) :
    GoesTo (.br f) s (s.w.r.ctl.arm.pc + BitVec.ofInt 64 (4 * f.off.toInt)) := by
  rw [← State.atIssue_target hem]
  exact goesTo_of_goOn hem (completes_br f s h)

/-- Where the condition of its mode is `c`, `bu` goes to its target if `c` and else to the next instruction. -/
theorem goesTo_bu {c : Prop} [Decidable c] (h : issues buSpec true f s = true) (hc : buTaken (s.atIssue f).w.r f = true ↔ c) :
    GoesTo (.bu f) s (if c then s.w.r.ctl.arm.pc + BitVec.ofInt 64 (4 * f.off.toInt)
      else s.w.r.ctl.arm.pc + BitVec.ofNat 64 f.len.bytes) := by
  have hgo := goesTo_of_goOn hem (completes_bu f s h)
  simp only [hc, State.atIssue_target hem] at hgo
  split <;> simpa [*] using hgo

end Transfer

/-- Settles O49: either only goes on, with em and the other arm as before issue, and `bu` to the target on its mode's condition. -/
theorem brAndBuTransfer : Obligations.BrAndBuTransfer := by
  intro f s e goes target next m em hem
  have hem' : e.w.r.em = em := congrArg (·.arm.em) (State.atIssue_ctl f hem)
  exact ⟨goesTo_br hem, fun h hx => goesTo_bu hem h (buTaken_nz hx), fun h hx => goesTo_bu hem h (buTaken_z hx),
    fun h hx => goesTo_bu hem h (hem' ▸ buTaken_any hx), fun h hx => goesTo_bu hem h (hem' ▸ buTaken_all hx)⟩

end Sys2Proof.Machine

/-! An encoded instruction is read back from its words (R17 to R36). -/

namespace Sys2Proof

/-! ### Bytes -/

theorem length_bytesOf (n : Nat) (w : BitVec 128) : (bytesOf n w).length = n := by
  simp [bytesOf]

theorem ofBytes_concat (bs : List Byte) (b : Byte) : ofBytes (bs ++ [b]) = ofBytes bs + 2 ^ (8 * bs.length) * b.toNat := by
  induction bs with
  | nil => simp [ofBytes]
  | cons x xs ih =>
    simp only [List.cons_append, ofBytes, ih, List.length_cons, Nat.mul_add, Nat.pow_add]
    rw [show 2 ^ (8 * 1) = 256 from rfl, Nat.add_assoc, Nat.mul_left_comm, Nat.mul_assoc]

/-- The number of a word's first `n` bytes is its low `8 n` bits (R3). -/
theorem ofBytes_bytesOf (n : Nat) (w : BitVec 128) : ofBytes (bytesOf n w) = w.toNat % 2 ^ (8 * n) := by
  induction n with
  | zero => simp [bytesOf, ofBytes, Nat.mod_one]
  | succ n ih =>
    have hsucc : bytesOf (n + 1) w = bytesOf n w ++ [w.extractLsb' (8 * n) 8] := by
      simp [bytesOf, List.range_succ]
    rw [hsucc, ofBytes_concat, ih, length_bytesOf, BitVec.extractLsb'_toNat, Nat.shiftRight_eq_div_pow,
      Nat.mul_succ, Nat.pow_add, Nat.mod_mul]

/-- A field that lies within a word's first `n` bytes is read from them. -/
theorem extractLsb'_ofBytes {n start len : Nat} (w : BitVec 128) (h : start + len ≤ 8 * n) :
    (BitVec.ofNat 128 (ofBytes (bytesOf n w))).extractLsb' start len = w.extractLsb' start len := by
  ext i hi
  have hbit : start + i < 8 * n := by omega
  simp only [BitVec.getElem_extractLsb', ofBytes_bytesOf, BitVec.getLsbD_ofNat, Nat.testBit_mod_two_pow, hbit,
    decide_true, Bool.true_and]
  by_cases h128 : start + i < 128
  · simp [h128, BitVec.getLsbD]
  · simp [h128, BitVec.getLsbD_of_ge _ _ (Nat.not_lt.mp h128)]

/-! ### The fields of a word (R20) -/

section

variable (op : BitVec 8) (f : Fields)

theorem Fields.toBits_len : (f.toBits op).extractLsb' 0 2 = f.len.code := by
  rw [Fields.toBits, BitVec.extractLsb'_append_eq_of_add_le (by decide)]
  simp

theorem Fields.toBits_fields :
    (f.toBits op).extractLsb' 2 1 = (if f.uni then 1#1 else 0#1) ∧ (f.toBits op).extractLsb' 3 8 = op ∧
    (f.toBits op).extractLsb' 11 3 = f.dist ∧ (f.toBits op).extractLsb' 14 4 = f.pred ∧
    (f.toBits op).extractLsb' 18 4 = f.setf ∧ (f.toBits op).extractLsb' 22 10 = f.d ∧
    (f.toBits op).extractLsb' 32 12 = f.wait ∧ (f.toBits op).extractLsb' 44 10 = f.a ∧
    (f.toBits op).extractLsb' 54 10 = f.b ∧ (f.toBits op).extractLsb' 64 10 = f.c ∧
    (f.toBits op).extractLsb' 74 6 = f.ty ∧ (f.toBits op).extractLsb' 80 4 = f.mod ∧
    (f.toBits op).extractLsb' 84 12 = f.x ∧ (f.toBits op).extractLsb' 96 32 = f.imm := by
  refine ⟨?_, ?_, ?_, ?_, ?_, ?_, ?_, ?_, ?_, ?_, ?_, ?_, ?_, ?_⟩
  all_goals
    unfold Fields.toBits
    repeat rw [BitVec.extractLsb'_append_eq_of_le (by decide)]
  iterate 13
    · rw [BitVec.extractLsb'_append_eq_of_add_le (by decide)]
      exact BitVec.extractLsb'_eq_self
  exact BitVec.extractLsb'_eq_self

end

/-- The fields of the words that hold them, where the form carries them or they have their implied values (R26, R33). -/
theorem Fields.ofBits_toBits {op : BitVec 8} {f : Fields} (hfit : f.fitsForm op = true) :
    Fields.ofBits f.len (BitVec.ofNat 128 (ofBytes (bytesOf f.len.bytes (f.toBits op)))) = f := by
  obtain ⟨huni, hop, hdist, hpred, hsetf, hd, hwait, ha, hb, hc, hty, hmod, hx, himm⟩ := f.toBits_fields op
  obtain ⟨len, uni, dist, pred, setf, d, wait, a, b, c, ty, mod, x, imm⟩ := f
  have hbit : ((if uni = true then 1#1 else 0#1) == 1#1) = uni := by cases uni <;> rfl
  cases len <;>
    simp_all [Fields.ofBits, Fields.fitsForm, extractLsb'_ofBytes, Len.bytes]

/-- OP of the words (R36). -/
theorem op_ofBytes {op : BitVec 8} (f : Fields) :
    (BitVec.ofNat 128 (ofBytes (bytesOf f.len.bytes (f.toBits op)))).extractLsb' 3 8 = op := by
  obtain ⟨-, hop, -⟩ := f.toBits_fields op
  rw [extractLsb'_ofBytes _ (by cases f.len <;> decide), hop]

/-! ### OP and X name the instruction (R36) -/

/-- The OPs whose instruction X chooses, each by the bits of X that choose it. -/
theorem ofOpcode_choosing (f : Fields) :
    (ofOpcode 0x10 f = match (f.x.extractLsb' 10 2).toNat with | 1 => some (.trapRd f) | _ => some (.trap f)) ∧
    (ofOpcode 0x11 f = match (f.x.extractLsb' 0 2).toNat with
      | 1 => some (.rteSkip f) | 2 => some (.rteEnd f) | 3 => some (.rteTo f) | _ => some (.rteRetry f)) ∧
    (ofOpcode 0x16 f = match (f.x.extractLsb' 0 3).toNat with
      | 1 => some (.lsclGet f) | 2 => some (.lsclSet f) | 3 => some (.lsclRdst f) | 4 => some (.lsclClrst f)
      | 5 => some (.lsclMode f) | _ => some (.lsclStep f)) ∧
    (ofOpcode 0x54 f = match (f.x.extractLsb' 0 2).toNat with
      | 1 => some (.rngSetc f) | 2 => some (.rngGetc f) | _ => some (.rngDraw f)) ∧
    (ofOpcode 0x69 f = match (f.x.extractLsb' 0 2).toNat with | 1 => some (.cinvSector f) | _ => some (.cinv f)) ∧
    (ofOpcode 0x6A f = match (f.x.extractLsb' 0 2).toNat with
      | 1 => some (.cwbInv f) | 2 => some (.cwbCtx f) | _ => some (.cwb f)) ∧
    (ofOpcode 0xA0 f = match (f.x.extractLsb' 3 1).toNat with | 1 => some (.gbindUnbind f) | _ => some (.gbind f)) ∧
    (ofOpcode 0xC2 f = match (f.x.extractLsb' 0 2).toNat with
      | 1 => some (.tlbiCtx f) | 2 => some (.tlbiAll f) | _ => some (.tlbiVa f)) ∧
    (ofOpcode 0xC3 f = match (f.x.extractLsb' 0 1).toNat with | 1 => some (.pmsetRead f) | _ => some (.pmsetBudget f)) :=
  ⟨rfl, rfl, rfl, rfl, rfl, rfl, rfl, rfl, rfl⟩

/-- An encoded instruction is the one that its OP and its fields name. -/
theorem ofOpcode_opcode {i : Instr} {op : BitVec 8} {f : Fields} (hop : i.opcode = some op) (hf : i.fields = some f)
    (hsub : i.subOk = true) : ofOpcode op.toNat f = some i := by
  have hchoose := ofOpcode_choosing f
  cases i with
  | trapRd f | rteSkip f | rteEnd f | rteTo f | rngSetc f | rngGetc f | lsclGet f | lsclSet f | lsclRdst f | lsclClrst f
  | lsclMode f | cinvSector f | cwbInv f | cwbCtx f | gbindUnbind f | tlbiCtx f | tlbiAll f | pmsetRead f =>
    cases hop
    cases hf
    have hbits := eq_of_beq hsub
    simp [hchoose, hbits]
  | trap f | rteRetry f | rngDraw f | lsclStep f | cinv f | cwb f | gbind f | tlbiVa f | pmsetBudget f =>
    cases hop
    cases hf
    simp only [Instr.subOk, Bool.and_eq_true, bne_iff_ne, ne_eq, ← BitVec.toNat_inj] at hsub
    simp only [BitVec.reduceToNat, hchoose]
    split <;> simp_all
  | _ => cases hop <;> cases hf <;> rfl

/-! ### Words -/

/-- Every field within 64 bits that are 0 is 0. -/
theorem extractLsb'_of_low_eq_zero {w : BitVec 128} (hw : w.extractLsb' 0 64 = 0) {start len : Nat} (h : start + len ≤ 64) :
    w.extractLsb' start len = 0 := by
  ext i hi
  have hbit := congrArg (fun x : BitVec 64 => x.getLsbD (start + i)) hw
  have hin : start + i < 64 := by omega
  simpa [BitVec.getLsbD_extractLsb', hin] using hbit

/-- The fields of 64 bits that are 0 are those of the all-zero word (R24). -/
theorem allZeroNop_ofBits {w : BitVec 128} (hw : w.extractLsb' 0 64 = 0) : allZeroNop (Fields.ofBits .l64 w) = true := by
  simp [allZeroNop, Fields.ofBits, extractLsb'_of_low_eq_zero hw, impliedTy]

/-- Only a `nop` has an all-zero word (R24, R41). -/
theorem low_ne_zero {op : BitVec 8} {f : Fields} (hlen : f.len = .l64) (hfit : f.fitsForm op = true)
    (hnop : op = 0 → allZeroNop f = false) :
    (BitVec.ofNat 128 (ofBytes (bytesOf f.len.bytes (f.toBits op)))).extractLsb' 0 64 ≠ 0 := by
  intro hzero
  have hop : op = 0 := (op_ofBytes f).symm.trans (extractLsb'_of_low_eq_zero hzero (by decide))
  have hall := allZeroNop_ofBits hzero
  rw [← hlen, Fields.ofBits_toBits hfit, hnop hop] at hall
  cases hall

/-- An encoded instruction is read back from its words. -/
theorem decodeWord_toBits {i : Instr} {op : BitVec 8} {f : Fields} (hop : i.opcode = some op) (hf : i.fields = some f)
    (hsub : i.subOk = true) (hfit : f.fitsForm op = true) (hnop : op = 0 → allZeroNop f = false) :
    decodeWord f.len (BitVec.ofNat 128 (ofBytes (bytesOf f.len.bytes (f.toBits op)))) = i := by
  unfold decodeWord
  rw [if_neg (fun h => low_ne_zero h.1 hfit hnop h.2), op_ofBytes, Fields.ofBits_toBits hfit, ofOpcode_opcode hop hf hsub]
  rfl

/-- LEN is in the first byte (R17). -/
theorem lenCode_bytesOf {n : Nat} (w : BitVec 128) (rest : List Byte) : lenCode (bytesOf (n + 1) w ++ rest) = w.extractLsb' 0 2 := by
  simp only [lenCode, bytesOf, List.range_succ_eq_map, List.map_cons, List.cons_append, List.headD_cons]
  exact BitVec.extractLsb'_extractLsb'_of_le (by decide)

/-- A word whose LEN gives its length is decoded from its bytes, whatever follows them. -/
theorem decode_bytesOf {l : Len} {w : BitVec 128} (rest : List Byte) (hl : w.extractLsb' 0 2 = l.code) :
    decode (bytesOf l.bytes w ++ rest) = some (decodeWord l (BitVec.ofNat 128 (ofBytes (bytesOf l.bytes w))), rest) := by
  have hcode : lenCode (bytesOf l.bytes w ++ rest) = l.code := by
    rw [← hl]
    cases l <;> exact lenCode_bytesOf w rest
  have hof : Len.ofCode l.code = some l := by cases l <;> rfl
  have htake : (bytesOf l.bytes w ++ rest).take l.bytes = bytesOf l.bytes w := List.take_left' (length_bytesOf ..)
  have hdrop : (bytesOf l.bytes w ++ rest).drop l.bytes = rest := List.drop_left' (length_bytesOf ..)
  simp [decode, hcode, hof, htake, hdrop, length_bytesOf]

/-- No instruction has a reserved OP (R36). -/
theorem ofOpcode_reserved {op : BitVec 8} (f : Fields) (hres : reservedOpcode op = true) : ofOpcode op.toNat f = none := by
  unfold ofOpcode
  split
  case h_132 => rfl
  all_goals
    rename_i hop
    simp [reservedOpcode, hop] at hres

/-- A field within 64 bits is that of the 64-bit word. -/
theorem extractLsb'_setWidth_128 {start len : Nat} (w : DWord) (h : start + len ≤ 64) :
    (w.setWidth 128).extractLsb' start len = w.extractLsb' start len := by
  ext i hi
  simp [show start + i < 128 by omega]

/-- A word of a reserved OP is no instruction, and decodes to the word itself (R36). -/
theorem decodeWord_reserved (l : Len) {w : DWord} (hres : reservedOpcode (w.extractLsb' 3 8) = true) :
    decodeWord l (BitVec.ofNat 128 (ofBytes (bytesOf l.bytes (w.setWidth 128)))) = .reservedOp w := by
  have hl : 64 ≤ 8 * l.bytes := by cases l <;> decide
  have hlow : (BitVec.ofNat 128 (ofBytes (bytesOf l.bytes (w.setWidth 128)))).extractLsb' 0 64 = w := by
    rw [extractLsb'_ofBytes _ hl, extractLsb'_setWidth_128 w (by decide)]
    exact BitVec.extractLsb'_eq_self
  have hop : (BitVec.ofNat 128 (ofBytes (bytesOf l.bytes (w.setWidth 128)))).extractLsb' 3 8 = w.extractLsb' 3 8 := by
    rw [extractLsb'_ofBytes _ (by omega), extractLsb'_setWidth_128 w (by decide)]
  have hne : w ≠ 0 := by
    rintro rfl
    simp [reservedOpcode] at hres
  unfold decodeWord
  rw [hlow, hop, ofOpcode_reserved _ hres, if_neg (fun h => hne h.2)]
  rfl

/-- A word with LEN = 3 is read as 4 bytes, and nothing after them is examined (R40). -/
theorem decode_reserved_len3 {w : DWord} (rest : List Byte) (hlen : w.extractLsb' 0 2 = 3) (hhigh : w.extractLsb' 32 32 = 0) :
    decode (bytesOf 4 (w.setWidth 128) ++ rest) = some (.reservedOp w, rest) := by
  have hcode : lenCode (bytesOf 4 (w.setWidth 128) ++ rest) = 3 := by
    rw [lenCode_bytesOf, extractLsb'_setWidth_128 w (by decide), hlen]
  have hof : Len.ofCode 3 = none := rfl
  have htake : (bytesOf 4 (w.setWidth 128) ++ rest).take 4 = bytesOf 4 (w.setWidth 128) :=
    List.take_left' (length_bytesOf ..)
  have hdrop : (bytesOf 4 (w.setWidth 128) ++ rest).drop 4 = rest :=
    List.drop_left' (length_bytesOf ..)
  have hword : BitVec.ofNat 64 (ofBytes (bytesOf 4 (w.setWidth 128))) = w := by
    have hsmall : w.toNat / 2 ^ 32 % 2 ^ 32 = 0 := by
      simpa [Nat.shiftRight_eq_div_pow] using congrArg BitVec.toNat hhigh
    apply BitVec.eq_of_toNat_eq
    simp only [ofBytes_bytesOf, BitVec.toNat_ofNat, BitVec.toNat_setWidth]
    omega
  unfold decode
  rw [hcode, hof, htake, hdrop, hword]
  simp [length_bytesOf]

/-! ### The round trip -/

/-- The words of an instruction that has an OP are those of its fields. -/
theorem encode_eq {i : Instr} {op : BitVec 8} {f : Fields} (hop : i.opcode = some op) (hf : i.fields = some f) :
    encode i = some (bytesOf f.len.bytes (f.toBits op)) := by
  cases i <;> cases hop <;> cases hf <;> rfl

/-- OP 0 is that of `nop` alone (R36). -/
theorem eq_nop_of_opcode {i : Instr} (hop : i.opcode = some 0) : ∃ f, i = .nop f := by
  cases i with
  | nop f => exact ⟨f, rfl⟩
  | _ => simp [Instr.opcode] at hop

/-- Every other instruction that has an OP is well formed where it fits its form and X chooses it. -/
theorem wf_eq {i : Instr} {op : BitVec 8} {f : Fields} (hop : i.opcode = some op) (hf : i.fields = some f)
    (hnop : ∀ f, i ≠ .nop f) : i.wf = (f.fitsForm op && i.subOk) := by
  cases i with
  | nop f => exact absurd rfl (hnop f)
  | allZeroWord | reservedOp w => cases hop
  | _ => cases hop <;> cases hf <;> rfl

/-- What well-formedness says of an instruction that has an OP. -/
theorem fitsForm_of_wf {i : Instr} {op : BitVec 8} {f : Fields} (hwf : i.wf = true) (hop : i.opcode = some op)
    (hf : i.fields = some f) : f.fitsForm op = true ∧ i.subOk = true ∧ (op = 0 → allZeroNop f = false) := by
  by_cases hnop : ∃ f, i = .nop f
  · obtain ⟨g, rfl⟩ := hnop
    cases hop
    cases hf
    simp only [Instr.wf, Bool.and_eq_true, Bool.not_eq_true'] at hwf
    exact ⟨hwf.1, rfl, fun _ => hwf.2⟩
  · rw [wf_eq hop hf fun g hg => hnop ⟨g, hg⟩, Bool.and_eq_true] at hwf
    exact ⟨hwf.1, hwf.2, fun hzero => absurd (eq_nop_of_opcode (hzero ▸ hop)) hnop⟩

/-- Eight bytes of zeros are the all-zero word (R24). -/
theorem decode_zeroWord (rest : List Byte) : decode (bytesOf 8 0 ++ rest) = some (.allZeroWord, rest) := by
  have hlow : (BitVec.ofNat 128 (ofBytes (bytesOf 8 0))).extractLsb' 0 64 = 0 := by
    rw [extractLsb'_ofBytes _ (by decide)]
    rfl
  refine (decode_bytesOf (l := .l64) rest (BitVec.extractLsb'_zero ..)).trans ?_
  rw [decodeWord, if_pos ⟨rfl, hlow⟩]

/-- Only the all-zero word and a reserved word have words and no OP. -/
theorem cases_of_encode {i : Instr} {bs : List Byte} (h : encode i = some bs) :
    (∃ op f, i.opcode = some op ∧ i.fields = some f) ∨ i = .allZeroWord ∨ ∃ w, i = .reservedOp w := by
  cases hop : i.opcode with
  | none =>
    cases i with
    | allZeroWord => exact .inr (.inl rfl)
    | reservedOp w => exact .inr (.inr ⟨w, rfl⟩)
    | _ => cases hop <;> cases h
  | some op =>
    cases hf : i.fields with
    | none => cases i <;> cases hop <;> cases hf
    | some f => exact .inl ⟨op, f, rfl, rfl⟩

/-- Each LEN but 3 is that of a length (R17). -/
theorem exists_code {c : BitVec 2} (h : c ≠ 3) : ∃ l : Len, c = l.code := by
  have hcases : ∀ c : BitVec 2, c ≠ 3 → c = 0 ∨ c = 1 ∨ c = 2 := by decide
  rcases hcases c h with h | h | h
  · exact ⟨.l64, h⟩
  · exact ⟨.l96, h⟩
  · exact ⟨.l128, h⟩

/-- A reserved word is read back: by its LEN in full, and as 4 bytes where LEN is 3. -/
theorem decode_reservedWord {w : DWord} {bs : List Byte} (rest : List Byte) (hwf : reservedWord w = true)
    (hbs : encode (.reservedOp w) = some bs) : decode (bs ++ rest) = some (.reservedOp w, rest) := by
  have hbs' : bs = bytesOf (Instr.size (.reservedOp w)) (w.setWidth 128) := (Option.some.inj hbs).symm
  unfold reservedWord at hwf
  subst hbs'
  by_cases hlen : w.extractLsb' 0 2 = 3
  · rw [if_pos hlen] at hwf
    have hsize : Instr.size (.reservedOp w) = 4 := by
      rw [Instr.size, hlen]
      rfl
    rw [hsize]
    exact decode_reserved_len3 rest hlen (eq_of_beq hwf)
  · rw [if_neg hlen] at hwf
    obtain ⟨l, hl⟩ := exists_code hlen
    have hsize : Instr.size (.reservedOp w) = l.bytes := by
      rw [Instr.size, hl]
      cases l <;> rfl
    rw [hsize, decode_bytesOf rest (by rw [extractLsb'_setWidth_128 w (by decide), hl]), decodeWord_reserved l hwf]

/-- Settles O53: the words hold every field that the form carries, and OP and X name the instruction. -/
theorem decodeReadsEncode : Obligations.DecodeReadsEncode := by
  intro i bs rest hwf hbs
  rcases cases_of_encode hbs with ⟨op, f, hop, hf⟩ | rfl | ⟨w, rfl⟩
  · obtain ⟨hfit, hsub, hnop⟩ := fitsForm_of_wf hwf hop hf
    rw [encode_eq hop hf] at hbs
    cases hbs
    rw [decode_bytesOf rest (f.toBits_len op), decodeWord_toBits hop hf hsub hfit hnop]
  · cases hbs
    exact decode_zeroWord rest
  · exact decode_reservedWord rest hwf hbs

end Sys2Proof

/-! How an instruction's clause follows from what its effect answers: the statements' `Completes`, `CompletesIf`, `CompletesFor`,
`Writes`, `Computes` and `Produces` from an equation about the effect alone. -/

namespace Sys2Proof.Machine

/-- Every trap but 0x0120 has the action of its own code (R354). -/
theorem State.trapBy_eq {c : BitVec 16} (s : State) (a d : DWord) (hc : c ≠ 0x0120) : s.trapBy c a d = s.trapAt c a d (actionOf c) :=
  if_neg hc

/-! A source read as TY 18 is a one-word operand. -/

theorem State.srcA_word (s : State) (f : Fields) (l : Nat) : s.srcA f 18 l = src32 s.w.r f f.a l := rfl
theorem State.srcB_word (s : State) (f : Fields) (l : Nat) : s.srcB f 18 l = src32 s.w.r f f.b l := rfl
theorem State.srcC_word (s : State) (f : Fields) (l : Nat) : s.srcC f 18 l = src32 s.w.r f f.c l := rfl

section

variable {sp : Spec} {always : Bool} {i : Instr} {f : Fields} {eff : Nat → State → Try}

/-- An instruction that is done at issue goes on. -/
theorem completes_ok (hexec : ∀ s, exec i s = .next (issue sp always i f eff s)) {t : Nat → State → State} {dest : Nat → State → Option DWord}
    (heff : ∀ slot s, eff slot s = .ok (t slot s) (dest slot s)) :
    Completes sp always i f fun slot s => (t slot s).goOn sp.long f slot (dest slot s) := fun s h => by
  rw [hexec, issue_ok h (heff _ _)]

/-- The same under a condition on the state in which its effect begins. -/
theorem completesIf_ok (hexec : ∀ s, exec i s = .next (issue sp always i f eff s)) {cond : State → Prop} {t : Nat → State → State}
    {dest : Nat → State → Option DWord} (heff : ∀ slot s, cond s → eff slot s = .ok (t slot s) (dest slot s)) :
    CompletesIf sp always i f cond fun slot s => (t slot s).goOn sp.long f slot (dest slot s) := fun s h hc => by
  rw [hexec, issue_ok h (heff _ _ hc)]

/-- The same where the state gives a value. -/
theorem completesFor_ok {α : Type} (hexec : ∀ s, exec i s = .next (issue sp false i f eff s)) {cond : State → α → Prop}
    {t : Nat → State → α → State} {dest : Nat → State → α → Option DWord}
    (heff : ∀ slot s x, cond s x → eff slot s = .ok (t slot s x) (dest slot s x)) :
    CompletesFor sp i f cond fun slot s x => (t slot s x).goOn sp.long f slot (dest slot s x) := fun s x h hc => by
  rw [hexec, issue_ok h (heff _ _ x hc)]

/-- An instruction whose effect sets the control state itself. -/
theorem completesIf_moved (hexec : ∀ s, exec i s = .next (issue sp always i f eff s)) {cond : State → Prop} {t : Nat → State → State}
    (heff : ∀ slot s, cond s → eff slot s = .moved (t slot s)) :
    CompletesIf sp always i f cond fun slot s => s.goOnMoved (t slot s) sp.long f slot := fun s h hc => by
  rw [hexec, issue_moved h (heff _ _ hc)]

/-- An instruction that traps precisely. -/
theorem completesIf_trap (hexec : ∀ s, exec i s = .next (issue sp always i f eff s)) {cond : State → Prop} {c : State → BitVec 16}
    {a d : State → DWord} (heff : ∀ slot s, cond s → eff slot s = .trap (c s) (a s) (d s)) :
    CompletesIf sp always i f cond fun _ s => s.trapBy (c s) (a s) (d s) := fun s h hc => by
  rw [hexec, issue_trap h (heff _ _ hc)]

/-- The same where the state gives a value. -/
theorem completesFor_trap {α : Type} (hexec : ∀ s, exec i s = .next (issue sp false i f eff s)) {cond : State → α → Prop}
    {c : State → α → BitVec 16} {a d : State → α → DWord} (heff : ∀ slot s x, cond s x → eff slot s = .trap (c s x) (a s x) (d s x)) :
    CompletesFor sp i f cond fun _ s x => s.trapBy (c s x) (a s x) (d s x) := fun s x h hc => by
  rw [hexec, issue_trap h (heff _ _ x hc)]

/-- An instruction that waits, with what it leaves while it does. -/
theorem completesIf_stall (hexec : ∀ s, exec i s = .next (issue sp always i f eff s)) {cond : State → Prop} {t : State → State}
    (heff : ∀ slot s, cond s → eff slot s = .stall (t s)) : CompletesIf sp always i f cond fun _ s => (t s).waits := fun s h hc => by
  rw [hexec, issue_eq h, heff _ _ hc]

/-- A short instruction that only queues register results. -/
theorem writes_of_effect (hexec : ∀ s, exec i s = .next (issue sp false i f eff s)) (hshort : sp.long = false) {lam : Nat}
    {wrs : State → List Wr} (heff : ∀ slot s, eff slot s = .ok (s.result slot lam (wrs s)) none) : Writes sp i f lam wrs :=
  fun s h => by rw [hexec, issue_ok h (heff _ _), hshort]

/-- A short instruction that queues register results and sets status bits. -/
theorem computes_of_effect (hexec : ∀ s, exec i s = .next (issue sp false i f eff s)) (hshort : sp.long = false) {lam : Nat}
    {out : State → List Wr × Word}
    (heff : ∀ slot s, eff slot s = .ok ((s.setNstat (out s).2).result slot lam (out s).1) none) : Computes sp i f lam out :=
  fun s h => by rw [hexec, issue_ok h (heff _ _), hshort]

/-- A long-latency instruction that leaves its results to its flag's operation. -/
theorem produces_of_effect (hexec : ∀ s, exec i s = .next (issue sp false i f eff s)) (hlong : sp.long = true)
    {out : State → List Wr × Word} (heff : ∀ slot s, eff slot s = .ok (s.longDone f (out s).1 (out s).2) none) :
    Produces sp i f out := fun s h => by rw [hexec, issue_ok h (heff _ _), hlong]

end

end Sys2Proof.Machine

/-! The instructions whose effect is a register result (R160 to R197): each clause is what the instruction's effect says. -/

namespace Sys2Proof.Machine

/-- λ of 1 is 1 with UNI and without (R295). -/
theorem lamOf_one (f : Fields) : lamOf f 1 = 1 := ite_self 1

/-- λ of a short floating-point instruction (R295). -/
theorem lamFp_eq (f : Fields) : lamFp f (f.ty == 9) = if f.ty = 9 then 8 else if f.uni then 1 else 2 := by
  simp [lamFp]

theorem lamFp_cvt (f : Fields) :
    lamFp f (f.ty == 9 || cvtSrc f == 9) = if f.ty = 9 ∨ cvtSrc f = 9 then 8 else if f.uni then 1 else 2 := by
  simp [lamFp]

/-- Settles O1: each form's effect queues the writes of its rule. -/
theorem integerGroupWrites : Obligations.IntegerGroupWrites := by
  refine ⟨fun f => ⟨?add, ?sub, ?mul, ?mulhi, ?mad, ?min, ?max, ?abs⟩, fun f => ⟨?and, ?or, ?xor, ?not, ?clz, ?popc, ?brev⟩,
    fun f => ⟨?shl, ?shr, ?sra, ?rot, ?bfe, ?bfi⟩⟩
  case add | sub | min | max | abs | and | or | xor | not | clz | popc | brev =>
    refine writes_of_effect (fun _ => rfl) rfl fun _ _ => ?_
    rw [lamOf_one]
    rfl
  all_goals exact writes_of_effect (fun _ => rfl) rfl (by intros; rfl)

/-- Settles O2: each effect queues its writes, and `sset` changes its context alone. -/
theorem selectCompareAndMove : Obligations.SelectCompareAndMove := by
  refine ⟨fun f => ⟨?sel, ?cmp⟩, fun f => ⟨?mov, ?movi, ?lea, ?addw, ?sget, ?sset⟩⟩
  case sset => exact completes_ok (fun _ => rfl) (by intros; rfl)
  all_goals exact writes_of_effect (fun _ => rfl) rfl (by intros; rfl)

/-- Settles O3: one rounding an element, its status bits set as the instruction issues. -/
theorem floatShortGroup : Obligations.FloatShortGroup := by
  refine ⟨fun f => ⟨?_, ?_, ?_, ?_, ?_, ?_, ?_⟩, fun f => ⟨?fcmp, ?fclass, ?cvt, ?fscl⟩⟩
  case fcmp | fclass =>
    rw [← lamFp_eq]
    exact writes_of_effect (fun _ => rfl) rfl (by intros; rfl)
  case cvt =>
    rw [← lamFp_cvt]
    exact computes_of_effect (fun _ => rfl) rfl (by intros; rfl)
  all_goals
    dsimp only
    rw [← lamFp_eq]
    exact computes_of_effect (fun _ => rfl) rfl (by intros; rfl)

/-! ### The long-latency group (R59, R178, R191, R192) -/

/-- The special inputs of R59's table. -/
theorem special_inputs (fm : Fmt) (c : RCtl) (n : Bool) (e : Int) :
    let one := (Exact.mag false 1 0 false).round fm c
    let iv : Nat × FFlags := (fm.nanBits, { inv := true })
    fexp2 fm c (.fin n 0 e) = one ∧ fexp2 fm c (.inf n) = (if n then 0 else fm.infBits, {}) ∧
    flog2 fm c (.fin n 0 e) = (fm.withSign true fm.infBits, { dz := true }) ∧
    flog2 fm c (.inf n) = (if n then iv else (fm.infBits, {})) ∧ (∀ m, m ≠ 0 → flog2 fm c (.fin true m e) = iv) ∧
    fsin fm c (.fin n 0 e) = (fm.withSign n 0, {}) ∧ fcos fm c (.fin n 0 e) = one ∧ fsin fm c (.inf n) = iv ∧ fcos fm c (.inf n) = iv ∧
    (∀ m, m ≠ 0 → (exactSqrt (.fin true m e)).round fm c = iv ∧ (exactRsq (.fin true m e)).round fm c = iv) ∧
    (exactSqrt (.fin n 0 e)).round fm c = (fm.withSign n 0, {}) ∧
    (exactRcp (.fin n 0 e)).round fm c = (fm.withSign n fm.infBits, { dz := true }) ∧
    (exactRsq (.fin n 0 e)).round fm c = (fm.withSign n fm.infBits, { dz := true }) ∧
    (exactRcp (.inf n)).round fm c = (fm.withSign n 0, {}) ∧ (exactSqrt (.inf n)).round fm c = (if n then iv else (fm.infBits, {})) ∧
    (exactRsq (.inf n)).round fm c = (if n then iv else (0, {})) := by
  refine ⟨rfl, by cases n <;> rfl, rfl, by cases n <;> rfl, fun m h => ?_, rfl, rfl, rfl, rfl, fun m h => ⟨?_, ?_⟩,
    rfl, rfl, rfl, ?_, ?_, ?_⟩
  · simp [flog2, h]
  · simp [exactSqrt, h, Exact.round]
  · simp [exactRsq, h, Exact.round]
  · cases n <;> rfl
  · cases n <;> simp [exactSqrt, Exact.round, Fmt.withSign]
  · cases n <;> rfl

/-- The update of a lane by the rounded steps of R192. -/
theorem voptLane_eq (fz : Bool) (h : Nat → FVal) (w g m v : FVal) :
    let R := fun (x : Exact) => Fmt.f32.decode false (x.round .f32 { fz := fz }).1
    let gs := R (exactMul g (h 7))
    let m1 := R (exactFma .rne (h 1) m (R (exactMul (h 2) gs)))
    let v1 := R (exactFma .rne (h 3) v (R (exactMul (h 4) (R (exactMul gs gs)))))
    let den := R (exactAdd .rne (R (exactSqrt (R (exactMul v1 (h 9))))) (h 5))
    let u := R (exactDiv (R (exactMul m1 (h 8))) den)
    (voptLane fz h w g m v).1 = match gs with
      | .fin .. => some (R (exactFma .rne (h 0).neg (R (exactFma .rne (h 6) w u)) w), m1, v1)
      | _ => none := by
  simp only [voptLane, voR]
  split <;> simp_all

/-- Settles O4. -/
theorem floatLongProduces : Obligations.FloatLongProduces := by
  refine ⟨fun f => ⟨?_, ?_, ?_, ?_, ?_, ?_, ?_, ?_⟩, special_inputs, fun f => ⟨?vopt, ?voptTrap⟩, voptLane_eq⟩
  case vopt =>
    refine completesIf_ok (fun _ => rfl) fun slot s hgood => ?_
    rw [if_neg (by simpa using hgood)]
    simp only [List.flatMap_map, List.foldl_map]
    rfl
  case voptTrap => exact completesIf_trap (fun _ => rfl) fun slot s hbad => if_pos hbad
  all_goals exact produces_of_effect (fun _ => rfl) rfl (by intros; rfl)

/-- Settles O5. -/
theorem laneInstructionsWrite : Obligations.LaneInstructionsWrite := by
  refine fun f => ⟨completes_ok (fun _ => rfl) (by intros; rfl), fun s h hgood => ?shfl, completes_ok (fun _ => rfl) (by intros; rfl),
    writes_of_effect (fun _ => rfl) rfl (by intros; rfl), writes_of_effect (fun _ => rfl) rfl (by intros; rfl)⟩
  exact congrArg Host.Outcome.next (issue_ok h (if_neg (Bool.eq_false_iff.mp hgood)))

/-- Settles O6. -/
theorem generatorAndLossScale : Obligations.GeneratorAndLossScale := by
  refine ⟨fun f => ⟨?draw, ?setc, ?getc⟩, fun f => ⟨?get, ?set, ?setTrap, ?rdst, ?clrst, ?mode⟩⟩
  case set => exact completesIf_ok (fun _ => rfl) fun slot s hok => if_pos hok
  case setTrap =>
    intro s h hbad
    exact congrArg Host.Outcome.next ((issue_trap h (if_neg (Bool.eq_false_iff.mp hbad))).trans (State.trapBy_eq _ _ _ (by decide)))
  case getc | get | rdst => exact writes_of_effect (fun _ => rfl) rfl (by intros; rfl)
  all_goals exact completes_ok (fun _ => rfl) (by intros; rfl)

end Sys2Proof.Machine

/-! Control flow (R298 to R317): each clause follows the branches of its instruction's effect, or of its event. -/

namespace Sys2Proof.Machine

/-- Settles O7. -/
theorem jumpsAndWaits : Obligations.JumpsAndWaits := by
  refine ⟨fun f => ⟨completes_ok (fun _ => rfl) (by intros; rfl), ?wait, completes_ok (fun _ => rfl) (by intros; rfl)⟩,
    fun f => ⟨completes_ok (fun _ => rfl) (by intros; rfl), ?ret, ?jtabPast, ?jtab⟩⟩
  case wait =>
    refine completesIf_ok (fun _ => rfl) fun slot s ⟨hcount, herr⟩ => ?_
    have hfew : ¬s.w.count f.x.toNat > src32 s.w.r f f.a 0 := Nat.not_lt.mpr hcount
    dsimp only
    rw [if_neg hfew, herr]
  case ret => exact completesIf_ok (fun _ => rfl) fun slot s haligned => if_neg (not_not_intro haligned)
  case jtabPast => exact completesIf_ok (fun _ => rfl) fun slot s hpast => if_pos hpast
  case jtab =>
    intro s u bs h hcount hinside hread haligned
    refine congrArg Host.Outcome.next (issue_ok h ?_)
    dsimp only [State.srcC, src32] at hcount hinside hread ⊢
    rw [if_neg (Nat.not_le.mpr hcount), hinside, hread]
    exact if_neg (not_not_intro haligned)

/-! ### Divergence (R307 to R313) -/

/-- A convergent wave outside a full region splits into two arms. -/
theorem bcDiverge_dual {s : State} {f : Fields} {slot : Nat} {take fall : Lanes} (hother : s.w.r.ctl.other = none)
    (hfull : s.w.r.ctl.full = []) : ∃ t o, bcDiverge s f slot take fall = .moved t ∧ t.w.r.ctl.other = some o ∧
      t.w.r.ctl.join = s.pc + BitVec.ofInt 64 f.imm.toInt ∧ t.w.r.ctl.arm.taken = false ∧ t.w.r.ctl.arm.em = fall ∧
      t.w.r.ctl.arm.pc = s.nextPc f ∧ t.w.r.ctl.arm.stack = [] ∧ o.taken = true ∧ o.em = take ∧ o.pc = s.target f ∧ o.stack = [] := by
  refine ⟨_, _, if_pos ?_, rfl, rfl, rfl, rfl, rfl, rfl, rfl, rfl, rfl, rfl⟩
  simp [hother, hfull]

/-- Any other wave pushes a divergence, where its stack has room. -/
theorem bcDiverge_serialised {s : State} {f : Fields} {slot : Nat} {take fall : Lanes}
    (hdual : ¬(s.w.r.ctl.other = none ∧ s.w.r.ctl.full = [])) (hroom : s.w.r.ctl.arm.stack.length < 16) :
    bcDiverge s f slot take fall = .moved (s.withArm fun a =>
      a.serialised s.pc (s.pc + BitVec.ofInt 64 f.imm.toInt) (s.nextPc f) (s.target f) take fall slot) := by
  unfold bcDiverge
  rw [if_neg (by simpa using hdual), if_neg (Nat.not_le.mpr hroom)]
  rfl

@[simp] theorem State.countBothNew_r (t s : State) : (t.countBothNew s).w.r = t.w.r := by
  unfold State.countBothNew
  split <;> rfl

/-- Going on after a short instruction that set the control state itself leaves the control state it set. -/
theorem State.goOnMoved_ctl (s t : State) (f : Fields) (slot : Nat) : (s.goOnMoved t false f slot).w.r.ctl = t.w.r.ctl := by
  unfold State.goOnMoved State.issued
  simp

/-- Settles O8. -/
theorem branchDiverges : Obligations.BranchDiverges := by
  refine fun f => ⟨completesIf_ok (fun _ => rfl) fun slot s hall => if_pos hall, ?none, ?dual, ?serial⟩
  case none =>
    refine completesIf_ok (fun _ => rfl) fun slot s ⟨hfall, htake⟩ => ?_
    rw [if_neg hfall, if_pos htake]
  case dual =>
    intro s h hfall htake hdual
    obtain ⟨t, o, ht, hother, hctl⟩ := bcDiverge_dual (f := f) (slot := issueSlot s f) (take := activeMask (s.atIssue f).w.r f)
      (fall := (s.atIssue f).w.r.em &&& ~~~ guardMask (s.atIssue f).w.r f) hdual.1 hdual.2
    refine ⟨_, o, congrArg Host.Outcome.next (issue_moved h (t := t) ?_), ?_⟩
    · dsimp only
      rw [if_neg hfall, if_neg htake, ht]
    · rw [show bcSpec.long = false from rfl, State.goOnMoved_ctl]
      exact ⟨hother, hctl⟩
  case serial =>
    refine completesIf_moved (fun _ => rfl) fun slot s ⟨hfall, htake, hdual, hroom⟩ => ?_
    rw [if_neg hfall, if_neg htake, bcDiverge_serialised hdual hroom]

/-! ### Regions and loops (R312 to R317) -/

/-- `end` with lanes of the wave left. -/
theorem completes_endWave_left (f : Fields) : CompletesIf endWaveSpec true (.endWave f) f
    (fun s => s.w.r.ctl.live &&& ~~~ s.w.r.ctl.arm.em ≠ 0) fun slot s =>
      s.goOnMoved ((s.leaveSets s.w.uid).withCtl fun c =>
        { c with live := s.w.r.ctl.live &&& ~~~ s.w.r.ctl.arm.em
                 arm := c.arm.ended c.other.isSome slot ((s.leaveSets s.w.uid).nextPc f) }) false f slot := by
  refine completesIf_moved (fun _ => rfl) fun slot s hleft => ?_
  rw [if_neg fun hnone => hleft hnone.1, if_neg hleft]

/-- `end` with none left. -/
theorem completes_endWave_last (f : Fields) : CompletesIf endWaveSpec true (.endWave f) f
    (fun s => s.w.r.ctl.live &&& ~~~ s.w.r.ctl.arm.em = 0 ∧ s.endWaits = false) fun slot s =>
      s.goOnMoved (((s.leaveSets s.w.uid).withW fun w => { w with
        status := .ended, frame := none, r := { w.r with ctl := w.r.ctl.dead } }).leaderGone (s.leaveSets s.w.uid).w) false f slot := by
  refine completesIf_moved (fun _ => rfl) fun slot s ⟨hnone, hready⟩ => ?_
  rw [if_neg (by simp [hready]), if_pos hnone]

/-- Where an arm whose lanes have all ended goes on. -/
theorem Arm.ended_cases (a : Arm) (dual : Bool) (slot : Nat) (next : DWord) : (a.ended dual slot next).em = 0 ∧
    (∀ e rest, a.stack = e :: rest → (a.ended dual slot next).pc = e.j ∧ (a.ended dual slot next).parked = a.parked) ∧
    (a.stack = [] → dual = true → (a.ended dual slot next).parked = true) := by
  refine ⟨?_, fun e rest hs => by simp [Arm.ended, hs], fun hs hdual => by simp [Arm.ended, hs, hdual]⟩
  cases hs : a.stack <;> cases dual <;> simp [Arm.ended, hs]

/-- When a `full` of a dual-path wave outside every full region waits (R313). -/
theorem Ctl.fullWaits_iff {c : Ctl} {o : Arm} (hother : c.other = some o) (hfull : c.full = []) :
    c.fullWaits = true ↔ c.parkedArm o = false ∧ (if c.arm.taken then o.atFull ≠ 1 else o.atFull = 0 ∨ c.arm.atFull ≠ 2) := by
  cases ht : c.arm.taken <;> cases hp : c.parkedArm o <;> simp [Ctl.fullWaits, hother, hfull, ht, hp]

/-- Settles O9. -/
theorem regionsAndLoops : Obligations.RegionsAndLoops := by
  refine ⟨fun f => ⟨completes_endWave_left f, completes_endWave_last f, Arm.ended_cases, ?full, ?fullFifth,
      fun c hother => by simp [Ctl.fullWaits, hother], fun c o => Ctl.fullWaits_iff, ?endfull, ?endfullTrap⟩,
    fun f => ⟨?loop, ?loopSkip, ?brkIdle, ?brk, ?loopTrap, ?brkTrap⟩⟩
  case full =>
    refine completesIf_ok (fun _ => rfl) fun slot s ⟨hroom, hfree⟩ => ?_
    dsimp only
    rw [hfree, if_neg Bool.false_ne_true, if_neg (of_decide_eq_false hroom)]
  case fullFifth =>
    refine completesIf_trap (fun _ => rfl) fun slot s ⟨hfree, hfifth⟩ => ?_
    dsimp only
    rw [hfree, if_neg Bool.false_ne_true, if_pos (of_decide_eq_true hfifth)]
  case endfull =>
    intro s e rest h hfull hdepth
    refine congrArg Host.Outcome.next (issue_ok h ?_)
    simp only [hfull]
    exact if_neg (not_not_intro hdepth)
  case endfullTrap =>
    refine completesIf_trap (fun _ => rfl) fun slot s hdepth => ?_
    dsimp only
    cases hfull : s.w.r.ctl.full with
    | nil => rfl
    | cons e rest => exact if_pos (hdepth e (by simp [hfull]))
  case loop =>
    refine completesIf_ok (fun _ => rfl) fun slot s ⟨hopen, hcount⟩ => ?_
    dsimp only
    rw [hopen, if_neg Bool.false_ne_true]
    exact if_pos hcount
  case loopSkip =>
    intro s u bs h hopen hcount hread
    refine congrArg Host.Outcome.next (issue_moved h ?_)
    simp only [hopen, Bool.false_eq_true, if_false, src32_eq, hread]
    exact if_neg (not_not_intro hcount)
  case brkIdle =>
    refine completesIf_ok (fun _ => rfl) fun slot s ⟨hopen, hidle⟩ => ?_
    dsimp only
    rw [hopen, hidle]
    rfl
  case brk =>
    intro s u bs h hopen hactive hread
    refine congrArg Host.Outcome.next (issue_ok h ?_)
    simp only [hopen, hactive, hread]
    rfl
  case loopTrap | brkTrap => exact completesIf_trap (fun _ => rfl) fun slot s hlocked => if_pos hlocked

/-! ### Boundaries (R299, R310, R311, R315) -/

/-- The end action of a record is the one R315 writes, where its divergence does not lock the counter. -/
theorem Ctl.endAct_eq {c : Ctl} {n : Nat} (a : Arm) (addr : DWord) (hopen : c.locked n = false) :
    c.endAct a n addr =
      if (a.lp n).active && (a.lp n).stop == addr then
        if (a.lp n).cnt = 1 then .drop (a.setLp n LoopRec.none) else .jump { a.setLp n { a.lp n with cnt := (a.lp n).cnt - 1 } with pc := (a.lp n).start }
      else .none := by
  unfold Ctl.endAct
  rcases Bool.eq_false_or_eq_true ((a.lp n).active && (a.lp n).stop == addr) with hhit | hhit
  · dsimp only
    rw [hhit, hopen]
    rfl
  · dsimp only
    rw [hhit]
    rfl

/-- A count has run down exactly at its last round. -/
theorem sub_one_eq_zero_iff (x : Word) : x - 1#32 = 0#32 ↔ x = 1#32 := by
  rw [BitVec.sub_eq_iff_eq_add, BitVec.zero_add]

/-- The end actions of an address, in the branches of R315: the inner record's jump, else the outer record's action after the inner has ended. -/
theorem loopEndAction_eq {w : Nat} {addr : DWord} {s : State} (huid : (s.select w).w.uid = w) (hbound : (s.select w).w.atBoundary = true)
    (hdone : (s.select w).w.r.ctl.arm.done = some addr) (h0 : (s.select w).w.r.ctl.locked 0 = false)
    (h1 : (s.select w).w.r.ctl.locked 1 = false) :
    execLoopEndAction w addr s = .next ((s.select w).withArm fun a => a.endActions addr) := by
  unfold execLoopEndAction
  generalize s.select w = e at *
  have hgo : ¬(e.w.uid ≠ w ∨ e.w.atBoundary = false ∨ e.w.r.ctl.arm.done ≠ some addr) := by simp [huid, hbound, hdone]
  have happly (g : Arm → Arm) : e.withArm g = e.withArm fun _ => g e.w.r.ctl.arm := rfl
  dsimp only
  rw [if_neg hgo, happly fun a => a.endActions addr]
  generalize e.w.r.ctl.arm = a at *
  by_cases hin : (a.lp1.active && a.lp1.stop == addr) = true
  · by_cases hlast1 : a.lp1.cnt = 1#32
    · by_cases hout : (a.lp0.active && a.lp0.stop == addr) = true
      · by_cases hlast0 : a.lp0.cnt = 1#32 <;> simp [Ctl.endAct_eq, Arm.endActions, Arm.lp, Arm.setLp, sub_one_eq_zero_iff, *]
      · simp [Ctl.endAct_eq, Arm.endActions, Arm.lp, Arm.setLp, *]
    · simp [Ctl.endAct_eq, Arm.endActions, Arm.lp, Arm.setLp, sub_one_eq_zero_iff, *]
  · by_cases hout : (a.lp0.active && a.lp0.stop == addr) = true
    · by_cases hlast0 : a.lp0.cnt = 1#32 <;> simp [Ctl.endAct_eq, Arm.endActions, Arm.lp, Arm.setLp, sub_one_eq_zero_iff, *]
    · simp [Ctl.endAct_eq, Arm.endActions, Arm.lp, *]

/-- Settles O10. -/
theorem boundaryEvents : Obligations.BoundaryEvents := by
  refine fun w s => ⟨fun addr => loopEndAction_eq, ?fall, ?pop, ?join, rfl⟩
  case fall =>
    intro x rest huid hbound hstack hpc hfirst
    refine (?_ : execDivergencePop w s = _)
    simp [execDivergencePop, huid, hbound, hstack, hpc, hfirst]
  case pop =>
    intro x rest huid hbound hstack hpc hsecond hsafe
    have hexec : execDivergencePop w s = .next ((s.select w).withArm fun a =>
        { a with em := x.rmask &&& (s.select w).w.r.ctl.live, stack := rest
                 parked := x.rmask &&& (s.select w).w.r.ctl.live == 0 && rest.isEmpty && (s.select w).w.r.ctl.other.isSome }) := by
      simp [execDivergencePop, huid, hbound, hstack, hpc, hsecond, hsafe]
    exact ⟨_, hexec, rfl, rfl, hpc⟩
  case join =>
    intro t n huid hbound harms hopenT hopenN hparkT hparkN hsafeN hsafeT
    refine ⟨(s.select w).join n t, (?_ : execArmJoin w s = _), rfl, rfl, rfl, rfl⟩
    simp [execArmJoin, huid, hbound, harms, hopenT, hopenN, hparkT, hparkN, hsafeN, hsafeT]

end Sys2Proof.Machine

/-! Membership sets and the collective branch (R319 to R326): the start of an operation changes a wave's operations alone, its end leaves the
wave's registers and run-ahead, and the statements about issue, home and resolution follow. -/

namespace Sys2Proof.Machine

/-! ### What the start and the end of an operation leave -/

section

variable (s : State)

/-- The start of an operation takes the next number and changes the wave's operations alone. -/
theorem State.startOp_changes (f : Fields) (acq load : Bool) :
    ∃ ops, s.startOp f acq load = (s.nextId, { s with nextId := s.nextId + 1, w := { s.w with ops := ops } }) := by
  unfold State.startOp State.fresh
  cases setFlag f with
  | none => exact ⟨s.w.ops, rfl⟩
  | some fl => exact ⟨_, rfl⟩

/-- A message leaves alike from two states with the same chip, routes, ports and queues of messages. -/
theorem State.send_congr {s u : State} (hpkg : u.pkg = s.pkg) (hports : u.ports = s.ports) (hin : u.inbox = s.inbox) (hout : u.out = s.out)
    (chip : Nat) (m : Msg) : (u.send chip m).inbox = (s.send chip m).inbox ∧ (u.send chip m).out = (s.send chip m).out := by
  have hrouted : u.routed chip = s.routed chip := by simp only [State.routed, hpkg, hports]
  unfold State.send
  rw [hrouted, hpkg]
  by_cases hhere : chip = s.pkg.chipNo
  · simp [hhere, hin, hout]
  · cases s.routed chip <;> simp [hhere, hin, hout]

@[simp] theorem State.send_w (chip : Nat) (m : Msg) : (s.send chip m).w = s.w := by
  unfold State.send
  split
  · rfl
  · split <;> rfl

/-- An operation of the wave on the issue port ends. -/
theorem State.finishOp_self (op : Nat) (ws : List Wr) (b : Word) (err : Option FErr) :
    s.finishOp s.w.uid op ws b err = s.withW fun w => w.mapOp op fun o => o.finish ws b err := s.mapAnyWave_self _

/-- A set's failure is recorded and ends its operation; of the wave on the issue port only its operations change. -/
theorem State.setFail_w (op engine : Nat) (code : BitVec 16) (set : Nat) (inst : Word) : (s.setFail op engine code set inst).w =
    s.w.mapOp op fun o => o.finish [] 0 (some { code := code, later := 0, addr := s.openAddr }) := by
  unfold State.setFail
  generalize ht : s.failAsync s.w engine code s.openAddr (setDetail set inst) = t
  have hw : t.w = s.w := ht ▸ s.failAsync_w ..
  rw [← hw, State.finishOp_self]
  rfl

@[simp] theorem State.endCbr_r (op set : Nat) (inst : Word) (err : Bool) : (s.endCbr op set inst err).w.r = s.w.r := by
  unfold State.endCbr
  split
  · rw [State.setFail_w]
    rfl
  · rw [State.finishOp_self]
    rfl

@[simp] theorem State.endCbr_ahead (op set : Nat) (inst : Word) (err : Bool) : (s.endCbr op set inst err).w.ahead = s.w.ahead := by
  unfold State.endCbr
  split
  · rw [State.setFail_w]
    rfl
  · rw [State.finishOp_self]
    rfl

end

/-! ### Issue (R320 to R322) -/

theorem not_not_routed {b : Bool} (h : b = true) : ¬(!b) = true := by simp [h]

@[simp] theorem State.atIssue_ahead (s : State) (f : Fields) : (s.atIssue f).w.ahead = s.w.ahead := by
  simp [State.atIssue]

/-- A wave that runs ahead holds an instruction that waits for the outcome. -/
theorem ahead_of_issues {sp : Spec} {always : Bool} {f : Fields} {s : State} (h : issues sp always f s = true) (hold : sp.holdAhead f = true) :
    s.w.ahead = none := by
  obtain ⟨-, -, -, -, -, -, hahead, -⟩ := issues_iff h
  unfold Wave.aheadHolds at hahead
  cases ha : s.w.ahead with
  | none => rfl
  | some a => simp [ha, hold] at hahead

/-- An instruction whose shortest form is 128 bits issues only in that form. -/
theorem bytes_of_issues {sp : Spec} {always : Bool} {f : Fields} {s : State} (h : issues sp always f s = true) (hmin : sp.minLen = 2) :
    f.len.bytes = 16 := by
  obtain ⟨-, -, hcheck, -⟩ := issues_iff h
  have hlen := (passes_of_decodeCheck_eq_none hcheck).1.len
  rw [hmin] at hlen
  cases hl : f.len
  · simp [lenNum, hl] at hlen
  · simp [lenNum, hl] at hlen
  · rfl

/-- A wave that did not run ahead does not after a long instruction's going on. -/
theorem State.goOn_ahead {s : State} (f : Fields) (slot : Nat) (dest : Option DWord) (h : s.w.ahead = none) :
    (s.goOn true f slot dest).w.ahead = none := by
  simp [State.goOn, State.issued, h]

/-- The wave as a `cbr` has started: its operation begun, its set's next ballot counted, an exclusion from this one used. -/
def State.cbrStarted (s : State) (f : Fields) : State :=
  (s.startOp f false false).2.withW fun w => { w with
    r := { w.r with next := cset 0 (cget 0 s.w.r.next (cbrSet f) + 1) w.r.next (cbrSet f) }
    excl := w.excl.filter fun x => x != (cbrSet f, cget 0 s.w.r.next (cbrSet f)) }

/-- The start changes the wave's operations, the set's next ballot and the exclusions alone. -/
theorem State.cbrStarted_changes (s : State) (f : Fields) :
    ∃ ops excl, s.cbrStarted f = { s with nextId := s.nextId + 1, w := { s.w with
      ops := ops, excl := excl, r := { s.w.r with next := cset 0 (cget 0 s.w.r.next (cbrSet f) + 1) s.w.r.next (cbrSet f) } } } := by
  obtain ⟨ops, hstart⟩ := s.startOp_changes f false false
  unfold State.cbrStarted
  rw [hstart]
  exact ⟨ops, _, rfl⟩

theorem State.startOp_eq (s : State) (f : Fields) (acq load : Bool) : s.startOp f acq load = (s.nextId, (s.startOp f acq load).2) := by
  obtain ⟨ops, hstart⟩ := s.startOp_changes f acq load
  rw [hstart]

@[simp] theorem State.cbrStarted_outcome? (s : State) (f : Fields) (r : SetRef) (inst : Word) :
    (s.cbrStarted f).outcome? r inst = s.outcome? r inst := by
  obtain ⟨ops, excl, hstarted⟩ := s.cbrStarted_changes f
  rw [hstarted]
  rfl

@[simp] theorem State.cbrStarted_routed (s : State) (f : Fields) (chip : Nat) : (s.cbrStarted f).routed chip = s.routed chip := by
  obtain ⟨ops, excl, hstarted⟩ := s.cbrStarted_changes f
  rw [hstarted]
  rfl

@[simp] theorem State.cbrStarted_setHome (s : State) (f : Fields) (r : SetRef) : (s.cbrStarted f).setHome r = s.setHome r := by
  obtain ⟨ops, excl, hstarted⟩ := s.cbrStarted_changes f
  rw [hstarted]
  rfl

@[simp] theorem State.cbrStarted_member (s : State) (f : Fields) : (s.cbrStarted f).member (s.cbrStarted f).w = s.member s.w := by
  obtain ⟨ops, excl, hstarted⟩ := s.cbrStarted_changes f
  rw [hstarted]
  rfl

section

variable {s : State} {f : Fields} (h : issues (cbrSpec f) true f s = true)
  (hcheck : (s.atIssue f).setCheck (cbrSet f) false (some true) = none) (hwaits : (s.atIssue f).w.membWaits (cbrSet f) = false)
include h hcheck hwaits

/-- A `cbr` on an outcome the chip knows ends, and goes where the outcome says. -/
theorem cbr_known {o : Outc}
    (ho : (s.atIssue f).outcome? ((s.atIssue f).w.setRef (cbrSet f)) (cget 0 (s.atIssue f).w.r.next (cbrSet f)) = some o) :
    exec (.cbr f) s = .next ((((s.atIssue f).cbrStarted f).endCbr (s.atIssue f).nextId (cbrSet f)
      (cget 0 (s.atIssue f).w.r.next (cbrSet f)) o.err).goOn true f (issueSlot s f)
        (if o.taken then some (((s.atIssue f).cbrStarted f).endCbr (s.atIssue f).nextId (cbrSet f)
          (cget 0 (s.atIssue f).w.r.next (cbrSet f)) o.err |>.target f) else none)) := by
  refine congrArg Host.Outcome.next (issue_ok h ?_)
  generalize s.atIssue f = e at *
  rw [← e.cbrStarted_outcome? f] at ho
  unfold State.cbrStarted at ho ⊢
  simp only [hwaits, Bool.false_eq_true, if_false, hcheck]
  rw [e.startOp_eq, ho]
  rfl

/-- A `cbr` on an outcome the chip does not know, from which the wave is not excluded, votes at the set's home and runs ahead. -/
theorem cbr_unknown
    (ho : (s.atIssue f).outcome? ((s.atIssue f).w.setRef (cbrSet f)) (cget 0 (s.atIssue f).w.r.next (cbrSet f)) = none)
    (hexcl : (s.atIssue f).w.excl.contains (cbrSet f, cget 0 (s.atIssue f).w.r.next (cbrSet f)) = false)
    (hrouted : (s.atIssue f).routed ((s.atIssue f).setHome ((s.atIssue f).w.setRef (cbrSet f))) = true) :
    exec (.cbr f) s = .next ((s.atIssue f).goOnMoved
      ((((s.atIssue f).cbrStarted f).send ((s.atIssue f).setHome ((s.atIssue f).w.setRef (cbrSet f)))
        (.vote ((s.atIssue f).w.setRef (cbrSet f)) (cget 0 (s.atIssue f).w.r.next (cbrSet f)) ((s.atIssue f).member (s.atIssue f).w)
          (some { func := f.x.toNat % 4, thr := f.imm, value := cbrVote (s.atIssue f).w.r f }))).runAhead f (issueSlot s f)
        (s.atIssue f).nextId (cbrSet f) (cget 0 (s.atIssue f).w.r.next (cbrSet f)) true) true f (issueSlot s f)) := by
  refine congrArg Host.Outcome.next (issue_moved h ?_)
  generalize s.atIssue f = e at *
  rw [← e.cbrStarted_outcome? f] at ho
  rw [← e.cbrStarted_setHome f] at hrouted ⊢
  rw [← e.cbrStarted_routed f] at hrouted
  rw [← e.cbrStarted_member f]
  unfold State.cbrStarted at ho hrouted ⊢
  simp only [hwaits, Bool.false_eq_true, if_false, hcheck, hexcl]
  rw [e.startOp_eq, ho]
  simp only [hrouted]
  rfl

end

/-- The checkpoint of a wave that has gone on running ahead, and what it leaves (R322). -/
theorem State.goOnMoved_runAhead (s u : State) (f : Fields) (slot op set : Nat) (k : Word) (voted : Bool) :
    ∃ a, (s.goOnMoved (u.runAhead f slot op set k voted) true f slot).inbox = u.inbox ∧
      (s.goOnMoved (u.runAhead f slot op set k voted) true f slot).out = u.out ∧
      (s.goOnMoved (u.runAhead f slot op set k voted) true f slot).w.ahead = some a ∧
      (s.goOnMoved (u.runAhead f slot op set k voted) true f slot).w.r.next = u.w.r.next ∧
      (s.goOnMoved (u.runAhead f slot op set k voted) true f slot).w.r.ctl.arm.pc =
        (if f.x.getLsbD 6 then u.target f else u.pc + BitVec.ofNat 64 16) ∧
      a.set = set ∧ a.inst = k ∧ a.pred = f.x.getLsbD 6 ∧ a.takenPc = u.target f ∧ a.fallPc = u.nextPc f ∧ a.count = 1 ∧
      a.stores = [] ∧ a.fault = none ∧ a.fails = [] ∧ a.ckpt = (s.goOnMoved (u.runAhead f slot op set k voted) true f slot).w.r := by
  refine ⟨_, rfl, rfl, rfl, rfl, ?_, rfl, rfl, rfl, rfl, rfl, rfl, rfl, rfl, rfl, rfl⟩
  simp only [State.goOnMoved, State.issued, State.runAhead]
  generalize f.x.getLsbD 6 = pred
  cases pred <;> simp [State.target, State.pc]

/-- Settles O11. -/
theorem collectiveBranchIssues : Obligations.CollectiveBranchIssues := by
  refine fun f => ⟨?known, ?ahead, ?join, ?leave⟩
  case known =>
    rintro s o h ⟨hcheck, hwaits⟩ ho
    obtain ⟨ops, excl, hstarted⟩ := (s.atIssue f).cbrStarted_changes f
    refine ⟨_, cbr_known h hcheck hwaits ho, State.goOn_ahead _ _ _ ?_, ?_, ?_⟩
    · simp [hstarted, ahead_of_issues h rfl]
    · simp [hstarted]
    · cases o.taken <;> simp [hstarted, State.nextPc, State.target, State.pc]
  case ahead =>
    rintro s h ⟨hcheck, hwaits⟩ ho hexcl hrouted
    have hexec := cbr_unknown h hcheck hwaits ho hexcl hrouted
    have hbytes := bytes_of_issues h rfl
    generalize s.atIssue f = e at *
    obtain ⟨ops, excl, hstarted⟩ := e.cbrStarted_changes f
    have hsent := State.send_congr (s := e) (u := e.cbrStarted f) (by rw [hstarted]) (by rw [hstarted]) (by rw [hstarted]) (by rw [hstarted])
    obtain ⟨a, hin, hout, hahead, hnext, hpc, hset, hinst, hpred, htaken, hfall, hrest⟩ :=
      State.goOnMoved_runAhead e _ f (issueSlot s f) e.nextId (cbrSet f) (cget 0 e.w.r.next (cbrSet f)) true
    refine ⟨_, a, hexec, hin.trans (hsent ..).1, hout.trans (hsent ..).2, hahead, hnext.trans ?_, hpc.trans ?_, hset, hinst, hpred,
      htaken.trans ?_, hfall.trans ?_, hrest⟩
    · simp [hstarted]
    all_goals simp [hstarted, State.target, State.nextPc, State.pc, hbytes]
  case join =>
    intro s h hcheck hrouted
    refine congrArg Host.Outcome.next (issue_ok h ?_)
    generalize s.atIssue f = e at *
    obtain ⟨ops, hstart⟩ := e.startOp_changes f false false
    simp only [hcheck, hstart]
    exact if_neg (not_not_routed hrouted)
  case leave =>
    intro s h hcheck hrouted
    refine congrArg Host.Outcome.next (issue_ok h ?_)
    generalize s.atIssue f = e at *
    obtain ⟨ops, hstart⟩ := e.startOp_changes f false false
    simp only [hcheck, hstart]
    exact if_neg (not_not_routed hrouted)

/-! ### A set's home (R319, R320) -/

/-- When a set's home can resolve its current ballot. -/
theorem resolveSet_waits_iff (h : SetHome) :
    (!h.formed || h.votes.length != h.njoin || (h.votes.isEmpty && h.gone.isEmpty)) = true ↔
      ¬(h.formed = true ∧ h.votes.length = h.njoin ∧ ¬(h.votes = [] ∧ h.gone = [])) := by
  cases hf : h.formed
  · simp
  · by_cases hn : h.votes.length = h.njoin <;> simp [hn]

/-- An incomplete ballot stands as it was. -/
theorem State.resolveSet_of_incomplete {s : State} {r : SetRef} (n : Nat)
    (hinc : (!(s.home r).formed || (s.home r).votes.length != (s.home r).njoin || ((s.home r).votes.isEmpty && (s.home r).gone.isEmpty)) = true) :
    State.resolveSet n s r = s := by
  cases n with
  | zero => rfl
  | succ n => exact if_pos hinc

/-- Settles O12. -/
theorem setHomeCounts : Obligations.SetHomeCounts := by
  intro r s
  refine ⟨fun inst m v => rfl, fun m => rfl, fun m => rfl, fun hinc => State.resolveSet_of_incomplete _ ((resolveSet_waits_iff _).mpr hinc),
    fun hcomplete hearly => ?one, fun hcomplete n => ?more⟩
  case one =>
    rw [State.settleSet, List.length_eq_zero_iff.mpr hearly]
    exact if_neg (mt (resolveSet_waits_iff _).mp (not_not_intro hcomplete))
  case more => exact if_neg (mt (resolveSet_waits_iff _).mp (not_not_intro hcomplete))

/-! ### Resolution (R324 to R326) -/

/-- Selecting the wave that is selected changes nothing. -/
theorem State.select_self {s : State} {w : Nat} (h : s.w.uid = w) : s.select w = s := if_pos h

section

variable {s : State} {a : Ahead} (ha : s.w.ahead = some a)
include ha

theorem State.resolve_hit : s.resolve a.pred =
    (a.fails.foldl (fun s r => (s.record r).2) (s.withW fun x => { x with ahead := none })).performHeld a.stores := by
  rw [State.resolve, ha]
  exact if_pos rfl

theorem State.resolve_miss {taken : Bool} (hmiss : taken ≠ a.pred) : s.resolve taken =
    (s.withW fun x => x.restore a (if taken then a.takenPc else a.fallPc) (if taken then none else some (a.fallPc - 16))).dropFaults s.w.uid := by
  rw [State.resolve, ha]
  exact if_neg hmiss

/-- What the fall-through outcome does with a run-ahead. -/
theorem State.resolve_false : s.resolve false =
    if a.pred then (s.withW fun x => x.restore a a.fallPc (some (a.fallPc - 16))).dropFaults s.w.uid
    else (a.fails.foldl (fun s r => (s.record r).2) (s.withW fun x => { x with ahead := none })).performHeld a.stores := by
  cases hpred : a.pred
  · rw [← hpred, State.resolve_hit ha, hpred]
    rfl
  · rw [State.resolve_miss ha (by simp [hpred])]
    rfl

/-- An outcome for a run-ahead that the chip knows. -/
theorem outcomeArrival_known {o : Outc} (ho : s.outcome? (s.w.setRef a.set) a.inst = some o) {w : Nat} {s' : State} (hs : s'.select w = s)
    (huid : s.w.uid = w) : exec (.outcomeArrival w) s' = .next ((s.resolve o.taken).endCbr a.op a.set a.inst o.err) := by
  refine (?_ : execOutcomeArrival w s' = _)
  unfold execOutcomeArrival
  simp only [hs, huid, ha, ho]
  exact if_neg (not_not_intro rfl)

end

/-- An outcome the chip no longer has. -/
theorem outcomeArrival_lost {s s' : State} {a : Ahead} {w : Nat} (ha : s.w.ahead = some a) (ho : s.outcome? (s.w.setRef a.set) a.inst = none)
    (hlost : s.outcomeLost (s.w.setRef a.set) a.inst = true) (hs : s'.select w = s) (huid : s.w.uid = w) :
    exec (.outcomeArrival w) s' = .next ((s.resolve false).setFail a.op 0 0x0433 a.set a.inst) := by
  refine (?_ : execOutcomeArrival w s' = _)
  unfold execOutcomeArrival
  simp only [hs, huid, ha, ho, hlost]
  exact if_neg (not_not_intro rfl)

/-- The operations of a wave that wait on a set. -/
def Wave.membOps (w : Wave) (set : Nat) : List Op :=
  w.ops.filter fun o => !o.fin && (match o.memb with | some (n, _) => n == set | none => false)

theorem Wave.membOps_eq_nil {w : Wave} {set : Nat} (h : w.membWaits set = false) : w.membOps set = [] := by
  rw [Wave.membWaits, List.any_eq_false] at h
  exact List.filter_eq_nil_iff.mpr h

/-- What the loss of a set's home does to a wave of the set on the issue port. -/
theorem State.loseSet_self {s : State} {r : SetRef} (hctx : s.w.ctx = r.ctx) (hset : s.w.setRef r.set = r) :
    s.loseSet s.w.uid r =
      let t := (s.w.membOps r.set).foldl (fun t o => t.setFail o.id 13 0x0434 r.set (cget 0 t.w.r.next r.set)) s
      match t.w.ahead with
      | none => t
      | some a => if a.set = r.set then (t.resolve false).setFail a.op 13 0x0434 a.set a.inst else t := by
  unfold State.loseSet
  rw [State.select_self rfl]
  exact if_neg (by simp [hctx, hset])

/-- Settles O13. -/
theorem runAheadResolves : Obligations.RunAheadResolves := by
  refine ⟨?_, fun r s => rfl, fun r w s hother => if_pos hother, ?waiting⟩
  case waiting =>
    intro r s o join hctx hset ha hops hfin hmemb
    have hwaits : s.w.membOps r.set = [o] := by simp [Wave.membOps, hops, hfin, hmemb]
    have hahead : (s.setFail o.id 13 0x0434 r.set (cget 0 s.w.r.next r.set)).w.ahead = none := by rw [State.setFail_w]; exact ha
    rw [State.loseSet_self hctx hset, hwaits]
    simp only [List.foldl_cons, List.foldl_nil, hahead]
  intro w s a e back hit huid ha
  have hfall : e.resolve false = if a.pred then back false else hit := by
    rw [State.resolve_false ha, huid]
    rfl
  refine ⟨fun o ho htaken => ?hit, fun o ho htaken => ?miss, fun ho hlost => ?lost, fun r hself hctx hset hfree hof => ?unreach⟩
  case hit => rw [outcomeArrival_known ha ho rfl huid, htaken, State.resolve_hit ha]
  case miss => rw [outcomeArrival_known ha ho rfl huid, State.resolve_miss ha htaken, huid]
  case lost => rw [outcomeArrival_lost ha ho hlost rfl huid, hfall]
  case unreach =>
    have hes : e = s := State.select_self hself
    rw [← hfall, hes]
    rw [hes] at ha
    rw [← hself, State.loseSet_self hctx hset, Wave.membOps_eq_nil hfree]
    simp only [List.foldl_nil, ha]
    exact if_pos hof

end Sys2Proof.Machine

/-! What a record, the exclusion of a wave from its sets and the end of a wave change: the facts the statements about traps rest on. -/

namespace Sys2Proof.Machine

/-! ### A record (R353) -/

/-- A write of hardware changes at most the memory system, the numbers and free values taken, and what goes out. -/
def State.OnlySys (s t : State) : Prop := ∃ m free nextId out, t = { s with m := m, free := free, nextId := nextId, out := out }

theorem State.OnlySys.refl (s : State) : s.OnlySys s := ⟨s.m, s.free, s.nextId, s.out, rfl⟩

theorem State.OnlySys.trans {s t u : State} : s.OnlySys t → t.OnlySys u → s.OnlySys u := by
  rintro ⟨m, free, nextId, out, rfl⟩ ⟨m', free', nextId', out', rfl⟩
  exact ⟨m', free', nextId', out', rfl⟩

theorem State.sysPass_onlySys (s : State) (pa n : Nat) : s.OnlySys (s.sysPass pa n) := by
  have hfold : ∀ (sectors : List Nat) (s : State), s.OnlySys (sectors.foldl State.l2Leave s) := by
    intro sectors
    induction sectors with
    | nil => exact State.OnlySys.refl
    | cons x sectors ih => exact fun s => State.OnlySys.trans ⟨_, s.free, s.nextId, s.out, rfl⟩ (ih (s.l2Leave x))
  unfold State.sysPass
  split
  · exact hfold _ s
  · exact State.OnlySys.refl s

theorem State.sysPut_onlySys (s : State) (late : Bool) (pa : Nat) (bs : List Byte) : s.OnlySys (s.sysPut late pa bs) := by
  unfold State.sysPut
  split
  · exact ⟨_, s.free, _, _, rfl⟩
  · exact (s.sysPass_onlySys pa bs.length).trans ⟨_, _, _, _, rfl⟩

theorem ringWrite_onlySys (s : State) (base : Nat) (ws : List DWord) : s.OnlySys (ringWrite s base ws).1 := by
  unfold ringWrite
  dsimp only
  split
  · exact (s.sysPass_onlySys base 0x40).trans (State.sysPut_onlySys ..)
  · exact (s.sysPass_onlySys base 0x40).trans ((State.sysPut_onlySys ..).trans (State.sysPut_onlySys ..))

theorem State.OnlySys.pkg_eq {s t : State} : s.OnlySys t → t.pkg = s.pkg := by
  rintro ⟨m, free, nextId, out, rfl⟩
  rfl

@[simp] theorem ringWrite_pkg (s : State) (base : Nat) (ws : List DWord) : (ringWrite s base ws).1.pkg = s.pkg :=
  (ringWrite_onlySys s base ws).pkg_eq

@[simp] theorem State.contextRecord_pkg (s : State) (r : Record) (n : Word) : (s.contextRecord r n).pkg = s.pkg := by
  unfold State.contextRecord
  split
  · rfl
  · exact ringWrite_pkg ..

@[simp] theorem State.packageRecord_seqNo (s : State) (r : Record) (n : Word) : (s.packageRecord r n).pkg.seqNo = s.pkg.seqNo := by
  unfold State.packageRecord State.errPendSet
  split
  · rename_i base _
    have hseq : (ringWrite s base (r.words s.pkg.pkgOvf n s.clock)).1.pkg.seqNo = s.pkg.seqNo := congrArg Pkg.seqNo (ringWrite_pkg ..)
    dsimp only
    split
    · exact hseq
    · split <;> exact hseq
  · split <;> rfl

/-- A record takes the next sequence number. -/
@[simp] theorem State.record_seqNo (s : State) (r : Record) : (s.record r).2.pkg.seqNo = s.pkg.seqNo + 1 := by
  simp [State.record]

@[simp] theorem State.record_fst (s : State) (r : Record) : (s.record r).1 = s.pkg.seqNo + 1 := rfl

/-- A record of RESET-PACKAGE leaves every wave. -/
@[simp] theorem State.noteFatal_w (s : State) (r : Record) (n : Word) : (s.noteFatal r n).w = s.w := by
  unfold State.noteFatal
  split <;> rfl

@[simp] theorem State.noteFatal_seqNo (s : State) (r : Record) (n : Word) : (s.noteFatal r n).pkg.seqNo = s.pkg.seqNo := by
  unfold State.noteFatal
  split <;> rfl

/-- RESET-PACKAGE is noted for the fatal reset, but for the two codes that reset at once (R354, R372). -/
theorem State.noteFatal_fatal {s : State} {r : Record} {n : Word} (hact : r.action = 4) (h3 : r.code ≠ 0x0703) (h4 : r.code ≠ 0x0704) :
    (s.noteFatal r n).pkg.fatal.isSome = true := by
  unfold State.noteFatal
  rw [if_pos ⟨hact, h3, h4⟩]
  cases s.pkg.fatal <;> rfl

/-! ### Other waves and messages -/

@[simp] theorem State.send_pkg (s : State) (chip : Nat) (m : Msg) : (s.send chip m).pkg = s.pkg := by
  unfold State.send
  split
  · rfl
  · split <;> rfl

@[simp] theorem State.mapWave_pkg (s : State) (uid : Nat) (f : Wave → Wave) : (s.mapWave uid f).pkg = s.pkg := by
  unfold State.mapWave
  split <;> rfl

/-- The wave on the issue port, named by its number, changes as it is said. -/
theorem State.mapWave_self {s : State} {uid : Nat} (f : Wave → Wave) (h : s.w.uid = uid) : s.mapWave uid f = s.withW f := if_pos h

/-- A change of a wave that keeps its number keeps which wave is on the issue port. -/
theorem State.mapWave_uid (s : State) (uid : Nat) {f : Wave → Wave} (hf : ∀ w, (f w).uid = w.uid) : (s.mapWave uid f).w.uid = s.w.uid := by
  unfold State.mapWave
  split
  · exact hf s.w
  · rfl

theorem State.mapAnyWave_uid (s : State) (uid : Nat) {f : Wave → Wave} (hf : ∀ w, (f w).uid = w.uid) :
    (s.mapAnyWave uid f).w.uid = s.w.uid := by
  unfold State.mapAnyWave
  split
  · exact s.mapWave_uid uid hf
  · rfl

/-! ### Exclusions and the end of a wave (R320, R312) -/

/-- A wave's exclusion from its sets changes, of itself, its exclusions alone, and nothing of the package. -/
theorem State.excludeSets_self {s : State} {uid : Nat} (h : s.w.uid = uid) :
    (∃ excl, (s.excludeSets uid).w = { s.w with excl := excl }) ∧ (s.excludeSets uid).pkg = s.pkg := by
  unfold State.excludeSets State.wave
  rw [if_pos h]
  refine foldl_keeps (p := fun t => (∃ excl, t.w = { s.w with excl := excl }) ∧ t.pkg = s.pkg) ?_ _ s ⟨⟨s.w.excl, rfl⟩, rfl⟩
  rintro t n ⟨⟨excl, hw⟩, hpkg⟩
  dsimp only
  split
  · exact ⟨⟨excl, hw⟩, hpkg⟩
  · rw [State.mapWave_self _ (by rw [State.send_w, hw]; exact h)]
    exact ⟨⟨_, by rw [State.withW_w, State.send_w, hw]⟩, by rw [State.withW_pkg, State.send_pkg, hpkg]⟩

theorem State.leaveSets_uid (s : State) (uid : Nat) : (s.leaveSets uid).w.uid = s.w.uid := by
  unfold State.leaveSets
  split
  · rfl
  · refine (State.mapWave_uid _ _ ?_).trans ?_
    · exact fun _ => rfl
    · exact foldl_keeps (p := fun t => t.w.uid = s.w.uid) (fun t n ht => by rw [State.send_w, ht]) _ s rfl

theorem Wave.unsleep_uid (w : Wave) : w.unsleep.uid = w.uid := by
  unfold Wave.unsleep
  split <;> rfl

theorem State.unsleep_uid (s : State) (uid : Nat) : (s.unsleep uid).w.uid = s.w.uid := by
  unfold State.unsleep
  split
  · rfl
  · rw [State.mapWave_uid _ _ Wave.unsleep_uid]
    split <;> rfl

theorem State.finishOps_uid (s : State) (ops : List (Nat × Nat)) (err : Option FErr) : (s.finishOps ops err).w.uid = s.w.uid := by
  refine foldl_keeps (p := fun t => t.w.uid = s.w.uid) (fun t x ht => ?_) _ s rfl
  exact Eq.trans (t.mapAnyWave_uid x.1 (by exact fun _ => rfl)) ht

theorem State.freeHits_uid (s : State) (hits : List (Nat × Nat)) : (s.freeHits hits).w.uid = s.w.uid := by
  refine foldl_keeps (p := fun t : State => t.w.uid = s.w.uid) (fun t x ht => ?_) _ _ rfl
  exact Eq.trans (t.mapWave_uid x.1 (by exact fun _ => rfl)) ht

theorem State.dropQuad_uid (s : State) (core team quad : Nat) (err : Option FErr) : (s.dropQuad core team quad err).w.uid = s.w.uid := by
  unfold State.dropQuad
  split
  · rfl
  · exact (State.finishOps_uid ..).trans (State.freeHits_uid ..)

/-- A wave that a recovery action ends has no live lane and runs no handler. -/
theorem State.killWave_self {s : State} {uid : Nat} (h : s.w.uid = uid) :
    (s.killWave uid).w.status = .ended ∧ (s.killWave uid).w.r.ctl.live = 0 ∧ (s.killWave uid).w.frame = none := by
  unfold State.killWave State.wave
  rw [if_pos h]
  dsimp only
  rw [State.mapWave_self]
  · exact ⟨rfl, rfl, rfl⟩
  · split
    · rw [State.dropQuad_uid, State.record_w, State.unsleep_uid, State.leaveSets_uid, h]
    · rw [State.unsleep_uid, State.leaveSets_uid, h]

end Sys2Proof.Machine

/-! Traps and privileged instructions (R349 to R354, R367 to R370). -/

namespace Sys2Proof.Machine

/-! ### Words and instructions that trap (R39, R367) -/

/-- An instruction whose effect is a trap of its own code takes it with that code's action. -/
theorem exec_traps {sp : Spec} {always : Bool} {i : Instr} {f : Fields} {eff : Nat → State → Try} {s : State} {c : BitVec 16} {a d : DWord}
    (h : issues sp always f s = true) (heff : eff (issueSlot s f) (s.atIssue f) = .trap c a d) (hc : c ≠ 0x0120) :
    (.next (issue sp always i f eff s) : Ans) = .next ((s.atIssue f).trapAt c a d (actionOf c)) := by
  rw [issue_trap h heff, State.trapBy_eq _ _ _ hc]

/-- A word that is no instruction traps where its wave runs. -/
theorem State.trapWord_eq {s : State} (code : BitVec 16) (word : DWord) (hrun : s.w.status = .run) (hpre : s.w.preempted = false) :
    s.trapWord code word = s.trapAt code s.pc word (actionOf code) := if_neg (by simp [hrun, hpre])

/-- LEN = 3 is the one length that is none (R17). -/
theorem Len.ofCode_eq_none_iff (c : BitVec 2) : Len.ofCode c = none ↔ c = 3 := by
  revert c
  decide

/-- A BUDGET of 16 to 255 is put as it is. -/
theorem State.setBudget_eq {s : State} {core v : Nat} (hcore : s.corePresent core = true) (hlo : 16 ≤ v) (hhi : v ≤ 255) :
    s.setBudget core v = { s with budgets := assign core v s.budgets } := by
  unfold State.setBudget
  rw [Nat.mod_eq_of_lt (Nat.lt_succ_of_le hhi), hcore]
  exact if_neg (by simpa using hlo)

/-- Settles O14. -/
theorem systemInstructions : Obligations.SystemInstructions := by
  refine ⟨fun f s => ⟨fun h => ?trap, fun h => ?bkpt, fun hrun hpre => ?zero, fun word hrun hpre => ?reserved⟩,
    fun f => ⟨completes_ok (fun _ => rfl) (by intros; rfl), ?esig, ?budget, ?read⟩⟩
  case trap => exact exec_traps h rfl (by decide)
  case bkpt => exact exec_traps h rfl (by decide)
  case zero => exact congrArg Host.Outcome.next (State.trapWord_eq _ _ hrun hpre)
  case reserved =>
    refine congrArg Host.Outcome.next ((State.trapWord_eq _ _ hrun hpre).trans ?_)
    simp only [Len.ofCode_eq_none_iff]
    split <;> rfl
  case esig => exact completesIf_ok (fun _ => rfl) fun slot s hcode => if_neg (Nat.not_lt.mpr hcode)
  case budget =>
    refine completesIf_ok (fun _ => rfl) fun slot s ⟨hcore, hlo, hhi⟩ => ?_
    rw [State.srcA_word] at hcore ⊢
    rw [State.srcB_word] at hlo hhi ⊢
    simp only [hcore]
    rw [if_neg (by simp), if_neg (by omega), State.setBudget_eq hcore hlo hhi]
  case read =>
    refine completesIf_ok (fun _ => rfl) fun slot s hcore => ?_
    rw [State.srcA_word] at hcore
    simp only [hcore]
    exact if_neg (by simp)

/-! ### Taking a trap (R322, R349, R351, R352, R354) -/

/-- A trap in a run-ahead is held. -/
theorem State.trapAt_ahead {s : State} {a : Ahead} (ha : s.w.ahead = some a) (code : BitVec 16) (addr detail : DWord) (action : Nat) :
    s.trapAt code addr detail action =
      ((s.dropFaults s.w.uid).withW fun w => { w with ahead := some { a with fault := some (code, addr, detail) } }).waits := by
  have ha' : (s.dropFaults s.w.uid).w.ahead = some a := ha
  simp only [State.trapAt, ha']

/-- A trap of a wave that does not run ahead is taken. -/
theorem State.trapAt_now {s : State} (ha : s.w.ahead = none) (code : BitVec 16) (addr detail : DWord) (action : Nat) :
    s.trapAt code addr detail action = (s.dropFaults s.w.uid).takeTrap code addr detail action := by
  have ha' : (s.dropFaults s.w.uid).w.ahead = none := ha
  simp only [State.trapAt, ha']

/-- The record of a trap precise at its wave's pc. -/
def State.trapRecord (s : State) (code : BitVec 16) (addr detail : DWord) (action : Nat) : Record :=
  { s.waveRecord s.w 0 true code (if code = 0x0114 ∧ detail = 2 then addr else s.recAddr code addr) (s.recDetail code detail)
      s.w.r.ctl.arm.pc with action := action }

/-- The state once a trap's record is written, a fatal one noted and its wave excluded from the sets. -/
def State.trapNoted (s : State) (r : Record) : State :=
  ((s.record r).2.noteFatal r (s.record r).1).excludeSets s.w.uid

/-- What is known of the state with the record written. -/
theorem State.trapNoted_facts (s : State) (r : Record) : (∃ excl, (s.trapNoted r).w = { s.w with excl := excl }) ∧
    (s.trapNoted r).pkg.seqNo = s.pkg.seqNo + 1 ∧
    (r.action = 4 → r.code ≠ 0x0703 → r.code ≠ 0x0704 → (s.trapNoted r).pkg.fatal.isSome = true) := by
  have hw : ((s.record r).2.noteFatal r (s.record r).1).w = s.w := by rw [State.noteFatal_w, State.record_w]
  obtain ⟨hexcl, hpkg⟩ := State.excludeSets_self (s := (s.record r).2.noteFatal r (s.record r).1) (uid := s.w.uid) (by rw [hw])
  rw [hw] at hexcl
  refine ⟨hexcl, ?_, fun hact h3 h4 => ?_⟩
  · rw [State.trapNoted, hpkg, State.noteFatal_seqNo, State.record_seqNo]
  · rw [State.trapNoted, hpkg]
    exact State.noteFatal_fatal hact h3 h4

/-- A trap outside handler mode: the record, then the handler or the action. -/
theorem State.takeTrap_outside {s : State} (hframe : s.w.frame = none) (code : BitVec 16) (addr detail : DWord) (action : Nat) :
    s.takeTrap code addr detail action =
      let t := s.trapNoted (s.trapRecord code addr detail action)
      if s.w.k.trapOff = 0 then t.applyAction action code else t.enterHandler (s.trapRecord code addr detail action) (s.pkg.seqNo + 1) := by
  obtain ⟨⟨excl, hw⟩, -⟩ := s.trapNoted_facts (s.trapRecord code addr detail action)
  have hk : (s.trapNoted (s.trapRecord code addr detail action)).w.k = s.w.k := by rw [hw]
  unfold State.takeTrap
  simp only [hframe]
  refine Eq.trans (b := let t := ((s.record (s.trapRecord code addr detail action)).2.noteFatal (s.trapRecord code addr detail action)
      (s.pkg.seqNo + 1)).excludeSets (s.record (s.trapRecord code addr detail action)).2.w.uid
    if t.w.k.trapOff = 0 then t.applyAction action code else t.enterHandler (s.trapRecord code addr detail action) (s.pkg.seqNo + 1)) rfl ?_
  rw [State.record_w]
  exact congrArg (fun k : Kernel => if k.trapOff = 0 then _ else _) hk

/-- A trap in handler mode ends the wave under a record of 0x0142. -/
theorem State.takeTrap_inside {s : State} (hframe : s.w.frame.isSome = true) (code : BitVec 16) (addr detail : DWord) (action : Nat) :
    s.takeTrap code addr detail action =
      (s.record { s.waveRecord s.w 0 true 0x0142 (if code = 0x0114 ∧ detail = 2 then addr else s.recAddr code addr) (code.setWidth 64)
        s.w.r.ctl.arm.pc with action := 1 }).2.killWave s.w.uid := by
  obtain ⟨fr, hfr⟩ := Option.isSome_iff_exists.mp hframe
  unfold State.takeTrap
  simp only [hfr]
  rw [State.record_w]

/-- Item 0 of a trap's frame (R352). -/
theorem State.trapRecord_low (s : State) (code : BitVec 16) (addr detail : DWord) (action : Nat) (ovf : Bool) :
    (s.trapRecord code addr detail action).low ovf =
      code.toNat + action * 2 ^ 16 + 2 ^ 19 + severityOf action * 2 ^ 20 + 2 ^ 22 + (if ovf then 2 ^ 23 else 0) := by
  simp [Record.low, State.trapRecord, State.waveRecord]

/-- What a wave that enters its handler finds, and what its frame keeps (R351, R352). -/
theorem State.enterHandler_facts (u : State) (r : Record) (n : Word) :
    ∃ fr, (u.enterHandler r n).w.status = .run ∧ (u.enterHandler r n).w.frame = some fr ∧ fr.code = r.code ∧ fr.addr = r.addr ∧
      fr.detail = r.detail ∧ fr.xpc = u.w.r.ctl.arm.pc ∧ fr.em = u.w.r.ctl.arm.em ∧ fr.seqNo = n ∧ fr.ctl = u.w.r.ctl ∧
      fr.word0 = BitVec.ofNat 32 (r.low r.ovf) ∧
      (u.enterHandler r n).w.r.ctl.arm.pc = u.w.k.hdr + 64 + BitVec.ofNat 64 u.w.k.trapOff ∧
      (u.enterHandler r n).w.r.ctl.arm.em = u.w.r.ctl.live ∧ (u.enterHandler r n).w.r.ctl.live = u.w.r.ctl.live ∧
      (u.enterHandler r n).w.r.ctl.arm.stack = [] ∧ (u.enterHandler r n).w.r.ctl.other = none ∧
      (u.enterHandler r n).w.r.ctl.full = [] ∧ (u.enterHandler r n).w.r.ctl.arm.lp0.active = false ∧
      (u.enterHandler r n).w.r.ctl.arm.lp1.active = false ∧ (u.enterHandler r n).w.r.ctl.arm.errs = u.w.r.ctl.arm.errs ∧
      (u.enterHandler r n).w.r.v = u.w.r.v ∧ (u.enterHandler r n).w.r.s = u.w.r.s ∧ (u.enterHandler r n).w.r.p = u.w.r.p :=
  ⟨_, rfl, rfl, rfl, rfl, rfl, rfl, rfl, rfl, rfl, rfl, rfl, rfl, rfl, rfl, rfl, rfl, rfl, rfl, rfl, rfl, rfl, rfl⟩

/-- Settles O15. -/
theorem takingATrap : Obligations.TakingATrap := by
  intro s code addr detail action t c at_
  refine ⟨fun a ha => ?ahead, fun ha hframe hk => ?handler, fun ha hframe hk => ?action, fun ha hframe => ?inside⟩
  case ahead =>
    rw [show t = _ from State.trapAt_ahead ha code addr detail action]
    exact ⟨rfl, rfl, rfl, rfl, rfl, rfl, rfl⟩
  case inside =>
    have hframe' : (s.dropFaults s.w.uid).w.frame.isSome = true := hframe
    have ht : t = _ := (State.trapAt_now ha code addr detail action).trans (State.takeTrap_inside hframe' code addr detail action)
    refine ⟨ht, ?_⟩
    rw [ht]
    exact State.killWave_self (by rw [State.record_w])
  all_goals
    have hframe' : (s.dropFaults s.w.uid).w.frame = none := hframe
    have ht : t = _ := (State.trapAt_now ha code addr detail action).trans (State.takeTrap_outside hframe' code addr detail action)
    obtain ⟨⟨excl, hw⟩, hseq, hfatal⟩ := (s.dropFaults s.w.uid).trapNoted_facts ((s.dropFaults s.w.uid).trapRecord code addr detail action)
    have hlow := (s.dropFaults s.w.uid).trapRecord_low code addr detail action (s.ctxOvf s.w.ctx)
    generalize (s.dropFaults s.w.uid).trapNoted _ = u at hw hseq hfatal ht
    have hr : u.w.r = s.w.r := by rw [hw]; rfl
    have huk : u.w.k = s.w.k := by rw [hw]; rfl
  case handler =>
    rw [ht.trans (if_neg hk)]
    obtain ⟨fr, hfacts⟩ := u.enterHandler_facts ((s.dropFaults s.w.uid).trapRecord code addr detail action) (s.pkg.seqNo + 1)
    rw [hr, huk] at hfacts
    obtain ⟨hst, hfr, hcode, haddr, hdetail, hxpc, hem, hseqNo, hctl, hword, hrest⟩ := hfacts
    exact ⟨fr, hseq, hst, hfr, hcode, haddr, hdetail, hxpc, hem, hseqNo, hctl, hword.trans (congrArg _ hlow), hrest⟩
  case action =>
    rw [ht.trans (if_pos hk)]
    refine ⟨?one, ?cancel, ?four, ?park⟩
    case one =>
      rintro rfl
      obtain ⟨hst, hlive, -⟩ := State.killWave_self (s := u) rfl
      exact ⟨hst, hlive⟩
    case cancel =>
      have hctx : u.w.ctx = s.w.ctx := by rw [hw]; rfl
      have hkey : u.w.key = s.w.key := by rw [hw]; rfl
      rintro level (⟨rfl, rfl⟩ | ⟨rfl, rfl⟩)
      · exact ⟨rfl, congrArg Regs.ctl hr, _, by rw [← hctx, ← hkey]; rfl⟩
      · exact ⟨rfl, congrArg Regs.ctl hr, _, by rw [← hctx, ← hkey]; rfl⟩
    case four =>
      rintro rfl
      exact ⟨rfl, congrArg Regs.ctl hr, hfatal rfl⟩
    case park =>
      rintro (rfl | rfl)
      · exact ⟨rfl, congrArg Regs.ctl hr, hseq⟩
      · exact ⟨rfl, congrArg Regs.ctl hr, hseq⟩

end Sys2Proof.Machine

/-! Handlers, boundary traps, retirement and the power manager (R297, R351 to R354, R367, R370). -/

namespace Sys2Proof.Machine

/-! ### The effect of an `rte` by the frame it finds (R354, R367) -/

section

variable {i : Instr} {skip : Bool} {dest : State → Option DWord} {slot : Nat} {s u : State} {fr : Frame}

theorem rteEff_outside (hframe : s.w.frame = none) : rteEff i skip dest slot s = .trap 0x0141 s.pc (instrLow i) := by
  simp only [rteEff, hframe]

theorem rteEff_cancelled (hframe : s.w.frame = some fr) (hcode : fr.code = 0x0630) :
    rteEff i skip dest slot s = .moved (s.killWave s.w.uid) := by
  simp only [rteEff, hframe]
  exact if_pos hcode

/-- `rte` goes on at XPC, unless it skips. -/
theorem rteEff_resumes (hframe : s.w.frame = some fr) (hcode : fr.code ≠ 0x0630) (hbkpt : fr.code ≠ 0x0143) (hdest : dest s = none) :
    rteEff i false dest slot s = .moved (s.withW fun w => w.leaveHandler fr fr.xpc) := by
  simp only [rteEff, hframe, hdest]
  rw [if_neg hcode, if_neg (not_or.mpr ⟨Bool.false_ne_true, hbkpt⟩)]

theorem rteEff_skips {n : Nat} (hframe : s.w.frame = some fr) (hcode : fr.code ≠ 0x0630) (hskip : skip = true ∨ fr.code = 0x0143)
    (hdest : dest s = none) (hlen : s.skipLen fr.xpc = .ok n u) :
    rteEff i skip dest slot s = .moved (u.withW fun w => w.leaveHandler fr (fr.xpc + BitVec.ofNat 64 n)) := by
  simp only [rteEff, hframe, hdest, hlen]
  rw [if_neg hcode, if_pos hskip]

theorem rteEff_refused (hframe : s.w.frame = some fr) (hcode : fr.code ≠ 0x0630) (hskip : skip = true ∨ fr.code = 0x0143)
    (hdest : dest s = none) (hlen : s.skipLen fr.xpc = .refused) :
    rteEff i skip dest slot s = .trap 0x0102 s.pc (instrLow i) := by
  simp only [rteEff, hframe, hdest, hlen]
  rw [if_neg hcode, if_pos hskip]

theorem rteEff_to {d : DWord} (hframe : s.w.frame = some fr) (hcode : fr.code ≠ 0x0630) (hdest : dest s = some d) (halign : d.toNat % 4 = 0) :
    rteEff i skip dest slot s = .moved (s.withW fun w => w.leaveHandler fr d) := by
  simp only [rteEff, hframe, hdest]
  rw [if_neg hcode, if_neg (not_not_intro halign)]

theorem rteEff_misaligned {d : DWord} (hframe : s.w.frame = some fr) (hcode : fr.code ≠ 0x0630) (hdest : dest s = some d)
    (halign : d.toNat % 4 ≠ 0) : rteEff i skip dest slot s = .trap 0x0109 s.pc (blockEnd s.pc) := by
  simp only [rteEff, hframe, hdest]
  rw [if_neg hcode, if_pos halign]

end

/-- The trap frame of a `bkpt` is not that of a cancel. -/
theorem cancel_ne_bkpt {c : BitVec 16} (h : c = 0x0143) : c ≠ 0x0630 := by
  rw [h]
  decide

/-- What a short instruction that sets the control state itself leaves of a wave's end. -/
theorem State.goOnMoved_ended {s t : State} {f : Fields} {slot : Nat} (hst : t.w.status = .ended) (hframe : t.w.frame = none) :
    (s.goOnMoved t false f slot).w.status = .ended ∧ (s.goOnMoved t false f slot).w.frame = none := by
  have hfin : (t.finishedOp f).w.status = t.w.status ∧ (t.finishedOp f).w.frame = t.w.frame := by
    unfold State.finishedOp
    split <;> exact ⟨rfl, rfl⟩
  have hboth (t : State) : (t.countBothNew s).w.status = t.w.status ∧ (t.countBothNew s).w.frame = t.w.frame := by
    unfold State.countBothNew
    split <;> exact ⟨rfl, rfl⟩
  exact ⟨(hboth _).1.trans (hfin.1.trans hst), (hboth _).2.trans (hfin.2.trans hframe)⟩

/-- Settles O16. -/
theorem handlerInstructions : Obligations.HandlerInstructions := by
  intro f s e rte rteTo dest moved
  have hmoves {sp : Spec} {i : Instr} {eff : Nat → State → Try} {u : State} (hshort : sp.long = false) (h : issues sp false f s = true)
      (heff : eff (issueSlot s f) e = .moved u) : (.next (issue sp false i f eff s) : Ans) = moved u := by
    rw [issue_moved h heff, hshort]
  refine ⟨fun fr hframe => ⟨fun h => ?read, fun h hcode hbkpt => ?retry, fun n u h hbkpt hlen => ?retryBkpt, fun h hbkpt hlen => ?retryRefused,
    fun n u h hcode hlen => ?skip, fun h hcode hlen => ?skipRefused, fun h hcode halign => ?goTo, fun h hcode halign => ?misaligned,
    fun h hcode => ⟨?cancelRetry, ?cancelSkip⟩, fun h hcode => ?cancelTo, fun h => ?finish⟩, fun hframe => ⟨fun h => ?readOut, fun h => ⟨?retryOut, ?skipOut, ?endOut⟩, fun h => ?toOut⟩⟩
  case read =>
    refine congrArg Host.Outcome.next (issue_ok h ?_)
    simp only [show (s.atIssue f).w.frame = some fr from hframe]
    rfl
  case retry => exact hmoves rfl h (rteEff_resumes hframe hcode hbkpt rfl)
  case retryBkpt => exact hmoves rfl h (rteEff_skips hframe (cancel_ne_bkpt hbkpt) (.inr hbkpt) rfl hlen)
  case retryRefused => exact exec_traps h (rteEff_refused hframe (cancel_ne_bkpt hbkpt) (.inr hbkpt) rfl hlen) (by decide)
  case skip => exact hmoves rfl h (rteEff_skips hframe hcode (.inl rfl) rfl hlen)
  case skipRefused => exact exec_traps h (rteEff_refused hframe hcode (.inl rfl) rfl hlen) (by decide)
  case goTo => exact hmoves rfl h (rteEff_to hframe hcode rfl halign)
  case misaligned => exact exec_traps h (rteEff_misaligned hframe hcode rfl halign) (by decide)
  case cancelRetry | cancelSkip | cancelTo => exact hmoves rfl h (rteEff_cancelled hframe hcode)
  case finish =>
    obtain ⟨hst, hlive, hnone⟩ := State.killWave_self (s := e) rfl
    obtain ⟨hst', hnone'⟩ := State.goOnMoved_ended (s := e) (f := f) (slot := issueSlot s f) hst hnone
    refine ⟨_, hmoves (u := e.killWave e.w.uid) rfl h ?_, hst', ?_, hnone'⟩
    · rw [hframe]
    · rw [State.goOnMoved_ctl]
      exact hlive
  case readOut =>
    refine exec_traps h ?_ (by decide)
    simp only [show (s.atIssue f).w.frame = none from hframe]
    rfl
  case endOut =>
    refine exec_traps h ?_ (by decide)
    simp only [show (s.atIssue f).w.frame = none from hframe]
    rfl
  case retryOut | skipOut | toOut => exact exec_traps h (rteEff_outside hframe) (by decide)

/-! ### Boundaries, retirement and power (R297, R351, R370) -/

section

variable {s : State} {w : Nat} (huid : (s.select w).w.uid = w) (hst : (s.select w).w.status ≠ .ended) (hpre : (s.select w).w.preempted = false)
include huid hst hpre

/-- A wave that has not ended takes a trap at its boundary. -/
theorem trapTake_eq (code : BitVec 16) (addr detail : DWord) : exec (.trapTake w code addr detail) s =
    if code = 0x0630 then
      match (s.select w).w.cancel with
      | none => .next (s.select w)
      | some (r, n) => .next ((s.select w).takeCancel r n)
    else .next ((s.select w).trapBy code addr detail) := by
  refine (?_ : execTrapTake w code addr detail s = _)
  unfold execTrapTake
  exact if_neg (by simp [huid, hst, hpre])

end

/-- Settles O17. -/
theorem waveEvents : Obligations.WaveEvents := by
  refine fun s => ⟨?trap, ?flag, ?cancel, ?retire, ?raise, ?lower⟩
  case trap =>
    intro w code addr detail e huid hst hpre hcancel hflag
    rw [trapTake_eq huid hst hpre, if_neg hcancel, State.trapBy_eq _ _ _ hflag]
  case flag =>
    intro w addr detail e u huid hst hpre
    rw [trapTake_eq huid hst hpre, if_neg (by decide)]
    exact congrArg Host.Outcome.next (if_pos rfl)
  case cancel =>
    intro w addr detail r n e huid hst hpre hcancel
    rw [trapTake_eq huid hst hpre, if_pos rfl, hcancel]
  case retire =>
    intro w flag x o hwave hretire due ripe u
    refine (?_ : execOperationRetire w flag s = _)
    simp only [execOperationRetire, hwave, hretire]
    rfl
  case raise =>
    intro core b hcore hlo hle
    refine congrArg Host.Outcome.next (?_ : (if _ then _ else _) = _)
    rw [if_pos hle, State.setBudget_eq hcore hlo (Nat.le_of_lt_succ b.isLt)]
  case lower =>
    intro core b hcore hlo hlt u
    refine (?_ : execBudgetLower core b s = _)
    unfold execBudgetLower
    rw [if_pos ⟨hcore, hlo, hlt⟩, State.setBudget_eq hcore hlo (Nat.le_of_lt_succ b.isLt)]

end Sys2Proof.Machine

/-! Loads, stores, atomics, literals, caches, fences and barriers (R91 to R98, R120 to R122, R153 to R159, R341 to R346): each effect in the
case its clause names. -/

namespace Sys2Proof.Machine

/-! ### Loads and stores -/

section

variable {i : Instr} {f : Fields} {sp : Bool} {s : State} {ls : List Loc} (slot : Nat) (hcore : absentLane s f sp (scaleX f) = false)
  (hscope : s.scopeValid s.w.ctx (scopeX f) = true)
include hcore hscope

theorem loadEff_ok (hls : locateLanes s f i sp .read (scaleX f) = .ok ls) :
    loadEff i f sp slot s =
      let op := (s.startOp f (ordX f == 1) true).1
      .ok ((ls.foldl (fun s l => (pieces (tyBits f.ty.toNat / 8)).foldl (fun s p =>
        s.loadPiece f sp op (ordX f == 1 && scopeX f != 0) l p) s) (s.startOp f (ordX f == 1) true).2).closeOp op) none := by
  simp only [loadEff, hcore, hscope, hls]
  rfl

/-- A store outside a run-ahead enters its accesses. -/
theorem storeEff_ok (hls : locateLanes s f i sp .write (scaleX f) = .ok ls) (ha : s.w.ahead = none) :
    storeEff i f sp slot s =
      let b := s.startOp f false false
      .ok (((storeAccs b.2 f sp b.1 ls).foldl State.issueStore b.2).closeOp b.1) none := by
  simp only [storeEff, hcore, hscope, hls, ha]
  rfl

/-- A store in a run-ahead is held, where it fits (R323). -/
theorem storeEff_held {a : Ahead} (hls : locateLanes s f i sp .write (scaleX f) = .ok ls) (ha : s.w.ahead = some a)
    (hroom : (a.stores.map heldBlocks).sum + heldBlocks (storeAccs s f sp 0 ls) ≤ 32) :
    storeEff i f sp slot s =
      let b := s.startOp f false false
      .ok (b.2.withW fun w => { w with ahead := w.ahead.map fun a => { a with stores := a.stores ++ [storeAccs b.2 f sp b.1 ls] } }) none := by
  simp only [storeEff, hcore, hscope, hls, ha]
  exact if_neg (Nat.not_lt.mpr hroom)

end

/-- Settles O18: what the lanes resolve to is what the effect works on, for memory and for scratchpad. -/
theorem loadsAndStoresIssue : Obligations.LoadsAndStoresIssue := by
  intro f sp
  cases sp
  all_goals
    refine ⟨completesFor_ok (fun _ => rfl) ?load, completesFor_ok (fun _ => rfl) ?store, completesFor_ok (fun _ => rfl) ?held⟩
    case load => exact fun slot s ls ⟨hcore, hscope, hls⟩ => loadEff_ok slot hcore hscope hls
    case store => exact fun slot s ls ⟨⟨hcore, hscope, hls⟩, ha⟩ => storeEff_ok slot hcore hscope hls ha
    case held => exact fun slot s ls ⟨⟨hcore, hscope, hls⟩, a, ha, hroom⟩ => storeEff_held slot hcore hscope hls ha hroom

/-! ### Atomics and literals -/

theorem atomEff_ok {i : Instr} {f : Fields} {ret : Nat} {s : State} {ls : List Loc} (slot : Nat)
    (hscope : s.scopeValid s.w.ctx (scopeX f) = true)
    (hls : locateLanes s f i false .atomic (if f.x.getLsbD 11 then tyBits f.ty.toNat / 8 else 1) = .ok ls) :
    atomEff i f ret slot s =
      let ord := (f.x.extractLsb' 9 2).toNat
      let b := s.startOp f (natBit ord 0) (ret != 0)
      .ok (b.2.issueAtomics f false b.1 ret (natBit ord 0) (natBit ord 1) ls) none := by
  simp only [atomEff, hscope, hls]
  rfl

/-- The addresses of the lanes of `ldlit` (R159). -/
def litAddrs (f : Fields) (s : State) : List (Nat × DWord) :=
  (memLanes s f).map fun l => (l, s.pc + f.imm.signExtend 64 + BitVec.ofInt 64 (sext 32 (src32 s.w.r f f.a l) * (tyBits f.ty.toNat / 8 : Nat)))

/-- Settles O19. -/
theorem atomicsAndLiteralsIssue : Obligations.AtomicsAndLiteralsIssue := by
  refine fun f => ⟨?atom, ?atomr, ?red, ?spatom, ?ldlit, ?outside⟩
  case atom | atomr | red =>
    exact completesFor_ok (fun _ => rfl) fun slot s ls ⟨hscope, hls⟩ => atomEff_ok slot hscope hls
  case spatom =>
    refine completesFor_ok (fun _ => rfl) fun slot s ls ⟨hcore, hscope, hls⟩ => ?_
    simp only [hcore, hscope, hls]
    rfl
  case ldlit =>
    refine completesFor_ok (fun _ => rfl) fun slot s ⟨u, wrs, bad⟩ ⟨hinside, ⟨hs, hxlate⟩, hreads⟩ => ?_
    have hnone : (litAddrs f s).find? (fun x => s.w.k.outside x.2 (tyBits f.ty.toNat / 8)) = none :=
      List.find?_eq_none.mpr fun ea hea => by simp [hinside ea hea]
    have hxlate' : xlateLanes s .fetch (tyBits f.ty.toNat / 8) (litAddrs f s) = .ok hs := hxlate
    have hreads' : litReads f.ty.toNat f s (litAddrs f s) [] none = .inl (u, wrs, bad) := hreads
    unfold litAddrs at hnone hxlate' hreads'
    dsimp only
    rw [hnone]
    dsimp only
    rw [hxlate']
    dsimp only
    rw [hreads']
    cases bad <;> rfl
  case outside =>
    refine completesFor_trap (fun _ => rfl) fun slot s x hfirst => ?_
    have hfirst' : (litAddrs f s).find? (fun x => s.w.k.outside x.2 (tyBits f.ty.toNat / 8)) = some x := hfirst
    unfold litAddrs at hfirst'
    dsimp only
    rw [hfirst']

/-! ### Caches -/

theorem cwbEff_ok {f : Fields} {mode : Nat} {s : State} {ls : List Loc} (slot : Nat)
    (hls : memLocate s .read 1 (cacheAddrs s f) = .ok ls) :
    cwbEff f mode slot s =
      let b := s.startOp f false false
      .ok (((ls.filter fun l => (l.cls == 0 || l.cls == 2) && l.peer.isNone).foldl (fun s l => s.pushClean b.1 mode l) b.2).closeOp b.1) none := by
  simp only [cwbEff, hls]

/-- Settles O20. -/
theorem cacheInstructionsIssue : Obligations.CacheInstructionsIssue := by
  refine fun f => ⟨?fill, ?wait, completes_ok (fun _ => rfl) (by intros; rfl), ?sector, ?cwb, ?cwbInv, completes_ok (fun _ => rfl) (by intros; rfl)⟩
  case fill =>
    refine completesIf_ok (fun _ => rfl) fun slot s hnone => ?_
    dsimp only at hnone ⊢
    rw [hnone]
  case wait =>
    refine completesIf_stall (fun _ => rfl) fun slot s hmissed => ?_
    dsimp only at hmissed ⊢
    split
    next x xs hlist => rw [hlist]
    next hlist => exact absurd hlist hmissed
  case sector =>
    refine completesFor_ok (fun _ => rfl) fun slot s ls hls => ?_
    dsimp only
    rw [hls]
  case cwb | cwbInv => exact completesFor_ok (fun _ => rfl) fun slot s ls hls => cwbEff_ok slot hls

/-! ### Fences and barriers -/

section

variable {i : Instr} {f : Fields} {waits : Bool} {s : State} (slot : Nat)

/-- What an arrival at a team barrier does once its checks pass and the release at core scope is done (R345). -/
theorem arriveEff_team (hmem : memX f = false) (hcheck : barCheck s i f (some (s.srcB f 18 0)) = none)
    (hfree : releaseHolds s.w.core s.w.uid 0 false s.m.port = false) :
    arriveEff i f waits slot s =
      if (s.bar (scopeX f)).arrived ≠ 0 ∧ (s.bar (scopeX f)).expect ≠ s.srcB f 18 0 then
        .trap 0x0122 s.pc (BitVec.ofNat 64 (s.srcB f 18 0 + (s.bar (scopeX f)).expect * 2 ^ 32))
      else
        let b := s.startOp f waits (!waits)
        let u := b.2.arrive (scopeX f) (s.srcB f 18 0)
        .ok (if waits then u.waitBar (scopeX f) b.1 (s.bar (scopeX f)).phase
          else u.finishOp u.w.uid b.1 (dstWr 18 f.d 0 (if (s.bar (scopeX f)).phase then 1 else 0)) 0 none) none := by
  rw [State.srcB_word] at *
  simp only [arriveEff, hcheck, hmem, hfree]
  rfl

/-- With MEM the arrival goes to the barrier word (R346). -/
theorem arriveEff_mem (hmem : memX f = true) (hcheck : barCheck s i f (some (s.srcB f 18 0)) = none) :
    arriveEff i f waits slot s = s.barWord f (s.srcB f 18 0) waits false := by
  rw [State.srcB_word] at *
  simp only [arriveEff, hcheck, hmem]
  rfl

/-- The access to a barrier word that translates. -/
theorem State.barWord_ok {count : Nat} {tok : Bool} {h : Nat × DWord × Hit}
    (hxlate : xlateLanes s .atomic 8 [(0, memAddr s.w.r { f with c := 0, imm := 0 } 1 0)] = .ok [h]) :
    s.barWord f count waits tok =
      let b := s.startOp f waits (!waits)
      let va := memAddr s.w.r { f with c := 0, imm := 0 } 1 0
      let l := b.2.locate 0 va h.2.2
      let dropped := if count = 0 then b.2 else b.2.withM fun m => m.l1Drop b.2.w.core (l1Addr l.peer l.pa)
      let u := dropped.pushAcc { b.2.newAcc b.1 false l 8 (.barrier count waits) with
        parts := [{ lane := 0, data := 0, cmp := 0 }], dst := if waits then none else dstOf f.d, acq := waits, rel := count != 0
        scope := scopeX f }
      .ok (if waits then u.withW fun w => { w with status := .sleepWord va (scopeX f) b.1 tok } else u) none := by
  simp only [State.barWord, hxlate]

end

section

variable {s u : State} {w scope op level : Nat} {va : DWord} {tok : Bool} {h : Hit} {code : BitVec 16} {r : Nat}
  (huid : (s.select w).w.uid = w) (hst : (s.select w).w.status = .sleepWord va scope op tok)
  (hfree : ((s.select w).m.port.any fun a => a.op == op) = false)

/-- A sleeping wave whose word can no longer be read wakes with the failure. -/
def State.wakeFailed (u : State) (w op : Nat) (va : DWord) (code : BitVec 16) (level : Nat) : State :=
  ((u.opFail w op { engine := 0, code := code, addr := u.xlAddr (dieOf u.w.core) u.w.ctx code va, detail := xlDetail 0 .atomic level
    }).finishOp w op [] 0 none).withW fun w => { w with status := .run }

include huid hst hfree

/-! The check of an access is replaced by a variable first: the kernel then does not unfold its bounds on addresses. -/

theorem barrierWordReread_hit (hat : (s.select w).engXlate (dieOf (s.select w).w.core) (s.select w).w.ctx va = (.hit h, u))
    (hok : accessFault (u.reachable u.w h.pa) u.priv .atomic 8 va.toNat h = none) :
    execBarrierWordReread w s = .next (u.pushAcc { u.newAcc op false (u.locate 0 va h) 8 (.barrier 0 true) with
        parts := [{ lane := 0, data := 0, cmp := 0 }], acq := true, scope := scope }) := by
  unfold execBarrierWordReread
  obtain ⟨check, hcheck⟩ : ∃ check, check = accessFault := ⟨_, rfl⟩
  rw [← hcheck] at hok ⊢
  simp only [huid, hst, hfree, hat, hok, ne_eq, not_true_eq_false, if_false, Bool.false_eq_true]

theorem barrierWordReread_refused (hat : (s.select w).engXlate (dieOf (s.select w).w.core) (s.select w).w.ctx va = (.hit h, u))
    (hbad : accessFault (u.reachable u.w h.pa) u.priv .atomic 8 va.toNat h = some (r, code)) :
    execBarrierWordReread w s = .next (u.wakeFailed w op va code 7) := by
  unfold execBarrierWordReread State.wakeFailed
  obtain ⟨check, hcheck⟩ : ∃ check, check = accessFault := ⟨_, rfl⟩
  rw [← hcheck] at hbad ⊢
  simp only [huid, hst, hfree, hat, hbad, ne_eq, not_true_eq_false, if_false, Bool.false_eq_true]

theorem barrierWordReread_failed (hat : (s.select w).engXlate (dieOf (s.select w).w.core) (s.select w).w.ctx va = (.fail level code, u)) :
    execBarrierWordReread w s = .next (u.wakeFailed w op va code level) := by
  unfold execBarrierWordReread State.wakeFailed
  obtain ⟨check, hcheck⟩ : ∃ check, check = accessFault := ⟨_, rfl⟩
  rw [← hcheck]
  simp only [huid, hst, hfree, hat, ne_eq, not_true_eq_false, if_false, Bool.false_eq_true]

end

/-- Settles O21. -/
theorem fencesAndBarriersIssue : Obligations.FencesAndBarriersIssue := by
  refine ⟨fun f => ⟨?fence, ?bar, ?bara, ?barw, ?barClash, ?baraClash, ?barMem, ?baraMem, ?barwMem⟩, ?reread⟩
  case fence =>
    refine completesIf_ok (fun _ => rfl) fun slot s hscope => ?_
    dsimp only
    rw [hscope]
    rfl
  case bar => exact completesIf_ok (fun _ => rfl) fun slot s ⟨⟨hmem, hcheck, hfree⟩, hsame⟩ => (arriveEff_team slot hmem hcheck hfree).trans (if_neg hsame)
  case bara => exact completesIf_ok (fun _ => rfl) fun slot s ⟨⟨hmem, hcheck, hfree⟩, hsame⟩ => (arriveEff_team slot hmem hcheck hfree).trans (if_neg hsame)
  case barw =>
    refine completesIf_ok (fun _ => rfl) fun slot s ⟨hmem, hcheck⟩ => ?_
    dsimp only
    rw [hcheck, hmem]
    rfl
  case barClash | baraClash =>
    exact completesIf_trap (fun _ => rfl) fun slot s ⟨⟨hmem, hcheck, hfree⟩, hclash⟩ => (arriveEff_team slot hmem hcheck hfree).trans (if_pos hclash)
  case barMem | baraMem =>
    exact completesFor_ok (fun _ => rfl) fun slot s h ⟨hmem, hcheck, hxlate⟩ => (arriveEff_mem slot hmem hcheck).trans (State.barWord_ok hxlate)
  case barwMem =>
    refine completesFor_ok (fun _ => rfl) fun slot s h ⟨hmem, hcheck, hxlate⟩ => ?_
    dsimp only
    rw [hcheck, hmem]
    exact State.barWord_ok hxlate
  case reread =>
    exact fun w s va scope op tok huid hst hfree => ⟨fun h u hat hok => barrierWordReread_hit huid hst hfree hat hok,
      fun h u r code hat hbad => barrierWordReread_refused huid hst hfree hat hbad,
      fun level code u hat => barrierWordReread_failed huid hst hfree hat⟩

end Sys2Proof.Machine

/-! Copies, queues and completion objects (R125, R132 to R138, R218): each effect in the case its clause names, and the steps of the copy
engine. -/

namespace Sys2Proof.Machine

/-! ### The copy instructions -/

/-- A read of a pattern entry leaves the wave on the issue port as it is. -/
theorem State.patternPass_w (s : State) (ctx n : Nat) : (s.patternPass ctx n).w = s.w := by
  unfold State.patternPass
  split
  · rfl
  · exact (State.sysPass_waves ..).1

/-- What passes the precise checks names no absent core, in D or in an object's operand, by a scratchpad side. -/
theorem present_of_copyChecks {s : State} {f : Fields} {n : Nat} {x : CEnd × CEnd × Option Nat}
    (h : copyChecks s f false true n = .inr x) :
    (s.absentCore (BitVec.ofNat 32 (src32 s.w.r f f.d 0)) || (coX f && s.absentCore (BitVec.ofNat 32 (src32 s.w.r f f.c 0)))) = false := by
  unfold copyChecks at h
  dsimp only at h
  split at h
  · cases h
  next hpresent => simpa using hpresent

/-- An absent core is what the precise checks name first (R349). -/
theorem copyChecks_absent {s : State} {f : Fields} {n : Nat}
    (h : (s.absentCore (BitVec.ofNat 32 (src32 s.w.r f f.d 0)) || (coX f && s.absentCore (BitVec.ofNat 32 (src32 s.w.r f f.c 0)))) = true) :
    copyChecks s f false true n = .inl 0x0110 := by
  unfold copyChecks
  exact if_pos (by simpa using h)

theorem State.OnlySys.copies_eq {s t : State} : s.OnlySys t → t.copies = s.copies := by
  rintro ⟨m, free, nextId, out, rfl⟩
  rfl

theorem State.patternPass_copies (s : State) (ctx n : Nat) : (s.patternPass ctx n).copies = s.copies := by
  unfold State.patternPass
  split
  · rfl
  · exact (State.sysPass_onlySys ..).copies_eq

/-- Nor does it change whether the wave's core has room for a copy. -/
theorem State.copyFull_pass (s : State) (ctx n : Nat) : (s.patternPass ctx n).copyFull = s.copyFull := by
  unfold State.copyFull
  rw [State.patternPass_w, State.patternPass_copies]

section

variable {s u v : State} {c : Copy}

/-- The answer of another package comes first (R134). -/
theorem copyStep_refused {code : BitVec 16} (h : c.peerFail = some code) :
    s.copyStep c = s.copyFail c code (match c.dst with | .mem va => c.memAt va | _ => 0) c.detail := by
  simp only [State.copyStep, h] <;> rfl

theorem copyStep_land (h : c.peerFail = none) (hmoving : c.moving ≠ 0) : s.copyStep c = s.copyLand c c.moving := by
  simp only [State.copyStep, h, if_pos hmoving]

theorem copyStep_next (h : c.peerFail = none) (hmoving : c.moving = 0) (hleft : c.off < c.total) :
    s.copyStep c = match c.pat with
      | some (p, esize, counts, strides) => s.copyElem c p esize counts strides
      | none => s.copyGroup c := by
  simp only [State.copyStep, h, hmoving, ne_eq, not_true_eq_false, if_false, if_neg (Nat.not_le.mpr hleft)] <;> rfl

/-- A unit read from a place an earlier one was written to takes that one's bytes (R133). -/
theorem ripple_cons (src dst : Nat × Nat) (rest bs done) :
    ripple ((src, dst) :: rest) bs done =
      (let unit := ((done.find? fun x => x.1 == src).map (·.2)).getD (bs.take 4)
       unit ++ ripple rest (bs.drop 4) ((dst, unit) :: done)) := by
  rw [ripple]
  cases done.find? fun x => x.1 == src <;> rfl

end

/-- Settles O22. -/
theorem copiesIssueAndMove : Obligations.CopiesIssueAndMove := by
  refine ⟨fun f => ⟨?cpy, ?cpyRefused, ?cpys, ?cpysRefused, ?cpym, ?cpymRefused⟩, fun s c => rfl, ?progress, ?step⟩
  case cpy =>
    refine completesFor_ok (fun _ => rfl) fun slot s x ⟨hchecks, hroom⟩ => ?_
    dsimp only at hchecks ⊢
    rw [State.srcB_word] at hchecks
    rw [hchecks]
    dsimp only
    rw [hroom]
    rfl
  case cpyRefused =>
    refine completesFor_trap (fun _ => rfl) fun slot s c hchecks => ?_
    dsimp only at hchecks ⊢
    rw [State.srcB_word] at hchecks
    rw [hchecks]
  case cpys =>
    refine completesFor_ok (fun _ => rfl) fun slot s x ⟨hchecks, hroom⟩ => ?_
    have hroom' : (s.patternPass s.w.ctx (f.x.extractLsb' 6 5).toNat).copyFull = false := hroom ▸ State.copyFull_pass s _ _
    dsimp only at hchecks ⊢
    simp only [State.srcB_word] at hchecks ⊢
    rw [State.patternPass_w]
    rcases hpat : (s.patternPass s.w.ctx (f.x.extractLsb' 6 5).toNat).pattern s.w.ctx (f.x.extractLsb' 6 5).toNat with - | pat
    all_goals
      rw [hpat] at hchecks
      dsimp only at hchecks ⊢
      rw [hchecks]
      dsimp only
      rw [hroom', if_neg Bool.false_ne_true]
      obtain hn | hn := Decidable.em (src32 s.w.r f f.b 0 = 0)
      · rw [if_pos hn]
        exact congrArg (Try.ok · none) (if_pos hn).symm
      rw [if_neg hn]
      refine Eq.trans ?_ (congrArg (Try.ok · none) (if_neg hn).symm)
      cases s.patternBad s.w.ctx (f.x.extractLsb' 6 5).toNat
    · rfl
    · rfl
    · dsimp only
      by_cases hfits : src32 s.w.r f f.b 0 ≤ pat.counts.foldl (· * ·) 1
      · rw [if_neg (Nat.not_lt.mpr hfits)]
        exact congrArg (Try.ok · none) (if_pos hfits).symm
      · rw [if_pos (Nat.not_le.mp hfits)]
        exact congrArg (Try.ok · none) (if_neg hfits).symm
    · rfl
  case cpysRefused =>
    refine completesFor_trap (fun _ => rfl) fun slot s c hchecks => ?_
    dsimp only at hchecks ⊢
    rw [State.srcB_word] at hchecks
    rw [State.patternPass_w]
    cases hpat : (s.patternPass s.w.ctx (f.x.extractLsb' 6 5).toNat).pattern s.w.ctx (f.x.extractLsb' 6 5).toNat
    all_goals
      rw [hpat] at hchecks
      dsimp only at hchecks ⊢
      rw [hchecks]
      dsimp only
      rw [State.pc, State.pc, State.patternPass_w]
  case cpym =>
    refine completesFor_ok (fun _ => rfl) fun slot s x ⟨hscope, hchecks, hroom⟩ => ?_
    dsimp only at hscope hchecks ⊢
    simp only [State.srcB_word] at hchecks ⊢
    rw [present_of_copyChecks hchecks, hscope, hchecks]
    dsimp only
    rw [hroom]
    simp only [Bool.not_true, Bool.false_eq_true, if_false]
    exact congrArg (Try.ok · none)
      (ite_congr (propext (Bool.and_eq_true_iff.trans (and_congr List.isEmpty_iff bne_iff_ne))) (fun _ => rfl) fun _ => rfl)
  case cpymRefused =>
    refine completesFor_trap (fun _ => rfl) fun slot s c ⟨hscope, hchecks⟩ => ?_
    dsimp only at hscope hchecks ⊢
    rw [State.srcB_word] at hchecks
    split
    next habsent =>
      rw [copyChecks_absent habsent] at hchecks
      cases hchecks
      rfl
    next => rw [hscope, hchecks]; rfl
  case progress =>
    intro id s c hfind hgoes
    have hexec : exec (.copyProgress id) s = execCopyProgress id s := rfl
    rw [hexec, execCopyProgress, hfind]
    dsimp only
    rw [hgoes, if_neg Bool.false_ne_true]
    cases (s.copyStep c).copies.find? fun x => x.id == id with
    | none => rfl
    | some d => exact (apply_ite Host.Outcome.next _ _ _).symm
  case step =>
    refine fun s c => ⟨fun code => copyStep_refused, copyStep_land, ?group, ripple_cons, ?memToSp, ?elem, ?sent, fun _ _ _ => rfl⟩
    case group =>
      intro hpeer hmoving hleft hpat
      rw [copyStep_next hpeer hmoving hleft, hpat]
      refine ⟨?_, ?_, ?_⟩
      · intro code addr u hsrc
        simp only [State.copyGroup, hsrc]
      · intro bs u code addr v hsrc hdst
        simp only [State.copyGroup, hsrc, hdst]
      · intro bs u v hsrc hdst
        simp only [State.copyGroup, hsrc, hdst]
    case memToSp =>
      intro va core off bs hsrc hdst
      simp only [State.groupBytes, hsrc, hdst]
    case elem =>
      intro p esize counts strides hpeer hmoving hleft hpat
      rw [copyStep_next hpeer hmoving hleft, hpat]
    case sent =>
      intro hanswered
      simp only [State.copySent, hanswered]
      rfl

/-! ### Queue instructions -/

/-- Settles O23. -/
theorem queueInstructionsIssue : Obligations.QueueInstructionsIssue := by
  refine fun f => ⟨?claim, ?post, ?count, ?align⟩
  case claim =>
    refine completesFor_ok (fun _ => rfl) fun slot s ls ⟨hlow, hhigh, hscope, hls⟩ => ?_
    rw [State.srcB_word] at hlow hhigh
    dsimp only [State.srcA] at hls
    dsimp only
    rw [if_neg (by omega), hscope, hls]
    rfl
  case post =>
    refine completesFor_ok (fun _ => rfl) fun slot s ls ⟨hscope, halign, hls⟩ => ?_
    dsimp only [State.srcA] at halign hls
    dsimp only
    rw [hscope, if_neg (by simp), if_neg (Classical.not_not.mpr halign), hls]
    rfl
  case count =>
    refine completesIf_trap (fun _ => rfl) fun slot s hcount => ?_
    rw [State.srcB_word] at hcount
    exact if_pos hcount
  case align =>
    refine completesIf_trap (fun _ => rfl) fun slot s ⟨hscope, halign⟩ => ?_
    dsimp only [State.srcA] at halign
    dsimp only
    rw [hscope, if_neg (by simp), if_pos halign]

/-! ### Completion objects and accumulator rows -/

/-- A scratchpad range that an address word names lies in no absent core. -/
theorem present_of_spRange {s : State} {w : Word} {n p : Nat} (h : s.spRange w n = .inr p) : s.absentCore w = false := by
  unfold State.spRange at h
  dsimp only at h
  unfold State.absentCore
  split at h
  · cases h
  split at h
  next hlocal => rw [Bool.not_eq_true'] at hlocal; rw [hlocal, Bool.and_false, Bool.false_and]
  next =>
    split at h
    · cases h
    next hpresent => simpa using fun _ _ => hpresent

theorem present_of_objRange {s : State} {w : Word} {p : Nat} (h : s.objRange w = .inr p) : s.absentCore w = false := by
  unfold State.objRange at h
  split at h
  · cases h
  next p' hrange => exact present_of_spRange hrange

section

variable {i : Instr} {f : Fields} {opn : Nat} {limit acq rel : Bool} {s : State} (slot : Nat)

theorem objEff_ok {p : Nat} (hcount : limit = true → 1 ≤ src32 s.w.r f f.b 0 ∧ src32 s.w.r f f.b 0 ≤ 65535)
    (hscope : opn = 0 → s.scopeValid s.w.ctx (f.x.toNat % 32) = true)
    (hobj : s.objRange (BitVec.ofNat 32 (src32 s.w.r f f.a 0)) = .inr p) :
    objEff i f opn limit acq rel slot s =
      let b := s.startOp f acq false
      .ok (b.2.pushAcc { b.2.newAcc b.1 true { lane := 0, va := (BitVec.ofNat 32 (src32 s.w.r f f.a 0)).setWidth 64, pa := p, peer := none, cls := 0 } 16
              (.obj opn (src32 s.w.r f f.b 0)) with
            parts := [{ lane := 0, data := 0, cmp := 0 }], dst := if opn = 1 ∨ opn = 3 then dstOf f.d else none, rel := rel,
            scope := f.x.toNat % 32 }) none := by
  have hcount' : ¬((limit = true) ∧ (src32 s.w.r f f.b 0 = 0 ∨ src32 s.w.r f f.b 0 > 65535)) := fun ⟨hl, hb⟩ => by
    have := hcount hl
    omega
  have hscope' : ¬(opn = 0 ∧ s.scopeValid s.w.ctx (f.x.toNat % 32) = false) := fun ⟨h0, hs⟩ => by simp [hscope h0] at hs
  unfold objEff
  dsimp only
  rw [present_of_objRange hobj, if_neg Bool.false_ne_true, if_neg hcount', if_neg hscope', hobj]

theorem objEff_absent (habsent : s.absentCore (BitVec.ofNat 32 (src32 s.w.r f f.a 0)) = true) :
    objEff i f opn limit acq rel slot s = .trap 0x0110 s.pc (instrLow i) := if_pos habsent

theorem objEff_count (hpresent : s.absentCore (BitVec.ofNat 32 (src32 s.w.r f f.a 0)) = false) (hlimit : limit = true)
    (hcount : ¬(1 ≤ src32 s.w.r f f.b 0 ∧ src32 s.w.r f f.b 0 ≤ 65535)) :
    objEff i f opn limit acq rel slot s = .trap 0x0103 s.pc (instrLow i) := by
  unfold objEff
  dsimp only
  rw [hpresent, if_neg Bool.false_ne_true, if_pos ⟨hlimit, by omega⟩]

end

section

variable {i : Instr} {f : Fields} {load : Bool} {s : State} (slot : Nat)

/-- The unit-absent check of `accld` and `accst`. -/
theorem accMoveEff_absent (habsent : (f.x.getLsbD 0 && s.absentCore (BitVec.ofNat 32 (src32 s.w.r f f.a 0))) = true) :
    accMoveEff i f load slot s = .trap 0x0110 s.pc (instrLow i) := if_pos habsent

theorem accMoveEff_count (hpresent : (f.x.getLsbD 0 && s.absentCore (BitVec.ofNat 32 (src32 s.w.r f f.a 0))) = false)
    (hcount : src32 s.w.r f f.c 0 = 0 ∨ 256 < src32 s.w.r f f.c 0) : accMoveEff i f load slot s = .trap 0x0103 s.pc (instrLow i) := by
  unfold accMoveEff
  dsimp only
  rw [hpresent, if_neg Bool.false_ne_true, if_pos hcount]

theorem accMoveEff_window (hpresent : (f.x.getLsbD 0 && s.absentCore (BitVec.ofNat 32 (src32 s.w.r f f.a 0))) = false)
    (hcount : 1 ≤ src32 s.w.r f f.c 0 ∧ src32 s.w.r f f.c 0 ≤ 256) (hrows : 256 < src32 s.w.r f f.b 0 + src32 s.w.r f f.c 0) :
    accMoveEff i f load slot s = .trap 0x0137 s.pc (instrLow i) := by
  unfold accMoveEff
  dsimp only
  rw [hpresent, if_neg Bool.false_ne_true, if_neg (by omega), if_pos hrows]

end

/-- The scratchpad or memory side of `accld` and `accst`. -/
def State.rowSide (s : State) (f : Fields) : CEnd :=
  let word : Word := BitVec.ofNat 32 (src32 s.w.r f f.a 0)
  if f.x.getLsbD 0 then .sp (s.spPlace word / 2 ^ 19) (s.spPlace word % 2 ^ 19) else .mem (BitVec.ofNat 64 (srcVal s.w.r f 19 f.a 0))

theorem accMoveEff_ok {i : Instr} {f : Fields} {load : Bool} {s : State} (slot : Nat)
    (hrows : 1 ≤ src32 s.w.r f f.c 0 ∧ src32 s.w.r f f.c 0 ≤ 256 ∧ src32 s.w.r f f.b 0 + src32 s.w.r f f.c 0 ≤ 256)
    (hroom : s.copyFull = false)
    (hgoes : if f.x.getLsbD 0 then
        ∀ r, r < src32 s.w.r f f.c 0 → s.spRowFault (BitVec.ofNat 32 (src32 s.w.r f f.a 0)) (r * f.imm.toNat) = none
      else (BitVec.ofNat 64 (srcVal s.w.r f 19 f.a 0) : DWord).toNat % 4 = 0) :
    accMoveEff i f load slot s =
      let b := s.startOp f false load
      let acc : CEnd := .acc b.2.w.core ((s.window s.w).getD 0 + src32 s.w.r f f.b 0)
      .ok (b.2.addCopy { b.2.newCopy b.1 (if load then s.rowSide f else acc) (if load then acc else s.rowSide f)
        (256 * src32 s.w.r f f.c 0) none (f.mod.toNat % 4) with pitch := f.imm.toNat }) none := by
  obtain ⟨hmin, hmax, hwindow⟩ := hrows
  have hpresent : (f.x.getLsbD 0 && s.absentCore (BitVec.ofNat 32 (src32 s.w.r f f.a 0))) = false := by
    cases hsp : f.x.getLsbD 0
    · rfl
    · rw [hsp, if_pos rfl] at hgoes
      have hfirst := hgoes 0 hmin
      unfold State.spRowFault at hfirst
      dsimp only at hfirst
      split at hfirst
      · cases hfirst
      next hpresent => simpa using hpresent
  unfold accMoveEff State.rowSide
  dsimp only
  rw [hpresent, if_neg Bool.false_ne_true, if_neg (by omega), if_neg (by omega), hroom]
  cases hsp : f.x.getLsbD 0
  · rw [hsp, if_neg Bool.false_ne_true] at hgoes
    rw [if_neg Bool.false_ne_true, if_neg (Classical.not_not.mpr hgoes)]
    rfl
  · rw [hsp, if_pos rfl] at hgoes
    have hnone : (List.range (src32 s.w.r f f.c 0)).filterMap
        (fun r => s.spRowFault (BitVec.ofNat 32 (src32 s.w.r f f.a 0)) (r * f.imm.toNat)) = [] :=
      List.filterMap_eq_nil_iff.mpr fun r hr => hgoes r (List.mem_range.mp hr)
    rw [if_pos rfl, hnone]
    rfl

theorem accMoveEff_align {i : Instr} {f : Fields} {load : Bool} {s : State} (slot : Nat)
    (hrows : 1 ≤ src32 s.w.r f f.c 0 ∧ src32 s.w.r f f.c 0 ≤ 256 ∧ src32 s.w.r f f.b 0 + src32 s.w.r f f.c 0 ≤ 256)
    (hsp : f.x.getLsbD 0 = false) (halign : (BitVec.ofNat 64 (srcVal s.w.r f 19 f.a 0) : DWord).toNat % 4 ≠ 0) :
    accMoveEff i f load slot s = .trap 0x0620 s.pc (instrLow i) := by
  unfold accMoveEff
  dsimp only
  rw [hsp, Bool.false_and, if_neg Bool.false_ne_true, if_neg (by omega), if_neg (by omega), if_neg Bool.false_ne_true, if_pos halign]

/-- Settles O24: the five completion-object instructions share `objEff`, the two row copies `accMoveEff`. -/
theorem objectsAndRowsIssue : Obligations.ObjectsAndRowsIssue := by
  intro f
  refine ⟨⟨?cinit, ?cinitCount, ?cinitAbsent⟩, ⟨?carr, ?carrCount, ?carrAbsent⟩, ⟨?cexp, ?cexpCount, ?cexpAbsent⟩,
    ⟨?cwait, ?cwaitCount, ?cwaitAbsent⟩, ⟨?ctest, ?ctestCount, ?ctestAbsent⟩,
    ⟨?accld, ?accldAbsent, ?accldCount, ?accldWindow, ?accldAlign⟩, ⟨?accst, ?accstAbsent, ?accstCount, ?accstWindow, ?accstAlign⟩⟩
  case cinit | carr | cexp | cwait | ctest =>
    exact completesFor_ok (fun _ => rfl) fun slot s p ⟨hcount, hscope, hobj⟩ => objEff_ok slot hcount hscope hobj
  case cinitCount | carrCount | cexpCount | cwaitCount | ctestCount =>
    exact completesIf_trap (fun _ => rfl) fun slot s ⟨hpresent, hlimit, hcount⟩ => objEff_count slot hpresent hlimit hcount
  case cinitAbsent | carrAbsent | cexpAbsent | cwaitAbsent | ctestAbsent =>
    exact completesIf_trap (fun _ => rfl) fun slot s habsent => objEff_absent slot habsent
  case accld | accst =>
    exact completesIf_ok (fun _ => rfl) fun slot s ⟨hrows, hroom, hgoes⟩ => accMoveEff_ok slot hrows hroom hgoes
  case accldAbsent | accstAbsent =>
    exact completesIf_trap (fun _ => rfl) fun slot s habsent => accMoveEff_absent slot habsent
  case accldCount | accstCount =>
    exact completesIf_trap (fun _ => rfl) fun slot s ⟨hpresent, hcount⟩ => accMoveEff_count slot hpresent hcount
  case accldWindow | accstWindow =>
    exact completesIf_trap (fun _ => rfl) fun slot s ⟨hpresent, hmin, hmax, hrows⟩ => accMoveEff_window slot hpresent ⟨hmin, hmax⟩ hrows
  case accldAlign | accstAlign =>
    exact completesIf_trap (fun _ => rfl) fun slot s ⟨hrows, hsp, halign⟩ => accMoveEff_align slot hrows hsp halign

end Sys2Proof.Machine

/-! Accesses at their points (R74 to R81, R101 to R103, R147, R336, R342) and accesses from outside (R74, R98, R102, R375, R376). -/

namespace Sys2Proof.Machine

/-! ### What holds an access back -/

theorem acc_id {s : State} {id : Nat} {a : Acc} (h : s.acc? id = some a) : a.id = id := by
  simpa using List.find?_some h

theorem State.promoHold_some {s : State} {a : Acc} {p : Promo} (hacq : a.acq = true) (hreads : a.kind.reads = true)
    (hrecord : s.promoFor a = some p) :
    s.promoHold a = some ((s.askPromo p (some a.id)).mapAcc a.id fun x => { x with stage := .promo }) := by
  simp only [State.promoHold, hacq, hreads, hrecord]
  rfl

theorem State.promoHold_none {s : State} {a : Acc} (h : a.acq = false ∨ a.kind.reads = false ∨ s.promoFor a = none) :
    s.promoHold a = none := by
  unfold State.promoHold
  rcases h with hacq | hreads | hrecord
  · rw [hacq]; rfl
  · rw [hreads, Bool.and_false]; rfl
  · rw [hrecord]; exact ite_self _

/-- A write to a line the host may hold asks for it first (R375). -/
theorem State.invalHold_some {s : State} {a : Acc} (hwrites : a.kind.writes = true) (hheld : s.pkg.hostHeld.contains (lineOf a.pa) = true) :
    s.invalHold a = some { (s.mapAcc a.id fun x => { x with stage := .inval }) with out := s.out ++ [.backInv (lineOf a.pa)] } := by
  rw [State.invalHold, hwrites, hheld]
  rfl

theorem State.invalHold_none {s : State} {a : Acc} (h : ¬(a.kind.writes = true ∧ s.pkg.hostHeld.contains (lineOf a.pa) = true)) :
    s.invalHold a = none := by
  rw [State.invalHold, if_neg (by simpa [Bool.and_eq_true] using h)]

/-! ### At the home slice -/

section

variable {s : State} {id : Nat} {a : Acc} (hacc : s.acc? id = some a) (hmem : a.sp = false) (hport : a.stage = .port)
  (hleave : s.mayLeave a = true)
include hacc hmem hport hleave

/-- An access that may leave its port is decided by its package, then by the host's hold on its line, then by its kind and class (R74, R81, R375). -/
theorem execHomeSliceAccess_leaves :
    execHomeSliceAccess id s = match a.peer with
      | some chip => .next (s.toPeer a chip)
      | none => match s.invalHold a with
        | some t => .next t
        | none =>
          if let .clean mode := a.kind then .next ((s.l2Clean mode a.pa a.slot).accDone a [] none)
          else if a.pa ≥ 2 ^ 51 ∧ (a.cls = 1 ∨ s.pkg.hostOwned.contains (lineOf a.pa) = false) then
            .next ((if a.cls = 1 then s.l2Leave a.pa else s).mapAcc id fun x => { x with stage := .host })
          else if a.cls = 1 ∨ a.cls = 3 then
            .next ((s.l2Leave a.pa).mapAcc id fun x => { x with stage := .fwd })
          else match s.promoHold a with
          | some t => .next t
          | none =>
            let u := s.l2Rekey a.slot a.pa
            if u.m.l2Has a.pa a.slot then .next ((u.withM fun m => m.l2Hit a.pa a.hint a.kind.writes).perform a)
            else if u.tenMask (homeSlice a.pa) a.tenant = 0 then .next (u.perform a)
            else .next (u.mapAcc id fun x => { x with stage := .fill }) := by
  unfold execHomeSliceAccess
  rw [hacc]
  dsimp only
  rw [hmem, hport, hleave]
  rfl

/-- What is no write-back, of this package and not held by the host, goes by its class, then by the slice's copy of its sector (R81, R101, R102). -/
theorem execHomeSliceAccess_here (hpeer : a.peer = none)
    (hheld : ¬(a.kind.writes = true ∧ s.pkg.hostHeld.contains (lineOf a.pa) = true)) (hkind : ∀ mode, a.kind ≠ .clean mode) :
    execHomeSliceAccess id s =
      if a.pa ≥ 2 ^ 51 ∧ (a.cls = 1 ∨ s.pkg.hostOwned.contains (lineOf a.pa) = false) then
        .next ((if a.cls = 1 then s.l2Leave a.pa else s).mapAcc id fun x => { x with stage := .host })
      else if a.cls = 1 ∨ a.cls = 3 then
        .next ((s.l2Leave a.pa).mapAcc id fun x => { x with stage := .fwd })
      else match s.promoHold a with
      | some t => .next t
      | none =>
        let u := s.l2Rekey a.slot a.pa
        if u.m.l2Has a.pa a.slot then .next ((u.withM fun m => m.l2Hit a.pa a.hint a.kind.writes).perform a)
        else if u.tenMask (homeSlice a.pa) a.tenant = 0 then .next (u.perform a)
        else .next (u.mapAcc id fun x => { x with stage := .fill }) := by
  rw [execHomeSliceAccess_leaves hacc hmem hport hleave, hpeer, State.invalHold_none hheld]
  dsimp only
  split
  next mode hclean => exact absurd hclean (hkind mode)
  next => rfl

end

/-- Settles O25. -/
theorem accessesAtTheirPoints : Obligations.AccessesAtTheirPoints := by
  refine ⟨fun id s a hacc => ⟨?slice, ?fill, ?kettle, ?array, fun p => State.promoHold_some, State.promoHold_none⟩,
    fun id s q hreq => ⟨?request, ?reply, fun _ => rfl⟩⟩
  case slice =>
    intro hmem hport hleave
    have hexec : exec (.homeSliceAccess id) s = execHomeSliceAccess id s := rfl
    dsimp only
    rw [hexec]
    refine ⟨?peer, ?held, ?clean, ?here⟩
    case peer =>
      intro chip hpeer
      rw [execHomeSliceAccess_leaves hacc hmem hport hleave, hpeer]
    case held =>
      intro hpeer hheld
      rw [execHomeSliceAccess_leaves hacc hmem hport hleave, hpeer, State.invalHold_some hheld.1 hheld.2, acc_id hacc]
    case clean =>
      intro mode hpeer hheld hkind
      rw [execHomeSliceAccess_leaves hacc hmem hport hleave, hpeer, State.invalHold_none hheld]
      dsimp only
      rw [hkind]
    case here =>
      intro hpeer hheld hkind
      rw [execHomeSliceAccess_here hacc hmem hport hleave hpeer hheld hkind]
      refine ⟨fun hhost => if_pos hhost, fun hhost hcls => (if_neg hhost).trans (if_pos hcls), fun hhost h1 h3 => ?_⟩
      rw [if_neg hhost, if_neg (not_or.mpr ⟨h1, h3⟩)]
      refine ⟨?_, ?_, ?_, ?_⟩
      · intro t hrecord
        rw [hrecord]
      · intro hrecord hhas
        rw [hrecord]
        exact if_pos hhas
      · intro hrecord hhas hmask
        rw [hrecord]
        exact (if_neg (by simpa using hhas)).trans (if_pos hmask)
      · intro hrecord hhas hmask
        rw [hrecord]
        exact (if_neg (by simpa using hhas)).trans (if_neg hmask)
  case fill =>
    intro hstage
    have hexec : exec (.l2SectorFill id) s = execL2SectorFill id s := rfl
    rw [hexec, execL2SectorFill, hacc]
    dsimp only
    rw [hstage, if_neg (by decide)]
    rw [apply_ite Host.Outcome.next, apply_ite Host.Outcome.next]
  case kettle =>
    intro bad hmem hpeer
    have hexec : exec (.kettleAccess id bad) s = execKettleAccess id bad s := rfl
    rw [hexec, execKettleAccess, hacc]
    dsimp only
    rw [hmem, hpeer, if_neg (by decide)]
    obtain ⟨t, ht, hpkg⟩ : ∃ t, t = (if bad && (a.stage == .fill || a.stage == .fwd) then s.withM fun m => m.poisonSector a.pa else s) ∧
        t.pkg = s.pkg := ⟨_, rfl, by split <;> rfl⟩
    rw [← ht]
    by_cases hfwd : a.stage = .fwd
    · by_cases hheld : a.kind.writes = true ∧ s.pkg.hostHeld.contains (lineOf a.pa) = true
      · rw [State.invalHold_some hheld.1 (hpkg ▸ hheld.2), hheld.1, hheld.2, acc_id hacc, hfwd]
        rfl
      · rw [State.invalHold_none (hpkg ▸ hheld), if_neg (by simp [hfwd]), if_neg (Classical.not_not.mpr hfwd),
          if_neg (by simpa [Bool.and_eq_true] using hheld)]
        cases t.promoHold a <;> rfl
    · rw [if_pos (by simpa using hfwd), if_pos hfwd]
  case array =>
    intro hsp hport hleave
    have hexec : exec (.scratchpadArrayAccess id) s = execScratchpadArrayAccess id s := rfl
    rw [hexec, execScratchpadArrayAccess, hacc]
    dsimp only
    rw [hsp, hport, hleave]
    cases s.promoHold a <;> rfl
  case request =>
    intro hnew
    have hexec : exec (.promotionRequest id) s = execPromotionRequest id s := rfl
    rw [hexec, execPromotionRequest, hreq]
    dsimp only
    rw [hnew]
    rfl
  case reply =>
    intro hready
    have hexec : exec (.promotionReply id) s = execPromotionReply id s := rfl
    rw [hexec, execPromotionReply, hreq]
    dsimp only
    rw [hready]
    refine ⟨?_, ?_⟩
    · intro hlocal
      rw [hlocal]
      rfl
    · intro src rid hremote
      rw [hremote]
      rfl

/-! ### From the host -/

/-- With nothing that waits to be written, a line the host gives back lets go on the accesses that wait for it. -/
theorem State.hostFreed_of_none {s : State} (line : Nat) (hnone : s.m.hostWrites = []) :
    s.hostFreed line = { s with
      pkg := { s.pkg with hostHeld := s.pkg.hostHeld.filter fun l => l != line }
      m := { s.m with port := s.m.port.map fun a => if a.stage = .inval ∧ lineOf a.pa = line then { a with stage := .port } else a } } := by
  have hlen : s.m.hostWrites.length = 0 := by rw [hnone]; rfl
  unfold State.hostFreed
  dsimp only [State.withM]
  rw [hlen]
  rfl

/-- The accesses of the host through a decoder that is bound, to a sector that returns its data (R375). -/
theorem execCxlMemAccess_bound {s : State} {d addr size slot x : Nat} {tenant : Bool} (write : Option DWord) (hup : s.cxlUp = true)
    (hdec : s.pkg.hdm.find? (fun x => x.1 == d && s.keyLoaded x.2.1 && decide (addr + size ≤ s.hbmBytes)) = some (x, slot, tenant)) :
    execCxlMemAccess d addr size write s =
      if s.m.poisoned addr size then
        let code : BitVec 16 := if write.isSome then 0x0502 else s.m.badCode addr size
        let u := s.failNoWave (s.bareRecord 5 code (s.recAddr code (BitVec.ofNat 64 (s.m.badSector addr size))) s.openDetail) none
        .next { u.withM fun m => m.badRead addr size with out := u.out ++ [.bus [] false] }
      else
        let cls := if s.queues.any fun q => decide (addr < q.widxPa + 8 ∧ q.widxPa < addr + size) then 1 else 0
        let hold (s : State) : State :=
          { s with pkg := { s.pkg with hostHeld := lineOf addr :: s.pkg.hostHeld.filter fun l => l != lineOf addr } }
        match write with
        | none =>
          let u := hold (s.passSlices cls slot tenant 0 false addr size)
          .next { u with out := u.out ++ [.bus (busWords size (u.readPa slot addr size)) true], free := u.free + 1 }
        | some v =>
          let u := hold { s with pkg := { s.pkg with hostHeld := s.pkg.hostHeld.filter fun l => l != lineOf addr } }
          let u := u.passSlices cls slot tenant 0 true addr size
          let u := { u with m := (u.m.dropPromos none false addr size).write u.free slot addr (natBytes size v.toNat), free := u.free + 1 }
          let u := if cls = 1 then u.watch addr size else u
          .next { u with out := u.out ++ [.bus [] true] } := by
  unfold execCxlMemAccess
  cases write <;> rw [hup, if_neg (by decide), hdec]

/-! ### From another package -/

theorem and_false_of_imp {a b : Bool} (h : a = true → b = false) : (a && b) = false := by
  cases a
  · rfl
  · exact h rfl

section

variable {r : PeerReq} {s : State}

/-- What a request in the memory that is there, under a key and with no poisoned sector, is answered (R74, R98). -/
theorem peerServe_here (hin : r.addr + r.size ≤ s.hbmBytes) (hkey : s.keyLoaded (s.slotFor r.ctx r.cls) = true)
    (hclean : s.m.poisoned r.addr r.size = false) :
    s.peerServe r =
      let slot := s.slotFor r.ctx r.cls
      let tenant := s.tenantOf r.ctx
      let old := s.readPa slot r.addr r.size
      let get : State := { s.passSlices r.cls slot tenant r.hint false r.addr r.size with free := s.free + 1 }
      let put (v : Nat) (atomic : Bool) : State := s.engPut slot r.cls r.addr (natBytes r.size v) tenant r.hint atomic
      match r.write, r.atomic with
      | some d, _ => ([], 0, put d.toNat false)
      | none, some (opx, ty, lanes) =>
        if opx = 16 then
          let n := match lanes with | x :: _ => x.1.toNat | [] => 0
          if n = 0 then ([old], 0, get)
          else match barArrive n false old with
          | none => ([old], 0, get)
          | some (new, _, _) => ([old], 0, put new true)
        else
          let x := atomicLanes opx ty old (lanes.map fun x => ({ lane := 0, data := x.1, cmp := x.2 } : Part))
          (x.2.map fun y => y.2.1, 0, put x.1 true)
      | none, none => ((List.range ((r.size + 15) / 16)).map fun i => field old (128 * i) 128, 0, get) := by
  unfold State.peerServe
  dsimp only
  rw [if_neg (Nat.not_lt.mpr hin), hkey, if_neg (by decide), hclean, if_neg (by decide)] <;> rfl

/-- A request that is no fence's waits for the host where it would change a line the host may hold (R375), waits for the promotion of the
record its acquire meets (R336), or is performed (R342). -/
theorem execPeerRequestArrival_access (hfence : ¬∃ ty lanes, r.atomic = some (17, ty, lanes)) :
    execPeerRequestArrival r s = if (r.write.isSome || r.atomic.isSome) && s.hostKeeps r.addr r.size then .next (s.peerHold r)
      else match (if r.acq then s.m.promos.find? fun p => p.meets false r.addr r.size else none) with
      | some p => .next ((s.askPromo p none).withM fun m => { m with peerHeld := m.peerHeld ++ [r] })
      | none =>
        let met := if r.acq || r.write.isSome then [] else (s.releasesMet none false r.addr r.size).map fun x => (r.src, x.1, x.2)
        let noted := s.withM fun m => { m with shown := (met ++ m.shown).eraseDups }
        .next ((noted.peerServe r).2.2.send r.src
          (.peerResp r.id ((noted.peerServe r).1.map fun v => BitVec.ofNat 128 v) (noted.peerServe r).2.1)) := by
  unfold execPeerRequestArrival
  refine (if_neg ?_).trans ?_
  · split
    next ty lanes hatomic => exact absurd ⟨ty, lanes, hatomic⟩ hfence
    next => exact Bool.false_ne_true
  · obtain ⟨serve, hserve⟩ : ∃ serve, serve = State.peerServe := ⟨_, rfl⟩
    rw [← hserve] <;> rfl

end

/-- Settles O26. -/
theorem accessesFromOutside : Obligations.AccessesFromOutside := by
  refine ⟨fun s hup => ⟨?back, ?backWrite, fun line => State.hostFreed_of_none line, ?granted, ?grantedOne, ?snoop, ?unbound, ?bound⟩,
    fun r s => ⟨?fence, ?hold, ?acquire, ?serve⟩, fun r s => ⟨?outside, ?noKey, ?poisoned, ?answers⟩⟩
  case back =>
    intro id a hacc hinval
    have hexec : exec (.backInvalidateResponse id) s = execBackInvalidateResponse id s := rfl
    rw [hexec, execBackInvalidateResponse, hacc, Option.bind_some, if_pos hinval, hup]
    rfl
  case backWrite =>
    intro id h hacc hwrite
    have hexec : exec (.backInvalidateResponse id) s = execBackInvalidateResponse id s := rfl
    rw [hexec, execBackInvalidateResponse, hacc, hwrite, hup]
    rfl
  case granted =>
    intro id a hacc hhost hcls
    have hexec : exec (.hostOwnershipGranted id) s = execHostOwnershipGranted id s := rfl
    rw [hexec, execHostOwnershipGranted, hacc]
    dsimp only
    rw [hhost, hup, if_neg (by decide), if_neg hcls]
  case grantedOne =>
    intro id a hacc hhost hcls
    have hexec : exec (.hostOwnershipGranted id) s = execHostOwnershipGranted id s := rfl
    rw [hexec, execHostOwnershipGranted, hacc]
    dsimp only
    rw [hhost, hup, if_neg (by decide), if_pos hcls]
    cases s.promoHold a <;> rfl
  case snoop =>
    intro addr write
    have hexec : exec (.hostSnoop addr write) s = execHostSnoop addr write s := rfl
    dsimp only
    rw [hexec, execHostSnoop, hup, if_neg (by decide)]
    generalize 2 ^ 51 + addr = pa
    dsimp only
    cases s.m.l2Find pa <;> rfl
  case unbound =>
    intro d addr size write hdec
    have hexec : exec (.cxlMemAccess d addr size write) s = execCxlMemAccess d addr size write s := rfl
    rw [hexec, execCxlMemAccess, hup, if_neg (by decide), hdec]
  case bound =>
    intro d addr size write ⟨x, slot, tenant⟩ hdec
    have hexec : exec (.cxlMemAccess d addr size write) s = execCxlMemAccess d addr size write s := rfl
    dsimp only
    rw [hexec, execCxlMemAccess_bound write hup hdec]
    refine ⟨?_, ?_, ?_⟩
    · intro hbad
      rw [hbad]
      rfl
    · intro hgood hread
      rw [hgood, hread]
      rfl
    · intro v hgood hwrite
      rw [hgood, hwrite]
      rfl
  case fence =>
    rintro ⟨ty, lanes, hatomic⟩
    have hexec : exec (.peerRequestArrival r) s = execPeerRequestArrival r s := rfl
    rw [hexec, execPeerRequestArrival, hatomic]
    rfl
  case hold =>
    intro hfence hchanges hkeeps
    have hexec : exec (.peerRequestArrival r) s = execPeerRequestArrival r s := rfl
    rw [hexec, execPeerRequestArrival_access hfence, hchanges, hkeeps]
    rfl
  case acquire =>
    intro p ⟨hfence, hkeeps⟩ hacq hmeets
    have hexec : exec (.peerRequestArrival r) s = execPeerRequestArrival r s := rfl
    rw [hexec, execPeerRequestArrival_access hfence, and_false_of_imp hkeeps, hacq, if_pos rfl, hmeets]
    rfl
  case serve =>
    intro ⟨hfence, hkeeps⟩ hgoes
    have hexec : exec (.peerRequestArrival r) s = execPeerRequestArrival r s := rfl
    have hnone : (if r.acq then s.m.promos.find? fun p => p.meets false r.addr r.size else none) = none := by
      rcases hgoes with hacq | hmeets
      · rw [hacq]
        rfl
      · rw [hmeets]
        exact ite_self _
    rw [hexec, execPeerRequestArrival_access hfence, and_false_of_imp hkeeps, hnone]
    rfl
  case outside =>
    intro hout
    exact if_pos hout
  case noKey =>
    intro hin hkey
    unfold State.peerServe
    dsimp only
    rw [if_neg (Nat.not_lt.mpr hin), hkey]
    rfl
  case poisoned =>
    intro ⟨hin, hkey⟩ hbad
    unfold State.peerServe
    dsimp only
    rw [if_neg (Nat.not_lt.mpr hin), hkey, hbad]
    rfl
  case answers =>
    intro ⟨hin, hkey⟩ hclean
    dsimp only at hkey ⊢
    rw [peerServe_here hin hkey hclean]
    refine ⟨?_, ?_, ?_⟩
    · intro hwrite hatomic
      rw [hwrite, hatomic]
    · intro d hwrite
      rw [hwrite]
    · intro opx ty lanes hwrite hatomic hop
      rw [hwrite, hatomic]
      exact if_neg hop

end Sys2Proof.Machine

/-! The matrix engine (R202 to R222): what queues an instruction for it and what its own events do. -/

namespace Sys2Proof.Machine

/-! ### Queueing (R205, R208) -/

theorem lookup_assign {α : Type} (a : Nat) (v : α) (l : List (Nat × α)) : lookup (assign a v l) a = some v := by
  induction l with
  | nil => simp [assign, lookup]
  | cons x l ih =>
    obtain ⟨k, y⟩ := x
    by_cases hk : k = a
    · simp [assign, lookup, hk]
    · simp [assign, lookup, hk, ih]

theorem State.engine_putEngine (s : State) (core : Nat) (e : Engine) : (s.putEngine core e).engine core = e := by
  simp [State.engine, State.engine?, lookup_assign]

/-- Where there is room an engine instruction is queued. -/
theorem queueEngine_ok {s : State} {f : Fields} {all : Bool} {cmd : MCmd} {upd : List (Nat × Nat) → QuadSt → QuadSt} {upd' : QuadSt → QuadSt}
    {plan plan' : List (Nat × Nat) → List HeldBlock} (hroom : s.queueRoom f all) (hupd : ∀ ops, upd ops = upd') (hplan : plan = plan') :
    s.queueEngine f all cmd upd plan = .ok (s.queued f all cmd upd' plan') none := by
  obtain ⟨⟨q, hq⟩, hdepth, hmates⟩ := hroom
  have hfits : ¬(s.queueDepth s.w ≥ 8 ∨ (all = true ∧ s.matesFull f = true)) := by
    rintro (hfull | ⟨hall, hfull⟩)
    · omega
    · simp [hmates hall] at hfull
  unfold State.queueEngine State.queued
  rw [hq]
  dsimp only
  rw [if_neg hfits, hplan]
  simp only [hupd]

/-- An entry with nothing queued adds nothing to a quad's depth. -/
theorem State.queueDepth_append (s : State) (w : Wave) (q : QuadSt) (hempty : q.queue = []) :
    (s.putEngine w.core { s.engine w.core with pending := (s.engine w.core).pending ++ [q] }).queueDepth w = s.queueDepth w := by
  unfold State.queueDepth
  rw [State.engine_putEngine]
  dsimp only
  rw [← List.append_assoc, List.filter_append, List.map_append, List.sum_append]
  by_cases hmine : q.ofWave w = true
  · simp [hmine, hempty]
  · simp [hmine]

/-- The state in which an `mzero` is queued: a quad with no entry gets one (R210). -/
def State.opened (s : State) : State :=
  if (s.quadCur s.w).isSome then s
  else s.putEngine s.w.core { s.engine s.w.core with pending := (s.engine s.w.core).pending ++ [s.newQuad s.w] }

theorem State.queueDepth_opened (s : State) : s.opened.queueDepth s.opened.w = s.queueDepth s.w := by
  unfold State.opened
  split
  · rfl
  · exact s.queueDepth_append s.w _ rfl

/-- An `mdrn`'s output type goes with the kind of the accumulation (R215). -/
def drnFits (f : Fields) (q : QuadSt) : Prop := if q.ikind then f.ty.toNat = 0 ∧ f.mod = 0 else f.ty.toNat ∈ [8, 10, 11, 14]

theorem drnFits_iff {f : Fields} {q : QuadSt} :
    drnFits f q ↔
      ¬(if q.ikind then f.ty.toNat ≠ 0 ∨ f.mod ≠ 0 else f.ty.toNat ≠ 8 ∧ f.ty.toNat ≠ 10 ∧ f.ty.toNat ≠ 11 ∧ f.ty.toNat ≠ 14) := by
  unfold drnFits
  cases q.ikind
  · simp only [Bool.false_eq_true, if_false, List.mem_cons, List.not_mem_nil, or_false]
    omega
  · simp only [if_true, ne_eq, not_or, Classical.not_not]

/-- Settles O27. -/
theorem engineInstructionsQueue : Obligations.EngineInstructionsQueue := by
  refine fun f => ⟨?zero, ?fmt, ?bank, ?drn, ?drnn, ?zeroTurn, ?fmtTurn, ?bankTurn, ?drnTurn, ?drnnTurn, ?zeroOutside, ?bankBlock, ?bankGone,
    ?drnKind, ?drnMode, ?drnRows, ?drnnObj⟩
  case zero =>
    refine completesIf_ok (fun _ => rfl) fun slot s ⟨hturn, hinside, hroom⟩ => ?_
    dsimp only at hinside hroom ⊢
    rw [State.srcB_word, State.srcA_word] at hinside
    have hdepth : s.queueDepth s.w < 8 := s.queueDepth_opened ▸ hroom.2.1
    rw [hturn]
    dsimp only
    rw [if_neg (by omega), if_neg (by omega)]
    exact queueEngine_ok hroom (fun _ => rfl) rfl
  case fmt =>
    refine completesIf_ok (fun _ => rfl) fun slot s ⟨hturn, hroom⟩ => ?_
    dsimp only at hturn ⊢
    rw [hturn]
    exact queueEngine_ok hroom (fun _ => rfl) rfl
  case bank =>
    refine completesFor_ok (fun _ => rfl) fun slot s q ⟨hturn, hq, hblock, hthere, hroom⟩ => ?_
    dsimp only at hturn ⊢
    rw [hturn, hq]
    dsimp only
    rw [hblock, hthere, if_neg Bool.false_ne_true, if_neg Bool.false_ne_true]
    exact queueEngine_ok hroom (fun _ => rfl) rfl
  case drn =>
    refine completesFor_ok (fun _ => rfl) fun slot s q ⟨hturn, hq, hroom, hfits, hrows⟩ => ?_
    dsimp only at hturn hfits hrows ⊢
    rw [hturn, hq]
    dsimp only
    rw [if_neg (drnFits_iff.mp hfits), if_neg (by omega)]
    exact queueEngine_ok hroom (fun _ => rfl) rfl
  case drnn =>
    refine completesFor_ok (fun _ => rfl) fun slot s q ⟨hturn, hq, hroom, hkind, o, hopen, hopr, hfmt, hftz, hsat⟩ => ?_
    dsimp only at hturn ⊢
    rw [hturn, hq, hopen]
    dsimp only
    rw [if_neg (by simp [hkind, hopr, hfmt, hftz, hsat])]
    exact queueEngine_ok hroom (fun _ => rfl) rfl
  case zeroTurn | fmtTurn | bankTurn | drnTurn | drnnTurn =>
    refine completesFor_trap (fun _ => rfl) fun slot s c hturn => ?_
    rw [hturn]
  case zeroOutside =>
    refine completesIf_trap (fun _ => rfl) fun slot s ⟨hturn, houtside⟩ => ?_
    dsimp only at houtside ⊢
    rw [State.srcB_word, State.srcA_word] at houtside
    rw [hturn]
    exact if_pos (by omega)
  case bankBlock =>
    refine completesFor_trap (fun _ => rfl) fun slot s q ⟨hturn, hq, hblock⟩ => ?_
    dsimp only at hturn ⊢
    rw [hturn, hq]
    exact if_pos hblock
  case bankGone =>
    refine completesFor_trap (fun _ => rfl) fun slot s q ⟨hturn, hq, hblock, hgone⟩ => ?_
    dsimp only at hturn ⊢
    rw [hturn, hq]
    dsimp only
    rw [hblock, hgone]
    rfl
  case drnKind =>
    refine completesFor_trap (fun _ => rfl) fun slot s q ⟨hturn, hq, hfits⟩ => ?_
    dsimp only at hturn hfits ⊢
    rw [hturn, hq]
    exact if_pos (Classical.not_not.mp ((not_congr drnFits_iff).mp hfits))
  case drnMode =>
    intro hty hmode
    refine if_neg fun ⟨_, _, hvals⟩ => ?_
    rcases hvals with hvals | hvals
    · exact hvals (BitVec.eq_of_toNat_eq hty)
    · exact hmode hvals
  case drnRows =>
    refine completesFor_trap (fun _ => rfl) fun slot s q ⟨hturn, hq, hfits, hrows⟩ => ?_
    dsimp only at hturn hfits hrows ⊢
    rw [hturn, hq]
    dsimp only
    rw [if_neg (drnFits_iff.mp hfits)]
    exact if_pos (by omega)
  case drnnObj =>
    refine completesFor_trap (fun _ => rfl) fun slot s q ⟨hturn, hq, hbad⟩ => ?_
    dsimp only at hturn ⊢
    rw [hturn, hq]
    refine if_pos ?_
    rcases hbad with hkind | hnodes
    · rw [hkind]
      rfl
    · cases hopen : s.openObj (robjX f) with
      | none => exact Bool.or_true _
      | some o =>
        have hnode : ¬(o.desc.opr = 0 ∧ o.desc.fmt = 0 ∧ o.desc.ftz = false ∧ o.desc.sat = false) := fun h => hnodes ⟨o, hopen, h⟩
        dsimp only
        rw [Bool.or_eq_true, Bool.not_eq_true', ← Bool.not_eq_true]
        exact .inr fun h => hnode (by simpa [and_assoc] using h)

/-! ### mloop (R214) -/

/-- The formats of an `mloop` of n steps, and of the banks it will use, are of the accumulation's kind. -/
def loopFits (f : Fields) (n : Nat) (q : QuadSt) : Prop :=
  matInt f.ty.toNat = q.ikind ∧ (∀ t, n ≠ 0 → q.ibpre = some t → matInt t = q.ikind) ∧
    (n = 0 ∨ (if q.ibpre.isSome then 1 else 0) < n → matInt q.ibfmt = q.ikind)

theorem loopFits_iff {f : Fields} {n bty : Nat} {q : QuadSt} (hbty : ∀ t, q.ibpre = some t → bty = t) :
    loopFits f n q ↔ ¬(matInt f.ty.toNat != q.ikind ||
      ((if q.ibpre.isSome = true ∧ n ≠ 0 then 1 else 0 : Nat) == 1 && matInt bty != q.ikind) ||
      ((n == 0 || decide (n > if q.ibpre.isSome = true ∧ n ≠ 0 then 1 else 0)) && matInt q.ibfmt != q.ikind)) = true := by
  unfold loopFits
  by_cases hn : n = 0
  · subst hn
    simp
  · cases hpre : q.ibpre with
    | none => simp [hn, Nat.pos_of_ne_zero hn]
    | some t => simp [hn, hbty t hpre, and_assoc]

/-- A stack no step is added to does not overflow. -/
theorem stackOverflows_zero (start next : Nat) : stackOverflows start next 0 = false := by
  simp [stackOverflows]

/-- An A stream within the team's allocation names no core, so none that is absent. -/
theorem present_of_stream {s : State} {w : Word} {ainc : Int} {size steps : Nat} (h : badStream s w ainc size steps = false) :
    s.absentCore w = false := by
  have hlow : w.toNat < 2 ^ 19 := by
    unfold badStream at h
    simp only [Bool.or_eq_false_iff, decide_eq_false_iff_not, ge_iff_le, Nat.not_le] at h
    exact h.1.1.1
  have hbit : w.getLsbD 31 = false := Nat.testBit_lt_two_pow (by omega)
  rw [State.absentCore, hbit, Bool.and_false, Bool.false_and]

/-- Settles O28. -/
theorem matrixLoopQueues : Obligations.MatrixLoopQueues := by
  refine fun f => ⟨?steps, ?none, ?absent, ?turn, ?order, ?kind, ?deep, ?stream⟩
  case steps =>
    refine completesFor_ok (fun _ => rfl) fun slot s q ⟨hturn, hq, hn, ⟨hnext, hk, hmax⟩, hkind, hdeep, hstream, hblocks, hthere, hroom⟩ => ?_
    dsimp only at hn hnext hk hmax hkind hdeep hstream hblocks hthere ⊢
    simp only [State.srcA_word, State.srcB_word, State.srcC_word] at *
    rw [Bool.not_eq_true] at hdeep hstream
    have hpre : (if q.ibpre.isSome = true ∧ src32 s.w.r f f.b 0 ≠ 0 then 1 else 0) = (if q.ibpre.isSome then 1 else 0) :=
      ite_congr (propext (and_iff_left hn)) (fun _ => rfl) fun _ => rfl
    have hgood : ((List.range (src32 s.w.r f f.b 0)).drop (if q.ibpre.isSome then 1 else 0)).any
        (fun i => badBlock s q.ibfmt ((vecNum f.d : Int) + (i : Int) * sext 8 f.x.toNat)) = false := by
      refine List.any_eq_false.mpr fun i hi => ?_
      obtain ⟨j, hj, rfl⟩ := List.mem_drop_iff_getElem.mp hi
      rw [List.length_range] at hj
      rw [List.getElem_range]
      exact Bool.not_eq_true _ ▸ hblocks _ (Nat.le_add_right ..) (Nat.add_comm .. ▸ hj)
    rw [present_of_stream hstream, hturn, hq, if_neg Bool.false_ne_true]
    dsimp only
    rw [if_neg (by omega), if_neg ((loopFits_iff fun t ht => by rw [ht]).mp hkind), hdeep, hstream, hpre, hgood, hthere,
      if_neg Bool.false_ne_true, if_neg Bool.false_ne_true, if_neg Bool.false_ne_true, if_neg Bool.false_ne_true, if_neg hn]
    rw [hnext]
    exact queueEngine_ok hroom (fun _ => rfl) rfl
  case none =>
    refine completesFor_ok (fun _ => rfl) fun slot s q ⟨hturn, hq, hn, ⟨hnext, hk, hmax⟩, hkind, hstream, hroom⟩ => ?_
    dsimp only at hn hnext hk hmax hkind hstream ⊢
    simp only [State.srcA_word, State.srcB_word, State.srcC_word] at *
    rw [Bool.not_eq_true] at hstream
    rw [present_of_stream hstream, hturn, hq, if_neg Bool.false_ne_true]
    dsimp only
    rw [if_neg (by omega), if_neg ((loopFits_iff fun t ht => by rw [ht]).mp hkind), hstream, hn, stackOverflows_zero,
      if_neg Bool.false_ne_true, if_neg Bool.false_ne_true, if_neg (by simp), if_neg (by simp [State.blocksGone]), if_pos rfl, hroom]
    rfl
  case absent =>
    refine completesIf_trap (fun _ => rfl) fun slot s habsent => ?_
    exact if_pos habsent
  case turn =>
    refine completesFor_trap (fun _ => rfl) fun slot s c ⟨habsent, hturn⟩ => ?_
    dsimp only at habsent ⊢
    rw [State.srcA_word] at habsent
    rw [habsent, hturn]
    rfl
  case order =>
    refine completesFor_trap (fun _ => rfl) fun slot s q ⟨habsent, hturn, hq, horder⟩ => ?_
    dsimp only at habsent horder ⊢
    rw [State.srcA_word] at habsent
    rw [State.srcB_word, State.srcC_word] at horder
    rw [habsent, hturn, hq, if_neg Bool.false_ne_true]
    exact if_pos (by omega)
  case kind =>
    refine completesFor_trap (fun _ => rfl) fun slot s q ⟨habsent, hturn, hq, ⟨hnext, hk, hmax⟩, hkind⟩ => ?_
    dsimp only at habsent hnext hk hmax hkind ⊢
    rw [State.srcA_word] at habsent
    rw [State.srcC_word] at hnext
    rw [State.srcB_word] at hk hmax
    rw [habsent, hturn, hq, if_neg Bool.false_ne_true]
    dsimp only
    rw [if_neg (by omega)]
    exact if_pos (Classical.not_not.mp ((not_congr (loopFits_iff fun t ht => by rw [ht])).mp hkind))
  case deep =>
    refine completesFor_trap (fun _ => rfl) fun slot s q ⟨habsent, hturn, hq, ⟨hnext, hk, hmax⟩, hkind, hdeep⟩ => ?_
    dsimp only at habsent hnext hk hmax hkind hdeep ⊢
    simp only [State.srcA_word, State.srcB_word, State.srcC_word] at *
    rw [habsent, hturn, hq, if_neg Bool.false_ne_true]
    dsimp only
    rw [if_neg (by omega), if_neg ((loopFits_iff fun t ht => by rw [ht]).mp hkind)]
    exact if_pos hdeep
  case stream =>
    refine completesFor_trap (fun _ => rfl) fun slot s q ⟨habsent, hturn, hq, ⟨hnext, hk, hmax⟩, hkind, hdeep, hstream⟩ => ?_
    dsimp only at habsent hnext hk hmax hkind hdeep hstream ⊢
    simp only [State.srcA_word, State.srcB_word, State.srcC_word] at *
    rw [habsent, hturn, hq, if_neg Bool.false_ne_true]
    dsimp only
    rw [if_neg (by omega), if_neg ((loopFits_iff fun t ht => by rw [ht]).mp hkind), if_neg hdeep]
    exact if_pos hstream

/-! ### The engine's words, the accumulator registers and the claim (R205, R212, R217, R218) -/

section

variable {s : State} {f : Fields} {spec : BitVec 10}

theorem accRegCheck_count (h : s.srcC f 18 0 = 0 ∨ 8 < s.srcC f 18 0) : accRegCheck s f spec = some 0x0103 := by
  rw [State.srcC_word] at h
  exact if_pos h

theorem accRegCheck_regs (hmin : 1 ≤ s.srcC f 18 0) (hmax : s.srcC f 18 0 ≤ 8) (hregs : s.w.k.vregs < vecNum spec + s.srcC f 18 0) :
    accRegCheck s f spec = some 0x0107 := by
  rw [State.srcC_word] at *
  exact (if_neg (by omega)).trans (if_pos hregs)

theorem accRegCheck_rows (hmin : 1 ≤ s.srcC f 18 0) (hmax : s.srcC f 18 0 ≤ 8) (hregs : vecNum spec + s.srcC f 18 0 ≤ s.w.k.vregs)
    (hrows : 256 < s.srcA f 18 0 + s.srcC f 18 0) : accRegCheck s f spec = some 0x0137 := by
  rw [State.srcC_word] at *
  rw [State.srcA_word] at hrows
  exact (if_neg (by omega)).trans ((if_neg (by omega)).trans (if_pos hrows))

end

/-- Settles O29. -/
theorem engineStateInstructions : Obligations.EngineStateInstructions := by
  refine fun f => ⟨?handed, ?noEntry, completes_ok (fun _ => rfl) fun _ _ => rfl, ?aread, ?awrite, ⟨?readCount, ?readRegs, ?readRows⟩,
    ⟨?writeCount, ?writeRegs, ?writeRows⟩, ?idle, ?grant⟩
  case handed =>
    refine completesIf_ok (fun _ => rfl) fun slot s ⟨hwritten, q, hq, hmine⟩ => ?_
    dsimp only at hq ⊢
    rw [hwritten, if_neg Bool.false_ne_true, if_pos (List.any_eq_true.mpr ⟨q, hq, hmine⟩)]
  case noEntry =>
    refine completesIf_ok (fun _ => rfl) fun slot s ⟨hwritten, hnone⟩ => ?_
    dsimp only at hnone ⊢
    rw [hwritten, if_neg Bool.false_ne_true, if_neg]
    rw [Bool.not_eq_true, List.any_eq_false]
    exact fun q hq => by rw [hnone q hq]; exact Bool.false_ne_true
  case aread | awrite =>
    refine completesIf_ok (fun _ => rfl) fun slot s hcheck => ?_
    dsimp only
    rw [hcheck]
    rfl
  case readCount | writeCount =>
    refine completesIf_trap (fun _ => rfl) fun slot s hcount => ?_
    dsimp only
    rw [accRegCheck_count hcount]
  case readRegs | writeRegs =>
    refine completesIf_trap (fun _ => rfl) fun slot s ⟨hmin, hmax, hregs⟩ => ?_
    dsimp only
    rw [accRegCheck_regs hmin hmax hregs]
  case readRows | writeRows =>
    refine completesIf_trap (fun _ => rfl) fun slot s ⟨hmin, hmax, hregs, hrows⟩ => ?_
    dsimp only
    rw [accRegCheck_rows hmin hmax hregs hrows]
  case idle =>
    intro core s hidle
    have hexec : exec (.claimGrant core) s = execClaimGrant core s := rfl
    rw [hexec, execClaimGrant]
    dsimp only
    split
    next q rest hclaim hpending =>
      rcases hidle with hheld | hempty
      · exact absurd hclaim hheld
      · rw [hempty] at hpending
        cases hpending
    next => rfl
  case grant =>
    intro core s q rest
    dsimp only
    intro hclaim hpending
    have hexec : exec (.claimGrant core) s = execClaimGrant core s := rfl
    rw [hexec, execClaimGrant, hclaim, hpending]
    refine ⟨?_, ?_⟩
    · intro saved hsaved
      dsimp only
      rw [hsaved]
    · intro int k f0 ops tl hsaved hqueue
      dsimp only
      rw [hsaved, hqueue]

/-! ### The engine at work (R207, R209 to R216) -/

theorem execMloopStep_waits {core : Nat} {s : State} (hwait : (s.engine core).ready = false) : execMloopStep core s = .next s := by
  unfold execMloopStep
  dsimp only
  rw [hwait]
  rfl

section

variable {core : Nat} {s : State} {q : QuadSt} {x : MEntry} {rest : List MEntry}

/-- Every member has handed over the block of the engine's next load (R207). -/
def QuadSt.handed (q : QuadSt) : Prop := ∀ j, j < 4 → q.loads < nth 0 q.rdy j

theorem QuadSt.handed_iff (q : QuadSt) : q.handed ↔ ((List.range 4).all fun j => decide (nth 0 q.rdy j > q.loads)) = true := by
  simp [QuadSt.handed]

variable (hclaim : (s.engine core).claim = some q) (hqueue : q.queue = x :: rest)
include hclaim hqueue

/-- The head of the claim's queue waits only where it loads a bank that has not been handed over. -/
theorem ready_iff : (s.engine core).ready = true ↔ match x.cmd with
    | .bank _ => q.handed
    | .loop _ _ _ _ _ _ _ done => (done = 0 ∧ (s.engine core).bpre = true) ∨ q.handed
    | _ => True := by
  unfold Engine.ready
  rw [hclaim]
  dsimp only
  rw [hqueue]
  dsimp only
  cases x.cmd <;> simp [QuadSt.handed]

theorem execMloopStep_head (hready : (s.engine core).ready = true) :
    execMloopStep core s = match x.cmd with
      | .zero int k f => .next (s.runZero core int k f)
      | .fmt ty => .next ((s.putEngine core { s.engine core with bfmt := ty }).engineDone core)
      | .bank base =>
        let u := s.bankLoad core q base x.ops
        .next ((u.putEngine core { u.engine core with bpre := true }).engineDone core)
      | .loop base addr steps l0 ainc binc aty done =>
        let u := if done = 0 ∧ (s.engine core).bpre = true then s.putEngine core { s.engine core with bpre := false }
          else s.bankLoad core q ((base : Int) + (done : Int) * binc).toNat x.ops
        let t := u.loopStep core q.team ((addr : Int) + (done : Int) * ainc).toNat (l0 + done) aty x.ops
        if done + 1 ≥ steps then .next (t.engineDone core)
        else .next (t.putEngine core { t.engine core with claim := (t.engine core).claim.map fun q =>
          { q with queue := { x with cmd := .loop base addr steps l0 ainc binc aty (done + 1) } :: rest } })
      | .drn ty mode ftz addc rel drow crow => .next (s.drain core q x.ops ty mode ftz addc rel drow crow)
      | .drnn ebase stride robj rel => .next (s.drainNodes core q x.ops ebase stride robj rel) := by
  obtain ⟨cmd, ops⟩ := x
  unfold execMloopStep
  dsimp only
  rw [hready, hclaim]
  dsimp only
  rw [hqueue] <;> cases cmd <;> rfl

end

/-- Settles O30. -/
theorem engineSteps : Obligations.EngineSteps := by
  intro core s q ops rest
  have hexec : exec (.mloopStep core) s = execMloopStep core s := rfl
  dsimp only
  rw [hexec]
  refine ⟨?zero, ?fmt, ?bankWaits, ?bank, ?loop, ?drn, ?drnn⟩
  case zero | fmt | drn | drnn =>
    intros
    next hhead =>
      obtain ⟨hclaim, hqueue⟩ := hhead
      exact execMloopStep_head hclaim hqueue ((ready_iff hclaim hqueue).mpr trivial)
  case bankWaits =>
    intro base ⟨hclaim, hqueue⟩ hwait
    exact execMloopStep_waits (by rwa [← Bool.not_eq_true, ready_iff hclaim hqueue])
  case bank =>
    intro base ⟨hclaim, hqueue⟩ hhanded
    exact execMloopStep_head hclaim hqueue ((ready_iff hclaim hqueue).mpr hhanded)
  case loop =>
    intro base addr steps l0 ainc binc aty done ⟨hclaim, hqueue⟩
    refine ⟨?_, ?_, ?_⟩
    · intro hkept hwait
      exact execMloopStep_waits (by rw [← Bool.not_eq_true, ready_iff hclaim hqueue]; exact not_or.mpr ⟨hkept, hwait⟩)
    · intro hgoes hlast
      rw [execMloopStep_head hclaim hqueue ((ready_iff hclaim hqueue).mpr hgoes)]
      exact if_pos hlast
    · intro hgoes hmore
      rw [execMloopStep_head hclaim hqueue ((ready_iff hclaim hqueue).mpr hgoes)]
      exact if_neg (Nat.not_le.mpr hmore)

end Sys2Proof.Machine

/-! Grid regions: what the grid instructions hand to the lattice unit, and the unit at work (R152, R226 to R237). -/

namespace Sys2Proof.Machine

/-! ### Issue (R226, R231) -/

section

variable {i : Instr} {f : Fields} {out : Option (BitVec 10)} {eff : Grid → State → Try} {s : State} {g : Grid}

/-- A handle that is not bound. -/
theorem gridTake_unbound (hfree : s.binding (gridX f) = false) (hnone : s.grid? s.w.team (gridX f) = none) :
    gridTake i f out eff s = .trap 0x0241 s.pc (instrLow i) := by
  unfold gridTake
  rw [hfree, hnone]
  rfl

variable (hfree : s.binding (gridX f) = false) (hgrid : s.grid? s.w.team (gridX f) = some g)
include hfree hgrid

/-- What a grid instruction does with a handle that is bound. -/
theorem gridTake_bound :
    gridTake i f out eff s =
      if vecNum f.a + g.dims ≤ s.w.k.vregs ∧ (∀ o, out = some o → vecNum o + g.levels * g.feats ≤ s.w.k.vregs) then
        if groupBad s.w.r (vecNum f.a) g.dims (activeMask s.w.r f) then .trap 0x0513 s.pc 0 else eff g s
      else .trap 0x0107 s.pc (instrLow i) := by
  unfold gridTake
  rw [hfree, hgrid, if_neg Bool.false_ne_true]
  dsimp only
  by_cases ha : vecNum f.a + g.dims ≤ s.w.k.vregs
  · cases out with
    | none => simp [ha, Nat.not_lt.mpr ha]
    | some o =>
      by_cases ho : vecNum o + g.levels * g.feats ≤ s.w.k.vregs
      · simp [ha, ho, Nat.not_lt.mpr ha, Nat.not_lt.mpr ho]
      · simp [ha, ho, Nat.not_le.mp ho]
  · simp [ha, Nat.not_le.mp ha]

theorem gridTake_ok (ha : vecNum f.a + g.dims ≤ s.w.k.vregs) (hout : ∀ o, out = some o → vecNum o + g.levels * g.feats ≤ s.w.k.vregs)
    (hclean : groupBad s.w.r (vecNum f.a) g.dims (activeMask s.w.r f) = false) : gridTake i f out eff s = eff g s := by
  rw [gridTake_bound hfree hgrid, if_pos ⟨ha, hout⟩, hclean, if_neg Bool.false_ne_true]

theorem gridTake_outside (h : ¬(vecNum f.a + g.dims ≤ s.w.k.vregs ∧ ∀ o, out = some o → vecNum o + g.levels * g.feats ≤ s.w.k.vregs)) :
    gridTake i f out eff s = .trap 0x0107 s.pc (instrLow i) := by
  rw [gridTake_bound hfree hgrid, if_neg h]

theorem gridTake_bad (ha : vecNum f.a + g.dims ≤ s.w.k.vregs) (hout : ∀ o, out = some o → vecNum o + g.levels * g.feats ≤ s.w.k.vregs)
    (hbad : groupBad s.w.r (vecNum f.a) g.dims (activeMask s.w.r f) = true) : gridTake i f out eff s = .trap 0x0513 s.pc 0 := by
  rw [gridTake_bound hfree hgrid, if_pos ⟨ha, hout⟩, if_pos hbad]

end

theorem forall_eq_some {α : Type} {P : α → Prop} {x : α} (h : P x) : ∀ y, some x = some y → P y := fun _ hy => Option.some.inj hy ▸ h

theorem forall_eq_none {α : Type} {P : α → Prop} : ∀ y, (none : Option α) = some y → P y := fun _ hy => nomatch hy

/-- Settles O31. -/
theorem gridInstructionsIssue : Obligations.GridInstructionsIssue := by
  refine fun f => ⟨?bind, ?bindVa, ?bindAlign, ?unbind, ?gld, ?gsc, ?ghash, ?gldUnbound, ?gscUnbound, ?ghashUnbound, ?gldOutside, ?gscOutside,
    ?ghashOutside, ?gldBad, ?gscBad, ?ghashBad, ?gscObj⟩
  case bind =>
    refine completesIf_ok (fun _ => rfl) fun slot s ⟨hva, halign, hfree⟩ => ?_
    dsimp only [State.srcA] at hva halign hfree ⊢
    rw [hva, if_neg (by decide), if_neg (Classical.not_not.mpr halign), hfree]
    rfl
  case bindVa =>
    refine completesIf_trap (fun _ => rfl) fun slot s hva => ?_
    dsimp only [State.srcA] at hva ⊢
    rw [hva]
    rfl
  case bindAlign =>
    refine completesIf_trap (fun _ => rfl) fun slot s ⟨hva, halign⟩ => ?_
    dsimp only [State.srcA] at hva halign ⊢
    rw [hva, if_neg (by decide), if_pos halign]
  case unbind =>
    refine completesIf_ok (fun _ => rfl) fun slot s hfree => ?_
    exact if_neg (by rw [show s.binding (gridX f) = false from hfree]; exact Bool.false_ne_true)
  case gld =>
    refine completesFor_ok (fun _ => rfl) fun slot s g ⟨⟨hfree, hgrid⟩, ha, hd, hclean⟩ => ?_
    rw [gridTake_ok hfree hgrid ha (forall_eq_some hd) hclean]
    dsimp only
    rw [State.startOp_r]
  case gsc =>
    refine completesFor_ok (fun _ => rfl) fun slot s g ⟨⟨hfree, hgrid⟩, ha, hb, hclean, hgrads, o, hopen, hsparse, hopr⟩ => ?_
    dsimp only at hgrads ⊢
    rw [gridTake_ok hfree hgrid ha (forall_eq_some hb) hclean, hgrads, hopen]
    dsimp only
    rw [State.startOp_r, if_neg Bool.false_ne_true, if_pos (by rw [hsparse, hopr]; rfl)]
  case ghash =>
    refine completesFor_ok (fun _ => rfl) fun slot s g ⟨⟨hfree, hgrid⟩, ha, hclean⟩ => ?_
    rw [gridTake_ok hfree hgrid ha forall_eq_none hclean]
    dsimp only [State.lanes]
    simp only [State.srcB_word, State.srcC_word, List.flatMap_map, List.any_map]
    refine congrArg (Try.ok · none) (congr (congrArg (s.longDone f) ?_) (congrArg (fun b => ({ inv := b } : FFlags).bits) ?_))
    · refine congrArg (fun h => (lanesOf (activeMask s.w.r f)).flatMap h) (funext fun l => ?_)
      by_cases hout : g.levels ≤ src32 s.w.r f f.b l ∨ 2 ^ g.dims ≤ src32 s.w.r f f.c l
      · simp only [ge_iff_le, if_pos hout]
        exact (if_pos (decide_eq_true hout)).symm
      · simp only [ge_iff_le, if_neg hout]
        exact (if_neg fun h => hout (of_decide_eq_true h)).symm
    · refine congrArg (fun h => (lanesOf (activeMask s.w.r f)).any h) (funext fun l => ?_)
      by_cases hout : g.levels ≤ src32 s.w.r f f.b l ∨ 2 ^ g.dims ≤ src32 s.w.r f f.c l
      · simp only [Function.comp_apply, ge_iff_le, if_pos hout]
        exact (congrArg (fun b => !b && _) (decide_eq_true hout)).symm
      · simp only [Function.comp_apply, ge_iff_le, if_neg hout]
        exact (congrArg (fun b => !b && _) (decide_eq_false hout)).symm
  case gldUnbound | gscUnbound | ghashUnbound =>
    exact completesIf_trap (fun _ => rfl) fun slot s ⟨hfree, hnone⟩ => gridTake_unbound hfree hnone
  case gldOutside | gscOutside =>
    refine completesFor_trap (fun _ => rfl) fun slot s g ⟨⟨hfree, hgrid⟩, hout⟩ => gridTake_outside hfree hgrid fun ⟨ha, ho⟩ => ?_
    exact hout.elim (fun h => h ha) fun h => h (ho _ rfl)
  case ghashOutside =>
    exact completesFor_trap (fun _ => rfl) fun slot s g ⟨⟨hfree, hgrid⟩, hout⟩ => gridTake_outside hfree hgrid fun ⟨ha, _⟩ => hout ha
  case gldBad =>
    exact completesFor_trap (fun _ => rfl) fun slot s g ⟨⟨hfree, hgrid⟩, ha, hd, hbad⟩ =>
      gridTake_bad hfree hgrid ha (forall_eq_some hd) (Bool.not_eq_false _ ▸ hbad)
  case gscBad =>
    refine completesFor_trap (fun _ => rfl) fun slot s g ⟨⟨hfree, hgrid⟩, ha, hb, hbad⟩ => ?_
    dsimp only at hbad ⊢
    by_cases hclean : groupBad s.w.r (vecNum f.a) g.dims (activeMask s.w.r f) = false
    · rw [gridTake_ok hfree hgrid ha (forall_eq_some hb) hclean]
      exact if_pos (Bool.not_eq_false _ ▸ fun hgrads => hbad ⟨hclean, hgrads⟩)
    · exact gridTake_bad hfree hgrid ha (forall_eq_some hb) (Bool.not_eq_false _ ▸ hclean)
  case ghashBad =>
    exact completesFor_trap (fun _ => rfl) fun slot s g ⟨⟨hfree, hgrid⟩, ha, hbad⟩ =>
      gridTake_bad hfree hgrid ha forall_eq_none (Bool.not_eq_false _ ▸ hbad)
  case gscObj =>
    refine completesFor_trap (fun _ => rfl) fun slot s g ⟨⟨hfree, hgrid⟩, ha, hb, hclean, hgrads, hsums⟩ => ?_
    dsimp only at hgrads ⊢
    rw [gridTake_ok hfree hgrid ha (forall_eq_some hb) hclean, hgrads, if_neg Bool.false_ne_true]
    refine if_neg ?_
    split
    next o hopen =>
      rw [Bool.and_eq_true, beq_iff_eq]
      exact fun ⟨hsparse, hopr⟩ => hsums ⟨o, hopen, hsparse, hopr⟩
    next => exact Bool.false_ne_true

/-! ### The unit at work (R226, R230 to R237) -/

/-- Settles O32: `latStep` in each of its cases. -/
theorem latticeUnitWorks : Obligations.LatticeUnitWorks := by
  intro id s x hfind
  have hexec : exec (.latticeGroupLevel id) s = .next (if s.latWaits x then s else s.latStep x) := by
    have hrun : exec (.latticeGroupLevel id) s = execLatticeGroupLevel id s := rfl
    rw [hrun, execLatticeGroupLevel, hfind]
  rw [hexec]
  refine ⟨fun hwaits => by rw [hwaits]; rfl, fun hgoes => ?_⟩
  rw [hgoes, if_neg Bool.false_ne_true]
  refine ⟨?bound, ?badField, ?unread, ?entry, ?groupDone, ?sends⟩
  case bound =>
    intro h va bs u hbind hread hgood
    simp only [State.latStep, hbind, State.doBind, hread, hgood]
  case badField =>
    intro h va bs u n hbind hread hbad
    simp only [State.latStep, hbind, State.doBind, hread, hbad]
  case unread =>
    intro h va c a eng u hbind hread
    simp only [State.latStep, hbind, State.doBind, hread]
  case entry =>
    intro g lane hbind hgrid hgrads hlane
    dsimp only
    simp only [State.latStep, hbind, hgrid, hgrads, State.gldRead, hlane, List.length_append, List.length_cons, List.length_nil, Nat.zero_add]
    cases hcorner : (g.corners x.level (coordsOf x.coords g.dims lane)).1[x.got.length]?
    all_goals
      refine ⟨?_, ?_, ?_⟩
      · intro bs u hread
        dsimp only at hread ⊢
        rw [hread]
      · intro c a eng u hread hcode
        dsimp only at hread ⊢
        rw [hread]
        dsimp only
        rw [if_pos hcode]
      · intro c a eng u hread h1 h2
        dsimp only at hread ⊢
        rw [hread]
        dsimp only
        rw [if_neg (not_or.mpr ⟨h1, h2⟩)]
  case groupDone =>
    intro g hbind hgrid hgrads hnone
    simp only [State.latStep, hbind, hgrid, hgrads, State.gldRead, hnone]
  case sends =>
    intro g o grads hbind hgrid hgrads hobj
    simp only [State.latStep, hbind, hgrid, hgrads, hobj]

end Sys2Proof.Machine

/-! Reduction objects: contributions, closes and openings at issue, and partials and closes where they arrive (R109 to R113, R239 to R256). -/

namespace Sys2Proof.Machine

/-! ### Contributions (R253) -/

/-- What `ctb` and `ctbn` read in a lane: the element, the node's level and index, and the value. -/
def ctbPart (f : Fields) (tagged : Bool) (s : State) (l : Nat) : Nat × Nat × Nat × Nat :=
  let b := s.srcB f 3 l
  (s.srcA f 3 l, if tagged then b / 2 ^ 58 else 0, if tagged then b % 2 ^ 58 else b, s.srcC f f.ty.toNat l)

/-- A lane's element and node are in range. -/
def ctbFits (f : Fields) (tagged : Bool) (s : State) (o : RObj) (l : Nat) : Bool :=
  let x := ctbPart f tagged s l
  decide (x.1 < o.desc.m) && namesNode o.desc.n x.2.1 x.2.2.1

section

variable {i : Instr} {f : Fields} {tagged : Bool} {s : State} (slot : Nat)

theorem ctbEff_shut (hshut : s.openObj (robjX f) = none) : ctbEff i f tagged slot s = .trap 0x030A s.pc (instrLow i) := by
  unfold ctbEff
  rw [hshut]

variable {o : RObj} (hopen : s.openObj (robjX f) = some o)
include hopen

/-- On an open object the first lane out of range stops the instruction, and without one every lane sends. -/
theorem ctbEff_open :
    ctbEff i f tagged slot s = match (memLanes s f).find? fun l => !ctbFits f tagged s o l with
      | some l => .trap 0x0306 (if s.srcA f 3 l < o.desc.m then o.addr (s.srcA f 3 l) else s.openAddr) (BitVec.ofNat 64 (s.srcA f 3 l))
      | none =>
        let b := s.startOp f false false
        let vals := (memLanes s f).map fun l =>
          let x := ctbPart f tagged s l
          (x.1, x.2.1, x.2.2.1, contribVal o f.ty.toNat x.2.2.2)
        let flags := vals.foldl (fun acc x => acc.or x.2.2.2.2) ({} : FFlags)
        .ok ((vals.foldl (fun s x => s.contribute b.2.w.uid b.1 s.w.core s.w.ctx o x.1 x.2.1 x.2.2.1 x.2.2.2.1) b.2).finishOp b.2.w.uid b.1 []
          flags.bits none) none := by
  have hbad : (fun l => !ctbFits f tagged s o l) = fun l =>
      decide ((ctbPart f tagged s l).1 ≥ o.desc.m) || !namesNode o.desc.n (ctbPart f tagged s l).2.1 (ctbPart f tagged s l).2.2.1 := by
    funext l
    rw [ctbFits, Bool.not_and, ← decide_not]
    simp only [Nat.not_lt, ge_iff_le]
  rw [hbad]
  unfold ctbEff
  rw [hopen] <;> rfl

theorem ctbEff_ok (hfits : ∀ l ∈ memLanes s f, ctbFits f tagged s o l = true) :
    ctbEff i f tagged slot s =
      let b := s.startOp f false false
      let vals := (memLanes s f).map fun l =>
        let x := ctbPart f tagged s l
        (x.1, x.2.1, x.2.2.1, contribVal o f.ty.toNat x.2.2.2)
      let flags := vals.foldl (fun acc x => acc.or x.2.2.2.2) ({} : FFlags)
      .ok ((vals.foldl (fun s x => s.contribute b.2.w.uid b.1 s.w.core s.w.ctx o x.1 x.2.1 x.2.2.1 x.2.2.2.1) b.2).finishOp b.2.w.uid b.1 []
        flags.bits none) none := by
  have hnone : (memLanes s f).find? (fun l => !ctbFits f tagged s o l) = none :=
    List.find?_eq_none.mpr fun l hl => by rw [hfits l hl]; decide
  rw [ctbEff_open slot hopen, hnone]

theorem ctbEff_range {l : Nat} (hfirst : (memLanes s f).find? (fun l => !ctbFits f tagged s o l) = some l) :
    ctbEff i f tagged slot s =
      .trap 0x0306 (if s.srcA f 3 l < o.desc.m then o.addr (s.srcA f 3 l) else s.openAddr) (BitVec.ofNat 64 (s.srcA f 3 l)) := by
  rw [ctbEff_open slot hopen, hfirst]

end

/-! ### Opening an entry (R240, R255) -/

/-- Settles O33. -/
theorem contributionsIssue : Obligations.ContributionsIssue := by
  refine fun f => ⟨⟨?ctb, ?ctbRange, ?ctbShut⟩, ⟨?ctbn, ?ctbnRange, ?ctbnShut⟩, ?close, ?closeDense, ?closeShut,
    produces_of_effect (fun _ => rfl) rfl fun _ _ => rfl, ?openHere, ?opens⟩
  case ctb => exact completesFor_ok (fun _ => rfl) fun slot s o ⟨hopen, hfits⟩ => ctbEff_ok (tagged := false) slot hopen hfits
  case ctbn => exact completesFor_ok (fun _ => rfl) fun slot s o ⟨hopen, hfits⟩ => ctbEff_ok (tagged := true) slot hopen hfits
  case ctbRange =>
    exact completesFor_trap (fun _ => rfl) fun slot s x ⟨hopen, hfirst⟩ => ctbEff_range (tagged := false) slot hopen hfirst
  case ctbnRange =>
    exact completesFor_trap (fun _ => rfl) fun slot s x ⟨hopen, hfirst⟩ => ctbEff_range (tagged := true) slot hopen hfirst
  case ctbShut | ctbnShut => exact completesIf_trap (fun _ => rfl) fun slot s hshut => ctbEff_shut slot hshut
  case close =>
    refine completesFor_ok (fun _ => rfl) fun slot s o ⟨hopen, hsparse, hsent⟩ => ?_
    rw [hopen]
    dsimp only
    rw [hsparse, hsent]
    rfl
  case closeDense =>
    refine completesFor_trap (fun _ => rfl) fun slot s o ⟨hopen, hdense⟩ => ?_
    rw [hopen]
    dsimp only
    rw [hdense]
    rfl
  case closeShut =>
    refine completesIf_trap (fun _ => rfl) fun slot s hshut => ?_
    dsimp only at hshut ⊢
    rw [hshut]
  case openHere =>
    refine completesFor_trap (fun _ => rfl) fun slot s o ⟨hobj, hstate, hhome⟩ => ?_
    exact if_pos (by rw [hobj]; simp [hstate, hhome])
  case opens =>
    intro s ls u v bs
    dsimp only [State.srcA]
    -- The stages of the effect stay names, so that the kernel compares them as such.
    obtain ⟨range, hrange⟩ : ∃ range, range = State.rangeHome := ⟨_, rfl⟩
    obtain ⟨resolve, hresolveDef⟩ : ∃ resolve, resolve = State.engResolve := ⟨_, rfl⟩
    obtain ⟨badField, hbadDef⟩ : ∃ badField, badField = RDesc.bad := ⟨_, rfl⟩
    rw [← hrange, ← hresolveDef, ← hbadDef]
    intro h hnew hva halign hstores hresolve hbytes
    have hnot : (match (s.atIssue f).robj? (s.atIssue f).w.ctx (robjX f) with | some o => o.state == 1 && o.home | none => false) = false := by
      split
      next o hobj =>
        rcases hnew o hobj with hstate | hhome
        · rw [beq_false_of_ne hstate, Bool.false_and]
        · rw [hhome, Bool.and_false]
      next => rfl
    refine ⟨fun home z hgood hhome hclear => ?opened, fun c n hbad => ?bad, fun hgood hnone => ?noHome,
      fun home hgood hhome hclears hclear => ?noClear⟩
    all_goals
      refine congrArg Host.Outcome.next (issue_ok h ?_)
      generalize s.atIssue f = e at *
      refine (if_neg (ne_true_of_eq_false hnot)).trans ?_
      rw [hva, if_neg (by decide), if_neg (Classical.not_not.mpr halign), hstores, if_neg Bool.false_ne_true]
      rw [← hrange, ← hresolveDef, ← hbadDef]
      dsimp only
      rw [hresolve]
      dsimp only
      rw [hbytes]
      dsimp only
    case opened =>
      rw [hgood]
      dsimp only
      rw [show _ = (some home, _) from Prod.ext hhome rfl]
      dsimp only
      cases hzero : f.x.getLsbD 6
      · rw [hzero, if_neg Bool.false_ne_true] at hclear
        rw [if_neg Bool.false_ne_true, ← Option.some.inj hclear]
      · rw [hzero, if_pos rfl] at hclear
        rw [if_pos rfl, hclear]
    case bad => rw [hbad]
    case noHome =>
      rw [hgood]
      dsimp only
      rw [show _ = (none, _) from Prod.ext hnone rfl]
    case noClear =>
      rw [hgood]
      dsimp only
      rw [show _ = (some home, _) from Prod.ext hhome rfl]
      dsimp only
      rw [hclears, if_pos rfl, hclear]

/-! ### Arrivals (R109 to R113, R242 to R250) -/

/-- A partial that may arrive does so in the state without it. -/
theorem partArrives_eq {s u : State} {f : Mesh → Bool} (arrive : State → State)
    (h : s.mesh.any f = false ∧ u = s ∨ s.mesh.any f = true ∧ ∃ x, s.fromMesh f = some (x, u)) : s.partArrives f arrive = arrive u := by
  rcases h with ⟨houtside, rfl⟩ | ⟨hmesh, x, hfrom⟩
  · rw [State.partArrives, houtside, if_neg Bool.false_ne_true]
  · rw [State.partArrives, hmesh, if_pos rfl, hfrom]

/-- One that may not leave the mesh yet waits (R112). -/
theorem partArrives_waits {s : State} {f : Mesh → Bool} (arrive : State → State) (hmesh : s.mesh.any f = true) (hfrom : s.fromMesh f = none) :
    s.partArrives f arrive = s := by
  rw [State.partArrives, hmesh, if_pos rfl, hfrom]

/-- What is taken from the mesh is an entry the test picks. -/
theorem takeMesh_picks {home : Mesh → Nat} {f : Mesh → Bool} {l rest : List Mesh} {seen : List Nat} {x : Mesh}
    (h : takeMesh home f seen l = some (x, rest)) : f x = true := by
  induction l generalizing seen rest with
  | nil => cases h
  | cons y l ih =>
    rw [takeMesh] at h
    split at h
    next hpick =>
      cases h
      exact (Bool.and_eq_true _ _ ▸ hpick).1
    next =>
      obtain ⟨⟨z, l'⟩, hlater, hz⟩ := Option.map_eq_some_iff.mp h
      cases hz
      exact ih hlater

theorem fromMesh_some {s u : State} {f : Mesh → Bool} {x : Mesh} (h : s.fromMesh f = some (x, u)) :
    f x = true ∧ s.meshHeld x = false ∧ u = { s with mesh := u.mesh } := by
  obtain ⟨⟨y, l⟩, htake, hy⟩ := Option.map_eq_some_iff.mp h
  cases hy
  have hpick := takeMesh_picks htake
  rw [Bool.and_eq_true, Bool.not_eq_true'] at hpick
  exact ⟨hpick.1, hpick.2, rfl⟩

/-- The first entry of the mesh is taken where the test picks it and nothing holds it. -/
theorem fromMesh_head {s : State} {f : Mesh → Bool} {x : Mesh} {rest : List Mesh} (hmesh : s.mesh = x :: rest) (hpick : f x = true)
    (hfree : s.meshHeld x = false) : s.fromMesh f = some (x, { s with mesh := rest }) := by
  rw [State.fromMesh, hmesh, takeMesh, hpick, hfree]
  rfl

/-- A partial for an object that was never opened at this home (R242). -/
theorem homeArrive_unopened {u : State} {slice : Nat} {p : Partial} (h : ∀ o, u.robj? p.ctx p.idx = some o → o.state = 0 ∨ o.home = false) :
    u.homeArrive slice p = u.objRecord p.ctx p.launch 0x0305 u.openAddr (BitVec.ofNat 64 p.elem) := by
  unfold State.homeArrive
  cases hobj : u.robj? p.ctx p.idx with
  | none => rfl
  | some o => exact if_pos (h o hobj)

theorem homeArrive_opened {u : State} {slice : Nat} {p : Partial} {o : RObj} (hobj : u.robj? p.ctx p.idx = some o) (hstate : o.state ≠ 0)
    (hhome : o.home = true) :
    u.homeArrive slice p =
      if o.state ≠ 1 ∨ o.oseq ≠ p.oseq then u.objRecord p.ctx p.launch 0x0304 (o.addr p.elem) (BitVec.ofNat 64 p.elem)
      else if p.kind ≠ (if o.desc.sparse then 1 else 0) ∨ p.opr ≠ o.desc.opr ∨ p.fmt ≠ o.desc.fmt ∨ p.n ≠ o.desc.n then
        u.abortObj p.ctx p.idx p.launch 0x0307 (o.addr p.elem) (BitVec.ofNat 64 p.elem)
      else State.enterHome slice o 64 u p := by
  unfold State.homeArrive
  rw [hobj]
  exact if_neg (by simp [hstate, hhome])

/-- A close is late, or counted; the last one a slice expects computes its roots (R244, R245, R250). -/
theorem closeArrive_of_obj {s : State} {slice ctx idx oseq op : Nat} {src : Option Nat} {key : LKey} {o : RObj} (hobj : s.robj? ctx idx = some o) :
    s.closeArrive slice ctx idx oseq src op key =
      let name := (match src with | some c => c + 1 | none => 0, op)
      let n := (lookup o.closes slice).getD 0
      if o.state ≠ 1 ∨ o.home = false ∨ o.oseq ≠ oseq ∨ o.desc.sparse = false ∨ n ≥ o.desc.closes then
        if o.lateClose.contains name then s
        else (s.objRecord ctx key 0x0304 s.openAddr s.openDetail).mapObj ctx idx fun o => { o with lateClose := name :: o.lateClose }
      else
        let u := s.mapObj ctx idx fun o => { o with closes := assign slice (n + 1) o.closes }
        if n + 1 = o.desc.closes then u.closeSlice slice ctx idx else u := by
  unfold State.closeArrive
  dsimp only
  rw [hobj] <;> rfl

/-- Settles O34. -/
theorem partialsArrive : Obligations.PartialsArrive := by
  refine fun s => ⟨?enters, ?sentOn, ?waits, ?homeWaits, fun f x u => fromMesh_some, ?expires, ?held, ?unopened, ?opened, ?close⟩
  case enters =>
    intro b p u harrives hbuffered hrunning
    have hexec : exec (.nonhomeArrival b p) s = .next (u.nonhome b p) := congrArg Host.Outcome.next (partArrives_eq _ harrives)
    rw [hexec, State.nonhome, hbuffered, hrunning]
    rfl
  case sentOn =>
    intro b p u harrives hpass
    have hexec : exec (.nonhomeArrival b p) s = .next (u.nonhome b p) := congrArg Host.Outcome.next (partArrives_eq _ harrives)
    rw [hexec, State.nonhome, if_pos (by simpa using hpass)]
  case waits =>
    intro b p hmesh hfrom
    exact congrArg Host.Outcome.next (partArrives_waits _ hmesh hfrom)
  case homeWaits =>
    intro n p hmesh hfrom
    exact congrArg Host.Outcome.next (partArrives_waits _ hmesh hfrom)
  case expires =>
    intro b p w hfind hold
    have hexec : exec (.holdTimeExpiry b p) s = execHoldTimeExpiry b p s := rfl
    rw [hexec, execHoldTimeExpiry, hfind]
    exact if_neg (Nat.not_lt.mpr hold)
  case held =>
    intro b p w hfind hnew
    have hexec : exec (.holdTimeExpiry b p) s = execHoldTimeExpiry b p s := rfl
    rw [hexec, execHoldTimeExpiry, hfind]
    exact if_pos hnew
  case unopened =>
    intro slice p u harrives hnone
    have hexec : exec (.homePartialArrival slice p) s = .next (u.homeArrive slice p) :=
      congrArg Host.Outcome.next (partArrives_eq _ harrives)
    rw [hexec, homeArrive_unopened hnone]
  case opened =>
    intro slice p u o harrives hobj hstate hhome
    have hexec : exec (.homePartialArrival slice p) s = .next (u.homeArrive slice p) :=
      congrArg Host.Outcome.next (partArrives_eq _ harrives)
    dsimp only
    rw [hexec, homeArrive_opened hobj hstate hhome]
    refine ⟨?_, ?_, ?_⟩
    · intro hlate
      rw [if_pos hlate]
    · intro hlate halike
      rw [if_neg hlate, if_pos (by simpa only [Classical.not_and_iff_not_or_not] using halike)]
    · intro hlate ⟨hkind, hopr, hfmt, hn⟩
      rw [if_neg hlate, if_neg (by simp [hkind, hopr, hfmt, hn])]
  case close =>
    intro slice ctx idx oseq src op key rest o hslice hmesh hobj
    have hexec : exec (.closeArrival slice ctx idx oseq) s = execCloseArrival slice ctx idx oseq s := rfl
    have htaken : execCloseArrival slice ctx idx oseq s =
        .next ((({ s with mesh := rest } : State).closeArrive slice ctx idx oseq src op key).closeDone src op) := by
      unfold execCloseArrival
      dsimp only
      rw [fromMesh_head hmesh (by simp) rfl]
    have hobj' : ({ s with mesh := rest } : State).robj? ctx idx = some o := hobj
    dsimp only
    rw [hexec, htaken, closeArrive_of_obj hobj']
    dsimp only
    refine ⟨?_, ?_, ?_, ?_⟩
    · intro ⟨h1, h2, h3, h4, h5⟩ hmore
      rw [if_neg (by simp [h1, h2, h3, h4, h5]), if_neg (Nat.ne_of_lt hmore)]
    · intro ⟨h1, h2, h3, h4, h5⟩ hlast
      rw [if_neg (by simp [h1, h2, h3, h4, h5]), if_pos hlast]
    · intro hdue hknown
      rw [if_pos (by simpa only [Classical.not_and_iff_not_or_not, Bool.not_eq_true, Nat.not_lt] using hdue)]
      exact congrArg (fun u : State => Host.Outcome.next (u.closeDone src op)) (if_pos hknown)
    · intro hdue hnew
      rw [if_pos (by simpa only [Classical.not_and_iff_not_or_not, Bool.not_eq_true, Nat.not_lt] using hdue)]
      exact congrArg (fun u : State => Host.Outcome.next (u.closeDone src op)) (if_neg (ne_true_of_eq_false hnew))

end Sys2Proof.Machine

/-! Collectives: `coll`, `collx` and the COLL packet, aborts, start messages and Nimbus's chunks (R265 to R274). -/

namespace Sys2Proof.Machine

/-! ### A collective ends at this rank (R271) -/

section

variable {s : State} {ctx comm : Nat} {inst : Word} {x : Coll} (hx : s.coll? ctx comm inst = some x) (code : Nat) (addr : DWord) (cause : Nat)
include hx

/-- A collective that has ended stands as it was. -/
theorem abortHere_ended (hstage : x.stage ≠ 0) : s.abortHere ctx comm inst code addr cause = s := by
  unfold State.abortHere
  rw [hx]
  exact if_pos hstage

variable (hstage : x.stage = 0) {d : CDesc} (hd : x.desc = some d) {c : Comm} (hc : s.comm? ctx comm = some c)
include hstage hd hc

/-- One whose last output sector had been written is complete. -/
theorem abortHere_written (hw : s.collWritten ctx x d c = true) :
    s.abortHere ctx comm inst code addr cause = (s.collLoosen ctx x d c).collDone ctx x d := by
  unfold State.abortHere
  rw [hx]
  dsimp only [Option.getD_some]
  rw [if_neg (Classical.not_not.mpr hstage), hd, hc]
  exact if_pos hw

/-- One that a wave waits for fails its operation. -/
theorem abortHere_wave (hw : s.collWritten ctx x d c = false) {w op : Nat} (hwave : x.wave = some (w, op)) :
    s.abortHere ctx comm inst code addr cause =
      ((((s.mapColl ctx comm inst fun x => { x with stage := 2, code := code + cause * 2 ^ 16 }).dropInWatch ctx comm inst).opFail w op
        { engine := 7, code := BitVec.ofNat 16 code, addr := addr, detail := collDetail comm inst cause }).finishOp w op [] 0 none) := by
  unfold State.abortHere
  rw [hx]
  dsimp only [Option.getD_some]
  rw [if_neg (Classical.not_not.mpr hstage), hd, hc]
  dsimp only
  rw [hw, if_neg Bool.false_ne_true, hwave]

/-- One of a packet writes its record and ends the packet. -/
theorem abortHere_packet (hw : s.collWritten ctx x d c = false) (hwave : x.wave = none) {q slot : Nat} (hp : x.packet = some (q, slot)) :
    let u := (s.mapColl ctx comm inst fun x => { x with stage := 2, code := code + cause * 2 ^ 16 }).dropInWatch ctx comm inst
    s.abortHere ctx comm inst code addr cause =
      (u.failNoWave (u.ctxRecord ctx none 7 (BitVec.ofNat 16 code) (u.recAddr (BitVec.ofNat 16 code) addr) (collDetail comm inst cause)) none).packetDone
        q slot false := by
  unfold State.abortHere
  rw [hx]
  dsimp only [Option.getD_some]
  rw [if_neg (Classical.not_not.mpr hstage), hd, hc]
  dsimp only
  rw [hw, if_neg Bool.false_ne_true, hwave, hp]

end

/-- What a rank's start message must disagree in to abort the collective (R265, R269). -/
theorem digest_disagrees_iff (c : Comm) (src : Nat) (g : CollDigest) (x : Coll) :
    (c.ranks.contains src = false ∨ g.comm ≠ (digestOf c (x.desc.getD (CDesc.ofBytes []))).comm ∨
        (x.desc.isSome ∧ g.desc ≠ (digestOf c (x.desc.getD (CDesc.ofBytes []))).desc)) ↔
      ¬(c.ranks.contains src = true ∧ g.comm = (digestOf c (x.desc.getD (CDesc.ofBytes []))).comm ∧
        (x.desc ≠ none → g.desc = (digestOf c (x.desc.getD (CDesc.ofBytes []))).desc)) := by
  rw [← Option.ne_none_iff_isSome]
  cases c.ranks.contains src <;> simp [Decidable.imp_iff_not_or]

/-- Settles O35. -/
theorem collectivesRun : Obligations.CollectivesRun := by
  refine ⟨fun f => ⟨?coll, ?collComm, ?collVa, ?collAlign⟩, fun f => ⟨?toCome, ?gone, ?unstarted, ?complete, ?aborted, ?collxComm⟩,
    fun queue slot s q p hready => ⟨?packetComm, fun c hc => ⟨?packetVa, ?packetAlign, ?packet⟩⟩,
    fun ctx comm inst s => ⟨fun _ => rfl, ?ended, ?written, ?fails, ?start, ?chunk⟩⟩
  case coll =>
    refine completesFor_ok (fun _ => rfl) fun slot s c ⟨hc, hva, halign, hst⟩ => ?_
    dsimp only [State.srcA] at hva halign ⊢
    rw [hc]
    dsimp only
    rw [hva, if_neg (by decide), if_neg (Classical.not_not.mpr halign), hst, if_neg Bool.false_ne_true]
  case collComm =>
    refine completesIf_trap (fun _ => rfl) fun slot s hc => ?_
    dsimp only at hc ⊢
    rw [hc]
  case collVa =>
    refine completesFor_trap (fun _ => rfl) fun slot s c ⟨hc, hva⟩ => ?_
    dsimp only [State.srcA] at hc hva ⊢
    rw [hc]
    dsimp only
    rw [hva] <;> rfl
  case collAlign =>
    refine completesFor_trap (fun _ => rfl) fun slot s c ⟨hc, hva, halign⟩ => ?_
    dsimp only [State.srcA] at hc hva halign ⊢
    rw [hc]
    dsimp only
    rw [hva, if_neg (by decide), if_pos halign]
  case toCome =>
    refine completesFor_ok (fun _ => rfl) fun slot s x ⟨hc, hcome⟩ => ?_
    dsimp only [State.srcA_word] at hc hcome ⊢
    rw [hc]
    exact if_pos hcome
  case gone =>
    refine completesFor_ok (fun _ => rfl) fun slot s x ⟨hc, hcome, hgone⟩ => ?_
    dsimp only [State.srcA_word] at hc hcome hgone ⊢
    rw [hc]
    dsimp only
    rw [if_neg hcome]
    by_cases hold : 255 < (s.nextInst s.w.ctx (commX f) - 1 - BitVec.ofNat 32 (src32 s.w.r f f.a 0)).toNat
    · exact if_pos hold
    · rw [if_neg hold, hgone.resolve_left hold]
      rfl
  case unstarted =>
    refine completesFor_ok (fun _ => rfl) fun slot s x ⟨hc, ⟨hcome, hnew, hx⟩, hstage⟩ => ?_
    dsimp only [State.srcA_word] at hc hcome hnew hx ⊢
    rw [hc]
    dsimp only
    rw [if_neg hcome, if_neg (Nat.not_lt.mpr hnew), hx]
    dsimp only
    rw [hstage] <;> rfl
  case complete =>
    refine completesFor_ok (fun _ => rfl) fun slot s x ⟨hc, ⟨hcome, hnew, hx⟩, hstage⟩ => ?_
    dsimp only [State.srcA_word] at hc hcome hnew hx ⊢
    rw [hc]
    dsimp only
    rw [if_neg hcome, if_neg (Nat.not_lt.mpr hnew), hx]
    dsimp only
    rw [hstage] <;> rfl
  case aborted =>
    refine completesFor_ok (fun _ => rfl) fun slot s x ⟨hc, ⟨hcome, hnew, hx⟩, hstage⟩ => ?_
    dsimp only [State.srcA_word] at hc hcome hnew hx ⊢
    obtain ⟨n, hn⟩ := Nat.exists_eq_add_of_le' hstage
    rw [hc]
    dsimp only
    rw [if_neg hcome, if_neg (Nat.not_lt.mpr hnew), hx]
    dsimp only
    rw [hn] <;> rfl
  case collxComm =>
    refine completesIf_trap (fun _ => rfl) fun slot s hc => ?_
    dsimp only at hc ⊢
    rw [hc] <;> rfl
  case packetComm =>
    intro hc
    have hexec : exec (.collPacket queue slot) s = execCollPacket queue slot s := rfl
    rw [hexec, execCollPacket, hready]
    dsimp only
    rw [hc]
  case packetVa =>
    intro hva
    have hexec : exec (.collPacket queue slot) s = execCollPacket queue slot s := rfl
    rw [hexec, execCollPacket, hready]
    dsimp only
    rw [hc]
    dsimp only
    rw [hva] <;> rfl
  case packetAlign =>
    intro hva halign
    have hexec : exec (.collPacket queue slot) s = execCollPacket queue slot s := rfl
    rw [hexec, execCollPacket, hready]
    dsimp only
    rw [hc]
    dsimp only
    rw [hva, if_neg (by decide), if_pos halign]
  case packet =>
    intro hva halign
    have hexec : exec (.collPacket queue slot) s = execCollPacket queue slot s := rfl
    rw [hexec, execCollPacket, hready]
    dsimp only
    rw [hc]
    dsimp only
    rw [hva, if_neg (by decide), if_neg (Classical.not_not.mpr halign)]
  case ended => exact fun code addr cause x hx hstage => abortHere_ended hx code addr cause hstage
  case written => exact fun code addr cause x d c hx hstage hd hc hw => abortHere_written hx code addr cause hstage hd hc hw
  case fails =>
    exact fun code addr cause x d c hx hstage hd hc hw => ⟨fun _ _ hwave => abortHere_wave hx code addr cause hstage hd hc hw hwave,
      fun _ _ hwave hp => abortHere_packet hx code addr cause hstage hd hc hw hwave hp⟩
  case start =>
    intro src g
    have hexec : exec (.collStartMessage ctx comm inst src g) s = execCollStartMessage ctx comm inst src g s := rfl
    rw [hexec, execCollStartMessage]
    generalize s.mapColl ctx comm inst (fun x => { x with starts := assign src g x.starts }) = u
    dsimp only
    generalize hx : (u.coll? ctx comm inst).getD (Coll.fresh comm inst) = x
    refine ⟨fun hc => ?_, fun c hc hagree => ?_, fun c hc hdiffer => ?_⟩
    · rw [hc]
    · rw [hc]
      exact if_neg fun h => (digest_disagrees_iff c src g x).mp h hagree
    · rw [hc]
      exact if_pos ((digest_disagrees_iff c src g x).mpr hdiffer)
  case chunk =>
    intro x c d hx hc hd
    have hexec : exec (.nimbusChunk ctx comm inst) s = execNimbusChunk ctx comm inst s := rfl
    rw [hexec, execNimbusChunk, hx, hc]
    dsimp only
    rw [hd]
    dsimp only
    refine ⟨fun h => ?_, fun h => ?_, fun h => ?_, fun h => ?_⟩ <;> rw [h] <;> rfl

end Sys2Proof.Machine

/-! Page walks and invalidations (R88, R91, R94, R95). -/

namespace Sys2Proof.Machine

/-! ### Walks -/

section

variable {s u : State} {id : Nat} {x : Walk} (hx : s.m.walks.find? (fun x => x.id == id) = some x)
include hx

/-- A walk that ends in a leaf. -/
theorem pageWalk_leaf {level e : Nat} (hwalk : s.walk x.die x.ctx (x.page * 2 ^ 16) = (.leaf level e, u)) :
    let v : State := { u with m := { u.m with walks := u.m.walks.filter fun y => y.id != x.id } }
    execPageWalk id s = .next (v.addTlb (((256 + x.die) :: (x.waiters.filterMap fun n => (v.wave n).map (·.core)).eraseDups).map fun n =>
      leafEntry n x.ctx (x.page * 2 ^ 16) level e)) := by
  unfold execPageWalk
  rw [hx]
  dsimp only
  unfold State.endWalk
  dsimp only
  rw [hwalk]

/-- A walk that fails. -/
theorem pageWalk_fail {level : Nat} {code : BitVec 16} (hwalk : s.walk x.die x.ctx (x.page * 2 ^ 16) = (.fail level code, u)) :
    let v : State := { u with m := { u.m with walks := u.m.walks.filter fun y => y.id != x.id } }
    execPageWalk id s = .next { v with m := { v.m with faults :=
      (x.waiters.map fun n => ({ wave := n, page := x.page, level := level, code := code } : WalkFault)) ++ v.m.faults } } := by
  unfold execPageWalk
  rw [hx]
  dsimp only
  unfold State.endWalk
  dsimp only
  rw [hwalk]

end

/-! ### Invalidations -/

section

variable {s : State} {id : Nat} {x : Inv} (hx : s.m.invs.find? (fun x => x.id == id) = some x)
include hx

/-- Stores before it are not performed yet. -/
theorem invalidationComplete_waits (hready : s.invReady x = false) : execInvalidationComplete id s = .next s := by
  unfold execInvalidationComplete
  rw [hx]
  dsimp only
  rw [hready]
  rfl

variable (hready : s.invReady x = true) {u : State} (hu : u = if x.began then s else s.invBegin x) {y : Inv}
  (hy : u.m.invs.find? (fun y => y.id == id) = some y)
include hready hu hy

/-- Something of what it removed is still in use. -/
theorem invalidationComplete_begun (hdone : u.invDone y = false) : execInvalidationComplete id s = .next u := by
  unfold execInvalidationComplete
  rw [hx]
  dsimp only
  rw [hready, if_neg (by decide), ← hu, hy]
  dsimp only
  rw [hdone]
  rfl

/-- Nothing of what it removed is in use any more. -/
theorem invalidationComplete_done (hdone : u.invDone y = true) :
    let t : State := { u with m := { u.m with invs := u.m.invs.filter fun z => z.id != id } }
    execInvalidationComplete id s = .next (match y.op with | none => t | some (w, o) => t.finishOp w o [] 0 none) := by
  unfold execInvalidationComplete
  rw [hx]
  dsimp only
  rw [hready, if_neg (by decide), ← hu, hy]
  dsimp only
  rw [hdone]
  rfl

end

/-- Settles O36. -/
theorem translationEvents : Obligations.TranslationEvents := by
  refine ⟨fun f => ⟨?va, ?ctx, ?all, ?uncanonical⟩, fun _ _ _ => rfl, fun id s u x hx => ⟨fun _ _ hwalk => ?leaf, fun _ _ hwalk => ?fail⟩,
    fun id s x hx => ⟨fun hready => ?waits, fun y hready => ?ready⟩⟩
  case va =>
    refine completesIf_ok (fun _ => rfl) fun slot s hva => ?_
    dsimp only [tlbiEff, State.srcA] at hva ⊢
    exact if_pos hva
  case ctx | all => exact completesIf_ok (fun _ => rfl) fun slot s _ => rfl
  case uncanonical =>
    refine completesIf_ok (fun _ => rfl) fun slot s hva => ?_
    dsimp only [tlbiEff, State.srcA] at hva ⊢
    exact if_neg (by rw [hva]; exact Bool.false_ne_true)
  case leaf => exact pageWalk_leaf hx hwalk
  case fail => exact pageWalk_fail hx hwalk
  case waits => exact invalidationComplete_waits hx hready
  case ready =>
    exact fun hy => ⟨invalidationComplete_begun hx hready rfl hy, invalidationComplete_done hx hready rfl hy⟩

end Sys2Proof.Machine

/-! `csave`, `crest`, the save microcode and the restore barrier (R363 to R366). -/

namespace Sys2Proof.Machine

/-- Settles O37. -/
theorem saveAndRestore : Obligations.SaveAndRestore := by
  refine ⟨fun f => ⟨?saved, ?unwritable, ?notStopped, ?absent⟩, ?crest,
    fun ctx s c hc => ⟨fun h => ?save, fun h => ?saveWaits⟩, fun ctx chip stamp s c => ?barrier⟩
  case saved =>
    refine completesFor_ok (fun _ => rfl) fun slot s ⟨t, hs, v⟩ ⟨ht, ⟨hother, hhalt⟩, hat, hquiet, hwrite⟩ => ?_
    obtain ⟨write, hdef⟩ : ∃ g, g = State.writeImage := ⟨_, rfl⟩
    rw [← hdef] at hwrite ⊢
    dsimp only [State.srcA] at ht hother hhalt hat hquiet hwrite ⊢
    rw [State.srcB_word] at ht
    rw [ht]
    dsimp only
    rw [if_neg (by simp [hother, hhalt]), hat]
    dsimp only
    rw [hquiet, if_neg (by decide), hwrite]
    refine congrArg (fun z : State => Try.ok (z.finishOp s.w.uid (s.startOp f false false).1 [] 0 none) none) ?_
    cases f.x.getLsbD 0 <;> rfl
  case unwritable =>
    refine completesFor_ok (fun _ => rfl) fun slot s ⟨t, hs, v⟩ ⟨ht, ⟨hother, hhalt⟩, hat, hquiet, hwrite⟩ => ?_
    obtain ⟨write, hdef⟩ : ∃ g, g = State.writeImage := ⟨_, rfl⟩
    rw [← hdef] at hwrite ⊢
    dsimp only [State.srcA] at ht hother hhalt hat hquiet hwrite ⊢
    rw [State.srcB_word] at ht
    rw [ht]
    dsimp only
    rw [if_neg (by simp [hother, hhalt]), hat]
    dsimp only
    rw [hquiet, if_neg (by decide), hwrite]
    rfl
  case notStopped =>
    refine completesIf_trap (fun _ => rfl) fun slot s hstop => ?_
    obtain ⟨write, hdef⟩ : ∃ g, g = State.writeImage := ⟨_, rfl⟩
    rw [← hdef]
    dsimp only at hstop ⊢
    simp only [State.srcB_word] at hstop
    rcases ht : s.teams.find? (fun t => t.core == src32 s.w.r f f.b 0 % 256 && t.slot0 == field (src32 s.w.r f f.b 0) 8 7) with - | t
    · rw [ht] <;> rfl
    · rw [ht]
      dsimp only
      rw [if_pos (by simpa [← Decidable.or_iff_not_imp_left] using hstop t ht)]
  case absent =>
    refine completesIf_trap (fun _ => rfl) fun slot s habsent => ?_
    obtain ⟨resolve, hdef⟩ : ∃ g, g = State.engResolve := ⟨_, rfl⟩
    rw [← hdef]
    dsimp only at habsent ⊢
    rw [State.srcB_word] at habsent
    rw [habsent]
    rfl
  case crest =>
    intro f s u ls hs
    obtain ⟨resolve, hdef⟩ : ∃ g, g = State.engResolve := ⟨_, rfl⟩
    rw [← hdef]
    dsimp only
    intro hissues hpresent hat hresolve
    have effect : ∀ {t : State}, _ → exec (.crest f) s = .next (t.goOn true f (issueSlot s f) none) := fun {t} h =>
      congrArg Host.Outcome.next (issue_ok (t := t) hissues h)
    generalize s.atIssue f = e at *
    refine ⟨fun hbad => effect ?_, fun hgood more v hmore => ⟨fun him => effect ?_, fun im him hfits => effect ?_,
      fun im p him hfits => effect ?_⟩⟩
    all_goals
      rw [← hdef]
      dsimp only [State.srcA] at hpresent hat hresolve ⊢
      rw [State.srcB_word] at hpresent
      rw [hpresent, if_neg (by decide), hat]
      dsimp only
      rw [hresolve]
      dsimp only
    · rw [hbad]
      rfl
    all_goals
      dsimp only [State.srcA] at hmore
      rw [hgood, if_neg (by decide), hmore]
      dsimp only
      rw [him]
    · dsimp only
      rw [State.srcB_word] at hfits
      rw [hfits]
    · dsimp only
      rw [State.srcB_word] at hfits
      rw [hfits]
      rfl
  case save =>
    have hexec : exec (.saveMicrocode ctx) s = execSaveMicrocode ctx s := rfl
    rw [hexec, execSaveMicrocode, hc]
    dsimp only
    rw [if_pos h]
    rfl
  case saveWaits =>
    have hexec : exec (.saveMicrocode ctx) s = execSaveMicrocode ctx s := rfl
    rw [hexec, execSaveMicrocode, hc]
    dsimp only
    rw [h, if_neg Bool.false_ne_true]
  case barrier =>
    have hexec : exec (.restoreBarrier ctx chip stamp) s = execRestoreBarrier ctx chip stamp s := rfl
    rw [hexec, execRestoreBarrier]
    generalize s.mapCtx ctx _ = u
    dsimp only
    unfold State.runIfMet
    intro hc
    rw [hc]
    exact ⟨fun h => congrArg Host.Outcome.next (if_pos h), fun h => congrArg Host.Outcome.next (if_neg (by rw [h]; exact Bool.false_ne_true))⟩

end Sys2Proof.Machine

/-! Flits, lanes and ports of the Fedeux links (R259 to R261). -/

namespace Sys2Proof.Machine

section

variable {s : State} {port : Nat}

/-- A port that is not up carries nothing. -/
theorem flitReceive_down (h16 : port ≠ 16) (hup : s.portUp port = false) (lane dst : Nat) (ok : Bool) (m : Msg) :
    execFlitReceive port lane ok dst m s = .next s := by
  unfold execFlitReceive
  rw [if_neg h16, hup]
  rfl

/-- A flit with a good CRC. -/
theorem flitReceive_good (h16 : port ≠ 16) (hup : s.portUp port = true) (lane dst : Nat) (m : Msg) :
    let p := s.port port
    let u : State := { s with ports := assign port { p with fails := p.fails.filter fun x => x.1 != lane || x.2 == 17 } s.ports }
    execFlitReceive port lane true dst m s = .next (if dst = s.pkg.chipNo then u.deliver (some port) m else u.passOn port dst m) := by
  unfold execFlitReceive
  rw [if_neg h16, hup]
  rfl

/-- A flit with a bad CRC. -/
theorem flitReceive_bad (h16 : port ≠ 16) (hup : s.portUp port = true) (lane dst : Nat) (m : Msg) :
    let p := s.port port
    let n := (lookup p.fails lane).getD 0
    let q : Port := { p with resends := p.resends + 1, fails := assign lane (if 16 ≤ n then n else n + 1) p.fails }
    execFlitReceive port lane false dst m s = .next { s with ports := assign port q s.ports } := by
  unfold execFlitReceive
  rw [if_neg h16, hup]
  rfl

/-- A lane that has failed 16 times in a row is left out. -/
theorem laneRetrain_eq {x : Nat × Nat} (hup : s.portUp port = true) (hx : (s.port port).fails.find? (fun x => x.2 == 16) = some x) :
    let fails := assign x.1 17 (s.port port).fails
    let u : State := { s with ports := assign port { s.port port with fails := fails, width := 1 } s.ports }
    execLaneRetrain port s = if 4 < (fails.filter fun x => x.2 == 17).length then execPortDown port u
      else .next (u.failNoWave (u.bareRecord 6 0x0402 u.openAddr u.openDetail) none) := by
  unfold execLaneRetrain
  dsimp only
  rw [hup, if_neg (by decide), hx]

/-- No lane of the port has. -/
theorem laneRetrain_none (h : s.portUp port = false ∨ ∀ x ∈ (s.port port).fails, x.2 ≠ 16) : execLaneRetrain port s = .next s := by
  unfold execLaneRetrain
  cases hup : s.portUp port with
  | false => rfl
  | true =>
    have hnone : (s.port port).fails.find? (fun x => x.2 == 16) = none :=
      List.find?_eq_none.mpr fun x hx => by simpa using h.resolve_left (by rw [hup]; decide) x hx
    dsimp only
    rw [if_neg (by decide), hnone]

/-- An enabled port trains with its linked chip. -/
theorem fedeuxPortUp_eq {lanes peer : Nat} (hport : s.portPresent port = true) (hon : (s.port port).enable = true)
    (hlanes : lanes = 4 ∨ lanes = 8) (hpeer : peer < 4096) :
    execFedeuxPortUp port lanes peer s =
      .next { s with ports := assign port { s.port port with width := if lanes = 8 then 2 else 1, peer := peer, fails := [] } s.ports } := by
  unfold execFedeuxPortUp
  exact if_pos (by simp [hport, hon, hlanes, hpeer])

end

/-- Settles O38. -/
theorem linksCarryFlits : Obligations.LinksCarryFlits := by
  refine fun port lane dst m s => ⟨fun ok d rest hin => ?inbox, fun h16 hup ok => flitReceive_down h16 hup lane dst ok m,
    fun h16 hup => ⟨flitReceive_good h16 hup lane dst m, flitReceive_bad h16 hup lane dst m⟩,
    fun x hup hx => ⟨fun hfew => ?retrain, fun hmany => ?lost⟩, fun h => laneRetrain_none h, fun hport hwidth => ?down,
    fun peer hport hon hpeer => ⟨fedeuxPortUp_eq hport hon (.inr rfl) hpeer, fedeuxPortUp_eq hport hon (.inl rfl) hpeer⟩⟩
  case inbox =>
    have hexec : exec (.flitReceive 16 lane ok d m) s = execFlitReceive 16 lane ok d m s := rfl
    rw [hexec, execFlitReceive, if_pos rfl, hin]
    dsimp only
    rw [if_pos rfl]
  case retrain => exact (laneRetrain_eq hup hx).trans (if_neg (Nat.not_lt.mpr hfew))
  case lost => exact (laneRetrain_eq hup hx).trans (if_pos hmany)
  case down =>
    have hexec : exec (.portDown port) s = execPortDown port s := rfl
    rw [hexec, execPortDown, if_pos (by simp [hport, hwidth])]

end Sys2Proof.Machine

/-! The dispatch processor's queues and the packets that need no launch (R124, R126 to R128, R280, R336, R414). -/

namespace Sys2Proof.Machine

/-! ### Reading a queue's slot (R126, R127) -/

/-- The turn a queue that is read has had, and its fault over. -/
def State.slotServed (u : State) (q : Queue) : State := u.fresh.2.mapQueue q.num fun x => { x with fault := none, served := u.fresh.1 }

/-- A queue goes on past its slot. -/
def State.slotTaken (u : State) (q : Queue) (ps : List Packet) : State :=
  u.mapQueue q.num fun x => { x with next := q.next + 1, reread := none, packets := x.packets ++ ps }

/-- What is done with a slot that has been read, by what its stamp says. -/
def State.slotRead (u : State) (q : Queue) (ws : List DWord) : Nat → State
  | 0 =>
    if malformed ws then (((u.slotServed q).slotTaken q []).packetRecord q.ctx 0x0601 (q.slotVa q.next) q.next).writeRidx q q.next
    else
      let t := (u.slotServed q).takePacket q.ctx q.num q.next ws
      (t.2.slotTaken q [t.1]).writeRidx q q.next
  | 1 =>
    let v := (u.slotServed q).mapQueue q.num fun x => { x with stopped := true }
    v.failNoWave (v.ctxRecord q.ctx none 8 0x0602 (q.slotVa q.next) (BitVec.ofNat 64 q.next)) none
  | _ => (u.slotServed q).mapQueue q.num fun x => { x with reread := some (u.slotServed q).clock }

/-- What reading a queue's slot does. -/
theorem State.readSlot_eq (s : State) (q : Queue) :
    s.readSlot q =
      match s.widxNow q with
      | (.inl (c, a), v) => v.queueFault q q.next c a
      | (.inr w, v) =>
        if w ≤ q.next then v.mapQueue q.num fun x => { x with looking := false }
        else match v.dpRead q.ctx (q.slotVa q.next) 64 with
          | (.inl (c, a), u) => u.queueFault q q.next c a
          | (.inr bs, u) => u.slotRead q (dwords bs) (stampCase q.log2 (word (dwords bs) 0 / 2 ^ 16) q.next) := by
  -- The kernel would evaluate WIDX's place and the stamp on the way: they stand as variables here.
  obtain ⟨readSlot, hdef⟩ : ∃ f, f = State.readSlot := ⟨_, rfl⟩
  rw [← hdef]
  delta State.readSlot at hdef
  obtain ⟨widx, hwidx⟩ : ∃ f, f = State.widxNow := ⟨_, rfl⟩
  obtain ⟨read, hread⟩ : ∃ f, f = State.dpRead := ⟨_, rfl⟩
  obtain ⟨stamp, hstamp⟩ : ∃ f, f = stampCase := ⟨_, rfl⟩
  obtain ⟨take, htake⟩ : ∃ f, f = State.takePacket := ⟨_, rfl⟩
  rw [← hwidx, ← hread, ← hstamp] at hdef ⊢
  rw [← htake] at hdef
  rw [hdef]
  dsimp only
  rcases widx s q with ⟨⟨c, a⟩ | w, v⟩
  · rfl
  refine ite_congr rfl (fun _ => rfl) fun _ => ?_
  rcases read v q.ctx (q.slotVa q.next) 64 with ⟨⟨c, a⟩ | bs, u⟩
  · rfl
  dsimp only
  rcases stamp q.log2 (word (dwords bs) 0 / 2 ^ 16) q.next with - | - | k
  · rw [State.slotRead, ← htake]
    cases malformed (dwords bs) <;> rfl
  · rfl
  · rfl

section

variable {s v u : State} {q : Queue}

/-- WIDX cannot be read. -/
theorem readSlot_widxFault {c : BitVec 16} {a : DWord} (hw : s.widxNow q = (.inl (c, a), v)) : s.readSlot q = v.queueFault q q.next c a := by
  rw [State.readSlot_eq, hw]

variable {w : Nat} (hw : s.widxNow q = (.inr w, v))
include hw

/-- Every slot below WIDX has been taken. -/
theorem readSlot_empty (hle : w ≤ q.next) : s.readSlot q = v.mapQueue q.num fun x => { x with looking := false } := by
  rw [State.readSlot_eq, hw]
  exact if_pos hle

variable (hlt : q.next < w)
include hlt

/-- The slot cannot be read. -/
theorem readSlot_slotFault {c : BitVec 16} {a : DWord} (hread : v.dpRead q.ctx (q.slotVa q.next) 64 = (.inl (c, a), u)) :
    s.readSlot q = u.queueFault q q.next c a := by
  rw [State.readSlot_eq, hw]
  dsimp only
  rw [if_neg (Nat.not_le.mpr hlt), hread]

/-- The slot has been read. -/
theorem readSlot_read {bs : List Byte} (hread : v.dpRead q.ctx (q.slotVa q.next) 64 = (.inr bs, u)) :
    s.readSlot q = u.slotRead q (dwords bs) (stampCase q.log2 (word (dwords bs) 0 / 2 ^ 16) q.next) := by
  rw [State.readSlot_eq, hw]
  dsimp only
  rw [if_neg (Nat.not_le.mpr hlt), hread]

end

/-- The packet of a posted slot joins the queue. -/
theorem slotRead_taken {u : State} {q : Queue} {ws : List DWord} (hform : malformed ws = false) :
    u.slotRead q ws 0 =
      let t := (u.slotServed q).takePacket q.ctx q.num q.next ws
      (t.2.slotTaken q [t.1]).writeRidx q q.next := if_neg (by rw [hform]; exact Bool.false_ne_true)

/-- A malformed one is refused. -/
theorem slotRead_malformed {u : State} {q : Queue} {ws : List DWord} (hform : malformed ws = true) :
    u.slotRead q ws 0 = (((u.slotServed q).slotTaken q []).packetRecord q.ctx 0x0601 (q.slotVa q.next) q.next).writeRidx q q.next :=
  if_pos hform

/-- A slot is taken where its stamp is its index. -/
theorem stampCase_taken (log2 d j : Nat) (hd : d < 2 ^ 48) : stampCase log2 d j = 0 ↔ d = j % 2 ^ 48 := by
  unfold stampCase
  dsimp only
  split
  next h => simp only [true_iff]; omega
  next h =>
    split
    · simp only [Nat.one_ne_zero, false_iff]; omega
    · simp only [Nat.succ_ne_zero, false_iff]; omega

/-- A stamp of whole ring sizes ahead is an overrun. -/
theorem stampCase_overrun {log2 k : Nat} (j : Nat) (hlog : log2 ≤ 16) (hpos : 1 ≤ k) (hk : k < 2 ^ 31) :
    stampCase log2 ((j + k * 2 ^ log2) % 2 ^ 48) j = 1 := by
  have hring : 0 < 2 ^ log2 := Nat.two_pow_pos log2
  have hbound : k * 2 ^ log2 < 2 ^ 47 :=
    calc k * 2 ^ log2 ≤ k * 2 ^ 16 := Nat.mul_le_mul_left k (Nat.pow_le_pow_right (by decide) hlog)
      _ < 2 ^ 47 := by omega
  have hahead : 0 < k * 2 ^ log2 := Nat.mul_pos hpos hring
  have hdiff : ((j + k * 2 ^ log2) % 2 ^ 48 + 2 ^ 48 - j % 2 ^ 48) % 2 ^ 48 = k * 2 ^ log2 := by omega
  unfold stampCase
  dsimp only
  rw [hdiff, if_neg (Nat.ne_of_gt hahead), if_pos ⟨hbound, Nat.mul_mod_left k _⟩]

/-- Settles O39. -/
theorem queuesAreServed : Obligations.QueuesAreServed := by
  intro n s q hq j va served taken looks
  have hlooks : ∀ i, exec i s = .next (s.readSlot q) → looks i := fun i hi => by
    refine ⟨fun c a v hw => hi.trans (congrArg _ (readSlot_widxFault hw)),
      fun w v hw hle => hi.trans (congrArg _ (readSlot_empty hw hle)),
      fun w v c a u hw hlt hread => hi.trans (congrArg _ (readSlot_slotFault hw hlt hread)), fun w v bs u hw hlt hread => ?_⟩
    rw [hi, readSlot_read hw hlt hread]
    refine ⟨fun hcase hform => ?_, fun hcase hform => ?_, fun hcase => ?_, fun hcase => ?_⟩
    · rw [hcase]
      exact congrArg Host.Outcome.next (slotRead_taken hform)
    · rw [hcase]
      exact congrArg Host.Outcome.next (slotRead_malformed hform)
    · rw [hcase]
      rfl
    · rw [hcase]
      rfl
  refine ⟨fun h => if_pos h, fun h => if_neg (Nat.not_lt.mpr h), rfl, fun hopen hlook hfault => ⟨fun hnew => hlooks _ ?take, fun hagain => hlooks _ ?reread⟩,
    fun k hfault => ⟨fun hlt hrun => ?ridx, fun hle hopen => hlooks _ ?retry⟩, fun ctx queue slot ws => ?packet,
    fun d hd hlog => ⟨stampCase_taken _ d _ hd, fun k hpos hk => stampCase_overrun _ hlog hpos hk⟩⟩
  case take =>
    have hexec : exec (.slotTake n) s = execSlotTake n s := rfl
    rw [hexec, execSlotTake, hq]
    dsimp only
    rw [if_pos (by simp [hopen, hlook, hfault, hnew])]
  case reread =>
    have hexec : exec (.slotReread n) s = execSlotReread n s := rfl
    obtain ⟨c, hc⟩ := hagain
    rw [hexec, execSlotReread, hq]
    dsimp only
    rw [if_pos (by simp [hopen, hlook, hfault, hc])]
  case ridx =>
    have hexec : exec (.queueAccessRetry n) s = execQueueAccessRetry n s := rfl
    rw [hexec, execQueueAccessRetry, hq]
    dsimp only
    rw [hfault]
    dsimp only
    rw [if_pos (by simpa [hrun] using hlt)]
  case retry =>
    have hexec : exec (.queueAccessRetry n) s = execQueueAccessRetry n s := rfl
    rw [hexec, execQueueAccessRetry, hq]
    dsimp only
    rw [hfault]
    dsimp only
    rw [if_neg (by simpa using fun h => absurd h (Nat.not_lt.mpr hle)), if_pos hopen]
  case packet =>
    unfold State.takePacket
    obtain ⟨nodes, hnodes⟩ : ∃ f, f = State.readNodes := ⟨_, rfl⟩
    rw [← hnodes]

end Sys2Proof.Machine

/-! Packets that need no launch: NOP, WAIT, SIGNAL and COPY (R124, R128, R336). -/

namespace Sys2Proof.Machine

/-! ### WAIT (R128, R336) -/

section

variable {s u : State} {q : Queue} {p : Packet}

/-- The release kept at core scope that an acquire of the word meets, where the word is in one place. -/
def State.waitHold (s : State) (q : Queue) (p : Packet) (ls : List EngLoc) : Option Promo :=
  match ls with
  | [.here pa _ n] => s.promoAt q.ctx p.scope 256 false pa n
  | _ => none

/-- The word cannot be read. -/
theorem waitRead_fault {c : BitVec 16} {x : DWord} (h : s.engResolve (engFor 0 q.ctx) false (nth 0 p.words 2) 8 = (.inl (c, x), u)) :
    let v := u.dropPins 0 []
    s.waitRead q p = (v.failNoWave (v.ctxRecord q.ctx none 8 c (v.recAddr c x)
      (v.recDetail c (v.engDetail (engFor 0 q.ctx) 0 .read x))) none).packetDone q.num p.slot false := by
  unfold State.waitRead
  dsimp only
  rw [h]

variable {ls : List EngLoc} (h : s.engResolve (engFor 0 q.ctx) false (nth 0 p.words 2) 8 = (.inr ls, u))
include h

/-- The word can be read. -/
theorem waitRead_eq :
    let v := u.dropPins 0 []
    let r := v.engBytes q.ctx ls
    s.waitRead q p =
      match v.waitHold q p ls with
      | some x => if v.m.promoReqs.any fun y => y.sp == x.sp && y.loc == x.loc && y.core == x.core then v else v.askPromo x none
      | none => if waitHolds p.words (ofBytes r.1) then r.2.packetDone q.num p.slot true else r.2 := by
  unfold State.waitRead
  dsimp only
  rw [h] <;> rfl

/-- It is read. -/
theorem waitRead_read (hkept : (u.dropPins 0 []).waitHold q p ls = none) :
    let r := (u.dropPins 0 []).engBytes q.ctx ls
    s.waitRead q p = if waitHolds p.words (ofBytes r.1) then r.2.packetDone q.num p.slot true else r.2 := by
  rw [waitRead_eq h, hkept]

/-- A release the acquire meets is promoted first. -/
theorem waitRead_kept {x : Promo} (hkept : (u.dropPins 0 []).waitHold q p ls = some x) :
    let v := u.dropPins 0 []
    s.waitRead q p = if v.m.promoReqs.any fun y => y.sp == x.sp && y.loc == x.loc && y.core == x.core then v else v.askPromo x none := by
  rw [waitRead_eq h, hkept]

end

/-- Settles O40. -/
theorem packetsBegin : Obligations.PacketsBegin := by
  intro n slot s q p a w waits
  have hwaits : ∀ i a, exec i s = .next (State.waitRead a q p) → waits i a := fun i a hi => by
    refine ⟨fun c x u hr => hi.trans (congrArg _ (waitRead_fault hr)), fun ls u hr => ⟨fun hkept => hi.trans (congrArg _ (waitRead_read hr hkept)),
      fun x hkept => hi.trans (congrArg _ (waitRead_kept hr hkept))⟩⟩
  refine ⟨fun hready => ?nop, fun hready => hwaits _ _ ?wait, fun hp htype hstage => hwaits _ _ ?reread, fun hready => ?signal, fun hready => ?copy⟩
  case nop =>
    have hexec : exec (.nopPacket n slot) s = execNopPacket n slot s := rfl
    rw [hexec, execNopPacket, hready]
  case wait =>
    have hexec : exec (.waitPacket n slot) s = execWaitPacket n slot s := rfl
    rw [hexec, execWaitPacket, hready]
  case reread =>
    have hexec : exec (.waitPacketReread n slot) s = execWaitPacketReread n slot s := rfl
    rw [hexec, execWaitPacketReread, hp]
    dsimp only
    rw [if_pos ⟨htype, hstage⟩]
  case signal =>
    have hexec : exec (.signalPacket n slot) s = execSignalPacket n slot s := rfl
    rw [hexec, execSignalPacket, hready]
  case copy =>
    have hexec : exec (.copyPacket n slot) s = execCopyPacket n slot s := rfl
    dsimp only
    rw [hexec, execCopyPacket, hready]
    dsimp only
    refine ⟨fun hplain => ?_, fun hpat => ⟨fun hcap => ?_, fun hcap => ⟨fun sec hbad => ?_, fun hok hnone => ?_, fun x hok hx => ⟨fun hwhole => ?_,
      fun hpart => ?_⟩⟩⟩⟩
    · exact if_neg (by rw [hplain]; exact Bool.false_ne_true)
    all_goals
      refine (if_pos hpat).trans ?_
    · exact if_pos (by rw [show (s.stagePacket n slot 1).pkg.cap.sgather = false from hcap]; rfl)
    all_goals
      refine (if_neg (by rw [show (s.stagePacket n slot 1).pkg.cap.sgather = true from hcap]; decide)).trans ?_
    · rw [hbad]
    · rw [hok, hnone]
    all_goals
      rw [hok, hx]
      dsimp only
    · exact if_neg (by simpa using hwhole)
    · exact if_pos (by simpa [Nat.not_le, Decidable.imp_iff_not_or] using hpart)

end Sys2Proof.Machine

/-! LAUNCH packets, the start barrier and its time-out (R52, R263, R264, R277, R283, R289). -/

namespace Sys2Proof.Machine

/-! ### A launch begins (R263, R277) -/

section

variable {s : State} {key : LKey} {ctx prio : Nat} {phase : Option Nat} {ws : List DWord} {slotVa : DWord}

/-- A payload that breaks R277 by itself. -/
theorem beginLaunch_bad (h : payloadBad ws [] 0 = true) :
    s.beginLaunch key ctx prio phase ws slotVa = (s.failRecord key ctx 0x0614 slotVa key.slot).launchEnds key false :=
  if_pos h

/-- The chips a packet names and the header it launches, once they have been read. -/
def State.launchNamed (v : State) (key : LKey) (ctx prio : Nat) (phase : Option Nat) (ws : List DWord) (slotVa : DWord) (gen : Word) (bs : List Byte)
    (r : Sum (BitVec 16 × DWord) (List Byte)) : State :=
  let chips := (List.range (word ws 6)).map fun i => ofBytes ((bs.drop (2 * i)).take 2)
  let waves := match r with | .inr h => (Kernel.ofBytes 0 h).waves | .inl _ => 0
  if payloadBad ws chips waves then (v.failRecord key ctx 0x0614 slotVa key.slot).launchEnds key false
  else
    let words := launchWords ws slotVa prio phase chips
    let x := v.addLaunch (v.newLaunch key ctx words gen)
    match chips.find? fun c => !x.reaches c with
    | some _ => x.failLaunch key 0x0411 x.openAddr x.openDetail.toNat x.pkg.chipNo
    | none => (chips.filter fun c => c != x.pkg.chipNo).foldl (fun s c => s.send c (.launch key ctx words gen)) x

/-- A payload whose chip list and kernel header have been read. -/
theorem beginLaunch_named (h : payloadBad ws [] 0 = false) {bs : List Byte} {u v : State} {r : Sum (BitVec 16 × DWord) (List Byte)}
    (hlist : if word ws 5 = 0 then (bs, u) = (natBytes 2 s.pkg.chipNo, s) else s.dpRead ctx (nth 0 ws 5) (2 * word ws 6) = (.inr bs, u))
    (hhead : u.dpRead ctx (nth 0 ws 2) 64 = (r, v)) :
    s.beginLaunch key ctx prio phase ws slotVa =
      v.launchNamed key ctx prio phase ws slotVa (match s.ctx? ctx with | some c => c.gen | none => 0) bs r := by
  have hread : (if word ws 5 = 0 then (Sum.inr (natBytes 2 s.pkg.chipNo), s) else s.dpRead ctx (nth 0 ws 5) (2 * word ws 6)) = (.inr bs, u) := by
    by_cases h5 : word ws 5 = 0
    · rw [if_pos h5] at hlist ⊢
      injection hlist with hbs hu
      rw [hbs, hu]
    · rw [if_neg h5] at hlist ⊢
      exact hlist
  unfold State.beginLaunch
  dsimp only
  rw [h, if_neg Bool.false_ne_true, hread]
  dsimp only
  rw [hhead] <;> rfl

/-- A chip list that breaks R277 with its header. -/
theorem launchNamed_bad {v : State} {gen : Word} {bs : List Byte} {r : Sum (BitVec 16 × DWord) (List Byte)}
    (h : payloadBad ws ((List.range (word ws 6)).map fun i => ofBytes ((bs.drop (2 * i)).take 2))
      (match r with | .inr h => (Kernel.ofBytes 0 h).waves | .inl _ => 0) = true) :
    v.launchNamed key ctx prio phase ws slotVa gen bs r = (v.failRecord key ctx 0x0614 slotVa key.slot).launchEnds key false := if_pos h

section

variable {v : State} {gen : Word} {bs : List Byte} {r : Sum (BitVec 16 × DWord) (List Byte)} {chips : List Nat}
  (hchips : chips = (List.range (word ws 6)).map fun i => ofBytes ((bs.drop (2 * i)).take 2))
  (h : payloadBad ws chips (match r with | .inr h => (Kernel.ofBytes 0 h).waves | .inl _ => 0) = false)
  {x : State} (hx : x = v.addLaunch (v.newLaunch key ctx (launchWords ws slotVa prio phase chips) gen))
include hchips h hx

/-- A launch whose chips are all in reach is copied to them. -/
theorem launchNamed_copied (hreach : ∀ c ∈ chips, x.reaches c = true) :
    v.launchNamed key ctx prio phase ws slotVa gen bs r = (chips.filter fun c => c != x.pkg.chipNo).foldl
      (fun s c => s.send c (.launch key ctx (launchWords ws slotVa prio phase chips) gen)) x := by
  have hnone : chips.find? (fun c => !x.reaches c) = none := List.find?_eq_none.mpr fun c hc => by simp [hreach c hc]
  subst hchips hx
  unfold State.launchNamed
  refine (if_neg (by rw [h]; exact Bool.false_ne_true)).trans ?_
  dsimp only
  rw [hnone]

/-- One that names a chip out of reach fails. -/
theorem launchNamed_unreached {c : Nat} (hc : c ∈ chips) (hreach : x.reaches c = false) :
    v.launchNamed key ctx prio phase ws slotVa gen bs r = x.failLaunch key 0x0411 x.openAddr x.openDetail.toNat x.pkg.chipNo := by
  obtain ⟨d, hd⟩ := Option.isSome_iff_exists.mp (List.find?_isSome.mpr ⟨c, hc, by rw [hreach]; rfl⟩ : (chips.find? fun c => !x.reaches c).isSome)
  subst hchips hx
  unfold State.launchNamed
  refine (if_neg (by rw [h]; exact Bool.false_ne_true)).trans ?_
  dsimp only
  rw [hd]

end

end

/-! ### A chip admits its copy (R52, R283, R289) -/

section

variable {s : State} {key : LKey} {l : Launch} (hl : s.launch? key = some l) (hstage : l.stage = 0) (hnew : l.k = none)
  (hindex : l.index < l.chips.length) (hheld : s.ctxHeld l.ctx = false)
include hl

/-- A copy waits for a place. -/
theorem launchAdmit_waits (hplace : s.hasPlace l = false) : execLaunchAdmit key s = .next s := by
  unfold execLaunchAdmit
  rw [hl]
  exact if_pos (.inr (.inr (.inr (.inr hplace))))

include hstage hnew hindex hheld

/-- What a chip with a place does with the kernel header of its copy. -/
theorem launchAdmit_eq (hplace : s.hasPlace l = true) {bs : List Byte} {u : State} (hread : s.dpRead l.ctx l.hdr 64 = (.inr bs, u)) :
    execLaunchAdmit key s =
      match Kernel.bad bs with
      | some off => .next (u.failLaunch key 0x0610 l.hdr off s.pkg.chipNo)
      | none =>
        let k := Kernel.ofBytes l.hdr bs
        if k.msetMask ≠ 0 ∧ k.coresident = false then .next (u.failLaunch key 0x0613 l.slotVa key.slot s.pkg.chipNo)
        else if k.coresident ∧ l.mine > ((List.range 256).map fun c => u.capacity k c).foldl (· + ·) 0 then
          .next (u.failLaunch key 0x0612 l.slotVa key.slot s.pkg.chipNo)
        else
          .next ((u.mapLaunch key fun l => { l with k := some k }).send key.chip
            (.arrive key s.pkg.chipNo (match u.ctx? l.ctx with | some c => c.gen | none => 0))) := by
  unfold execLaunchAdmit
  rw [hl]
  dsimp only
  rw [if_neg (by simp [hstage, hnew, hheld, hplace, Nat.not_le.mpr hindex]), hread] <;> rfl

end

/-- A place on this chip for a launch of a priority. -/
theorem placeFor_iff (s : State) (prio : Nat) :
    s.placeFor prio = true ↔ s.inProgress + (s.launches.filter fun l => s.copyWaiting l && decide (prio < l.prio)).length < 256 :=
  decide_eq_true_iff

/-- Settles O41. -/
theorem launchesStart : Obligations.LaunchesStart := by
  refine fun s => ⟨fun n slot q p hready => ⟨fun hfull => ?full, fun hplace => ⟨fun hbad => ?bad, fun bs u r v hok hlist hhead => ?named⟩⟩,
    fun key l bs u hl hstage hnew hindex hheld => ⟨fun hfull => ?admitFull, fun hplace hread => ?takes⟩,
    fun key l chip stamp hl hstage hchip hlisted => ?arrival, fun key l n hl hstage => ?start,
    fun key l hl hstage hchip => ⟨fun hlate => ?late, fun hearly => ?early⟩⟩
  case full =>
    have hexec : exec (.launchPacket n slot) s = execLaunchPacket n slot s := rfl
    rw [hexec, execLaunchPacket, hready]
    exact if_pos (by rw [Bool.not_eq_true', ← Bool.not_eq_true, placeFor_iff]; exact hfull)
  case bad =>
    have hexec : exec (.launchPacket n slot) s = execLaunchPacket n slot s := rfl
    dsimp only
    rw [hexec, execLaunchPacket, hready]
    dsimp only
    rw [(placeFor_iff s q.prio).mpr hplace, if_neg (by decide), beginLaunch_bad hbad] <;> rfl
  case named =>
    have hexec : exec (.launchPacket n slot) s = execLaunchPacket n slot s := rfl
    dsimp only at hlist
    have hbegin : exec (.launchPacket n slot) s = .next (v.launchNamed { chip := s.pkg.chipNo, queue := n, slot := slot, node := none } q.ctx q.prio none
        p.words (q.slotVa slot) (match (s.stagePacket n slot 1).ctx? q.ctx with | some c => c.gen | none => 0) bs r) := by
      rw [hexec, execLaunchPacket, hready]
      dsimp only
      rw [(placeFor_iff s q.prio).mpr hplace, if_neg (by decide), beginLaunch_named hok hlist hhead] <;> rfl
    dsimp only
    refine ⟨fun hbad => ?_, fun hgood hreach => ?_, fun c hc hgood hreach => ?_⟩
    · exact hbegin.trans (congrArg _ (launchNamed_bad hbad))
    · exact hbegin.trans (congrArg _ (launchNamed_copied rfl hgood rfl hreach))
    · exact hbegin.trans (congrArg _ (launchNamed_unreached rfl hgood rfl hc hreach))
  case admitFull =>
    refine launchAdmit_waits hl ?_
    rw [State.hasPlace, Bool.or_eq_false_iff, ← Bool.not_eq_true, ← Bool.not_eq_true, placeFor_iff]
    exact not_or.mp hfull
  case takes =>
    have hhas : s.hasPlace l = true := by
      rw [State.hasPlace, Bool.or_eq_true, placeFor_iff]
      exact hplace
    have hexec : exec (.launchAdmit key) s = execLaunchAdmit key s := rfl
    dsimp only
    rw [hexec, launchAdmit_eq hl hstage hnew hindex hheld hhas hread]
    refine ⟨fun off hbad => ?_, fun hgood hsets hlone => ?_, fun hgood hco hroom => ?_, fun hgood hsets hroom => ?_⟩
    · rw [hbad]
    all_goals
      rw [hgood]
      dsimp only
    · exact if_pos ⟨hsets, hlone⟩
    · rw [if_neg fun h => by simp [hco] at h]
      exact if_pos ⟨hco, hroom⟩
    · rw [if_neg fun h => hsets.elim h.1 fun hco => by simp [hco] at h]
      exact if_neg fun h => Nat.not_lt.mpr (hroom h.1) h.2
  case arrival =>
    have hexec : exec (.startBarrierArrival key chip stamp) s = execStartBarrierArrival key chip stamp s := rfl
    have hsame : (l.arrived = [] ∨ l.gen = stamp) ↔ ¬(l.arrived.isEmpty = false ∧ l.gen ≠ stamp) := by
      rw [Decidable.not_and_iff_not_or_not, Bool.not_eq_false, List.isEmpty_iff, Classical.not_not]
    dsimp only
    rw [hexec, execStartBarrierArrival, hl]
    dsimp only
    rw [if_neg (by simpa [hstage, hchip] using hlisted), hsame, Classical.not_not]
    refine ⟨fun h => if_pos h, fun h hfew => (if_neg h).trans (if_pos hfew), fun h hall => (if_neg h).trans (if_neg (Nat.not_lt.mpr hall))⟩
  case start =>
    unfold State.startLaunch
    rw [hl]
    exact if_neg (Classical.not_not.mpr hstage)
  case late =>
    have hexec : exec (.barrierTimeout key) s = execBarrierTimeout key s := rfl
    rw [hexec, execBarrierTimeout, hl]
    exact if_pos ⟨hstage, hchip, hlate⟩
  case early =>
    have hexec : exec (.barrierTimeout key) s = execBarrierTimeout key s := rfl
    rw [hexec, execBarrierTimeout, hl]
    exact if_neg fun h => Nat.not_le.mpr hearly h.2.2

end Sys2Proof.Machine

/-! Admission of teams and the registers a wave starts with (R143, R278, R283, R291, R292). -/

namespace Sys2Proof.Machine

/-! ### Registers at the start (R143) -/

/-- The arguments of a wave's start registers. -/
theorem startRegs_sget (l : Launch) (k : Kernel) (t w : Nat) {i : Nat} {v : Word}
    (h : [l.karg.setWidth 32, (l.karg >>> 32).setWidth 32, BitVec.ofNat 32 t, BitVec.ofNat 32 (t * k.waves + w), BitVec.ofNat 32 l.index][i]? = some v) :
    (startRegs l k t w).sget i = v :=
  (congrArg (cget 0 _) (Nat.zero_add i).symm).trans (cget_csetMany_inside (c := []) rfl h)

/-- The thread numbers stand in v0. -/
theorem startRegs_vget (l : Launch) (k : Kernel) (t w : Nat) {lane : Nat} (h : lane < 64) :
    (startRegs l k t w).vget 0 lane = BitVec.ofNat 32 (64 * w + lane) := by
  refine (congrArg (cget 0 _) (show 64 * 0 + lane = 0 + lane by omega)).trans (cget_csetMany_inside (c := []) rfl ?_)
  rw [List.getElem?_map, List.getElem?_range h] <;> rfl

/-- Every register past those written is 0. -/
theorem startRegs_vget_one (l : Launch) (k : Kernel) (t w lane : Nat) : (startRegs l k t w).vget 1 lane = 0 :=
  (cget_csetMany_outside (.inr (by rw [List.length_map, List.length_range]; omega))).trans rfl

/-! ### Admission to a core -/

/-- The next team of a launch placed on a core. -/
def State.placed (s : State) (key : LKey) (l : Launch) (k : Kernel) (core : Nat) (p : List Nat × Nat × List Nat) : State :=
  (s.place l k l.next core p).mapLaunch key fun x => { x with
    next := x.next + x.chips.length, live := x.live + 1, since := (s.place l k l.next core p).clock, overdue := false,
    firstAdmitted := if x.firstAdmitted.contains core then x.firstAdmitted else x.firstAdmitted ++ [core] }

section

variable {s : State} {key : LKey} {l : Launch} {k : Kernel} {core : Nat} (hl : s.launch? key = some l) (hk : l.k = some k)
include hl hk

theorem admitTo_placed {p : List Nat × Nat × List Nat} (hfits : s.fits k core = some p) : s.admitTo key core = some (s.placed key l k core p) := by
  unfold State.admitTo
  rw [hl]
  dsimp only
  rw [hk]
  dsimp only
  rw [hfits] <;> rfl

theorem admitTo_none (hfits : s.fits k core = none) : s.admitTo key core = none := by
  unfold State.admitTo
  rw [hl]
  dsimp only
  rw [hk]
  dsimp only
  rw [hfits]

variable (hkey : l.key = key)
include hkey

/-- A co-resident launch's team stays where all the others find a place too. -/
theorem admitSome_placed {p : List Nat × Nat × List Nat} (hfits : s.fits k core = some p) :
    s.admitSome l core =
      if (State.admitAll key (l.left - 1) (s.placed key l k core p)).isSome then s.placed key l k core p else s := by
  unfold State.admitSome
  rw [hkey, admitTo_placed hl hk hfits]

theorem admitSome_none (hfits : s.fits k core = none) : s.admitSome l core = s := by
  unfold State.admitSome
  rw [hkey, admitTo_none hl hk hfits]

end

/-- When a co-resident launch may place its teams. -/
theorem mayPlace_iff {s : State} {l : Launch} {key : LKey} (hkey : l.key = key) :
    s.mayPlace l = true ↔ s.waiting l = true ∧ l.coresident = true ∧
      ∀ x ∈ s.launches, x.key ≠ key → s.waiting x = true → x.coresident = true → x.outranks l = false := by
  subst hkey
  simp [State.mayPlace, and_assoc]

/-- Settles O42. -/
theorem teamsAdmitted : Obligations.TeamsAdmitted := by
  refine ⟨fun key core s l k hl => ⟨fun hco => ⟨fun hmay => ?refused, fun p hmay hk hfits => ?admitted, fun hmay hk hfits => ?unfit⟩,
    fun hco hkey => ⟨fun p u hmay hk hfits hall => ?together, fun h => ?alone⟩⟩, fun key s l hl hkey => ?coresident,
    fun key s l hl => ⟨fun hwait hlate => ?expired, fun h => ?notExpired⟩, fun l k t w lane hlane => ?start⟩
  case refused =>
    have hexec : exec (.teamAdmission key core) s = execTeamAdmission key core s := rfl
    rw [hexec, execTeamAdmission, hl]
    dsimp only
    rw [hco, if_neg Bool.false_ne_true, hmay] <;> rfl
  case admitted =>
    have hexec : exec (.teamAdmission key core) s = execTeamAdmission key core s := rfl
    rw [hexec, execTeamAdmission, hl]
    dsimp only
    rw [hco, if_neg Bool.false_ne_true, hmay, if_neg (by decide), admitTo_placed hl hk hfits] <;> rfl
  case unfit =>
    have hexec : exec (.teamAdmission key core) s = execTeamAdmission key core s := rfl
    rw [hexec, execTeamAdmission, hl]
    dsimp only
    rw [hco, if_neg Bool.false_ne_true, hmay, if_neg (by decide), admitTo_none hl hk hfits]
  case together =>
    have hexec : exec (.teamAdmission key core) s = execTeamAdmission key core s := rfl
    have hplaced : State.admitAll key (l.left - 1) (s.placed key l k core p) = some u := hall
    rw [hexec, execTeamAdmission, hl]
    dsimp only
    rw [if_pos hco, if_pos hmay, admitSome_placed hl hk hkey hfits, if_pos (by rw [hplaced]; rfl)] <;> rfl
  case alone =>
    have hexec : exec (.teamAdmission key core) s = execTeamAdmission key core s := rfl
    have hstands : (if s.mayPlace l then s.admitSome l core else s) = s := by
      rcases h with hmay | ⟨hk, hfits⟩ | ⟨p, hk, hfits, hall⟩
      · exact if_neg (by rw [hmay]; exact Bool.false_ne_true)
      · rw [admitSome_none hl hk hkey hfits, ite_self]
      · have hplaced : State.admitAll key (l.left - 1) (s.placed key l k core p) = none := hall
        rw [admitSome_placed hl hk hkey hfits, hplaced]
        exact ite_self _
    rw [hexec, execTeamAdmission, hl]
    dsimp only
    rw [if_pos hco, hstands]
  case coresident =>
    have hexec : exec (.coresidentAdmission key) s = execCoresidentAdmission key s := rfl
    dsimp only
    rw [hexec, execCoresidentAdmission, hl, ← mayPlace_iff hkey]
    dsimp only
    refine ⟨fun u hmay hall => ?_, fun hmay hall => ?_, fun hmay => ?_⟩
    · rw [hmay, if_neg (by decide), hall]
    · rw [hmay, if_neg (by decide), hall]
    · rw [if_pos (by simpa using hmay)]
  case expired =>
    have hexec : exec (.admissionWaitExpiry key) s = execAdmissionWaitExpiry key s := rfl
    rw [hexec, execAdmissionWaitExpiry, hl]
    exact congrArg Host.Outcome.next (if_pos (by simpa [hwait] using hlate))
  case notExpired =>
    have hexec : exec (.admissionWaitExpiry key) s = execAdmissionWaitExpiry key s := rfl
    rw [hexec, execAdmissionWaitExpiry, hl]
    exact congrArg Host.Outcome.next (if_neg (by rcases h with h | h <;> simp [h]))
  case start =>
    exact ⟨startRegs_sget l k t w rfl, startRegs_sget l k t w rfl, startRegs_sget l k t w rfl, startRegs_sget l k t w rfl,
      startRegs_sget l k t w rfl, (cget_csetMany_outside (.inr (Nat.le_refl 5))).trans rfl, startRegs_vget l k t w hlane,
      startRegs_vget_one l k t w lane, rfl, rfl, rfl, rfl, rfl, rfl⟩

end Sys2Proof.Machine

/-! The end of teams, launches, graphs and packets (R124, R279 to R282, R285, R287, R289). -/

namespace Sys2Proof.Machine

/-! ### GRAPH packets (R280, R282) -/

section

variable {s : State} {n slot : Nat} {q : Queue} {p : Packet} {c : Ctx} (hready : s.ready n slot 3 = some (q, p)) (hc : s.ctx? q.ctx = some c)
include hready hc

theorem graphPacket_past (h : p.phase < c.cur) :
    execGraphPacket n slot s = .next ((s.packetRecord q.ctx 0x0615 (q.slotVa slot) slot).packetDone n slot false) := by
  unfold execGraphPacket
  rw [hready]
  dsimp only
  rw [hc]
  dsimp only
  rw [if_neg (Nat.not_lt.mpr (Nat.le_of_lt h)), if_pos h]

theorem graphPacket_future (h : c.cur < p.phase) : execGraphPacket n slot s = .next s := by
  unfold execGraphPacket
  rw [hready]
  dsimp only
  rw [hc]
  exact if_pos h

/-- The state in which a graph of the current phase begins. -/
def State.graphBegins (s : State) (n slot : Nat) (q : Queue) (p : Packet) : State :=
  (s.stagePacket n slot 1).mapCtx q.ctx fun c => { c with closing := c.closing || natBit (word p.words 3) 32 }

/-- The first field of a node table that breaks R280, with its node. -/
def tableBad (p : Packet) (bs : List Byte) : Option (Nat × Nat) :=
  (List.range (word p.words 3 % 2 ^ 13)).findSome? fun i => (nodeBad i ((bs.drop (128 * i)).take 128)).map fun off => (i, off)

variable (hphase : p.phase = c.cur)
include hphase

theorem graphPacket_unread {code : BitVec 16} {a : DWord} (ht : p.table = some (.inl (code, a))) :
    let u := s.graphBegins n slot q p
    execGraphPacket n slot s = .next ((u.packetRecord q.ctx code (u.recAddr code a)
      (u.recDetail code (u.engDetail (engFor 0 q.ctx) 0 .read a)).toNat).packetDone n slot false) := by
  unfold execGraphPacket
  rw [hready]
  dsimp only
  rw [hc]
  dsimp only
  rw [hphase, if_neg (Nat.lt_irrefl _), if_neg (Nat.lt_irrefl _), ht] <;> rfl

variable {bs : List Byte} (ht : p.table = some (.inr bs))
include ht

theorem graphPacket_bad {i off : Nat} (hbad : tableBad p bs = some (i, off)) :
    execGraphPacket n slot s =
      .next (((s.graphBegins n slot q p).packetRecord q.ctx 0x0611 (q.slotVa slot) (i + off * 2 ^ 16)).packetDone n slot false) := by
  unfold execGraphPacket
  rw [hready]
  dsimp only
  rw [hc]
  dsimp only
  rw [hphase, if_neg (Nat.lt_irrefl _), if_neg (Nat.lt_irrefl _), ht]
  dsimp only [Option.getD_some]
  unfold tableBad at hbad
  rw [hbad] <;> rfl

theorem graphPacket_good (hgood : tableBad p bs = none) :
    let u := s.graphBegins n slot q p
    let g : Graph := {
      id := u.fresh.1, ctx := q.ctx, queue := n, slot := slot, phase := p.phase, last := natBit (word p.words 3) 32, scope := p.scope, compl := p.compl,
      nodes := (List.range (word p.words 3 % 2 ^ 13)).map fun i => nodeOf ((bs.drop (128 * i)).take 128), failed := false }
    execGraphPacket n slot s =
      .next (p.dropped.foldl (fun s m => s.nodeRetired { chip := s.pkg.chipNo, queue := n, slot := slot, node := some m } false)
        { u.fresh.2 with graphs := u.fresh.2.graphs ++ [g] }) := by
  unfold execGraphPacket
  rw [hready]
  dsimp only
  rw [hc]
  dsimp only
  rw [hphase, if_neg (Nat.lt_irrefl _), if_neg (Nat.lt_irrefl _), ht]
  dsimp only [Option.getD_some]
  unfold tableBad at hgood
  rw [hgood] <;> rfl

end

/-! ### Graph nodes (R281) -/

/-- When a node of a graph starts. -/
theorem nodeDue_iff (s : State) (g : Graph) (node : Nat) :
    (!g.nodeReady node || ((List.range node).any fun m => g.nodeReady m) || !s.placeFor (s.graphPrio g) || s.ctxHeld g.ctx) = false ↔
      g.nodeReady node = true ∧ (∀ m, m < node → g.nodeReady m = false) ∧ s.placeFor (s.graphPrio g) = true ∧ s.ctxHeld g.ctx = false := by
  simp [and_assoc]

/-- Settles O43. -/
theorem launchesEnd : Obligations.LaunchesEnd := by
  refine fun s => ⟨fun team t ht => ⟨fun hmay => ?released, fun hmay => ?held⟩,
    fun key l hl => ⟨fun hstage hindex hall hnone => ?retired, fun h => ?running⟩,
    fun key l chip hl hchip hlisted hnew h0 h3 => ?report,
    fun n slot q p c hready hc => ⟨graphPacket_past hready hc, graphPacket_future hready hc, fun code a hphase ht => graphPacket_unread hready hc hphase ht,
      fun bs i off hphase ht hbad => graphPacket_bad hready hc hphase ht hbad, fun bs hphase ht hgood => graphPacket_good hready hc hphase ht hgood⟩,
    fun id node g x q hg hx => ?node, fun n slot q p hp => ?complete⟩
  case released =>
    have hexec : exec (.teamRelease team) s = execTeamRelease team s := rfl
    rw [hexec, execTeamRelease, ht]
    dsimp only
    rw [hmay, if_neg (by decide)]
  case held =>
    have hexec : exec (.teamRelease team) s = execTeamRelease team s := rfl
    rw [hexec, execTeamRelease, ht]
    dsimp only
    rw [hmay] <;> rfl
  case retired =>
    have hexec : exec (.launchRetire key) s = execLaunchRetire key s := rfl
    have hover : l.over = true := by simp [Launch.over, hstage, hindex, hall, hnone]
    rw [hexec, execLaunchRetire, hl]
    dsimp only
    rw [hover, if_neg (by decide)]
  case running =>
    have hexec : exec (.launchRetire key) s = execLaunchRetire key s := rfl
    have hover : l.over = false := by
      rcases h with h | h | h
      · simp [Launch.over, h]
      · simp [Launch.over, Nat.not_le.mpr h]
      · simp [Launch.over, h]
    rw [hexec, execLaunchRetire, hl]
    dsimp only
    rw [hover] <;> rfl
  case report =>
    have hexec : exec (.retireReport key chip) s = execRetireReport key chip s := rfl
    dsimp only
    rw [hexec, execRetireReport, hl]
    dsimp only
    rw [if_neg (by simp only [hchip, hlisted, hnew, h0, h3, ne_eq, not_true, Bool.true_eq_false, Bool.false_eq_true, or_self, not_false_eq_true]), List.length_append, List.length_singleton]
    exact ⟨fun hfew => if_pos hfew, fun hall => if_neg (Nat.not_lt.mpr hall)⟩
  case node =>
    have hexec : exec (.graphNodeStart id node) s = execGraphNodeStart id node s := rfl
    obtain ⟨rest, hdrop⟩ : ∃ rest, g.nodes.drop node = x :: rest := by
      cases hd : g.nodes.drop node with
      | nil => rw [hd] at hx; cases hx
      | cons y rest => rw [hd, List.head?_cons, Option.some.injEq] at hx; exact ⟨rest, by rw [hx]⟩
    dsimp only
    rw [hexec, execGraphNodeStart, hg]
    dsimp only
    rw [hdrop, ← nodeDue_iff]
    dsimp only
    refine ⟨fun hdue hq => ?_, fun hdue => ?_⟩
    · have hqueue : ∀ gs, ({ s with graphs := gs } : State).queue? g.queue = some q := fun _ => hq
      have hprio : ∀ gs, ({ s with graphs := gs } : State).graphPrio g = q.prio := fun _ => by rw [State.graphPrio, hqueue]
      rw [hdue, if_neg Bool.false_ne_true, hprio, hqueue]
    · rw [if_pos (Bool.not_eq_false _ ▸ hdue)]
  case complete =>
    have hexec : exec (.packetComplete n slot) s = execPacketComplete n slot s := rfl
    dsimp only
    rw [hexec, execPacketComplete, hp]
    dsimp only
    refine ⟨fun hearly => if_pos hearly, fun hdone hkind => ?_, fun hdone hkind => ?_, fun hfailed hkind => ?_⟩
    · rw [if_neg (Nat.not_lt.mpr hdone), if_pos hkind]
    · rw [if_neg (by omega), if_neg (Classical.not_not.mpr hkind), if_pos hdone, if_pos hdone]
    · rw [if_neg (by omega), if_neg (Classical.not_not.mpr hkind)]
      exact congrArg Host.Outcome.next (if_neg (Nat.ne_of_gt hfailed))

end Sys2Proof.Machine

/-! What each reset clears and keeps (R371, R384). -/

namespace Sys2Proof.Machine

/-! ### RESETCAUSE (R371) -/

/-- RESETCAUSE after a reset: the old bits with its own, and the count above them. -/
theorem resetCauseAfter_toNat {old : Word} {bit : Nat} (hbit : bit < 16) :
    (resetCauseAfter old bit).toNat = 2 ^ 16 * min 255 (old.toNat / 2 ^ 16 % 256 + 1) + ((old.toNat % 2 ^ 16) ||| 2 ^ bit) := by
  have hlow : (old.toNat % 2 ^ 16 ||| 2 ^ bit) < 2 ^ 16 :=
    Nat.or_lt_two_pow (Nat.mod_lt _ (by decide)) (Nat.pow_lt_pow_right (by decide) hbit)
  have hcount : min 255 (old.toNat / 2 ^ 16 % 256 + 1) ≤ 255 := Nat.min_le_left _ _
  unfold resetCauseAfter field
  rw [BitVec.toNat_or, BitVec.toNat_and, BitVec.toNat_ofNat, BitVec.toNat_ofNat]
  change (_ % 2 ^ 32 &&& 2 ^ 16 - 1) ||| min 255 (old.toNat / 2 ^ 16 % 256 + 1) * 2 ^ 16 % 2 ^ 32 = _
  generalize (old.toNat % 2 ^ 16 ||| 2 ^ bit) = low at *
  generalize min 255 (old.toNat / 2 ^ 16 % 256 + 1) = count at *
  rw [Nat.mod_eq_of_lt (show low < 2 ^ 32 by omega), Nat.mod_eq_of_lt (show count * 2 ^ 16 < 2 ^ 32 by omega), Nat.and_two_pow_sub_one_eq_mod,
    Nat.mod_eq_of_lt hlow, Nat.or_comm, Nat.mul_comm, Nat.two_pow_add_eq_or_of_lt hlow]

/-- Its own bit is set. -/
theorem resetCauseAfter_bit {old : Word} {bit : Nat} (hbit : bit < 16) : (resetCauseAfter old bit).getLsbD bit = true := by
  rw [← BitVec.testBit_toNat, resetCauseAfter_toNat hbit, Nat.testBit_two_pow_mul_add _ (Nat.or_lt_two_pow (Nat.mod_lt _ (by decide))
    (Nat.pow_lt_pow_right (by decide) hbit)), if_pos hbit, Nat.testBit_or, Nat.testBit_two_pow_self, Bool.or_true]

/-- COUNT is one more, at most 255. -/
theorem resetCauseAfter_count {old : Word} {bit : Nat} (hbit : bit < 16) :
    (resetCauseAfter old bit).toNat / 2 ^ 16 = min 255 (old.toNat / 2 ^ 16 % 256 + 1) := by
  have hlow : (old.toNat % 2 ^ 16 ||| 2 ^ bit) < 2 ^ 16 :=
    Nat.or_lt_two_pow (Nat.mod_lt _ (by decide)) (Nat.pow_lt_pow_right (by decide) hbit)
  rw [resetCauseAfter_toNat hbit, Nat.mul_add_div (by decide), Nat.div_eq_of_lt hlow, Nat.add_zero]

/-! ### Memory across a reset -/

theorem State.loseKey_mem (s : State) (slot : Nat) : (s.loseKey slot).m.mem = s.m.mem := by
  unfold State.loseKey
  split <;> rfl

theorem State.loseKey_pkg (s : State) (slot : Nat) : (s.loseKey slot).pkg.cap = s.pkg.cap ∧ (s.loseKey slot).pkg.resetCause = s.pkg.resetCause := by
  unfold State.loseKey
  split <;> exact ⟨rfl, rfl⟩

/-- What a fold keeps, where each step over an element of the list does. -/
theorem foldl_keeps_of_mem {α β : Type} {p : α → Prop} {f : α → β → α} {l : List β} (h : ∀ x, ∀ y ∈ l, p x → p (f x y)) :
    ∀ x, p x → p (l.foldl f x) := by
  induction l with
  | nil => exact fun _ hx => hx
  | cons y l ih =>
    exact fun x hx => ih (fun x z hz => h x z (List.mem_cons_of_mem y hz)) _ (h x y List.mem_cons_self hx)

/-- A byte of no dirty sector survives its line's leaving. -/
theorem State.discardLines_memByte {s : State} {p : L2Line → Bool} {a : Nat}
    (h : ∀ l ∈ s.m.l2, l.line = a / 1024 → l.dirty.getLsbD (a % 1024 / 256) = false) : (s.discardLines p).memByte a = s.memByte a := by
  unfold State.discardLines State.memByte
  dsimp only
  refine foldl_keeps_of_mem (p := fun m : MemSys => cget 0 m.mem a = cget 0 s.m.mem a) (fun m l hl hm => ?_) s.m rfl
  refine foldl_keeps_of_mem (p := fun m : MemSys => cget 0 m.mem a = cget 0 s.m.mem a) (fun m i hi hm => ?_) m hm
  have hlen : ((List.range 256).map fun j => (Config.freeByte (s.free * 2 ^ 56 + l.line * 1024 + 256 * i + j) : Byte)).length = 256 := by
    rw [List.length_map, List.length_range]
  revert hlen
  generalize (List.range 256).map _ = lost
  intro hlen
  have hi4 : i < 4 := List.mem_range.mp hi
  split
  next hdirty =>
    refine (cget_csetMany_outside ?_).trans hm
    refine Decidable.byContradiction fun hin => ?_
    have hline : l.line = a / 1024 := by omega
    have hsec : a % 1024 / 256 = i := by omega
    have hclean := h l (List.mem_filter.mp hl).1 hline
    rw [hsec, hdirty] at hclean
    cases hclean
  next => exact hm

/-! ### The reset of a package -/

section

variable (s : State) {bit : Nat} (hbit : bit < 16)

/-- The keys' leaving keeps memory, what is fused, and RESETCAUSE. -/
theorem State.loseKeys_keeps (keys : List Nat) (u : State) :
    (keys.foldl State.loseKey u).m.mem = u.m.mem ∧ (keys.foldl State.loseKey u).pkg.cap = u.pkg.cap ∧
      (keys.foldl State.loseKey u).pkg.resetCause = u.pkg.resetCause :=
  foldl_keeps (p := fun v : State => v.m.mem = u.m.mem ∧ v.pkg.cap = u.pkg.cap ∧ v.pkg.resetCause = u.pkg.resetCause)
    (fun v k ⟨hmem, hcap, hcause⟩ => ⟨(v.loseKey_mem k).trans hmem, (v.loseKey_pkg k).1.trans hcap, (v.loseKey_pkg k).2.trans hcause⟩) keys u ⟨rfl, rfl, rfl⟩

include hbit

/-- What a reset other than power-on clears, counts and keeps (R371). -/
theorem State.resetPackage_clears :
    let t := s.resetPackage bit
    t.ctxs = [] ∧ t.queues = [] ∧ t.launches = [] ∧ t.teams = [] ∧ t.others = [] ∧ t.w = Wave.idle ∧ t.pkg.keys = [] ∧ t.pkg.routes = [] ∧
    t.pkg.hdm = [] ∧ t.m.l2 = [] ∧ t.pkg.cap = s.pkg.cap ∧ t.pkg.resetCause.getLsbD bit = true ∧
    t.pkg.resetCause.toNat / 2 ^ 16 = min 255 (s.pkg.resetCause.toNat / 2 ^ 16 % 256 + 1) ∧
    ∀ a, (∀ l ∈ s.m.l2, l.line = a / 1024 → l.dirty.getLsbD (a % 1024 / 256) = false) → t.memByte a = s.memByte a := by
  obtain ⟨hmem, hcap, hcause⟩ := State.loseKeys_keeps (s.pkg.keys.map (·.1)) (s.discardLines fun _ => true)
  refine ⟨rfl, rfl, rfl, rfl, rfl, rfl, rfl, rfl, rfl, rfl, hcap, resetCauseAfter_bit hbit, ?_, fun a ha => ?_⟩
  · exact (resetCauseAfter_count hbit).trans (congrArg (fun c : Word => min 255 (c.toNat / 2 ^ 16 % 256 + 1)) hcause)
  · exact (congrArg (cget 0 · a) hmem).trans (State.discardLines_memByte ha)

end

/-- Settles O44. -/
theorem resetsClear : Obligations.ResetsClear := by
  refine fun s => ⟨⟨_, rfl, s.resetPackage_clears (by decide)⟩, ⟨_, rfl, s.resetPackage_clears (by decide)⟩,
    ⟨_, rfl, s.resetPackage_clears (by decide)⟩, ⟨_, _, rfl, rfl, fun hcap => ?_⟩, ⟨_, _, rfl, rfl, fun hcap => ?_⟩,
    ⟨_, rfl, rfl, rfl, rfl, rfl, rfl, rfl, rfl, rfl⟩, ⟨_, rfl, rfl, rfl, rfl, rfl, rfl, rfl⟩⟩
  all_goals
    rw [← hcap]
    exact State.resetPackage_clears _ (by decide)

end Sys2Proof.Machine

/-! The MMIO window, the I3C target and the host link (R106, R108, R114, R261, R290, R371, R374, R377, R379, R384). -/

namespace Sys2Proof.Machine

/-! ### Slices (R106, R108) -/

theorem lookup_assign_other {α : Type} {a b : Nat} (h : b ≠ a) (v : α) (l : List (Nat × α)) : lookup (assign a v l) b = lookup l b := by
  induction l with
  | nil => simp [assign, lookup, h.symm]
  | cons x l ih =>
    obtain ⟨k, y⟩ := x
    by_cases hk : k = a
    · simp [assign, lookup, hk, h.symm]
    · simp [assign, lookup, hk, ih]

/-- A slice whose registers were written. -/
theorem State.slice_assign_self (s : State) (n : Nat) (x : Slice) : ({ s with slices := assign n x s.slices } : State).slice n = x := by
  unfold State.slice
  rw [lookup_assign] <;> rfl

/-- Every other slice. -/
theorem State.slice_assign_other (s : State) {n k : Nat} (h : k ≠ n) (x : Slice) :
    ({ s with slices := assign n x s.slices } : State).slice k = s.slice k := by
  unfold State.slice
  rw [lookup_assign_other h]

/-- The window's word of a slice's L2TENMASK. -/
theorem State.mmioWord_l2tenmask (s : State) {n : Nat} (h : n < 128) :
    s.mmioWord (0x1000 + 0x40 * n) = (s.slice n).mask1.toNat * 2 ^ 16 + (s.slice n).mask0.toNat := by
  unfold State.mmioWord
  rw [if_neg (by omega), if_neg (by omega), if_neg (by omega), if_neg (by omega), if_neg (by omega), if_pos (by omega),
    show (0x1000 + 0x40 * n - 0x1000) / 0x40 = n by omega, show (0x1000 + 0x40 * n) % 0x40 = 0 by omega] <;> rfl

/-! ### Accesses to the window (R377) -/

/-- An access of 4 or 8 aligned bytes inside the window. -/
theorem mmioWrite_eq {s : State} {addr size : Nat} {val : DWord} (h : (size = 4 ∨ size = 8) ∧ addr % size = 0 ∧ addr + size ≤ 0x10000) :
    execMmioWrite addr size val s =
      .next (if size = 8 then (s.mmioPut addr (val.toNat % 2 ^ 32)).mmioPut (addr + 4) (val.toNat / 2 ^ 32)
        else s.mmioPut addr (val.toNat % 2 ^ 32)) := if_pos h

/-- Any other access. -/
theorem mmioWrite_bad {s : State} {addr size : Nat} {val : DWord} (h : ¬((size = 4 ∨ size = 8) ∧ addr % size = 0 ∧ addr + size ≤ 0x10000)) :
    execMmioWrite addr size val s = .next { s with out := s.out ++ [.bus [] false] } := if_neg h

/-- A bit of RESETCAUSE after a clear. -/
theorem clearCause_bit (s : State) (mask : Word) {i : Nat} (hi : i < 32) :
    (s.clearCause mask).pkg.resetCause.getLsbD i = (s.pkg.resetCause.getLsbD i && !(mask.getLsbD i && decide (i < 8))) := by
  have hmask : ∀ i, i < 32 → (0xFF : Word).getLsbD i = decide (i < 8) := by decide
  have hbits : (s.clearCause mask).pkg.resetCause = s.pkg.resetCause &&& ~~~ (mask &&& 0xFF) := rfl
  rw [hbits, BitVec.getLsbD_and, BitVec.getLsbD_not, BitVec.getLsbD_and, hmask i hi, decide_eq_true hi, Bool.true_and]

/-- Settles O45. -/
theorem hostWindowWrites : Obligations.HostWindowWrites := by
  refine fun s => ⟨fun addr val halign hin => ?write4, fun addr val halign hin => ?write8, fun addr size val h => ?bad,
    fun n m1 m0 => ⟨_, rfl, fun hn => ?noSlice, fun hn => ?masks, fun k hk => ?maskFrame⟩,
    fun n lim => ⟨_, rfl, fun h => ?limIgnored, fun hn hlo hhi => ?lim, fun k hk => ?limFrame⟩,
    fun n => ⟨fun hcore => ⟨?bypassOff, ?bypassOn⟩, fun hcore b => ?noCore⟩, fun n b => ⟨fun hport => ⟨?portBypass, ?enable⟩, fun hport => ⟨?noBypass, ?noEnable⟩⟩,
    fun core b => ?budget, fun mask => ⟨_, rfl, fun i hi => clearCause_bit s mask hi, rfl⟩, rfl, fun reg v => rfl, fun reg => ?i3c, rfl,
    fun lanes rate => ?link, rfl⟩
  case write4 => exact (mmioWrite_eq ⟨.inl rfl, halign, by omega⟩).trans (congrArg _ (if_neg (by decide)))
  case write8 => exact (mmioWrite_eq ⟨.inr rfl, halign, by omega⟩).trans (congrArg _ (if_pos rfl))
  case bad => exact mmioWrite_bad (by omega)
  case noSlice => exact if_neg (Nat.not_lt.mpr hn)
  case masks =>
    rw [State.mmioWord_l2tenmask _ hn, State.putMasks, if_pos hn, State.slice_assign_self]
    exact ⟨rfl, rfl⟩
  case maskFrame =>
    unfold State.putMasks
    split
    · exact State.slice_assign_other s hk _
    · rfl
  case limIgnored =>
    rcases h with hn | rfl | hhi
    · exact if_neg (by omega)
    · exact if_neg (by rw [show (0 : BitVec 7).toNat = 0 from rfl]; omega)
    · exact if_neg (by omega)
  case lim =>
    rw [State.putPairlim, if_pos ⟨hn, hlo, hhi⟩, State.slice_assign_self]
    exact ⟨rfl, rfl⟩
  case limFrame =>
    unfold State.putPairlim
    split
    · exact State.slice_assign_other s hk _
    · rfl
  case bypassOff | bypassOn =>
    refine congrArg Host.Outcome.next ?_
    unfold State.putBypass
    rw [hcore] <;> rfl
  case noCore =>
    refine congrArg Host.Outcome.next ?_
    unfold State.putBypass
    rw [hcore] <;> rfl
  case portBypass => exact congrArg Host.Outcome.next (if_pos hport)
  case enable =>
    refine congrArg Host.Outcome.next ?_
    unfold State.putEnable
    rw [hport]
    simp
  case noBypass => exact congrArg Host.Outcome.next (if_neg (by rw [hport]; exact Bool.false_ne_true))
  case noEnable =>
    refine congrArg Host.Outcome.next ?_
    unfold State.putEnable
    rw [hport] <;> rfl
  case budget =>
    refine congrArg Host.Outcome.next ?_
    by_cases h : s.corePresent core = true ∧ 16 ≤ b.toNat
    · rw [State.setBudget_eq h.1 h.2 (Nat.le_of_lt_succ b.isLt), if_pos h]
    · rw [if_neg h, State.setBudget, Nat.mod_eq_of_lt b.isLt]
      refine if_pos ?_
      refine Decidable.byContradiction fun hno => ?_
      simp only [not_or, Nat.not_lt, Bool.not_eq_true, Bool.not_eq_false'] at hno
      exact h ⟨hno.2, hno.1⟩
  case i3c =>
    have hexec : exec (.i3cAccess reg none) s = execI3cAccess reg none s := rfl
    rw [hexec, execI3cAccess]
    cases s.i3cReg reg <;> rfl
  case link =>
    refine congrArg Host.Outcome.next ?_
    simp only [List.contains_iff_mem]

end Sys2Proof.Machine

/-! The mailbox's protocol and its commands about contexts (R276, R286, R287, R354, R363, R364, R380, R412). -/

namespace Sys2Proof.Machine

/-! ### The mailbox's protocol (R380, R412) -/

/-- The mailbox holds a command that has not begun. -/
def State.mbHolds (s : State) (cmd : Nat) : Prop := s.pkg.mbBusy = true ∧ s.pkg.mbCmd.toNat = cmd ∧ s.pkg.mbWaits = []

theorem mbRun_cond_iff {s : State} {cmd : Nat} :
    (s.pkg.mbBusy = false ∨ s.pkg.mbCmd.toNat ≠ cmd ∨ s.pkg.mbWaits.isEmpty = false) ↔ ¬s.mbHolds cmd := by
  rw [State.mbHolds, Decidable.not_and_iff_not_or_not, Decidable.not_and_iff_not_or_not, Bool.not_eq_true, ← List.isEmpty_iff, Bool.not_eq_true]

section

variable {s : State} {a : Ans} {cmd : Nat} {masks : List Nat} {body : State → State} (hexec : a = s.mbRun cmd masks body)
include hexec

/-- A command the mailbox does not hold does nothing. -/
theorem mailbox_idle (h : ¬s.mbHolds cmd) : a = .next s := hexec.trans (if_pos (mbRun_cond_iff.mpr h))

/-- One whose reserved argument bits are set is refused. -/
theorem mailbox_refused (h : s.mbHolds cmd) (hargs : s.mbArgsOk masks = false) : a = .next (s.mbDone 2 []) :=
  hexec.trans ((if_neg fun hn => mbRun_cond_iff.mp hn h).trans (if_pos (by rw [hargs]; rfl)))

/-- Any other runs. -/
theorem mailbox_runs (h : s.mbHolds cmd ∧ s.mbArgsOk masks = true) {t : State} (hbody : body s = t) : a = .next t :=
  hexec.trans ((if_neg fun hn => mbRun_cond_iff.mp hn h.1).trans ((if_neg (by rw [h.2]; decide)).trans (congrArg _ hbody)))

end

/-! ### RESUME (R354) -/

/-- A wave of a mode goes on at its pc, n bytes further. -/
def State.resumed (u : State) (w : Wave) (n : Nat) : State :=
  u.mapWave w.uid fun w => { w with status := .run, r := { w.r with ctl := { w.r.ctl with arm := { w.r.ctl.arm with
    pc := w.r.ctl.arm.pc + BitVec.ofNat 64 n } } } }

section

variable {s : State} {w : Wave}

theorem resumeWave_end (h : w.status = .halted ∨ ∃ code, w.status = .parked code) : s.resumeWave w 2 = (0, s.killWave w.uid) := by
  unfold State.resumeWave
  rcases h with h | ⟨code, h⟩ <;> rw [h] <;> rfl

variable {mode : Nat}

theorem resumeWave_halted (hmode : mode < 2) (h : w.status = .halted) : s.resumeWave w mode = (0, s.resumed w 0) := by
  unfold State.resumeWave
  rw [h]
  match mode, hmode with
  | 0, _ => rfl
  | 1, _ => rfl

theorem resumeWave_retry {code : BitVec 16} (h : w.status = .parked code) (hcode : code ≠ 0x0143) : s.resumeWave w 0 = (0, s.resumed w 0) := by
  unfold State.resumeWave
  rw [h]
  exact if_pos ⟨rfl, hcode⟩

/-- A wave parked at an instruction it is to pass. -/
theorem resumeWave_skip {code : BitVec 16} (h : w.status = .parked code) (hmode : mode = 1 ∨ (mode = 0 ∧ code = 0x0143)) :
    s.resumeWave w mode =
      match s.skipAt w with
      | (none, u) => if mode = 0 then (0, u.resumed w 0) else (3, u)
      | (some n, u) => (0, u.resumed w n) := by
  unfold State.resumeWave
  rw [h]
  rcases hmode with rfl | ⟨rfl, rfl⟩
  · exact if_neg fun h => absurd h.1 (by decide)
  · exact if_neg fun h => h.2 rfl

theorem resumeWave_wrong (h : ¬(w.status = .halted ∨ ∃ code, w.status = .parked code)) : s.resumeWave w mode = (3, s) := by
  unfold State.resumeWave
  cases hs : w.status with
  | halted => exact absurd (.inl hs) h
  | parked code => exact absurd (.inr ⟨code, hs⟩) h
  | _ => rfl

/-- The wave a RESUME names. -/
theorem resume_eq (hgo : s.mbHolds 0x23 ∧ s.mbArgsOk [2 ^ 31 - 1, 3] = true) (hw : s.waves.find? (fun w => w.uid != 0 && w.ctx == s.mbArg 0 % 2 ^ 16 &&
      w.core == s.mbArg 0 / 2 ^ 16 % 2 ^ 8 && w.slot == s.mbArg 0 / 2 ^ 24 % 2 ^ 7) = some w) :
    execResume s = .next (if s.mbArg 1 = 3 then s.mbDone 2 []
      else (s.resumeWave w (s.mbArg 1)).2.mbDone (s.resumeWave w (s.mbArg 1)).1 []) := by
  refine mailbox_runs rfl hgo ?_
  unfold field
  dsimp only
  rw [hw]

theorem resume_none (hgo : s.mbHolds 0x23 ∧ s.mbArgsOk [2 ^ 31 - 1, 3] = true) (hw : s.waves.find? (fun w => w.uid != 0 && w.ctx == s.mbArg 0 % 2 ^ 16 &&
      w.core == s.mbArg 0 / 2 ^ 16 % 2 ^ 8 && w.slot == s.mbArg 0 / 2 ^ 24 % 2 ^ 7) = none) : execResume s = .next (s.mbDone 2 []) := by
  refine mailbox_runs rfl hgo ?_
  unfold field
  dsimp only
  rw [hw]

end

/-- Settles O46. -/
theorem contextCommands : Obligations.ContextCommands := by
  refine fun s => ⟨?protocol, fun hgo => ⟨fun c hc => ?create, fun hc => ?createBad⟩, fun hgo => ⟨fun hc => ?destroy, fun hc => ?destroyNone⟩,
    fun hgo => ⟨fun hc => ?preemptNone, fun c hc => ⟨fun hstop hend => ?preempt, fun h => ?preemptWrong⟩⟩,
    fun hgo => ⟨fun hc => ?restoreNone, fun c hc => ⟨fun hstop hend => ?restore, fun h => ?restoreWrong⟩⟩,
    fun hgo => ⟨fun hc => ?cancelNone, fun hc => ?cancel⟩, fun hgo => ⟨fun hw => resume_none hgo hw, fun w hw => ?resume⟩,
    fun cmd args => ?forward, fun ctx chip => ?report⟩
  case protocol =>
    intro x hx
    simp only [List.mem_cons, List.not_mem_nil, or_false] at hx
    have hbody : ∃ body, exec x.1 s = s.mbRun x.2.1 x.2.2 body := by
      rcases hx with rfl | rfl | rfl | rfl | rfl | rfl
      · exact ⟨_, show execCtxCreate s = _ from rfl⟩
      · exact ⟨_, show execCtxDestroy s = _ from rfl⟩
      · exact ⟨_, show execPreempt s = _ from rfl⟩
      · exact ⟨_, show execRestore s = _ from rfl⟩
      · exact ⟨_, show execCancel s = _ from rfl⟩
      · exact ⟨_, show execResume s = _ from rfl⟩
    obtain ⟨body, hexec⟩ := hbody
    exact ⟨mailbox_idle hexec, mailbox_refused hexec⟩
  case create =>
    change execCtxCreate s = _
    refine mailbox_runs rfl hgo ?_
    rw [hc]
  case createBad =>
    change execCtxCreate s = _
    refine mailbox_runs rfl hgo ?_
    rw [hc]
  case destroy =>
    change execCtxDestroy s = _
    refine mailbox_runs rfl hgo (if_neg ?_)
    rw [Option.isNone_iff_eq_none]
    exact Option.ne_none_iff_isSome.mpr hc
  case destroyNone =>
    change execCtxDestroy s = _
    exact mailbox_runs rfl hgo (if_pos (Option.isNone_iff_eq_none.mpr hc))
  case preemptNone =>
    change execPreempt s = _
    refine mailbox_runs rfl hgo ?_
    rw [hc]
  case preempt =>
    change execPreempt s = _
    refine mailbox_runs rfl hgo ?_
    rw [hc]
    exact if_neg (by simp [hstop, hend])
  case preemptWrong =>
    change execPreempt s = _
    refine mailbox_runs rfl hgo ?_
    rw [hc]
    exact if_pos (by simpa using h)
  case restoreNone =>
    change execRestore s = _
    refine mailbox_runs rfl hgo ?_
    rw [hc]
  case restore =>
    change execRestore s = _
    refine mailbox_runs rfl hgo ?_
    rw [hc]
    exact if_neg (by simp [hstop, hend])
  case restoreWrong =>
    change execRestore s = _
    refine mailbox_runs rfl hgo ?_
    rw [hc]
    exact if_pos (by simpa using h)
  case cancelNone =>
    change execCancel s = _
    exact mailbox_runs rfl hgo (if_pos (Option.isNone_iff_eq_none.mpr hc))
  case cancel =>
    have hsome : ¬(s.ctx? (s.cancelOf (s.mbArgs 4)).ctx).isNone = true := by
      rw [Option.isNone_iff_eq_none]
      exact Option.ne_none_iff_isSome.mpr hc
    refine ⟨fun h => ?_, fun h => ?_, fun h => ?_⟩
    all_goals
      change execCancel s = _
      refine mailbox_runs rfl hgo ((if_neg hsome).trans ?_)
    · rw [h] <;> rfl
    · rw [h] <;> rfl
    · obtain ⟨n, hn⟩ := Nat.exists_eq_add_of_le' h
      rw [hn] <;> rfl
  case resume =>
    have hresume := resume_eq hgo hw
    have hrun : ∀ {mode status : Nat} {u : State}, s.mbArg 1 = mode → mode ≠ 3 → s.resumeWave w mode = (status, u) →
        execResume s = .next (u.mbDone status []) := fun {mode status u} hmode h3 hu => by
      rw [hresume, hmode, if_neg h3, hu]
    refine ⟨fun h => hresume.trans (congrArg Host.Outcome.next (if_pos h)), fun h2 hwaits => hrun h2 (by decide) (resumeWave_end hwaits),
      fun hlt hh => hrun rfl (by omega) (resumeWave_halted hlt hh), fun code h0 hp hcode => hrun h0 (by decide) (resumeWave_retry hp hcode),
      fun code u n ⟨hp, hmode⟩ hskip => hrun rfl (by omega) ?_, fun code u h1 ⟨hp, hmode⟩ hskip => hrun h1 (by decide) ?_,
      fun code u h0 ⟨hp, hmode⟩ hskip => hrun h0 (by decide) ?_, fun hlt hwaits => hrun rfl (by omega) (resumeWave_wrong hwaits)⟩
    · rw [resumeWave_skip hp hmode, hskip] <;> rfl
    · rw [resumeWave_skip hp (.inl rfl), hskip] <;> rfl
    · rw [resumeWave_skip hp (h0 ▸ hmode), hskip] <;> rfl
  case forward =>
    have hexec : exec (.jobCommandForward cmd args) s = execJobCommandForward cmd args s := rfl
    dsimp only
    rw [hexec, execJobCommandForward]
    dsimp only
    refine ⟨fun hwaits => ?_, fun hwaits hother hroute => ?_, fun hwaits hmine hleft => ?_, fun hwaits h => ?_⟩
    · rw [if_neg hwaits]
    all_goals
      rw [if_pos hwaits]
    · rw [if_pos ⟨(not_or.mp hother).1, (not_or.mp hother).2, hroute⟩]
    · rw [if_neg fun h => hmine.elim h.1 h.2.1, if_pos ⟨hmine, hleft⟩]
    · rcases h with ⟨hmine, hleft⟩ | ⟨hother, hroute⟩
      · rw [if_neg fun h => hmine.elim h.1 h.2.1, if_neg fun h => by rw [hleft] at h; exact Bool.noConfusion h.2]
      · rw [if_neg fun h => by rw [hroute] at h; exact Bool.noConfusion h.2.2, if_neg fun h => hother h.1]
  case report =>
    have hexec : exec (.jobCommandReport ctx chip) s = execJobCommandReport ctx chip s := rfl
    have hmeant : (s.pkg.mbBusy = false ∨ s.pkg.mbWaits.contains chip = false ∨ s.mbArg 0 % 2 ^ 16 ≠ ctx) ↔
        ¬(s.pkg.mbBusy = true ∧ s.pkg.mbWaits.contains chip = true ∧ s.mbArg 0 % 2 ^ 16 = ctx) := by
      rw [Decidable.not_and_iff_not_or_not, Decidable.not_and_iff_not_or_not, Bool.not_eq_true, Bool.not_eq_true]
    have hleft : (s.pkg.mbWaits.filter fun c => c != chip).isEmpty = true ↔ ∀ c ∈ s.pkg.mbWaits, c = chip := by
      simp [List.filter_eq_nil_iff]
    dsimp only
    rw [hexec, execJobCommandReport]
    dsimp only
    refine ⟨fun hno => if_pos (hmeant.mpr hno), fun hyes ⟨c, hc, hne⟩ => ?_, fun hyes hlast => ?_⟩
    · rw [if_neg fun h => hmeant.mp h hyes, if_neg fun h => hne (hleft.mp h c hc)]
    · rw [if_neg fun h => hmeant.mp h hyes, if_pos (hleft.mpr hlast)]

end Sys2Proof.Machine

/-! The mailbox's other commands (R79, R123, R260, R264, R265, R356, R372, R375, R380, R381, R412). -/

namespace Sys2Proof.Machine

/-! ### Queues (R123, R380) -/

/-- A queue's descriptor keeps its layout (R123). -/
def State.queueLaid (s : State) : Prop :=
  let log2 := s.mbArg 3 / 2 ^ 8 % 2 ^ 8
  4 ≤ log2 ∧ log2 ≤ 16 ∧ s.mbArg 0 % (64 * 2 ^ log2) = 0 ∧ s.mbArg 1 % 8 = 0 ∧ s.mbArg 2 % 8 = 0 ∧ (s.ctx? (s.mbArg 4)).isSome = true

theorem queueLaid_iff (s : State) :
    (field (s.mbArg 3) 8 8 < 4 ∨ field (s.mbArg 3) 8 8 > 16 ∨ s.mbArg 0 % (64 * 2 ^ field (s.mbArg 3) 8 8) ≠ 0 ∨ s.mbArg 1 % 8 ≠ 0 ∨ s.mbArg 2 % 8 ≠ 0 ∨
      (s.ctx? (s.mbArg 4)).isNone = true) ↔ ¬s.queueLaid := by
  have hlog : field (s.mbArg 3) 8 8 = s.mbArg 3 / 2 ^ 8 % 2 ^ 8 := rfl
  unfold State.queueLaid
  rw [hlog, Option.isNone_iff_eq_none, ← Classical.not_not (a := s.ctx? (s.mbArg 4) = none), ← ne_eq, Option.ne_none_iff_isSome]
  generalize s.mbArg 3 / 2 ^ 8 % 2 ^ 8 = log2
  simp only [Decidable.not_and_iff_not_or_not, Nat.not_le]

section

variable {s : State} (hgo : s.mbHolds 3 ∧ s.mbArgsOk [2 ^ 64 - 1, 2 ^ 64 - 1, 2 ^ 64 - 1, 0xFF07, 0xFFFF] = true)
include hgo

theorem queueReg_unlaid (h : ¬s.queueLaid) : execQueueReg s = .next (s.mbDone 2 []) :=
  mailbox_runs rfl hgo (if_pos ((queueLaid_iff s).mpr h))

variable (h : s.queueLaid)
include h

/-- No entry is free. -/
theorem queueReg_full (hfree : (List.range 256).find? (fun n => (s.queue? n).isNone) = none) : execQueueReg s = .next (s.mbDone 3 []) := by
  refine mailbox_runs rfl hgo ((if_neg fun hn => (queueLaid_iff s).mp hn h).trans ?_)
  rw [hfree]

variable {num : Nat} {w r : Option (Nat × Nat)} {u v : State} (hfree : (List.range 256).find? (fun n => (s.queue? n).isNone) = some num)
  (hw : s.wordPlace (s.mbArg 4) (BitVec.ofNat 64 (s.mbArg 1)) = (w, u)) (hr : u.wordPlace (s.mbArg 4) (BitVec.ofNat 64 (s.mbArg 2)) = (r, v))
include hfree hw hr

/-- The words are not in pages the device may use. -/
theorem queueReg_unplaced (hplace : ∀ pa, ¬(w = some (1, pa) ∧ ∃ cls x, r = some (cls, x) ∧ cls ≤ 1)) : execQueueReg s = .next (v.mbDone 2 []) := by
  refine mailbox_runs rfl hgo ((if_neg fun hn => (queueLaid_iff s).mp hn h).trans ?_)
  rw [hfree]
  dsimp only
  rw [hw]
  dsimp only
  rw [hr]
  dsimp only
  split
  next pa cls x => exact if_pos (Nat.not_le.mp fun hle => hplace pa ⟨rfl, cls, x, rfl, hle⟩)
  next => rfl

variable {pa : Nat} (hplace : w = some (1, pa) ∧ ∃ cls x, r = some (cls, x) ∧ cls ≤ 1)
include hplace

/-- What a queue whose words are placed does once RIDX is read. -/
theorem queueReg_placed :
    execQueueReg s = .next (match v.dpNum (s.mbArg 4) (BitVec.ofNat 64 (s.mbArg 2)) 8 with
      | (.inl _, y) => y.mbDone 2 []
      | (.inr next, y) => State.mbDone { y with queues := y.queues ++ [{
          num := num, ring := BitVec.ofNat 64 (s.mbArg 0), widx := BitVec.ofNat 64 (s.mbArg 1), ridx := BitVec.ofNat 64 (s.mbArg 2),
          log2 := s.mbArg 3 / 2 ^ 8 % 2 ^ 8, prio := s.mbArg 3 % 8, ctx := s.mbArg 4, widxPa := pa, next := next, signalled := false,
          stopped := false, fault := none, packets := [], unreg := false, looking := true, reread := none, served := 0 }] } 0 [(0, num)]) := by
  obtain ⟨rfl, cls, x, rfl, hcls⟩ := hplace
  refine mailbox_runs rfl hgo ((if_neg fun hn => (queueLaid_iff s).mp hn h).trans ?_)
  obtain ⟨read, hdef⟩ : ∃ f, f = State.dpNum := ⟨_, rfl⟩
  rw [← hdef, hfree]
  dsimp only
  rw [hw]
  dsimp only
  rw [hr]
  dsimp only
  exact (if_neg (Nat.not_lt.mpr hcls)).trans rfl

end

/-! ### Keys (R79, R380) -/

/-- The key's eight words as one number. -/
theorem keyWords_sum (f : Nat → Nat) : (List.range 8).foldl (fun n i => n + f i) 0 = ((List.range 8).map f).sum := by
  rw [List.sum_eq_foldl, List.foldl_map]

/-! ### Layouts of the other commands' arguments -/

/-- What RING_PLACE asks of its base (R356). -/
theorem ringLaid_iff (base log2 bytes : Nat) :
    (base % 4096 ≠ 0 ∨ log2 < 4 ∨ log2 > 16 ∨ base + 0x40 + 64 * 2 ^ log2 > bytes) ↔
      ¬(base % 4096 = 0 ∧ 4 ≤ log2 ∧ log2 ≤ 16 ∧ base + 0x40 + 64 * 2 ^ log2 ≤ bytes) := by
  simp only [Decidable.not_and_iff_not_or_not, Nat.not_le, ne_eq, gt_iff_lt]

/-- What DUMP_READ asks of its range (R372). -/
theorem dumpLaid_iff (o n : Nat) : (o % 8 ≠ 0 ∨ n % 8 ≠ 0 ∨ n < 8 ∨ n > 3840) ↔ ¬(o % 8 = 0 ∧ n % 8 = 0 ∧ 8 ≤ n ∧ n ≤ 3840) := by
  omega

/-- What COMM_SET asks of a RANKMAP (R265). -/
theorem ranksNamed_iff (ranks : List Nat) :
    ((!noRepeat ranks) = true ∨ ranks.any (fun r => decide (r ≥ 4096)) = true) ↔ ¬(noRepeat ranks = true ∧ ∀ r ∈ ranks, r < 4096) := by
  simp [Decidable.imp_iff_not_or]

/-- What FW_UPDATE asks of its image (R381). -/
theorem imageGood_iff (signed : Bool) (current v : Nat) : (signed = false ∨ v < current) ↔ ¬(signed = true ∧ current ≤ v) := by
  rw [Decidable.not_and_iff_not_or_not, Bool.not_eq_true, Nat.not_le]

/-- Settles O47. -/
theorem mailboxCommands : Obligations.MailboxCommands := by
  refine fun s => ⟨?protocol, fun hgo => ⟨fun h => queueReg_unlaid hgo h, fun h hfree => queueReg_full hgo h hfree,
      fun num w r u v h hfree hw hr => ⟨fun hplace => queueReg_unplaced hgo h hfree hw hr hplace, fun pa x y hplace hread => ?queueFault,
        fun pa next y hplace hread => ?queueReg⟩⟩,
    fun hgo => ⟨fun hq => ?unregNone, fun q hq => ?unreg⟩, fun n q hq => ⟨fun hdone => ?unregDone, fun hdone => ?unregWaits⟩,
    fun hgo => ⟨fun h0 => ?keyZero, fun h0 hin => ?keyTaken, fun h0 hin => ?keyLoad⟩,
    fun hgo => ⟨fun h0 => ?retireZero, fun h0 hin => ?retireHeld, fun h0 hin => ?keyRetire⟩, fun hgo => ?hdm,
    fun hgo => ⟨fun hport => ?routeBad, fun hport => ?route⟩,
    fun hgo => ⟨fun hlaid => ?commBad, fun x u hlaid hread => ?commFault, fun bs u hlaid hread => ⟨fun hnamed => ?commUnnamed, fun hnamed => ?comm⟩⟩,
    fun hgo => ⟨fun h => ?bartmoBad, fun hlo hhi => ?bartmo⟩, fun hgo => ⟨fun hlaid => ?ringBad, fun hlaid => ?ring⟩,
    fun hgo => ⟨fun hlaid => ?dumpBad, fun hlaid => ?dump⟩, fun hgo => ⟨fun hlaid => ?fwBad, fun hlaid hgood => ?fwRefused, fun hlaid hgood => ?fw⟩,
    fun hgo => ⟨fun hc => ?manifestNone, fun hc => ?manifest⟩, fun _ _ => ⟨rfl, rfl, rfl⟩⟩
  case protocol =>
    intro x hx
    simp only [List.mem_cons, List.not_mem_nil, or_false] at hx
    have hbody : ∃ body, exec x.1 s = s.mbRun x.2.1 x.2.2 body := by
      rcases hx with rfl | rfl | rfl | rfl | rfl | rfl | rfl | rfl | rfl | rfl | rfl | rfl
      · exact ⟨_, show execQueueReg s = _ from rfl⟩
      · exact ⟨_, show execQueueUnreg s = _ from rfl⟩
      · exact ⟨_, show execKeyLoad s = _ from rfl⟩
      · exact ⟨_, show execKeyRetire s = _ from rfl⟩
      · exact ⟨_, show execHdmBind s = _ from rfl⟩
      · exact ⟨_, show execRouteSet s = _ from rfl⟩
      · exact ⟨_, show execCommSet s = _ from rfl⟩
      · exact ⟨_, show execBartmoSet s = _ from rfl⟩
      · exact ⟨_, show execRingPlace s = _ from rfl⟩
      · exact ⟨_, show execDumpRead s = _ from rfl⟩
      · exact ⟨_, show execFwUpdate s = _ from rfl⟩
      · exact ⟨_, show execManifestSelect s = _ from rfl⟩
    obtain ⟨body, hexec⟩ := hbody
    exact ⟨mailbox_idle hexec, mailbox_refused hexec⟩
  case queueFault =>
    refine (queueReg_placed hgo h hfree hw hr hplace).trans ?_
    rw [hread]
  case queueReg =>
    refine (queueReg_placed hgo h hfree hw hr hplace).trans ?_
    rw [hread]
  case unregNone | unreg =>
    change execQueueUnreg s = _
    refine mailbox_runs rfl hgo ?_
    rw [hq]
  case unregDone =>
    change execQueueUnregComplete n s = _
    rw [execQueueUnregComplete, hq]
    dsimp only
    rw [hdone, if_neg (by decide)]
  case unregWaits =>
    change execQueueUnregComplete n s = _
    rw [execQueueUnregComplete, hq]
    dsimp only
    rw [hdone] <;> rfl
  case keyZero =>
    change execKeyLoad s = _
    exact mailbox_runs rfl hgo (if_pos h0)
  case keyTaken =>
    change execKeyLoad s = _
    exact mailbox_runs rfl hgo ((if_neg h0).trans (if_pos hin))
  case keyLoad =>
    change execKeyLoad s = _
    refine mailbox_runs rfl hgo ((if_neg h0).trans ((if_neg (by rw [hin]; exact Bool.false_ne_true)).trans ?_))
    rw [keyWords_sum]
  case retireZero =>
    change execKeyRetire s = _
    exact mailbox_runs rfl hgo (if_pos h0)
  case retireHeld =>
    change execKeyRetire s = _
    exact mailbox_runs rfl hgo ((if_neg h0).trans (if_pos hin))
  case keyRetire =>
    change execKeyRetire s = _
    exact mailbox_runs rfl hgo ((if_neg h0).trans (if_neg (by rw [hin]; exact Bool.false_ne_true)))
  case hdm =>
    change execHdmBind s = _
    exact mailbox_runs rfl hgo rfl
  case routeBad =>
    change execRouteSet s = _
    exact mailbox_runs rfl hgo (if_pos (by rw [show s.portPresent (field (s.mbArg 0) 16 4) = false from hport]; rfl))
  case route =>
    change execRouteSet s = _
    exact mailbox_runs rfl hgo (if_neg (by rw [show s.portPresent (field (s.mbArg 0) 16 4) = true from hport]; decide))
  case commBad =>
    change execCommSet s = _
    refine mailbox_runs rfl hgo ?_
    dsimp only
    by_cases hctx : (s.ctx? (s.mbArg 0 % 2 ^ 16)).isNone = true
    · exact if_pos hctx
    · rw [if_neg hctx]
      refine if_pos ?_
      rw [Bool.not_eq_true', ← Bool.not_eq_true]
      exact fun hok => hlaid ⟨Option.ne_none_iff_isSome.mp fun hn => hctx (Option.isNone_iff_eq_none.mpr hn), hok⟩
  case bartmoBad =>
    change execBartmoSet s = _
    exact mailbox_runs rfl hgo (if_pos (by omega))
  case bartmo =>
    change execBartmoSet s = _
    exact mailbox_runs rfl hgo (if_neg (by omega))
  case ringBad =>
    change execRingPlace s = _
    exact mailbox_runs rfl hgo (if_pos ((ringLaid_iff _ _ _).mpr hlaid))
  case ring =>
    change execRingPlace s = _
    exact mailbox_runs rfl hgo (if_neg fun h => (ringLaid_iff _ _ _).mp h hlaid)
  case dumpBad =>
    change execDumpRead s = _
    exact mailbox_runs rfl hgo (if_pos ((dumpLaid_iff _ _).mpr hlaid))
  case dump =>
    change execDumpRead s = _
    exact mailbox_runs rfl hgo (if_neg fun h => (dumpLaid_iff _ _).mp h hlaid)
  case manifestNone =>
    change execManifestSelect s = _
    exact mailbox_runs rfl hgo (if_pos (Option.isNone_iff_eq_none.mpr hc))
  case manifest =>
    change execManifestSelect s = _
    refine mailbox_runs rfl hgo (if_neg ?_)
    rw [Option.isNone_iff_eq_none]
    exact Option.ne_none_iff_isSome.mpr hc
  case commFault =>
    change execCommSet s = _
    refine mailbox_runs rfl hgo ((if_neg ?_).trans ((if_neg ?_).trans ?_))
    · rw [Option.isNone_iff_eq_none]
      exact Option.ne_none_iff_isSome.mpr hlaid.1
    · rw [hlaid.2]
      decide
    · dsimp only
      rw [hread]
  case commUnnamed =>
    change execCommSet s = _
    refine mailbox_runs rfl hgo ((if_neg ?_).trans ((if_neg ?_).trans ?_))
    · rw [Option.isNone_iff_eq_none]
      exact Option.ne_none_iff_isSome.mpr hlaid.1
    · rw [hlaid.2]
      decide
    · dsimp only
      rw [hread]
      exact if_pos ((ranksNamed_iff _).mpr hnamed)
  case comm =>
    change execCommSet s = _
    refine mailbox_runs rfl hgo ((if_neg ?_).trans ((if_neg ?_).trans ?_))
    · rw [Option.isNone_iff_eq_none]
      exact Option.ne_none_iff_isSome.mpr hlaid.1
    · rw [hlaid.2]
      decide
    · dsimp only
      rw [hread]
      exact if_neg fun h => (ranksNamed_iff _).mp h hnamed
  case fwBad =>
    change execFwUpdate s = _
    exact mailbox_runs rfl hgo (if_pos (by omega))
  case fwRefused =>
    change execFwUpdate s = _
    exact mailbox_runs rfl hgo ((if_neg (by omega)).trans (if_pos ((imageGood_iff _ _ _).mpr hgood)))
  case fw =>
    change execFwUpdate s = _
    exact mailbox_runs rfl hgo ((if_neg (by omega)).trans (if_neg fun h => (imageGood_iff _ _ _).mp h hgood))

end Sys2Proof.Machine

/-! The device's answers to SPDM requests (R382, R383). -/

namespace Sys2Proof.Machine

/-- What a signed answer says and signs. -/
theorem State.spdmSigned_answers (s : State) (code : Nat) (nonce : BitVec 256) (words : List (BitVec 256)) :
    ∃ own : BitVec 256, s.spdmSigned code nonce words = { s with
      free := s.free + 4
      out := s.out ++ [.spdm code (words ++ [own])
        (some (Config.identitySignature (sha256 (bytes256 nonce ++ (words ++ [own]).flatMap bytes256))))] } := ⟨_, rfl⟩

section

variable {s : State} {index : Nat} (nonce : BitVec 256)

/-- One measurement is answered by itself, the manifest's with its bytes. -/
theorem getMeasurements_one (h0 : index ≠ 0) (hall : index ≠ 0xFF) {d : BitVec 256} (hd : s.measure index = some d) :
    execGetMeasurements index nonce s = .next (s.spdmSigned 0x60 nonce (d :: if index = 0x20 then s.manifestWords else [])) := by
  unfold execGetMeasurements
  rw [if_neg h0, if_neg hall, hd]

/-- An index that names none is an error. -/
theorem getMeasurements_none (h0 : index ≠ 0) (hall : index ≠ 0xFF) (hd : s.measure index = none) :
    execGetMeasurements index nonce s = .next (s.spdmError 1) := by
  unfold execGetMeasurements
  rw [if_neg h0, if_neg hall, hd]

/-- The measurements of firmware and of DEVCAP. -/
theorem measure_isSome (s : State) (hlo : 1 ≤ index) (hhi : index ≤ 4) : ∃ d, s.measure index = some d := by
  by_cases h3 : index ≤ 3
  · exact ⟨_, if_pos ⟨hlo, h3⟩⟩
  · exact ⟨_, (if_neg fun h => h3 h.2).trans (if_pos (by omega))⟩

end

/-- Settles O48. -/
theorem attestationAnswers : Obligations.AttestationAnswers := by
  refine fun s => ⟨rfl, rfl, rfl, rfl, fun offset size => ?certificate, fun nonce => ?challenge, fun nonce => ?count, fun nonce index hindex => ?one,
    fun nonce => ?manifest, fun nonce => ?all, fun nonce index hall h0 hnone => getMeasurements_none nonce h0 hall hnone, fun code => rfl⟩
  case certificate =>
    by_cases h : offset < Config.certificateLength
    · rw [if_pos h]
      exact congrArg Host.Outcome.next (if_pos h)
    · rw [if_neg h]
      exact congrArg Host.Outcome.next (if_neg h)
  case challenge =>
    obtain ⟨own, h⟩ := s.spdmSigned_answers 0x03 nonce [sha256 certificateChain]
    exact ⟨own, congrArg Host.Outcome.next h⟩
  case count =>
    obtain ⟨own, h⟩ := s.spdmSigned_answers 0x60 nonce [5]
    exact ⟨own, congrArg Host.Outcome.next h⟩
  case one =>
    have hrange : 1 ≤ index ∧ index ≤ 4 := by
      simp only [List.mem_cons, List.not_mem_nil, or_false] at hindex
      omega
    obtain ⟨d, hd⟩ := measure_isSome s hrange.1 hrange.2
    obtain ⟨own, h⟩ := s.spdmSigned_answers 0x60 nonce [d]
    refine ⟨d, hd, own, (getMeasurements_one nonce (by omega) (by omega) hd).trans ?_⟩
    rw [if_neg (by omega), h]
  case manifest =>
    obtain ⟨own, h⟩ := s.spdmSigned_answers 0x60 nonce (sha256 s.manifestBytes :: s.manifestWords)
    refine ⟨own, (getMeasurements_one (d := sha256 s.manifestBytes) nonce (by decide) (by decide) ?_).trans ?_⟩
    · exact (if_neg (by decide)).trans ((if_neg (by decide)).trans (if_pos rfl))
    · rw [if_pos rfl, h]
  case all =>
    obtain ⟨own, h⟩ := s.spdmSigned_answers 0x60 nonce (([1, 2, 3, 4, 0x20].filterMap s.measure) ++ s.manifestWords)
    refine ⟨own, Eq.trans ?_ (congrArg Host.Outcome.next h)⟩
    change execGetMeasurements 0xFF nonce s = _
    rw [execGetMeasurements, if_neg (by decide), if_pos rfl]

end Sys2Proof.Machine

/-! The machine as a whole: words that decode, a step of the machine, and the state after power-on. -/

namespace Sys2Proof.Machine

/-- Settles O52. -/
theorem wordsDecode : Obligations.WordsDecode := by
  refine ⟨?_, ?_, ?_, ?_, ?_, ?_, ?_, ?_, ?_, ?_, ?_, ?_, ?_, ?_⟩ <;> decide

/-- Settles O54. -/
theorem stepRunsDecoded : Obligations.StepRunsDecoded := by
  intro s u t w bs rest i e hagenda haside hdue hturn hread hdecode hexec
  have hfetch : e.fetch = .inr (i, u) := by
    unfold State.fetch
    rw [hread]
    dsimp only
    rw [hdecode]
  unfold step State.advance
  rw [hagenda, haside, hdue, hturn]
  change State.issueNext e = _
  unfold State.issueNext
  rw [hfetch]
  dsimp only
  rw [hexec] <;> rfl

/-! ### The state after power-on -/

section

variable {n : Nat}

/-- Every slice admits both tenants to every way, holds nothing, and has its full pairing limit. -/
theorem reset_slice (hn : n < 128) : State.reset.mmioWord (0x1000 + 0x40 * n) = 0xFFFFFFFF ∧ State.reset.mmioWord (0x1004 + 0x40 * n) = 0 ∧
    State.reset.mmioWord (0x1008 + 0x40 * n) = 64 := by
  have hword : ∀ a off, a = 0x1000 + off + 0x40 * n → off < 0x40 → State.reset.mmioWord a = State.reset.sliceWord n off := fun a off ha hoff => by
    subst ha
    unfold State.mmioWord
    rw [if_neg (by omega), if_neg (by omega), if_neg (by omega), if_neg (by omega), if_neg (by omega), if_pos (by omega),
      show (0x1000 + off + 0x40 * n - 0x1000) / 0x40 = n by omega, show (0x1000 + off + 0x40 * n) % 0x40 = off by omega]
  rw [hword _ 0 (by omega) (by decide), hword _ 4 (by omega) (by decide), hword _ 8 (by omega) (by decide)]
  have hslice : State.reset.slice n = Slice.reset := rfl
  have hocc : ∀ b, State.reset.occ n b = 0 := fun b => rfl
  have hbuf : (State.reset.homeBuf n).entries = [] := rfl
  refine ⟨?_, ?_, ?_⟩
  · change (State.reset.slice n).mask1.toNat * 2 ^ 16 + (State.reset.slice n).mask0.toNat = _
    rw [hslice]
    decide
  · change State.reset.occ n true * 2 ^ 16 + State.reset.occ n false = 0
    rw [hocc, hocc, Nat.zero_mul]
  · change (State.reset.homeBuf n).entries.length * 2 ^ 8 + (State.reset.slice n).pairlim = 64
    rw [hslice, hbuf]
    decide

/-- Every port is enabled and down. -/
theorem reset_port (hn : n < 16) : State.reset.mmioWord (0x3004 + 0x40 * n) = 1 := by
  have hpresent : State.reset.portPresent n = true := by
    have hall : ∀ m : Fin 16, State.reset.portPresent m = true := by decide
    exact hall ⟨n, hn⟩
  unfold State.mmioWord
  rw [if_neg (by omega), if_neg (by omega), if_neg (by omega), if_neg (by omega), if_neg (by omega), if_neg (by omega), if_pos (by omega),
    show (0x3004 + 0x40 * n - 0x3000) / 0x40 = n by omega, show (0x3004 + 0x40 * n) % 0x40 = 4 by omega, State.portWord, hpresent] <;> rfl

end

/-- Settles O57. -/
theorem resetState : Obligations.ResetState := by
  refine ⟨State.reset_wf, rfl, rfl, rfl, rfl, rfl, rfl, rfl, rfl, rfl, rfl, rfl, rfl, fun n hn => reset_slice hn, fun n hn => reset_port hn,
    fun n hn => ⟨rfl, rfl⟩⟩

end Sys2Proof.Machine

/-! Nothing stops the machine: each instruction, each event and each step has a next state. -/

namespace Sys2Proof.Machine

/-- A mailbox command ends, or does what it names. -/
theorem State.mbRun_next (s : State) (cmd : Nat) (masks : List Nat) (body : State → State) : ∃ t, s.mbRun cmd masks body = .next t := by
  unfold State.mbRun
  repeat' split
  all_goals exact ⟨_, rfl⟩

/-- A choice between two answers that go on goes on. -/
theorem next_ite {c : Prop} [Decidable c] {a b : Ans} (ha : ∃ t, a = .next t) (hb : ∃ t, b = .next t) :
    ∃ t, (if c then a else b) = .next t := by
  by_cases hc : c
  · rwa [if_pos hc]
  · rwa [if_neg hc]

section

variable {s u : State} {w scope op : Nat} {va : DWord} {tok : Bool}
  (huid : (s.select w).w.uid = w) (hst : (s.select w).w.status = .sleepWord va scope op tok)

include huid hst

theorem barrierWordReread_under_way (hbusy : ((s.select w).m.port.any fun a => a.op == op) = true) :
    execBarrierWordReread w s = .next (s.select w) := by
  unfold execBarrierWordReread
  refine (if_neg (Classical.not_not.mpr huid)).trans ?_
  split
  · cases hst.symm.trans ‹_›
    exact if_pos hbusy
  · rfl

theorem barrierWordReread_misses (hfree : ((s.select w).m.port.any fun a => a.op == op) = false)
    (hat : (s.select w).engXlate (dieOf (s.select w).w.core) (s.select w).w.ctx va = (.miss, u)) : execBarrierWordReread w s = .next u := by
  unfold execBarrierWordReread
  generalize accessFault = check
  simp only [huid, hst, hfree, hat, ne_eq, not_true_eq_false, if_false, Bool.false_eq_true]

end

/-! ### The events that look before they act -/

theorem execLoopEndAction_next (w : Nat) (addr : DWord) (s : State) : ∃ t, execLoopEndAction w addr s = .next t := by
  unfold execLoopEndAction
  extract_lets
  repeat' split
  all_goals exact ⟨_, rfl⟩

theorem execArmJoin_next (w : Nat) (s : State) : ∃ t, execArmJoin w s = .next t := by
  unfold execArmJoin
  extract_lets
  repeat' split
  all_goals exact ⟨_, rfl⟩

theorem execDivergencePop_next (w : Nat) (s : State) : ∃ t, execDivergencePop w s = .next t := by
  unfold execDivergencePop
  extract_lets
  repeat' split
  all_goals exact ⟨_, rfl⟩

theorem execBarrierWordReread_next (w : Nat) (s : State) : ∃ t, execBarrierWordReread w s = .next t := by
  by_cases huid : (s.select w).w.uid = w
  case neg => exact ⟨_, if_pos huid⟩
  by_cases hsleeps : ∃ va scope op tok, (s.select w).w.status = .sleepWord va scope op tok
  case neg =>
    unfold execBarrierWordReread
    refine next_ite ⟨_, rfl⟩ ?_
    split
    · rename_i hst
      exact absurd ⟨_, _, _, _, hst⟩ hsleeps
    · exact ⟨_, rfl⟩
  obtain ⟨va, scope, op, tok, hst⟩ := hsleeps
  cases hfree : (s.select w).m.port.any fun a => a.op == op with
  | true => exact ⟨_, barrierWordReread_under_way huid hst hfree⟩
  | false =>
    cases hat : (s.select w).engXlate (dieOf (s.select w).w.core) (s.select w).w.ctx va with
    | mk x u => cases x with
      | hit h => cases hcheck : accessFault (u.reachable u.w h.pa) u.priv .atomic 8 va.toNat h with
        | none => exact ⟨_, barrierWordReread_hit huid hst hfree hat hcheck⟩
        | some y => exact ⟨_, barrierWordReread_refused huid hst hfree hat hcheck⟩
      | miss => exact ⟨_, barrierWordReread_misses huid hst hfree hat⟩
      | fail level code => exact ⟨_, barrierWordReread_failed huid hst hfree hat⟩

theorem execCopyProgress_next (id : Nat) (s : State) : ∃ t, execCopyProgress id s = .next t := by
  unfold execCopyProgress
  split
  all_goals try extract_lets
  all_goals repeat' split
  all_goals exact ⟨_, rfl⟩

theorem execClaimGrant_next (core : Nat) (s : State) : ∃ t, execClaimGrant core s = .next t := by
  unfold execClaimGrant
  extract_lets
  repeat' split
  all_goals exact ⟨_, rfl⟩

theorem execMloopStep_next (core : Nat) (s : State) : ∃ t, execMloopStep core s = .next t := by
  unfold execMloopStep
  extract_lets
  repeat' split
  all_goals exact ⟨_, rfl⟩

theorem execLatticeGroupLevel_next (id : Nat) (s : State) : ∃ t, execLatticeGroupLevel id s = .next t := by
  unfold execLatticeGroupLevel
  repeat' split
  all_goals exact ⟨_, rfl⟩

theorem execInvalidationComplete_next (id : Nat) (s : State) : ∃ t, execInvalidationComplete id s = .next t := by
  unfold execInvalidationComplete
  split
  all_goals try extract_lets
  all_goals repeat' split
  all_goals exact ⟨_, rfl⟩

theorem execOperationRetire_next (w flag : Nat) (s : State) : ∃ t, execOperationRetire w flag s = .next t := by
  unfold execOperationRetire
  repeat' split
  all_goals exact ⟨_, rfl⟩

theorem execPageWalk_next (id : Nat) (s : State) : ∃ t, execPageWalk id s = .next t := by
  unfold execPageWalk
  repeat' split
  all_goals exact ⟨_, rfl⟩

theorem execHomeSliceAccess_next (id : Nat) (s : State) : ∃ t, execHomeSliceAccess id s = .next t := by
  unfold execHomeSliceAccess
  split
  all_goals try extract_lets
  all_goals repeat' split
  all_goals exact ⟨_, rfl⟩

theorem execL2SectorFill_next (id : Nat) (s : State) : ∃ t, execL2SectorFill id s = .next t := by
  unfold execL2SectorFill
  split
  all_goals try extract_lets
  all_goals repeat' split
  all_goals exact ⟨_, rfl⟩

theorem execKettleAccess_next (id : Nat) (uncorrectable : Bool) (s : State) : ∃ t, execKettleAccess id uncorrectable s = .next t := by
  unfold execKettleAccess
  split
  all_goals try extract_lets
  all_goals repeat' split
  all_goals exact ⟨_, rfl⟩

theorem execScratchpadArrayAccess_next (id : Nat) (s : State) : ∃ t, execScratchpadArrayAccess id s = .next t := by
  unfold execScratchpadArrayAccess
  repeat' split
  all_goals exact ⟨_, rfl⟩

theorem execPeerRequestArrival_next (r : PeerReq) (s : State) : ∃ t, execPeerRequestArrival r s = .next t := by
  unfold execPeerRequestArrival
  generalize State.peerServe = serve
  refine next_ite ⟨_, rfl⟩ (next_ite ⟨_, rfl⟩ ?_)
  generalize (if r.acq then s.m.promos.find? fun p => p.meets false r.addr r.size else none) = p
  cases p with
  | some p => exact ⟨_, rfl⟩
  | none =>
    extract_lets met u
    obtain ⟨vs, code, v⟩ := serve u r
    exact ⟨_, rfl⟩

theorem execPromotionRequest_next (id : Nat) (s : State) : ∃ t, execPromotionRequest id s = .next t := by
  unfold execPromotionRequest
  repeat' split
  all_goals exact ⟨_, rfl⟩

theorem execPromotionReply_next (id : Nat) (s : State) : ∃ t, execPromotionReply id s = .next t := by
  unfold execPromotionReply
  repeat' split
  all_goals exact ⟨_, rfl⟩

theorem execCxlMemAccess_next (decoder addr size : Nat) (write : Option DWord) (s : State) : ∃ t, execCxlMemAccess decoder addr size write s = .next t := by
  unfold execCxlMemAccess
  repeat' split
  all_goals exact ⟨_, rfl⟩

theorem execBackInvalidateResponse_next (id : Nat) (s : State) : ∃ t, execBackInvalidateResponse id s = .next t := by
  unfold execBackInvalidateResponse
  extract_lets
  repeat' split
  all_goals exact ⟨_, rfl⟩

theorem execHostSnoop_next (addr : Nat) (write : Option DWord) (s : State) : ∃ t, execHostSnoop addr write s = .next t := by
  unfold execHostSnoop
  repeat' split
  all_goals exact ⟨_, rfl⟩

theorem execHostOwnershipGranted_next (id : Nat) (s : State) : ∃ t, execHostOwnershipGranted id s = .next t := by
  unfold execHostOwnershipGranted
  repeat' split
  all_goals exact ⟨_, rfl⟩

theorem execHoldTimeExpiry_next (buf : BufRef) (p : Partial) (s : State) : ∃ t, execHoldTimeExpiry buf p s = .next t := by
  unfold execHoldTimeExpiry
  repeat' split
  all_goals exact ⟨_, rfl⟩

theorem execCloseArrival_next (slice ctx idx oseq : Nat) (s : State) : ∃ t, execCloseArrival slice ctx idx oseq s = .next t := by
  unfold execCloseArrival
  extract_lets
  repeat' split
  all_goals exact ⟨_, rfl⟩

theorem execFlitReceive_next (port lane : Nat) (crcOk : Bool) (dst : Nat) (m : Msg) (s : State) : ∃ t, execFlitReceive port lane crcOk dst m s = .next t := by
  unfold execFlitReceive
  repeat' split
  all_goals exact ⟨_, rfl⟩

theorem execPortDown_next (port : Nat) (s : State) : ∃ t, execPortDown port s = .next t := by
  unfold execPortDown
  repeat' split
  all_goals exact ⟨_, rfl⟩

theorem execLaneRetrain_next (port : Nat) (s : State) : ∃ t, execLaneRetrain port s = .next t := by
  unfold execLaneRetrain
  extract_lets p
  split
  · exact ⟨_, rfl⟩
  · split
    · exact ⟨_, rfl⟩
    · extract_lets fails lost u
      split
      · exact execPortDown_next port u
      · exact ⟨_, rfl⟩

theorem execCollStartMessage_next (ctx comm : Nat) (inst : Word) (src : Nat) (g : CollDigest) (s : State) : ∃ t, execCollStartMessage ctx comm inst src g s = .next t := by
  unfold execCollStartMessage
  simp only
  repeat' split
  all_goals exact ⟨_, rfl⟩

theorem execNimbusChunk_next (ctx comm : Nat) (inst : Word) (s : State) : ∃ t, execNimbusChunk ctx comm inst s = .next t := by
  unfold execNimbusChunk
  repeat' split
  all_goals exact ⟨_, rfl⟩

theorem execOutcomeArrival_next (w : Nat) (s : State) : ∃ t, execOutcomeArrival w s = .next t := by
  unfold execOutcomeArrival
  simp only
  repeat' split
  all_goals exact ⟨_, rfl⟩

theorem execSlotTake_next (queue : Nat) (s : State) : ∃ t, execSlotTake queue s = .next t := by
  unfold execSlotTake
  repeat' split
  all_goals exact ⟨_, rfl⟩

theorem execSlotReread_next (queue : Nat) (s : State) : ∃ t, execSlotReread queue s = .next t := by
  unfold execSlotReread
  repeat' split
  all_goals exact ⟨_, rfl⟩

theorem execQueueAccessRetry_next (queue : Nat) (s : State) : ∃ t, execQueueAccessRetry queue s = .next t := by
  unfold execQueueAccessRetry
  repeat' split
  all_goals exact ⟨_, rfl⟩

theorem execNopPacket_next (queue slot : Nat) (s : State) : ∃ t, execNopPacket queue slot s = .next t := by
  unfold execNopPacket
  repeat' split
  all_goals exact ⟨_, rfl⟩

theorem execLaunchPacket_next (queue slot : Nat) (s : State) : ∃ t, execLaunchPacket queue slot s = .next t := by
  unfold execLaunchPacket
  repeat' split
  all_goals exact ⟨_, rfl⟩

theorem execLaunchAdmit_next (key : LKey) (s : State) : ∃ t, execLaunchAdmit key s = .next t := by
  unfold execLaunchAdmit
  simp only
  repeat' split
  all_goals exact ⟨_, rfl⟩

theorem execStartBarrierArrival_next (key : LKey) (chip : Nat) (stamp : Word) (s : State) : ∃ t, execStartBarrierArrival key chip stamp s = .next t := by
  unfold execStartBarrierArrival
  split
  all_goals try extract_lets
  all_goals repeat' split
  all_goals exact ⟨_, rfl⟩

theorem execBarrierTimeout_next (key : LKey) (s : State) : ∃ t, execBarrierTimeout key s = .next t := by
  unfold execBarrierTimeout
  repeat' split
  all_goals exact ⟨_, rfl⟩

theorem execCopyPacket_next (queue slot : Nat) (s : State) : ∃ t, execCopyPacket queue slot s = .next t := by
  unfold execCopyPacket
  split
  all_goals try extract_lets
  all_goals repeat' split
  all_goals exact ⟨_, rfl⟩

theorem execGraphPacket_next (queue slot : Nat) (s : State) : ∃ t, execGraphPacket queue slot s = .next t := by
  unfold execGraphPacket
  simp only
  repeat' split
  all_goals exact ⟨_, rfl⟩

theorem execWaitPacket_next (queue slot : Nat) (s : State) : ∃ t, execWaitPacket queue slot s = .next t := by
  unfold execWaitPacket
  repeat' split
  all_goals exact ⟨_, rfl⟩

theorem execWaitPacketReread_next (queue slot : Nat) (s : State) : ∃ t, execWaitPacketReread queue slot s = .next t := by
  unfold execWaitPacketReread
  repeat' split
  all_goals exact ⟨_, rfl⟩

theorem execSignalPacket_next (queue slot : Nat) (s : State) : ∃ t, execSignalPacket queue slot s = .next t := by
  unfold execSignalPacket
  repeat' split
  all_goals exact ⟨_, rfl⟩

theorem execCollPacket_next (queue slot : Nat) (s : State) : ∃ t, execCollPacket queue slot s = .next t := by
  unfold execCollPacket
  split
  all_goals try extract_lets
  all_goals repeat' split
  all_goals exact ⟨_, rfl⟩

theorem execPacketComplete_next (queue slot : Nat) (s : State) : ∃ t, execPacketComplete queue slot s = .next t := by
  unfold execPacketComplete
  repeat' split
  all_goals exact ⟨_, rfl⟩

theorem execTeamAdmission_next (key : LKey) (core : Nat) (s : State) : ∃ t, execTeamAdmission key core s = .next t := by
  unfold execTeamAdmission
  repeat' split
  all_goals exact ⟨_, rfl⟩

theorem execCoresidentAdmission_next (key : LKey) (s : State) : ∃ t, execCoresidentAdmission key s = .next t := by
  unfold execCoresidentAdmission
  repeat' split
  all_goals exact ⟨_, rfl⟩

theorem execAdmissionWaitExpiry_next (key : LKey) (s : State) : ∃ t, execAdmissionWaitExpiry key s = .next t := by
  unfold execAdmissionWaitExpiry
  repeat' split
  all_goals exact ⟨_, rfl⟩

theorem execTeamRelease_next (team : Nat) (s : State) : ∃ t, execTeamRelease team s = .next t := by
  unfold execTeamRelease
  repeat' split
  all_goals exact ⟨_, rfl⟩

theorem execLaunchRetire_next (key : LKey) (s : State) : ∃ t, execLaunchRetire key s = .next t := by
  unfold execLaunchRetire
  repeat' split
  all_goals exact ⟨_, rfl⟩

theorem execRetireReport_next (key : LKey) (chip : Nat) (s : State) : ∃ t, execRetireReport key chip s = .next t := by
  unfold execRetireReport
  split
  all_goals try extract_lets
  all_goals repeat' split
  all_goals exact ⟨_, rfl⟩

theorem execGraphNodeStart_next (graph node : Nat) (s : State) : ∃ t, execGraphNodeStart graph node s = .next t := by
  unfold execGraphNodeStart
  repeat' split
  all_goals exact ⟨_, rfl⟩

theorem execTrapTake_next (w : Nat) (code : BitVec 16) (addr detail : DWord) (s : State) : ∃ t, execTrapTake w code addr detail s = .next t := by
  unfold execTrapTake
  extract_lets
  repeat' split
  all_goals exact ⟨_, rfl⟩

theorem execSaveMicrocode_next (ctx : Nat) (s : State) : ∃ t, execSaveMicrocode ctx s = .next t := by
  unfold execSaveMicrocode
  repeat' split
  all_goals exact ⟨_, rfl⟩

theorem execBudgetLower_next (core : Nat) (budget : BitVec 8) (s : State) : ∃ t, execBudgetLower core budget s = .next t := by
  unfold execBudgetLower
  repeat' split
  all_goals exact ⟨_, rfl⟩

theorem execMmioWrite_next (addr size : Nat) (val : DWord) (s : State) : ∃ t, execMmioWrite addr size val s = .next t := by
  unfold execMmioWrite
  repeat' split
  all_goals exact ⟨_, rfl⟩

theorem execQueueUnregComplete_next (queue : Nat) (s : State) : ∃ t, execQueueUnregComplete queue s = .next t := by
  unfold execQueueUnregComplete
  repeat' split
  all_goals exact ⟨_, rfl⟩

theorem execJobCommandForward_next (cmd : Nat) (args : List DWord) (s : State) : ∃ t, execJobCommandForward cmd args s = .next t := by
  unfold execJobCommandForward
  extract_lets
  repeat' split
  all_goals exact ⟨_, rfl⟩

theorem execGetMeasurements_next (index : Nat) (nonce : BitVec 256) (s : State) : ∃ t, execGetMeasurements index nonce s = .next t := by
  unfold execGetMeasurements
  repeat' split
  all_goals exact ⟨_, rfl⟩

theorem execI3cAccess_next (reg : Nat) (write : Option Word) (s : State) : ∃ t, execI3cAccess reg write s = .next t := by
  unfold execI3cAccess
  repeat' split
  all_goals exact ⟨_, rfl⟩

theorem execFedeuxPortUp_next (port lanes peer : Nat) (s : State) : ∃ t, execFedeuxPortUp port lanes peer s = .next t := by
  unfold execFedeuxPortUp
  repeat' split
  all_goals exact ⟨_, rfl⟩

theorem execJobCommandReport_next (ctx chip : Nat) (s : State) : ∃ t, execJobCommandReport ctx chip s = .next t := by
  unfold execJobCommandReport
  extract_lets
  repeat' split
  all_goals exact ⟨_, rfl⟩

/-! ### Instructions and steps -/

/-- Every instruction and every event has a next state: the instructions by their issue, the events as above or at once. -/
theorem exec_next (i : Instr) (s : State) : ∃ t, exec i s = .next t := by
  cases i
  case loopEndAction => exact execLoopEndAction_next ..
  case armJoin => exact execArmJoin_next ..
  case divergencePop => exact execDivergencePop_next ..
  case barrierWordReread => exact execBarrierWordReread_next ..
  case copyProgress => exact execCopyProgress_next ..
  case claimGrant => exact execClaimGrant_next ..
  case mloopStep => exact execMloopStep_next ..
  case latticeGroupLevel => exact execLatticeGroupLevel_next ..
  case invalidationComplete => exact execInvalidationComplete_next ..
  case operationRetire => exact execOperationRetire_next ..
  case pageWalk => exact execPageWalk_next ..
  case homeSliceAccess => exact execHomeSliceAccess_next ..
  case l2SectorFill => exact execL2SectorFill_next ..
  case kettleAccess => exact execKettleAccess_next ..
  case scratchpadArrayAccess => exact execScratchpadArrayAccess_next ..
  case peerRequestArrival => exact execPeerRequestArrival_next ..
  case promotionRequest => exact execPromotionRequest_next ..
  case promotionReply => exact execPromotionReply_next ..
  case cxlMemAccess => exact execCxlMemAccess_next ..
  case backInvalidateResponse => exact execBackInvalidateResponse_next ..
  case hostSnoop => exact execHostSnoop_next ..
  case hostOwnershipGranted => exact execHostOwnershipGranted_next ..
  case holdTimeExpiry => exact execHoldTimeExpiry_next ..
  case closeArrival => exact execCloseArrival_next ..
  case flitReceive => exact execFlitReceive_next ..
  case laneRetrain => exact execLaneRetrain_next ..
  case portDown => exact execPortDown_next ..
  case collStartMessage => exact execCollStartMessage_next ..
  case nimbusChunk => exact execNimbusChunk_next ..
  case outcomeArrival => exact execOutcomeArrival_next ..
  case slotTake => exact execSlotTake_next ..
  case slotReread => exact execSlotReread_next ..
  case queueAccessRetry => exact execQueueAccessRetry_next ..
  case nopPacket => exact execNopPacket_next ..
  case launchPacket => exact execLaunchPacket_next ..
  case launchAdmit => exact execLaunchAdmit_next ..
  case startBarrierArrival => exact execStartBarrierArrival_next ..
  case barrierTimeout => exact execBarrierTimeout_next ..
  case copyPacket => exact execCopyPacket_next ..
  case graphPacket => exact execGraphPacket_next ..
  case waitPacket => exact execWaitPacket_next ..
  case waitPacketReread => exact execWaitPacketReread_next ..
  case signalPacket => exact execSignalPacket_next ..
  case collPacket => exact execCollPacket_next ..
  case packetComplete => exact execPacketComplete_next ..
  case teamAdmission => exact execTeamAdmission_next ..
  case coresidentAdmission => exact execCoresidentAdmission_next ..
  case admissionWaitExpiry => exact execAdmissionWaitExpiry_next ..
  case teamRelease => exact execTeamRelease_next ..
  case launchRetire => exact execLaunchRetire_next ..
  case retireReport => exact execRetireReport_next ..
  case graphNodeStart => exact execGraphNodeStart_next ..
  case trapTake => exact execTrapTake_next ..
  case saveMicrocode => exact execSaveMicrocode_next ..
  case budgetLower => exact execBudgetLower_next ..
  case mmioWrite => exact execMmioWrite_next ..
  case queueUnregComplete => exact execQueueUnregComplete_next ..
  case jobCommandForward => exact execJobCommandForward_next ..
  case getMeasurements => exact execGetMeasurements_next ..
  case i3cAccess => exact execI3cAccess_next ..
  case fedeuxPortUp => exact execFedeuxPortUp_next ..
  case jobCommandReport => exact execJobCommandReport_next ..
  case ctxCreate | ctxDestroy | queueReg | queueUnreg | keyLoad | keyRetire | hdmBind | preempt | restore | cancel | resume | routeSet | commSet | bartmoSet |
      ringPlace | dumpRead | fwUpdate | manifestSelect =>
    apply State.mbRun_next
  all_goals exact ⟨_, rfl⟩
theorem State.event_next (s : State) (i : Instr) : ∃ t, s.event i = .next t := by
  unfold State.event
  split
  · exact ⟨_, rfl⟩
  · obtain ⟨t, ht⟩ := exec_next i s
    exact ⟨t.wake, by rw [ht]⟩

theorem State.issueNext_next (s : State) : ∃ t, s.issueNext = .next t := by
  unfold State.issueNext
  split
  · exact ⟨_, rfl⟩
  · rename_i i u _
    obtain ⟨t, ht⟩ := exec_next i u
    exact ⟨t.afterIssue, by rw [ht]⟩

theorem State.advance_next (s : State) : ∃ t, s.advance = .next t := by
  unfold State.advance
  split
  · exact State.event_next _ _
  · split
    · exact ⟨_, rfl⟩
    · split
      · exact State.event_next _ _
      · split
        · exact State.issueNext_next _
        · exact ⟨_, rfl⟩

/-- Settles O55. -/
theorem nothingStops : Obligations.NothingStops :=
  ⟨exec_next, State.advance_next⟩

end Sys2Proof.Machine

/-! What an instruction with a register result leaves unchanged (R21, R28, R295 to R297). -/

namespace Sys2Proof.Machine

/-! ### Quiet updates -/

theorem State.quiet.refl (s : State) : State.quiet s s :=
  ⟨fun _ => ⟨rfl, rfl⟩, rfl, rfl, rfl, rfl, rfl, rfl, rfl, rfl, rfl, rfl⟩

theorem State.quiet.trans {s t u : State} (hst : State.quiet s t) (htu : State.quiet t u) : State.quiet s u := by
  obtain ⟨hbytes, hacc, hothers, hctxs, hpkg, hteams, hgrids, hbudgets, hslices, hqueues, hlaunches⟩ := hst
  obtain ⟨hbytes', hacc', hothers', hctxs', hpkg', hteams', hgrids', hbudgets', hslices', hqueues', hlaunches'⟩ := htu
  exact ⟨fun a => ⟨(hbytes' a).1.trans (hbytes a).1, (hbytes' a).2.trans (hbytes a).2⟩, hacc'.trans hacc, hothers'.trans hothers,
    hctxs'.trans hctxs, hpkg'.trans hpkg, hteams'.trans hteams, hgrids'.trans hgrids, hbudgets'.trans hbudgets, hslices'.trans hslices,
    hqueues'.trans hqueues, hlaunches'.trans hlaunches⟩

theorem State.quiet_withR (s : State) (g : Regs → Regs) : State.quiet s (s.withR g) := State.quiet.refl s

theorem State.quiet_setNstat (s : State) (b : Word) : State.quiet s (s.setNstat b) := State.quiet.refl s

theorem State.quiet_touchHeld (s : State) (w : Wave) (ws : List Wr) : State.quiet s (s.touchHeld w ws) := by
  have hearly : State.quiet s (s.noteEarly w ws) := by
    unfold State.noteEarly
    repeat' split
    all_goals exact State.quiet.refl s
  refine hearly.trans ?_
  unfold State.touchHeld
  dsimp only
  repeat' split
  all_goals exact State.quiet.refl _

theorem State.quiet_atIssue (s : State) (f : Fields) : State.quiet s (s.atIssue f) :=
  State.quiet_touchHeld s s.w _

theorem State.quiet_result (s : State) (slot lam : Nat) (ws : List Wr) : State.quiet s (s.result slot lam ws) := by
  unfold State.result
  split <;> exact State.quiet.refl s

theorem State.quiet_goOn (s : State) (long : Bool) (f : Fields) (slot : Nat) (dest : Option DWord) : State.quiet s (s.goOn long f slot dest) := by
  simp [State.quiet, State.memByte, State.spByte]

theorem State.quiet_startOp (s : State) (f : Fields) (acq load : Bool) : State.quiet s (s.startOp f acq load).2 := by
  simp [State.quiet, State.memByte, State.spByte]

theorem State.quiet_longDone (s : State) (f : Fields) (ws : List Wr) (b : Word) : State.quiet s (s.longDone f ws b) := by
  simp [State.quiet, State.memByte, State.spByte]

/-! ### Writes within D -/

section

variable {f : Fields} {n t : Nat} {lanes : List Nat}

/-- The words a result of one lane names stay within D, where D is scalar, or the instruction acts once, or the lane is active. -/
theorem dstWr_within (hn : tyRegs t ≤ n) {l : Nat} (hl : (∃ b, Opd.of f.d = .s b) ∨ f.uni = true ∨ l ∈ lanes) (v : Nat) :
    ∀ w ∈ dstWr t f.d l v, w.within f n lanes := by
  have hplace : ∀ (x : Word) (i : Nat), (x, i) ∈ (wordsOf (tyRegs t) v).zipIdx → i < n := fun x i h => by
    have := List.snd_lt_of_mem_zipIdx h
    simp only [wordsOf, List.length_map, List.length_range] at this
    omega
  intro w hw
  unfold dstWr at hw
  cases hd : Opd.of f.d with
  | v b =>
    rw [hd] at hw hl
    obtain ⟨⟨x, i⟩, hx, rfl⟩ := List.mem_map.mp hw
    exact ⟨b, hd, by omega, by have := hplace x i hx; omega, hl.resolve_left (by simp)⟩
  | s b =>
    rw [hd] at hw
    obtain ⟨⟨x, i⟩, hx, rfl⟩ := List.mem_map.mp hw
    exact ⟨b, hd, by omega, by have := hplace x i hx; omega⟩
  | _ => rw [hd] at hw; exact absurd hw List.not_mem_nil

/-- A result of every active lane, or of the wave once with UNI. -/
theorem perLane_within {s : State} {fn : Nat → List Wr} (h : ∀ l, f.uni = true ∨ l ∈ s.lanes f → ∀ w ∈ fn l, w.within f n (s.lanes f)) :
    ∀ w ∈ perLane s f fn, w.within f n (s.lanes f) := by
  intro w hw
  unfold perLane at hw
  split at hw
  · next huni => exact h 0 (.inl huni) w hw
  · obtain ⟨l, hl, hw⟩ := List.mem_flatMap.mp hw
    exact h l (.inr hl) w hw

theorem perLaneF_within {s : State} {fn : Nat → List Wr × Word}
    (h : ∀ l, f.uni = true ∨ l ∈ s.lanes f → ∀ w ∈ (fn l).1, w.within f n (s.lanes f)) :
    ∀ w ∈ (perLaneF s f fn).1, w.within f n (s.lanes f) := by
  intro w hw
  unfold perLaneF at hw
  split at hw
  · next huni => exact h 0 (.inl huni) w (by simpa using hw)
  · obtain ⟨q, hq, hw⟩ := List.mem_flatMap.mp hw
    obtain ⟨l, hl, rfl⟩ := List.mem_map.mp hq
    exact h l (.inr hl) w hw

/-- A value of every active lane. -/
theorem perLane_dst_within {s : State} (hn : tyRegs t ≤ n) (v : Nat → Nat) :
    ∀ w ∈ perLane s f (fun l => dstWr t f.d l (v l)), w.within f n (s.lanes f) :=
  perLane_within fun l hl => dstWr_within hn (.inr hl) (v l)

theorem flatMap_dst_within {s : State} (hn : tyRegs t ≤ n) (v : Nat → Nat) :
    ∀ w ∈ (s.lanes f).flatMap (fun l => dstWr t f.d l (v l)), w.within f n (s.lanes f) := by
  intro w hw
  obtain ⟨l, hl, hw⟩ := List.mem_flatMap.mp hw
  exact dstWr_within hn (.inr (.inr hl)) (v l) w hw

theorem scalar_within (hn : tyRegs t ≤ n) (hd : ∃ b, Opd.of f.d = .s b) (l v : Nat) : ∀ w ∈ dstWr t f.d l v, w.within f n lanes :=
  dstWr_within hn (.inl hd) v

theorem cmpWrs_within {s : State} (holds : Nat → Bool) : ∀ w ∈ cmpWrs s f holds, w.within f 1 (s.lanes f) := by
  unfold cmpWrs
  split
  · next m hd =>
    intro w hw
    rw [List.mem_singleton.mp hw]
    exact hd
  · exact perLane_dst_within (Nat.le_refl _) _

end

/-! ### What the decode check says of D -/

theorem ok_of_decodeCheck {s : State} {sp : Spec} {f : Fields} (h : decodeCheck s sp f = none) : sp.ok s.w.k f = true := by
  unfold decodeCheck at h
  dsimp only at h
  refine Decidable.byContradiction fun hok => ?_
  rw [Bool.not_eq_true] at hok
  rw [hok] at h
  repeat' split at h
  all_goals simp_all

theorem ok_of_issues {s : State} {sp : Spec} {always : Bool} {f : Fields} (h : issues sp always f s = true) : sp.ok s.w.k f = true := by
  obtain ⟨-, -, hdecode, -⟩ := issues_iff h
  exact ok_of_decodeCheck hdecode

theorem ok_atIssue {sp : Spec} {always : Bool} {f : Fields} {s : State} (h : issues sp always f s = true) : sp.ok (s.atIssue f).w.k f = true := by
  simpa [State.atIssue] using ok_of_issues h

theorem scalar_of_sregOk {k : Kernel} {t : Nat} {spec : BitVec 10} (h : sregOk k t spec = true) : ∃ b, Opd.of spec = .s b := by
  unfold sregOk at h
  split at h
  · next b hb => exact ⟨b, hb⟩
  · exact absurd h (by decide)

/-- A D that is a scalar register or the sink takes a word of the wave. -/
theorem scalarOrSink_within {k : Kernel} {t n : Nat} {f : Fields} {lanes : List Nat} (h : sregOrNull k t f.d = true) {u : Nat} (hn : tyRegs u ≤ n)
    (l v : Nat) : ∀ w ∈ dstWr u f.d l v, w.within f n lanes := by
  unfold sregOrNull at h
  split at h
  · next b hb => exact scalar_within hn ⟨b, hb⟩ l v
  · next hb =>
    simp [dstWr, hb]
  · exact absurd h (by decide)

/-! ### The results of each form -/

section

variable {f : Fields} {s : State}

theorem fpWrs_within (fn : Fmt → RCtl → Nat → Nat → Nat → Nat × FFlags) :
    ∀ w ∈ (fpWrs s f fn).1, w.within f (tyRegs f.ty.toNat) (s.lanes f) :=
  perLaneF_within fun _ hl => dstWr_within (Nat.le_refl _) (.inr hl) _

theorem movWrs_within : ∀ w ∈ movWrs s f, w.within f (tyRegs f.ty.toNat) (s.lanes f) := by
  unfold movWrs
  dsimp only
  split
  · next n hd =>
    split <;> (intro w hw; rw [List.mem_singleton.mp hw]; exact hd)
  · split
    · split
      · next b hd => exact scalar_within (Nat.le_refl _) ⟨b, hd⟩ _ _
      · exact perLane_dst_within (Nat.le_refl _) _
    · exact perLane_dst_within (Nat.le_refl _) _

/-- A move of IMM32 writes at most two registers from D. -/
theorem mem_moviWrs {l : Nat} {w : Wr} (hw : w ∈ moviWrs f l) : ∃ n, n < 2 ∧ ∃ x : Word,
    w ∈ (match Opd.of f.d with | .v b => [Wr.v (b + n) l x] | .s b => [.s (b + n) x] | _ => []) := by
  unfold moviWrs at hw
  dsimp only at hw
  split at hw
  · exact ⟨1, by decide, _, hw⟩
  · split at hw
    · exact ⟨0, by decide, _, hw⟩
    · rcases List.mem_append.mp hw with hw | hw
      · exact ⟨0, by decide, _, hw⟩
      · exact ⟨1, by decide, _, hw⟩

theorem moviWrs_within {lanes : List Nat} {l : Nat} (hl : (∃ b, Opd.of f.d = .s b) ∨ f.uni = true ∨ l ∈ lanes) :
    ∀ w ∈ moviWrs f l, w.within f 2 lanes := by
  intro w hw
  obtain ⟨n, hn, x, hw⟩ := mem_moviWrs hw
  cases hd : Opd.of f.d with
  | v b =>
    rw [hd] at hw hl
    rw [List.mem_singleton.mp hw]
    exact ⟨b, hd, by omega, by omega, hl.resolve_left (by simp)⟩
  | s b =>
    rw [hd] at hw
    rw [List.mem_singleton.mp hw]
    exact ⟨b, hd, by omega, by omega⟩
  | _ => rw [hd] at hw; exact absurd hw List.not_mem_nil

theorem popWrs_within (hok : popSpec.ok s.w.k f = true) : ∀ w ∈ popWrs s.w.r f, w.within f 1 (s.lanes f) := by
  have hd : f.x ≠ 3 → sregOrNull s.w.k 18 f.d = true := fun hx => by
    have := (Bool.and_eq_true_iff.mp hok).2
    rwa [if_neg hx] at this
  unfold popWrs
  dsimp only
  split
  · next hx => exact scalarOrSink_within (hd fun h => by rw [h] at hx; exact absurd hx (by decide)) (Nat.le_refl _) _ _
  · next hx => exact scalarOrSink_within (hd fun h => by rw [h] at hx; exact absurd hx (by decide)) (Nat.le_refl _) _ _
  · next hx => exact scalarOrSink_within (hd fun h => by rw [h] at hx; exact absurd hx (by decide)) (Nat.le_refl _) _ _
  · exact flatMap_dst_within (Nat.le_refl _) _

/-! ### Conversions to fewer elements -/

theorem tyRegs_mem (t : Nat) : tyRegs t = 1 ∨ tyRegs t = 2 ∨ tyRegs t = 4 := by
  unfold tyRegs tyBits tyElem tyCount
  repeat' split
  all_goals simp_all

theorem tyCount_mem (t : Nat) : tyCount t = 1 ∨ tyCount t = 2 ∨ tyCount t = 4 := by
  unfold tyCount
  split <;> simp

theorem Opd.of_eq_v {spec : BitVec 10} {n : Nat} : Opd.of spec = .v n ↔ spec.toNat = n ∧ n ≤ 255 := by
  unfold Opd.of
  dsimp only
  repeat' split
  all_goals
    simp only [Opd.v.injEq, reduceCtorEq, false_iff]
    omega

theorem Opd.of_eq_s {spec : BitVec 10} {n : Nat} : Opd.of spec = .s n ↔ spec.toNat = 256 + n ∧ n ≤ 383 := by
  unfold Opd.of
  dsimp only
  repeat' split
  all_goals
    simp only [Opd.s.injEq, reduceCtorEq, false_iff]
    omega

/-- A step of less than a group from an aligned register stays among the registers of its kind. -/
theorem Opd.of_specStep {spec : BitVec 10} {n g i limit : Nat} (hg : g = 1 ∨ g = 2 ∨ g = 4 ∨ g = 8 ∨ g = 16)
    (hgroup : groupOk n g limit = true) (hi : i < g) :
    (Opd.of spec = .v n → Opd.of (specStep spec i) = .v (n + i)) ∧ (Opd.of spec = .s n → Opd.of (specStep spec i) = .s (n + i)) := by
  have haligned : n % g = 0 := by simpa using (Bool.and_eq_true_iff.mp hgroup).1
  refine ⟨fun hd => ?_, fun hd => ?_⟩ <;> rw [specStep, hd]
  · rw [Opd.of_eq_v] at hd ⊢
    simp only [BitVec.toNat_add, BitVec.toNat_ofNat]
    rcases hg with rfl | rfl | rfl | rfl | rfl <;> omega
  · rw [Opd.of_eq_s] at hd ⊢
    simp only [BitVec.toNat_add, BitVec.toNat_ofNat]
    rcases hg with rfl | rfl | rfl | rfl | rfl <;> omega

/-- What stays within some of D's registers stays within D. -/
theorem Wr.within_of_step {d : BitVec 10} {w : Wr} {k m n : Nat} {lanes : List Nat} (hw : w.within { f with d := d } m lanes) (hk : k + m ≤ n)
    (hd : (∃ b, Opd.of f.d = .v b ∧ Opd.of d = .v (b + k)) ∨ ∃ b, Opd.of f.d = .s b ∧ Opd.of d = .s (b + k)) : w.within f n lanes := by
  cases w with
  | v r l x =>
    obtain ⟨b, hb, hlo, hhi, hl⟩ := hw
    obtain ⟨c, hc, hstep⟩ | ⟨c, hc, hstep⟩ := hd <;> rw [show Opd.of d = .v b from hb] at hstep
    · cases hstep
      exact ⟨c, hc, by omega, by omega, hl⟩
    · exact absurd hstep nofun
  | s r x =>
    obtain ⟨b, hb, hlo, hhi⟩ := hw
    obtain ⟨c, hc, hstep⟩ | ⟨c, hc, hstep⟩ := hd <;> rw [show Opd.of d = .s b from hb] at hstep
    · exact absurd hstep nofun
    · cases hstep
      exact ⟨c, hc, by omega, by omega⟩
  | p r mask x =>
    have hb : Opd.of d = .p r := hw
    obtain ⟨c, hc, hstep⟩ | ⟨c, hc, hstep⟩ := hd <;> exact absurd (hb.symm.trans hstep) nofun
  | em x => exact hw

/-- An element group of a conversion to fewer elements lands in one of D's groups. -/
theorem cvtLane_within {r : Regs} {lanes : List Nat} {l : Nat} (hok : cvtOk s.w.k f = true) (hl : f.uni = true ∨ l ∈ lanes) :
    ∀ w ∈ (cvtLane r f l).1,
      w.within f (tyRegs f.ty.toNat * (if tyCount f.ty.toNat < tyCount (cvtSrc f) then tyCount (cvtSrc f) else 1)) lanes := by
  have hd := (Bool.and_eq_true_iff.mp hok).1
  unfold cvtLane
  dsimp only at hd ⊢
  split
  · next hfewer =>
    rw [if_pos hfewer] at hd
    intro w hw
    obtain ⟨⟨q, j⟩, hq, hw⟩ := List.mem_flatMap.mp hw
    have hj : j < tyCount (cvtSrc f) := by
      have := List.snd_lt_of_mem_zipIdx hq
      simp only [List.length_map, List.length_range] at this
      omega
    have hg : ∀ g, g = tyRegs f.ty.toNat * tyCount (cvtSrc f) →
        (g = 1 ∨ g = 2 ∨ g = 4 ∨ g = 8 ∨ g = 16) ∧ j * tyRegs f.ty.toNat < g ∧ j * tyRegs f.ty.toNat + tyRegs f.ty.toNat ≤ g := fun g hg => by
      rcases tyRegs_mem f.ty.toNat with ht | ht | ht <;> rcases tyCount_mem (cvtSrc f) with hs | hs | hs <;> rw [ht, hs] at hg <;>
        rw [ht] <;> omega
    obtain ⟨hpow, hinside, hroom⟩ := hg _ rfl
    have hpart : w.within { f with d := specStep f.d (j * tyRegs f.ty.toNat) } (tyRegs f.ty.toNat) lanes :=
      dstWr_within (f := { f with d := specStep f.d (j * tyRegs f.ty.toNat) }) (Nat.le_refl _) (.inr hl) _ w hw
    refine Wr.within_of_step hpart hroom ?_
    split at hd
    · next b hb => exact .inl ⟨b, hb, (Opd.of_specStep hpow hd hinside).1 hb⟩
    · next b hb => exact .inr ⟨b, hb, (Opd.of_specStep hpow (Bool.and_eq_true_iff.mp hd).2 hinside).2 hb⟩
    · next hb => simp [dstWr, specStep, hb] at hw
    · exact absurd hd (by decide)
  · exact dstWr_within (by omega) (.inr hl) _

theorem voteWrs_within (hok : voteSpec.ok s.w.k f = true) : ∀ w ∈ voteWrs s.w.r f, w.within f 2 (s.lanes f) := by
  have hd := (Bool.and_eq_true_iff.mp hok).2
  unfold voteWrs
  dsimp only
  split
  · next hx =>
    split
    · next n hp =>
      intro w hw
      rw [List.mem_singleton.mp hw]
      exact hp
    · next hp =>
      cases hdd : Opd.of f.d with
      | s n => exact scalar_within (by decide) ⟨n, hdd⟩ _ _
      | v n => simp [hdd, hx] at hd
      | _ => simp [dstWr, hdd]
  · split
    · next n hp =>
      intro w hw
      rw [List.mem_singleton.mp hw]
      exact hp
    · next n hs => exact scalar_within (by decide) ⟨n, hs⟩ _ _
    · exact flatMap_dst_within (by decide) _

end

/-! ### Short forms -/

/-- What is still to come of a wave's short results has gained one whose writes are `ok`. -/
def ShortPend (ok : Wr → Prop) (p q : List Pend) : Prop :=
  ∃ (due : Nat) (ws : List Wr), (∀ w ∈ ws, ok w) ∧ (q = p ∨ q = p.map (Pend.under due ws) ++ [{ due := due, wrs := ws }])

/-- What a short form leaves: the clause of the statement for an entry of `shortForms`. -/
def ShortFrame (f : Fields) (x : Spec × Instr × Nat × Bool) : Prop :=
  ∀ s t : State, issues x.1 false f s = true → exec x.2.1 s = .next t →
    State.quiet s t ∧ Regs.same (s.atIssue f).w.r t.w.r ∧ (x.2.2.2 = false → t.w.r.nstat = (s.atIssue f).w.r.nstat) ∧
    ShortPend (·.within f x.2.2.1 ((s.atIssue f).lanes f)) (s.atIssue f).w.r.pend t.w.r.pend

section

variable {sp : Spec} {i : Instr} {f : Fields} {lam n : Nat} {sets : Bool}

theorem State.result_goOn_pend {u : State} {slot lam : Nat} {ws : List Wr} {ok : Wr → Prop} (hok : ∀ w ∈ ws, ok w) (long : Bool) (f : Fields)
    (dest : Option DWord) : ShortPend ok u.w.r.pend ((u.result slot lam ws).goOn long f slot dest).w.r.pend := by
  rw [State.goOn_r_pend, State.result_r_pend]
  refine ⟨slot + lam, ws, hok, ?_⟩
  split
  · exact .inl rfl
  · exact .inr rfl

theorem shortFrame_of_writes {wrs : State → List Wr} (h : Writes sp i f lam wrs)
    (hin : ∀ s, sp.ok s.w.k f = true → ∀ w ∈ wrs s, w.within f n (s.lanes f)) : ShortFrame f (sp, i, n, sets) := by
  intro s t hiss hexec
  cases (Host.Outcome.next.inj ((h s hiss).symm.trans hexec))
  refine ⟨(s.quiet_atIssue f).trans ((State.quiet_result ..).trans (State.quiet_goOn ..)), ?_, fun _ => ?_,
    State.result_goOn_pend (hin _ (ok_atIssue hiss)) false f none⟩
  · simp [Regs.same]
  · simp

theorem shortFrame_of_computes {out : State → List Wr × Word} (h : Computes sp i f lam out)
    (hin : ∀ s, sp.ok s.w.k f = true → ∀ w ∈ (out s).1, w.within f n (s.lanes f)) : ShortFrame f (sp, i, n, true) := by
  intro s t hiss hexec
  cases (Host.Outcome.next.inj ((h s hiss).symm.trans hexec))
  refine ⟨(s.quiet_atIssue f).trans ((State.quiet_setNstat ..).trans ((State.quiet_result ..).trans (State.quiet_goOn ..))), ?_, fun h => absurd h nofun,
    State.result_goOn_pend (u := (s.atIssue f).setNstat _) (hin _ (ok_atIssue hiss)) false f none⟩
  simp [Regs.same]

end

theorem shortFrames (f : Fields) : ∀ x ∈ shortForms f, ShortFrame f x := by
  obtain ⟨hint, hbits, hshift⟩ := integerGroupWrites
  obtain ⟨hadd, hsub, hmul, hmulhi, hmad, hmin, hmax, habs⟩ := hint f
  obtain ⟨hand, hor, hxor, hnot, hclz, hpopc, hbrev⟩ := hbits f
  obtain ⟨hshl, hshr, hsra, hrot, hbfe, hbfi⟩ := hshift f
  obtain ⟨hselect, hmoves⟩ := selectCompareAndMove
  obtain ⟨hsel, hcmp⟩ := hselect f
  obtain ⟨hmov, hmovi, hlea, haddw, hsget, -⟩ := hmoves f
  obtain ⟨hfloat, htests⟩ := floatShortGroup
  obtain ⟨hfadd, hfsub, hfmul, hffma, hfmin, hfmax, hfrnd⟩ := hfloat f
  obtain ⟨hfcmp, hfclass, hcvt, hfscl⟩ := htests f
  obtain ⟨-, -, -, hpset, hpop⟩ := laneInstructionsWrite f
  obtain ⟨hgen, hscale⟩ := generatorAndLossScale
  obtain ⟨-, -, hgetc⟩ := hgen f
  obtain ⟨hget, -, -, hrdst, -⟩ := hscale f
  have lane : ∀ {sp i lam sets} {v : State → Nat → Nat},
      Writes sp i f lam (fun s => perLane s f fun l => dstWr f.ty.toNat f.d l (v s l)) → ShortFrame f (sp, i, tyRegs f.ty.toNat, sets) :=
    fun h => shortFrame_of_writes h fun s _ => perLane_dst_within (Nat.le_refl _) _
  have float : ∀ {sp i lam} {fn : Fmt → RCtl → Nat → Nat → Nat → Nat × FFlags},
      Computes sp i f lam (fun s => fpWrs s f fn) → ShortFrame f (sp, i, tyRegs f.ty.toNat, true) :=
    fun h => shortFrame_of_computes h fun s _ => fpWrs_within _
  unfold shortForms
  simp only [List.forall_mem_append, List.forall_mem_cons]
  refine ⟨⟨⟨lane hadd, lane hsub, lane hmul, lane hmulhi, lane hmad, lane hmin, lane hmax, lane habs, lane hand, lane hor, lane hxor, lane hnot,
    lane hclz, lane hpopc, lane hbrev, lane hshl, lane hshr, lane hsra, lane hrot, lane hbfe, lane hbfi, ?_⟩,
    lane hsel, ?cmp, shortFrame_of_writes hmov fun s _ => movWrs_within, ?movi, ?lea, ?addw, ?sget, ?pset,
    shortFrame_of_writes hpop fun s hok => popWrs_within hok, ?getc, ?get, ?rdst, ?fcmp, ?fclass, ?_⟩,
    float hfadd, float hfsub, float hfmul, float hffma, float hfmin, float hfmax, float hfrnd, ?fscl, ?cvt, ?_⟩
  case cmp => exact shortFrame_of_writes hcmp fun s _ => cmpWrs_within _
  case movi =>
    refine shortFrame_of_writes hmovi fun s _ => ?_
    split
    · next b hd => exact moviWrs_within (.inl ⟨b, hd⟩)
    · exact perLane_within fun l hl => moviWrs_within (.inr hl)
  case lea =>
    refine shortFrame_of_writes hlea fun s _ => perLane_within fun l hl => ?_
    split
    · exact dstWr_within (by decide) (.inr hl) _
    · exact dstWr_within (by decide) (.inr hl) _
  case addw => exact shortFrame_of_writes haddw fun s _ => perLane_dst_within (by decide) _
  case sget =>
    refine shortFrame_of_writes hsget fun s _ => ?_
    have hwidth : tyRegs (if specialWide f.x.toNat then 19 else 18) ≤ 2 := by split <;> decide
    dsimp only
    split
    · next b hd => exact scalar_within hwidth ⟨b, hd⟩ _ _
    · exact perLane_dst_within hwidth _
  case pset =>
    refine shortFrame_of_writes hpset fun s _ => ?_
    split
    · next n hd =>
      intro w hw
      rw [List.mem_singleton.mp hw]
      exact hd
    · exact fun w hw => absurd hw List.not_mem_nil
  case getc => exact shortFrame_of_writes hgetc fun s _ => flatMap_dst_within (Nat.le_refl _) _
  case get => exact shortFrame_of_writes hget fun s hok => scalar_within (Nat.le_refl _) (scalar_of_sregOk hok) _ _
  case rdst => exact shortFrame_of_writes hrdst fun s hok => scalar_within (Nat.le_refl _) (scalar_of_sregOk hok) _ _
  case fcmp => exact shortFrame_of_writes hfcmp fun s _ => cmpWrs_within _
  case fclass =>
    refine shortFrame_of_writes hfclass fun s _ => ?_
    split
    · exact cmpWrs_within _
    · exact perLane_dst_within (Nat.le_refl _) _
  case fscl => exact shortFrame_of_computes hfscl fun s _ => perLaneF_within fun l hl => dstWr_within (Nat.le_refl _) (.inr hl) _
  case cvt => exact shortFrame_of_computes hcvt fun s hok => perLaneF_within fun l hl => cvtLane_within (s := s) hok hl
  all_goals exact List.forall_mem_nil _

/-! ### Long forms -/

/-- What a long form leaves, where the writes to come in its wave's new operation are `ok`. -/
def LongFrame (f : Fields) (ok : Wr → Prop) (s t : State) : Prop :=
  State.quiet s t ∧ Regs.same (s.atIssue f).w.r t.w.r ∧ t.w.r.nstat = (s.atIssue f).w.r.nstat ∧ t.w.r.pend = (s.atIssue f).w.r.pend ∧
  ∀ o ∈ t.w.ops, ∀ w ∈ o.wrs, ok w ∨ ∃ o' ∈ (s.atIssue f).w.ops, w ∈ o'.wrs

/-- The operations of a wave have gained no writes to come but those of a list. -/
def Wave.gains (w v : Wave) (ws : List Wr) : Prop := ∀ o ∈ v.ops, ∀ x ∈ o.wrs, x ∈ ws ∨ ∃ o' ∈ w.ops, x ∈ o'.wrs

theorem mem_updateFirst {α : Type} {p : α → Bool} {g : α → α} {x : α} : ∀ {l : List α}, x ∈ updateFirst p g l → x ∈ l ∨ ∃ y ∈ l, x = g y
  | [], h => .inl h
  | y :: ys, h => by
    unfold updateFirst at h
    split at h
    · rcases List.mem_cons.mp h with rfl | h
      · exact .inr ⟨y, List.mem_cons_self, rfl⟩
      · exact .inl (List.mem_cons_of_mem y h)
    · rcases List.mem_cons.mp h with rfl | h
      · exact .inl List.mem_cons_self
      · rcases mem_updateFirst h with h | ⟨z, hz, rfl⟩
        · exact .inl (List.mem_cons_of_mem y h)
        · exact .inr ⟨z, List.mem_cons_of_mem y hz, rfl⟩

theorem State.startOp_gains (s : State) (f : Fields) (acq load : Bool) : s.w.gains (s.startOp f acq load).2.w [] := by
  intro o ho x hx
  have hnew : o ∈ s.w.ops ∨ o.wrs = [] := by
    unfold State.startOp State.fresh at ho
    cases hflag : setFlag f with
    | none =>
      rw [hflag] at ho
      exact .inl ho
    | some fl =>
      rw [hflag] at ho
      rcases List.mem_append.mp ho with ho | ho
      · exact .inl ho
      · rw [List.mem_singleton.mp ho]
        exact .inr rfl
  rcases hnew with ho | hempty
  · exact .inr ⟨o, ho, hx⟩
  · rw [hempty] at hx
    exact absurd hx List.not_mem_nil

theorem Wave.gains_mapOp {w v : Wave} {ws : List Wr} {g : Op → Op} (h : w.gains v []) (op : Nat) (hg : ∀ o, (g o).wrs = o.wrs ++ ws) :
    w.gains (v.mapOp op g) ws := by
  intro o ho x hx
  rcases mem_updateFirst ho with ho | ⟨o', ho', rfl⟩
  · exact .inr ((h o ho x hx).resolve_left List.not_mem_nil)
  · rw [hg] at hx
    rcases List.mem_append.mp hx with hx | hx
    · exact .inr ((h o' ho' x hx).resolve_left List.not_mem_nil)
    · exact .inl hx

theorem State.longDone_gains (s : State) (f : Fields) (ws : List Wr) (b : Word) : s.w.gains (s.longDone f ws b).w ws := by
  rw [State.longDone_eq]
  exact Wave.gains_mapOp (s.startOp_gains f false false) _ fun _ => rfl

section

variable {f : Fields} {s t u : State} {slot : Nat} {ws : List Wr} {ok : Wr → Prop}

theorem longFrame_of_gains (ht : t = u.goOn true f slot none) (hquiet : State.quiet (s.atIssue f) u) (hregs : u.w.r = (s.atIssue f).w.r)
    (hgains : (s.atIssue f).w.gains u.w ws) (hok : ∀ w ∈ ws, ok w) : LongFrame f ok s t := by
  subst ht
  refine ⟨(s.quiet_atIssue f).trans (hquiet.trans (State.quiet_goOn ..)), by simp [Regs.same, hregs], by simp [hregs], by simp [hregs], ?_⟩
  exact fun o ho w hw => (hgains o ho w hw).imp_left (hok w)

theorem longFrame_of_longDone {b : Word} (ht : t = ((s.atIssue f).longDone f ws b).goOn true f slot none) (hok : ∀ w ∈ ws, ok w) :
    LongFrame f ok s t :=
  longFrame_of_gains ht (State.quiet_longDone ..) (by simp) ((s.atIssue f).longDone_gains f ws b) hok

end

/-- The clause of the statement for an entry of `longForms`. -/
def LongFormFrame (f : Fields) (x : Spec × Instr × Nat × Bool) : Prop :=
  ∀ s t : State, issues x.1 x.2.2.2 f s = true → exec x.2.1 s = .next t →
    LongFrame f (·.within f x.2.2.1 ((s.atIssue f).lanes f)) s t

theorem longFormFrame_of_completes {sp : Spec} {always : Bool} {i : Instr} {f : Fields} {n : Nat} {out : State → List Wr} {b : State → Word}
    (h : Completes sp always i f fun slot s => (s.longDone f (out s) (b s)).goOn true f slot none)
    (hin : ∀ s, sp.ok s.w.k f = true → ∀ w ∈ out s, w.within f n (s.lanes f)) : LongFormFrame f (sp, i, n, always) := fun s _ hiss hexec =>
  longFrame_of_longDone (Host.Outcome.next.inj (hexec.symm.trans (h s hiss))) (hin _ (ok_atIssue hiss))

/-- `mstat` finishes the one operation it begins. -/
theorem mstat_longFrame (f : Fields) : LongFormFrame f (mstatSpec, .mstat f, 1, false) := by
  obtain ⟨-, -, hmstat, -⟩ := engineStateInstructions f
  intro s t hiss hexec
  have ht := Host.Outcome.next.inj (hexec.symm.trans (hmstat s hiss))
  generalize hword : dstWr 18 f.d 0 ((s.atIssue f).mstatWord (s.atIssue f).w (f.x.toNat % 4)) = ws at ht
  generalize hbegun : ((s.atIssue f).startOp f false false).2.withW (fun w => w.mapOp ((s.atIssue f).startOp f false false).1
    fun o => { o with eng := true }) = u
  have hfinish : t = (u.finishOp u.w.uid ((s.atIssue f).startOp f false false).1 ws 0 none).goOn true f (issueSlot s f) none := by
    rw [ht, ← hbegun, ← hword]
    rfl
  rw [State.finishOp_self] at hfinish
  refine longFrame_of_gains hfinish ?_ ?_ (Wave.gains_mapOp ?_ _ fun _ => rfl) ?_
  · rw [← hbegun]
    exact State.quiet_startOp ..
  · rw [← hbegun]
    exact (s.atIssue f).startOp_r f false false
  · rw [← hbegun]
    exact Wave.gains_mapOp ((s.atIssue f).startOp_gains f false false) _ fun o => (List.append_nil o.wrs).symm
  · rw [← hword]
    exact scalar_within (Nat.le_refl _) (scalar_of_sregOk (ok_atIssue hiss)) _ _

theorem longFrames (f : Fields) : ∀ x ∈ longForms f, LongFormFrame f x := by
  obtain ⟨hfloat, -⟩ := floatLongProduces
  obtain ⟨hfdiv, hfsqrt, hfrcp, hfrsq, hfexp2, hflog2, hfsin, hfcos⟩ := hfloat f
  obtain ⟨hvote, -, hwred, -⟩ := laneInstructionsWrite f
  obtain ⟨-, -, -, -, -, hrstat, -⟩ := contributionsIssue f
  have float : ∀ {sp i} {fn : Fmt → RCtl → Nat → Nat → Nat → Nat × FFlags},
      Produces sp i f (fun s => fpWrs s f fn) → LongFormFrame f (sp, i, tyRegs f.ty.toNat, false) :=
    fun h => longFormFrame_of_completes h fun s _ => fpWrs_within _
  unfold longForms
  simp only [List.forall_mem_cons]
  refine ⟨float hfdiv, float hfsqrt, float hfrcp, float hfrsq, float hfexp2, float hflog2, float hfsin, float hfcos,
    longFormFrame_of_completes hvote fun s hok => voteWrs_within hok, ?wred, mstat_longFrame f, ?rstat, List.forall_mem_nil _⟩
  case wred =>
    refine longFormFrame_of_completes hwred fun s _ => ?_
    split
    · next b hd => exact scalar_within (Nat.le_refl _) ⟨b, hd⟩ _ _
    · exact flatMap_dst_within (Nat.le_refl _) _
  case rstat => exact longFormFrame_of_completes hrstat fun s hok => scalar_within (Nat.le_refl _) (scalar_of_sregOk (Bool.and_eq_true_iff.mp hok).1) _ _

/-! ### The long forms with a premise of their own -/

section

variable {f : Fields} {s t : State}

theorem shfl_longFrame (hiss : issues (shflSpec f) false f s = true)
    (hgood : ∀ l ∈ (s.atIssue f).lanes f, srcBad (s.atIssue f).w.r (tyRegs f.ty.toNat)
      (1#64 <<< shflSrc f.x.toNat l ((s.atIssue f).srcB f 18 l)) f.a = false)
    (hexec : exec (.shfl f) s = .next t) : LongFrame f (·.within f (tyRegs f.ty.toNat) ((s.atIssue f).lanes f)) s t := by
  obtain ⟨-, hshfl, -⟩ := laneInstructionsWrite f
  have hnone := hshfl s hiss (List.any_eq_false.mpr fun l hl => by rw [hgood l hl]; decide)
  exact longFrame_of_longDone (Host.Outcome.next.inj (hexec.symm.trans hnone)) (flatMap_dst_within (Nat.le_refl _) _)

theorem vopt_longFrame (hiss : issues (voptSpec f) false f s = true)
    (hgood : srcBad (s.atIssue f).w.r 10 allLanes (BitVec.ofNat 10 (256 + f.x.toNat % 512)) = false) (hexec : exec (.vopt f) s = .next t) :
    LongFrame f (fun w => ∃ d ∈ [f.d, f.b, f.c], w.within { f with d := d } 1 ((s.atIssue f).lanes f)) s t := by
  obtain ⟨-, -, hvopt, -⟩ := floatLongProduces
  refine longFrame_of_longDone (Host.Outcome.next.inj (hexec.symm.trans ((hvopt f).1 s hiss hgood))) fun w hw => ?_
  have hput : ∀ {d : BitVec 10} {val : Nat → Option (FVal × FVal × FVal)} {part : FVal × FVal × FVal → FVal},
      (w ∈ ((s.atIssue f).lanes f).flatMap fun l => match val l with | none => [] | some q => dstWr 8 d l (voBits (part q))) →
      w.within { f with d := d } 1 ((s.atIssue f).lanes f) := fun {d val part} hw => by
    obtain ⟨l, hl, hw⟩ := List.mem_flatMap.mp hw
    split at hw
    · exact absurd hw List.not_mem_nil
    · exact dstWr_within (f := { f with d := d }) (by decide) (.inr (.inr hl)) _ w hw
  rcases List.mem_append.mp hw with hw | hw
  · rcases List.mem_append.mp hw with hw | hw
    · exact ⟨f.b, by simp, hput hw⟩
    · exact ⟨f.c, by simp, hput hw⟩
  · exact ⟨f.d, by simp, hput hw⟩

theorem aread_longFrame (hiss : issues (accRegSpec true) false f s = true) (hcheck : accRegCheck (s.atIssue f) f f.d = none)
    (hexec : exec (.aread f) s = .next t) :
    LongFrame f (·.within f ((s.atIssue f).srcC f 18 0) ((s.atIssue f).lanes f)) s t := by
  obtain ⟨-, -, -, haread, -⟩ := engineStateInstructions f
  refine longFrame_of_longDone (Host.Outcome.next.inj (hexec.symm.trans (haread s hiss hcheck))) fun w hw => ?_
  obtain ⟨r, hr, hw⟩ := List.mem_flatMap.mp hw
  obtain ⟨l, hl, rfl⟩ := List.mem_map.mp hw
  have hrows := List.mem_range.mp hr
  have hd : vecOk (s.atIssue f).w.k f.d = true := (Bool.and_eq_true_iff.mp (ok_atIssue hiss)).2
  unfold vecOk at hd
  split at hd
  · next n hn =>
    have hnum : vecNum f.d = n := by simp [vecNum, hn]
    exact ⟨n, hn, by omega, by omega, .inr hl⟩
  · exact absurd hd (by decide)

theorem ghash_longFrame {g : Grid} (hiss : issues ghashSpec false f s = true) (hfree : (s.atIssue f).binding (gridX f) = false)
    (hgrid : (s.atIssue f).grid? (s.atIssue f).w.team (gridX f) = some g) (hinside : vecNum f.a + g.dims ≤ (s.atIssue f).w.k.vregs)
    (hgood : groupBad (s.atIssue f).w.r (vecNum f.a) g.dims (activeMask (s.atIssue f).w.r f) = false) (hexec : exec (.ghash f) s = .next t) :
    LongFrame f (·.within f 2 ((s.atIssue f).lanes f)) s t := by
  obtain ⟨-, -, -, -, -, -, hghash, -⟩ := gridInstructionsIssue f
  refine longFrame_of_longDone (Host.Outcome.next.inj (hexec.symm.trans (hghash s g hiss ⟨⟨hfree, hgrid⟩, hinside, hgood⟩))) fun w hw => ?_
  have hd : vregOk (s.atIssue f).w.k 19 f.d = true := by
    have hok : (((vregOk (s.atIssue f).w.k 19 f.d && vecOk (s.atIssue f).w.k f.a) && hashOk (s.atIssue f).w.k f f.b) &&
        hashOk (s.atIssue f).w.k f f.c && gridDeclared (s.atIssue f).w.k f) = true := ok_atIssue hiss
    simp only [Bool.and_eq_true] at hok
    exact hok.1.1.1.1
  obtain ⟨l, hl, hw⟩ := List.mem_flatMap.mp hw
  have hpair : ∃ i x, i < 2 ∧ w = .v (vecNum f.d + i) l x := by
    split at hw <;>
    · rcases List.mem_cons.mp hw with rfl | hw
      · exact ⟨0, _, by decide, rfl⟩
      · exact ⟨1, _, by decide, List.mem_singleton.mp hw⟩
  obtain ⟨i, x, hi, rfl⟩ := hpair
  unfold vregOk at hd
  split at hd
  · next n hn =>
    have hnum : vecNum f.d = n := by simp [vecNum, hn]
    exact ⟨n, hn, by omega, by omega, .inr hl⟩
  · exact absurd hd (by decide)

end

/-! ### The generator -/

section

variable {f : Fields} {s t : State}

/-- Counters of other lanes keep their values. -/
theorem foldl_cset_other {v : Nat → Word} {l : Nat} : ∀ {ls : List Nat} {c : Cells 32}, l ∉ ls →
    cget 0 (ls.foldl (fun c j => cset 0 (v j) c j) c) l = cget 0 c l
  | [], _, _ => rfl
  | j :: js, c, hl => by
    rw [List.mem_cons, not_or] at hl
    obtain ⟨hj, hjs⟩ := hl
    exact (foldl_cset_other hjs).trans (cget_cset_other hj)

/-- What a draw and `rng.setc` leave but for the counters of the lanes they act in. -/
def CountFrame (f : Fields) (s t : State) : Prop :=
  State.quiet s t ∧ Regs.same { (s.atIssue f).w.r with rng := t.w.r.rng } t.w.r ∧ t.w.r.nstat = (s.atIssue f).w.r.nstat ∧
  ∀ l, l < 64 → l ∉ (s.atIssue f).lanes f → t.w.r.rget l = (s.atIssue f).w.r.rget l

theorem rngSetc_frame (hiss : issues rngSetcSpec false f s = true) (hexec : exec (.rngSetc f) s = .next t) :
    CountFrame f s t ∧ t.w.r.pend = (s.atIssue f).w.r.pend := by
  obtain ⟨hgen, -⟩ := generatorAndLossScale
  obtain ⟨-, hsetc, -⟩ := hgen f
  cases Host.Outcome.next.inj ((hsetc s hiss).symm.trans hexec)
  refine ⟨⟨(s.quiet_atIssue f).trans ((State.quiet_withR ..).trans (State.quiet_goOn ..)), by simp [Regs.same], by simp, fun l _ hl => ?_⟩,
    by simp⟩
  simpa [Regs.rget] using foldl_cset_other hl

theorem rngDraw_frame (hiss : issues rngDrawSpec false f s = true) (hexec : exec (.rngDraw f) s = .next t) :
    CountFrame f s t ∧ ShortPend (·.within f 1 ((s.atIssue f).lanes f)) (s.atIssue f).w.r.pend t.w.r.pend := by
  obtain ⟨hgen, -⟩ := generatorAndLossScale
  obtain ⟨hdraw, -, -⟩ := hgen f
  cases Host.Outcome.next.inj ((hdraw s hiss).symm.trans hexec)
  refine ⟨⟨(s.quiet_atIssue f).trans ((State.quiet_withR ..).trans ((State.quiet_result ..).trans (State.quiet_goOn ..))), by simp [Regs.same],
    by simp, fun l _ hl => ?_⟩, State.result_goOn_pend (u := (s.atIssue f).withR _)
    (flatMap_dst_within (t := 18) (s := s.atIssue f) (by decide) _) false f none⟩
  simpa [Regs.rget] using foldl_cset_other hl

end

/-! ### Registers as the effect begins -/

theorem Regs.put_v_other {r : Regs} {w : Wr} {a : Nat} (h : ∀ k j x, w = .v k j x → 64 * k + j ≠ a) : cget 0 (r.put w).v a = cget 0 r.v a := by
  cases w with
  | v k j x => exact cget_cset_other (h k j x rfl).symm
  | p n mask x => by_cases hn : n = 7 <;> simp [Regs.put, hn]
  | _ => rfl

theorem Regs.put_s_other {r : Regs} {w : Wr} {n : Nat} (h : ∀ x, w ≠ .s n x) : cget 0 (r.put w).s n = cget 0 r.s n := by
  cases w with
  | s k x => exact cget_cset_other fun hk => h x (by rw [hk])
  | p n mask x => by_cases hn : n = 7 <;> simp [Regs.put, hn]
  | _ => rfl

/-- What every write to come leaves unchanged is unchanged once those that are due have been made. -/
theorem Regs.settle_keeps {α : Type} {r : Regs} {slot : Nat} (get : Regs → α)
    (hput : ∀ r', ∀ q ∈ r.pend, ∀ w ∈ q.wrs, get (r'.put w) = get r') (hpend : ∀ r' p, get { r' with pend := p } = get r') :
    get (r.settle slot) = get r := by
  have hwrs : ∀ q ∈ r.pend, ∀ r' : Regs, get (r'.puts q.wrs) = get r' := fun q hq r' =>
    foldl_keeps_of_mem (p := fun u => get u = get r') (fun u w hw hu => (hput u q hq w hw).trans hu) r' rfl
  have hripe : ∀ {ps : List Pend}, (∀ q ∈ ps, q ∈ r.pend) → get (ps.foldl (fun r q => r.puts q.wrs) r) = get r := fun {ps} hps =>
    foldl_keeps_of_mem (p := fun u => get u = get r) (fun u q hq hu => (hwrs q (hps q hq) u).trans hu) r rfl
  exact (hpend _ _).trans (hripe fun q hq => Regs.mem_pend_of_mem_ripe hq)

/-- Settles O58. -/
theorem registerFrames : Obligations.RegisterFrames := by
  intro f s t
  refine ⟨fun x hx => shortFrames f x hx s t, fun x hx => longFrames f x hx s t, shfl_longFrame, vopt_longFrame, aread_longFrame,
    fun g => ghash_longFrame, rngDraw_frame, rngSetc_frame, fun n l hl hclear => ?_, fun n hclear => ?_⟩
  · rw [State.atIssue_r]
    exact Regs.settle_keeps (fun r => r.vget n l) (fun r q hq w hw => Regs.put_v_other (hclear q hq w hw)) fun _ _ => rfl
  · rw [State.atIssue_r]
    exact Regs.settle_keeps (fun r => r.sget n) (fun r q hq w hw => Regs.put_s_other (hclear q hq w hw)) fun _ _ => rfl

end Sys2Proof.Machine

/-! What loads, stores, atomics and jumps leave unchanged as they issue (R153 to R158, R304 to R307). -/

namespace Sys2Proof.Machine

/-! ### Updates that leave the registers of the wave too -/

/-- An update that is quiet and leaves the registers of the wave on the issue port. -/
def State.calm (s t : State) : Prop := State.quiet s t ∧ t.w.r = s.w.r

theorem State.calm.refl (s : State) : State.calm s s := ⟨State.quiet.refl s, rfl⟩

theorem State.calm.trans {s t u : State} (hst : State.calm s t) (htu : State.calm t u) : State.calm s u :=
  ⟨hst.1.trans htu.1, htu.2.trans hst.2⟩

/-- A fold of calm updates is calm. -/
theorem State.calm_foldl {α : Type} {g : State → α → State} (h : ∀ s x, State.calm s (g s x)) (xs : List α) (s : State) :
    State.calm s (xs.foldl g s) :=
  foldl_keeps (p := State.calm s) (fun u x hu => hu.trans (h u x)) xs s (State.calm.refl s)

theorem State.calm_startOp (s : State) (f : Fields) (acq load : Bool) : State.calm s (s.startOp f acq load).2 :=
  ⟨State.quiet_startOp .., State.startOp_r ..⟩

theorem State.calm_pushAcc (s : State) (a : Acc) : State.calm s (s.pushAcc a) := State.calm.refl s

theorem State.calm_withM (s : State) {g : MemSys → MemSys} (hmem : (g s.m).mem = s.m.mem) (hsp : (g s.m).sp = s.m.sp)
    (hacc : (g s.m).acc = s.m.acc) : State.calm s (s.withM g) :=
  ⟨⟨fun a => ⟨congrArg (cget 0 · a) hmem, congrArg (cget 0 · a) hsp⟩, hacc, rfl, rfl, rfl, rfl, rfl, rfl, rfl, rfl, rfl⟩, rfl⟩

theorem State.calm_l1Touch (s : State) (core pa hint : Nat) : State.calm s (s.withM fun m => m.l1Touch core pa hint) := by
  unfold MemSys.l1Touch
  split
  · exact State.calm.refl s
  · refine State.calm_withM s ?_ ?_ ?_ <;> rfl

theorem State.calm_mapOp (s : State) (op : Nat) (g : Op → Op) : State.calm s (s.mapWave s.w.uid fun w => w.mapOp op g) := by
  rw [State.mapWave, if_pos rfl]
  exact State.calm.refl s

theorem State.calm_closeOp (s : State) (op : Nat) : State.calm s (s.closeOp op) := by
  unfold State.closeOp
  split
  · exact State.calm.refl s
  · rw [State.finishOp_self]
    exact State.calm.refl s

/-! ### Accesses enter the port -/

theorem State.calm_loadPiece (s : State) (f : Fields) (sp : Bool) (op : Nat) (wide : Bool) (l : Loc) (p : Nat × Nat × Nat) :
    State.calm s (s.loadPiece f sp op wide l p) := by
  unfold State.loadPiece
  dsimp only
  split
  · exact State.calm.trans (State.calm_l1Touch ..) (State.calm_mapOp ..)
  · exact State.calm_pushAcc ..

theorem State.calm_issueStore (s : State) (a : Acc) : State.calm s (s.issueStore a) := by
  unfold State.issueStore
  refine State.calm.trans ?_ (State.calm_pushAcc ..)
  split
  · refine State.calm_withM s ?_ ?_ ?_ <;> rfl
  · exact State.calm.refl s

theorem State.calm_issueAtomics (s : State) (f : Fields) (sp : Bool) (op ret : Nat) (acq rel : Bool) (ls : List Loc) :
    State.calm s (s.issueAtomics f sp op ret acq rel ls) := by
  unfold State.issueAtomics
  refine State.calm.trans (State.calm_foldl (fun s x => ?_) _ s) (State.calm_closeOp ..)
  refine State.calm.trans ?_ (State.calm_pushAcc ..)
  split
  · exact State.calm.refl s
  · refine State.calm_withM s ?_ ?_ ?_ <;> rfl

/-! ### From the state the effect begins in -/

section

variable {f : Fields} {s t u : State} {slot : Nat}

/-- The clause every part of the statement shares. -/
def CalmFrame (f : Fields) (s t : State) : Prop :=
  State.quiet s t ∧ Regs.same (s.atIssue f).w.r t.w.r ∧ t.w.r.nstat = (s.atIssue f).w.r.nstat ∧ t.w.r.pend = (s.atIssue f).w.r.pend

theorem calmFrame_of_goOn {long : Bool} {dest : Option DWord} (hcalm : State.calm (s.atIssue f) u)
    (ht : Host.Outcome.next t = (.next (u.goOn long f slot dest) : Ans)) : CalmFrame f s t := by
  cases Host.Outcome.next.inj ht
  obtain ⟨hquiet, hr⟩ := hcalm
  exact ⟨(s.quiet_atIssue f).trans (hquiet.trans (State.quiet_goOn ..)), by simp [Regs.same, hr], by simp [hr], by simp [hr]⟩

/-- An instruction whose effect is calm wherever it is found leaves the frame. -/
theorem calmFrame_of_completesFor {α : Type} {sp : Spec} {i : Instr} {cond : State → α → Prop} {long : Bool} {g : State → α → State} {x : α}
    (h : CompletesFor sp i f cond fun slot s x => (g s x).goOn long f slot none) (hcalm : ∀ s x, State.calm s (g s x))
    (hiss : issues sp false f s = true) (hcond : cond (s.atIssue f) x) (hexec : exec i s = .next t) : CalmFrame f s t :=
  calmFrame_of_goOn (hcalm _ x) (hexec.symm.trans (h s x hiss hcond))

/-- A jump on a state as its effect begins leaves the other arm, LIVE and the mask of its arm. -/
theorem ctl_of_goOn {long : Bool} {dest : Option DWord} (ht : Host.Outcome.next t = (.next (u.goOn long f slot dest) : Ans)) :
    t.w.r.ctl.other = u.w.r.ctl.other ∧ t.w.r.ctl.live = u.w.r.ctl.live ∧ t.w.r.ctl.arm.em = u.w.r.ctl.arm.em := by
  cases Host.Outcome.next.inj ht
  simp

end

theorem calm_loads (s : State) (f : Fields) (sp : Bool) (ls : List Loc) : State.calm s
    ((ls.foldl (fun u l => (pieces (tyBits f.ty.toNat / 8)).foldl (fun u p =>
      u.loadPiece f sp (s.startOp f (ordX f == 1) true).1 (ordX f == 1 && scopeX f != 0) l p) u) (s.startOp f (ordX f == 1) true).2).closeOp
        (s.startOp f (ordX f == 1) true).1) := by
  refine (State.calm_startOp s f (ordX f == 1) true).trans (State.calm.trans ?_ (State.calm_closeOp ..))
  exact State.calm_foldl (fun u l => State.calm_foldl (fun v p => State.calm_loadPiece ..) _ u) ls _

theorem calm_stores (s : State) (f : Fields) (sp : Bool) (ls : List Loc) : State.calm s
    (((storeAccs (s.startOp f false false).2 f sp (s.startOp f false false).1 ls).foldl State.issueStore (s.startOp f false false).2).closeOp
      (s.startOp f false false).1) :=
  (State.calm_startOp s f false false).trans ((State.calm_foldl State.calm_issueStore _ _).trans (State.calm_closeOp ..))

/-- Settles O59. -/
theorem issueFrames : Obligations.IssueFrames := by
  intro f s t
  obtain ⟨hatom, hatomr, hred, hspatom, -⟩ := atomicsAndLiteralsIssue f
  have atomics : ∀ {acq load : Bool} (s : State) (ls : List Loc) (sp : Bool) (ret : Nat) (acq' rel : Bool),
      State.calm s ((s.startOp f acq load).2.issueAtomics f sp (s.startOp f acq load).1 ret acq' rel ls) := fun s ls sp ret acq' rel =>
    (State.calm_startOp ..).trans (State.calm_issueAtomics ..)
  refine ⟨fun sp hiss => ?load, fun sp hiss => ?store, fun ret i hi hiss => ?atom, fun hiss => ?spatom, ?br, ?bu, ?bc⟩
  case load =>
    intro ⟨hcore, hscope, ls, hls⟩ hexec
    exact calmFrame_of_completesFor (loadsAndStoresIssue f sp).1 (fun s ls => calm_loads s f sp ls) hiss ⟨hcore, hscope, hls⟩ hexec
  case store =>
    intro ⟨hcore, hscope, ls, hls⟩ hahead hexec
    exact calmFrame_of_completesFor (loadsAndStoresIssue f sp).2.1 (fun s ls => calm_stores s f sp ls) hiss ⟨⟨hcore, hscope, hls⟩, hahead⟩ hexec
  case atom =>
    rintro ⟨-, hscope, ls, hls⟩ hexec
    cases ret
    · cases List.mem_singleton.mp hi
      exact calmFrame_of_completesFor hred (fun s ls => atomics s ls ..) hiss ⟨hscope, hls⟩ hexec
    · rcases List.mem_cons.mp hi with rfl | hi
      · exact calmFrame_of_completesFor hatom (fun s ls => atomics s ls ..) hiss ⟨hscope, hls⟩ hexec
      · cases List.mem_singleton.mp hi
        exact calmFrame_of_completesFor hatomr (fun s ls => atomics s ls ..) hiss ⟨hscope, hls⟩ hexec
  case spatom =>
    intro ⟨hcore, hscope, ls, hls⟩ hexec
    exact calmFrame_of_completesFor hspatom (fun s ls => atomics s ls ..) hiss ⟨hcore, hscope, hls⟩ hexec
  case br =>
    intro hiss hexec
    have ht := hexec.symm.trans (completes_br f s hiss)
    obtain ⟨hother, hlive, -⟩ := ctl_of_goOn ht
    exact ⟨calmFrame_of_goOn (State.calm.refl _) ht, hother, hlive⟩
  case bu =>
    intro hiss hexec
    have ht := hexec.symm.trans (completes_bu f s hiss)
    obtain ⟨hother, hlive, -⟩ := ctl_of_goOn ht
    exact ⟨calmFrame_of_goOn (State.calm.refl _) ht, hother, hlive⟩
  case bc =>
    intro hiss hway hexec
    obtain ⟨hall, hnone, -⟩ := branchDiverges f
    have ht : ∃ dest, Host.Outcome.next t = (.next ((s.atIssue f).goOn false f (issueSlot s f) dest) : Ans) := by
      by_cases hfall : (s.atIssue f).w.r.em &&& ~~~ guardMask (s.atIssue f).w.r f = 0
      · exact ⟨_, hexec.symm.trans (hall s hiss hfall)⟩
      · exact ⟨_, hexec.symm.trans (hnone s hiss ⟨hfall, hway.resolve_left hfall⟩)⟩
    obtain ⟨dest, ht⟩ := ht
    obtain ⟨hother, -, hem⟩ := ctl_of_goOn ht
    exact ⟨calmFrame_of_goOn (State.calm.refl _) ht, hother, hem⟩

end Sys2Proof.Machine

/-! What an access performed at its point leaves unchanged (R81, R147, R331). -/

namespace Sys2Proof.Machine

/-! ### Updates that move no byte -/

/-- The registers of every wave, the accumulators, the contexts, the package, the teams, the grids and the waits on objects stand as they
were. -/
def State.rest (s t : State) : Prop :=
  t.waves.map (·.r) = s.waves.map (·.r) ∧ t.m.acc = s.m.acc ∧ t.ctxs = s.ctxs ∧ t.pkg = s.pkg ∧ t.teams = s.teams ∧ t.grids = s.grids ∧
  t.cwaits = s.cwaits

/-- The bytes of memory and scratchpad, what key they are under and which of them are poisoned stand as they were too. -/
def State.still (s t : State) : Prop :=
  State.rest s t ∧ t.m.mem = s.m.mem ∧ t.m.sp = s.m.sp ∧ t.m.secKey = s.m.secKey ∧ t.m.poison = s.m.poison ∧ t.m.spPoison = s.m.spPoison

theorem State.rest.refl (s : State) : State.rest s s := ⟨rfl, rfl, rfl, rfl, rfl, rfl, rfl⟩

theorem State.rest.trans {s t u : State} (hst : State.rest s t) (htu : State.rest t u) : State.rest s u := by
  obtain ⟨hregs, hacc, hctxs, hpkg, hteams, hgrids, hwaits⟩ := hst
  obtain ⟨hregs', hacc', hctxs', hpkg', hteams', hgrids', hwaits'⟩ := htu
  exact ⟨hregs'.trans hregs, hacc'.trans hacc, hctxs'.trans hctxs, hpkg'.trans hpkg, hteams'.trans hteams, hgrids'.trans hgrids,
    hwaits'.trans hwaits⟩

theorem State.still.refl (s : State) : State.still s s := ⟨State.rest.refl s, rfl, rfl, rfl, rfl, rfl⟩

theorem State.still.trans {s t u : State} (hst : State.still s t) (htu : State.still t u) : State.still s u := by
  obtain ⟨hrest, hmem, hsp, hkey, hpoison, hspPoison⟩ := hst
  obtain ⟨hrest', hmem', hsp', hkey', hpoison', hspPoison'⟩ := htu
  exact ⟨hrest.trans hrest', hmem'.trans hmem, hsp'.trans hsp, hkey'.trans hkey, hpoison'.trans hpoison, hspPoison'.trans hspPoison⟩

theorem map_updateFirst_same {α β : Type} {p : α → Bool} {g : α → α} {k : α → β} (hg : ∀ x, k (g x) = k x) :
    ∀ l : List α, (updateFirst p g l).map k = l.map k
  | [] => rfl
  | x :: xs => by
    unfold updateFirst
    split
    · rw [List.map_cons, List.map_cons, hg]
    · rw [List.map_cons, List.map_cons, map_updateFirst_same hg xs]

theorem State.still_mapWave (s : State) (uid : Nat) {g : Wave → Wave} (hg : ∀ w, (g w).r = w.r) : State.still s (s.mapWave uid g) := by
  unfold State.mapWave
  split
  · exact ⟨⟨by simp [State.waves, hg], rfl, rfl, rfl, rfl, rfl, rfl⟩, rfl, rfl, rfl, rfl, rfl⟩
  · exact ⟨⟨by simp [State.waves, map_updateFirst_same hg], rfl, rfl, rfl, rfl, rfl, rfl⟩, rfl, rfl, rfl, rfl, rfl⟩

theorem State.still_finishOp (s : State) (wave op : Nat) (ws : List Wr) (b : Word) (err : Option FErr) :
    State.still s (s.finishOp wave op ws b err) := by
  unfold State.finishOp State.mapAnyWave
  split
  · exact State.still_mapWave s wave fun _ => rfl
  · exact State.still.refl s

theorem State.still_withM (s : State) {g : MemSys → MemSys} (h : (g s.m).mem = s.m.mem ∧ (g s.m).sp = s.m.sp ∧ (g s.m).secKey = s.m.secKey ∧
    (g s.m).poison = s.m.poison ∧ (g s.m).spPoison = s.m.spPoison ∧ (g s.m).acc = s.m.acc) : State.still s (s.withM g) := by
  obtain ⟨hmem, hsp, hkey, hpoison, hspPoison, hacc⟩ := h
  exact ⟨⟨rfl, hacc, rfl, rfl, rfl, rfl, rfl⟩, hmem, hsp, hkey, hpoison, hspPoison⟩

theorem State.still_foldl {α : Type} {g : State → α → State} (h : ∀ s x, State.still s (g s x)) (xs : List α) (s : State) :
    State.still s (xs.foldl g s) :=
  foldl_keeps (p := State.still s) (fun u x hu => hu.trans (h u x)) xs s (State.still.refl s)

theorem State.still_send (s : State) (chip : Nat) (m : Msg) : State.still s (s.send chip m) := by
  unfold State.send
  repeat' split
  all_goals exact State.still.refl s

theorem State.still_askPromo (s : State) (p : Promo) (acc : Option Nat) : State.still s (s.askPromo p acc) := State.still.refl s

theorem State.still_addPromo (s : State) (p : Promo) : State.still s (s.addPromo p) := by
  unfold State.addPromo
  extract_lets same u here v
  have hout : State.still u v := by
    unfold v
    clear v
    clear_value here
    generalize (if p.kettle = true then 256 else 64) = room
    split
    · exact State.still.refl u
    · split
      · exact State.still.refl u
      · exact State.still.refl u
  exact State.still.trans (State.still.refl s) (hout.trans (State.still.refl v))

theorem State.still_fenceDone (s : State) (x : Fence) : State.still s (s.fenceDone x) := by
  unfold State.fenceDone
  refine State.still.trans ?_ (State.still_finishOp ..)
  split <;> exact State.still.refl s

theorem State.still_settleFences (s : State) : State.still s s.settleFences := by
  refine State.still_foldl (fun u x => ?_) s.fences s
  repeat' split
  · exact State.still.refl u
  · exact State.still.refl u
  · exact State.still.trans (State.still.refl u) (State.still_send ..)
  · exact State.still_fenceDone u x

theorem State.still_accDone (s : State) (a : Acc) (ws : List Wr) : State.still s (s.accDone a ws none) := by
  unfold State.accDone
  refine State.still.trans ?_ (State.still_settleFences _)
  have hmap : State.still s ((s.withM fun m => { m with port := m.port.filter fun b => b.id != a.id }).mapWave a.wave fun w =>
      w.mapOp a.op fun o => { o with wrs := o.wrs ++ ws }) :=
    State.still.trans (State.still_withM s ⟨rfl, rfl, rfl, rfl, rfl, rfl⟩) (State.still_mapWave _ _ fun _ => rfl)
  dsimp only
  split
  · exact hmap
  · refine hmap.trans (State.still.trans ?_ (State.still_finishOp ..))
    split
    · exact State.still_withM _ ⟨rfl, rfl, rfl, rfl, rfl, rfl⟩
    · exact State.still.refl _

theorem State.still_noteSeen (s : State) (a : Acc) : State.still s (s.noteSeen a) := by
  unfold State.noteSeen
  repeat' split
  · exact State.still.refl s
  · exact State.still_mapWave s a.wave fun _ => rfl
  · exact State.still.refl s

theorem State.still_promoAfter (s : State) (a : Acc) : State.still s (s.promoAfter a) := by
  have hdrop : State.still s (if a.kind = .store then s.withM fun m => m.dropPromos (some a.core) a.sp a.pa a.size else s) := by
    split
    · exact State.still_withM s ⟨rfl, rfl, rfl, rfl, rfl, rfl⟩
    · exact State.still.refl s
  unfold State.promoAfter
  generalize (if a.kind = .store then s.withM fun m => m.dropPromos (some a.core) a.sp a.pa a.size else s) = u at hdrop ⊢
  dsimp only
  split
  · exact hdrop.trans (State.still_addPromo ..)
  · exact hdrop

theorem State.still_l1Bring (s : State) (a : Acc) (bs : List Byte) : State.still s (s.l1Bring a bs) := by
  unfold State.l1Bring
  split
  · exact State.still.refl s
  · refine State.still_withM s ?_
    unfold MemSys.l1Fill
    dsimp only
    split <;> exact ⟨rfl, rfl, rfl, rfl, rfl, rfl⟩

/-! ### The L2 as an access passes it -/

theorem State.still_l2Leave (s : State) (pa : Nat) : State.still s (s.l2Leave pa) := State.still_withM s ⟨rfl, rfl, rfl, rfl, rfl, rfl⟩

theorem State.still_l2Rekey (s : State) (slot pa : Nat) : State.still s (s.l2Rekey slot pa) := by
  unfold State.l2Rekey
  repeat' split
  · exact State.still.refl s
  · exact State.still_l2Leave s pa
  · exact State.still.refl s

theorem State.still_l2Hit (s : State) (pa hint : Nat) (write : Bool) : State.still s (s.withM fun m => m.l2Hit pa hint write) :=
  State.still_withM s ⟨rfl, rfl, rfl, rfl, rfl, rfl⟩

theorem State.still_l2Fill (s : State) (pa slot : Nat) (tenant : Bool) (hint : Nat) : State.still s (s.l2Fill pa slot tenant hint) := by
  unfold State.l2Fill
  dsimp only
  cases s.m.l2Find pa with
  | some l => exact State.still_withM s ⟨rfl, rfl, rfl, rfl, rfl, rfl⟩
  | none =>
    cases s.m.l2Victim (lineOf pa) (s.tenMask (homeSlice pa) tenant) with
    | none => exact State.still.refl s
    | some way => exact State.still_withM s ⟨rfl, rfl, rfl, rfl, rfl, rfl⟩

theorem State.still_mapAcc (s : State) (id : Nat) (g : Acc → Acc) : State.still s (s.mapAcc id g) :=
  State.still_withM s ⟨rfl, rfl, rfl, rfl, rfl, rfl⟩

theorem State.still_toPeer (s : State) (a : Acc) (chip : Nat) : State.still s (s.toPeer a chip) :=
  (State.still_mapAcc ..).trans (State.still_send ..)

theorem State.still_invalHold {s t : State} {a : Acc} (h : s.invalHold a = some t) : State.still s t := by
  unfold State.invalHold at h
  split at h
  · rw [← Option.some.inj h]
    exact State.still_mapAcc s a.id fun x => { x with stage := .inval }
  · exact absurd h nofun

theorem State.still_promoHold {s t : State} {a : Acc} (h : s.promoHold a = some t) : State.still s t := by
  unfold State.promoHold at h
  split at h
  · split at h
    · exact absurd h nofun
    · rw [← Option.some.inj h]
      exact (State.still_askPromo ..).trans (State.still_mapAcc ..)
  · exact absurd h nofun

/-! ### The write at the point -/

/-- Each sector an access names is under its key slot, or under none. -/
def MemSys.clean (m : MemSys) (a : Acc) : Prop :=
  ∀ sec, a.pa / 256 ≤ sec → sec ≤ (a.pa + a.size - 1) / 256 → cget 0 m.secKey sec = 0 ∨ (cget 0 m.secKey sec).toNat = a.slot + 1

theorem length_natBytes (n v : Nat) : (natBytes n v).length = n := by simp [natBytes]

section

variable {a : Acc} {m : MemSys} {free sec : Nat}

theorem MemSys.rekey_clean (hslot : a.slot < 2 ^ 16 - 1) (h : m.clean a) : (m.rekey free a.slot sec).clean a := by
  intro x hlo hhi
  have htag : BitVec.ofNat 16 (a.slot + 1) ≠ 0 := fun h0 => by
    have hzero : (BitVec.ofNat 16 (a.slot + 1)).toNat = 0 := by rw [h0]; rfl
    rw [BitVec.toNat_ofNat] at hzero
    omega
  unfold MemSys.rekey
  dsimp only
  split
  · exact h x hlo hhi
  · have hkeys : ∀ u : MemSys, u.secKey = m.secKey → cget 0 (cset 0 (BitVec.ofNat 16 (a.slot + 1)) u.secKey sec) x = 0 ∨
        (cget 0 (cset 0 (BitVec.ofNat 16 (a.slot + 1)) u.secKey sec) x).toNat = a.slot + 1 := fun u hu => by
      rw [hu]
      by_cases hx : x = sec
      · refine .inr ?_
        rw [hx, cset, if_neg htag, cget_cput_same, BitVec.toNat_ofNat]
        omega
      · rw [cget_cset_other hx]
        exact h x hlo hhi
    split
    · exact hkeys m rfl
    · exact hkeys _ rfl

theorem MemSys.rekey_sp (m : MemSys) (free slot sec : Nat) : (m.rekey free slot sec).sp = m.sp ∧ (m.rekey free slot sec).acc = m.acc := by
  unfold MemSys.rekey
  dsimp only
  split
  · exact ⟨rfl, rfl⟩
  · split <;> exact ⟨rfl, rfl⟩

theorem MemSys.write_sp (m : MemSys) (free slot pa : Nat) (bs : List Byte) :
    (m.write free slot pa bs).sp = m.sp ∧ (m.write free slot pa bs).acc = m.acc := by
  unfold MemSys.write
  split
  · exact ⟨rfl, rfl⟩
  · exact foldl_keeps (p := fun u => u.sp = m.sp ∧ u.acc = m.acc) (fun u i ⟨hsp, hacc⟩ =>
      ⟨(u.rekey_sp ..).1.trans hsp, (u.rekey_sp ..).2.trans hacc⟩) _ m ⟨rfl, rfl⟩

/-- Making the sectors of an access its slot's changes no byte, where they are its slot's or nobody's. -/
theorem MemSys.rekeys_clean (hslot : a.slot < 2 ^ 16 - 1) (h : m.clean a) {secs : List Nat}
    (hsecs : ∀ i ∈ secs, a.pa / 256 + i ≤ (a.pa + a.size - 1) / 256) :
    (secs.foldl (fun m i => m.rekey free a.slot (a.pa / 256 + i)) m).clean a ∧
    (secs.foldl (fun m i => m.rekey free a.slot (a.pa / 256 + i)) m).mem = m.mem :=
  foldl_keeps_of_mem (p := fun u => u.clean a ∧ u.mem = m.mem) (fun _ i hi ⟨hclean, hmem⟩ =>
    ⟨MemSys.rekey_clean hslot hclean, (MemSys.rekey_mem (hclean _ (Nat.le_add_right ..) (hsecs i hi))).trans hmem⟩) m ⟨h, rfl⟩

/-- A write within an access puts its bytes at their places and touches no other byte: no sector changes its key. -/
theorem MemSys.write_clean (hslot : a.slot < 2 ^ 16 - 1) (h : m.clean a) {bs : List Byte} (hlen : bs.length = a.size) :
    (m.write free a.slot a.pa bs).clean a ∧
    (∀ b, b < a.pa ∨ a.pa + a.size ≤ b → cget 0 (m.write free a.slot a.pa bs).mem b = cget 0 m.mem b) := by
  unfold MemSys.write
  split
  · exact ⟨h, fun _ _ => rfl⟩
  · obtain ⟨hclean, hmem⟩ := MemSys.rekeys_clean (free := free) hslot h
      (secs := List.range (sectorOf (a.pa + bs.length - 1) + 1 - sectorOf a.pa)) fun i hi => by
        have := List.mem_range.mp hi
        simp only [sectorOf, hlen] at this
        omega
    refine ⟨hclean, fun b hb => ?_⟩
    dsimp only
    rw [cget_csetMany_outside (by rwa [hlen])]
    exact congrArg (cget 0 · b) hmem

end

/-! ### What performing an access moves -/

/-- The bytes an access may move, and nothing besides. -/
def State.moves (a : Acc) (s t : State) : Prop :=
  State.rest s t ∧ (∀ b, (b < a.pa ∨ a.pa + a.size ≤ b) ∨ a.kind = .load ∨ a.sp = true → t.memByte b = s.memByte b) ∧
  (∀ b, (b < a.pa ∨ a.pa + a.size ≤ b) ∨ a.kind = .load ∨ a.sp = false → t.spByte b = s.spByte b)

/-- No wait on an object lies under the bytes a write of an access puts. -/
def State.unwatched (s : State) (a : Acc) : Prop :=
  a.sp = true → a.kind ≠ .load → ∀ c ∈ s.cwaits, a.pa + a.size ≤ c.core * 2 ^ 19 + c.off ∨ c.core * 2 ^ 19 + c.off + 16 ≤ a.pa

section

variable {a : Acc} {s t u : State}

theorem State.still.moves (h : State.still s t) : State.moves a s t := by
  obtain ⟨hrest, hmem, hsp, -⟩ := h
  exact ⟨hrest, fun b _ => congrArg (cget 0 · b) hmem, fun b _ => congrArg (cget 0 · b) hsp⟩

theorem State.moves.trans (hst : State.moves a s t) (htu : State.moves a t u) : State.moves a s u := by
  obtain ⟨hrest, hmem, hsp⟩ := hst
  obtain ⟨hrest', hmem', hsp'⟩ := htu
  exact ⟨hrest.trans hrest', fun b hb => (hmem' b hb).trans (hmem b hb), fun b hb => (hsp' b hb).trans (hsp b hb)⟩

theorem State.still.clean (h : State.still s t) (hclean : s.m.clean a) : t.m.clean a := by
  obtain ⟨-, -, -, hkey, -⟩ := h
  unfold MemSys.clean
  rw [hkey]
  exact hclean

theorem State.rest_watch (s : State) (pa n : Nat) : State.still s (s.watch pa n) := State.still.refl s

/-- A write of an access at its point. -/
theorem State.pointWrite_moves (hslot : a.slot < 2 ^ 16 - 1) (hclean : s.m.clean a) (hkind : a.kind ≠ .load) {bs : List Byte}
    (hlen : bs.length = a.size) : State.moves a s (s.pointWrite a bs) ∧ (s.pointWrite a bs).m.clean a := by
  unfold State.pointWrite
  cases hsp : a.sp with
  | true =>
    rw [if_pos rfl]
    refine ⟨⟨State.rest.refl s, fun b _ => rfl, fun b hb => ?_⟩, hclean⟩
    have hout := hb.resolve_right (by simp [hkind, hsp])
    exact cget_csetMany_outside (by rwa [hlen])
  | false =>
    rw [if_neg Bool.false_ne_true]
    obtain ⟨hkeys, hmem⟩ := MemSys.write_clean (free := s.free) hslot hclean hlen
    have hmove : State.moves a s { s with m := s.m.write s.free a.slot a.pa bs, free := s.free + 1 } := by
      obtain ⟨hsp', hacc⟩ := s.m.write_sp s.free a.slot a.pa bs
      exact ⟨⟨rfl, hacc, rfl, rfl, rfl, rfl, rfl⟩, fun b hb => hmem b (hb.resolve_right (by simp [hkind, hsp])), fun b _ =>
        congrArg (cget 0 · b) hsp'⟩
    dsimp only
    split
    · exact ⟨hmove.trans (State.rest_watch ..).moves, hkeys⟩
    · exact ⟨hmove, hkeys⟩

/-- Where nothing waits under the bytes, no wait ends. -/
theorem State.spWake_unwatched (ctx : Nat) (h : s.unwatched a) (hsp : a.sp = true) (hkind : a.kind ≠ .load) : s.spWake ctx a.pa a.size = s := by
  unfold State.spWake
  have hnone : (s.cwaits.filter fun c => decide (c.core * 2 ^ 19 + c.off < a.pa + a.size ∧ a.pa < c.core * 2 ^ 19 + c.off + 16)) = [] :=
    List.filter_eq_nil_iff.mpr fun c hc => by
      have := h hsp hkind c hc
      simp only [decide_eq_true_eq]
      omega
  dsimp only
  rw [hnone]
  rfl

theorem State.unwatched_of_rest (h : State.rest s t) (hclear : s.unwatched a) : t.unwatched a := by
  obtain ⟨-, -, -, -, -, -, hwaits⟩ := h
  unfold State.unwatched
  rw [hwaits]
  exact hclear

theorem State.spWake_moves (ctx : Nat) (hclear : s.unwatched a) (hkind : a.kind ≠ .load) :
    State.moves a s (if a.sp then s.spWake ctx a.pa a.size else s) := by
  split
  · next hsp =>
    rw [State.spWake_unwatched ctx hclear hsp hkind]
    exact (State.still.refl s).moves
  · exact (State.still.refl s).moves

/-- The parts of a store, one write after another. -/
theorem State.pointWrites_moves (hslot : a.slot < 2 ^ 16 - 1) (hclean : s.m.clean a) (hkind : a.kind ≠ .load) (ps : List Part) :
    State.moves a s (ps.foldl (fun s p => s.pointWrite a (natBytes a.size p.data.toNat)) s) := by
  have hboth := foldl_keeps (p := fun u => State.moves a s u ∧ u.m.clean a)
    (f := fun s (p : Part) => s.pointWrite a (natBytes a.size p.data.toNat)) (fun u p ⟨hmoves, hclean⟩ => by
      obtain ⟨hwrite, hkeys⟩ := State.pointWrite_moves hslot hclean hkind (length_natBytes a.size p.data.toNat)
      exact ⟨hmoves.trans hwrite, hkeys⟩) ps s ⟨(State.still.refl s).moves, hclean⟩
  exact hboth.1

/-- An access performed at its point moves no byte but its own. -/
theorem State.perform_moves (hkind : a.kind = .load ∨ a.kind = .store ∨ ∃ opx ty ret, a.kind = .atomic opx ty ret)
    (hfault : s.pointFault a = none) (hslot : a.slot < 2 ^ 16 - 1) (hclear : s.unwatched a) (hclean : s.m.clean a) :
    State.moves a s (s.perform a) := by
  unfold State.perform
  rw [hfault]
  rcases hkind with hkind | hkind | ⟨opx, ty, ret, hkind⟩
  · rw [hkind]
    refine State.still.moves ?_
    exact (State.still_l1Bring ..).trans ((State.still_noteSeen ..).trans (State.still.trans (State.still.refl _) (State.still_accDone ..)))
  · have hstore : a.kind ≠ .load := by simp [hkind]
    have hwrites := State.pointWrites_moves hslot hclean hstore a.parts
    rw [hkind]
    refine hwrites.trans ((State.spWake_moves a.ctx (State.unwatched_of_rest hwrites.1 hclear) hstore).trans ?_)
    exact ((State.still_promoAfter ..).trans (State.still_accDone ..)).moves
  · have hatomic : a.kind ≠ .load := by simp [hkind]
    rw [hkind]
    dsimp only
    generalize (atomicLanes opx ty (s.pointRead a) a.parts) = lanes
    have hseen := State.still_noteSeen s a
    obtain ⟨hwrite, -⟩ := State.pointWrite_moves hslot (hseen.clean hclean) hatomic (length_natBytes a.size lanes.1)
    have hafter := (hseen.moves.trans hwrite).trans (State.still_promoAfter _ a).moves
    refine hafter.trans ((State.spWake_moves a.ctx (State.unwatched_of_rest hafter.1 hclear) hatomic).trans ?_)
    exact (State.still_accDone ..).moves

end

/-! ### The events that perform -/

/-- What stops an access: its room in scratchpad and the poison there, or the key of its slot and the poison of its sectors. -/
theorem State.pointFault_none_iff (s : State) (a : Acc) : s.pointFault a = none ↔
    if a.sp then s.spAllocated a.launch (a.pa / 2 ^ 19) (a.pa % 2 ^ 19) a.size = true ∧ (a.kind.reads && s.m.spPoisoned a.pa a.size) = false
    else (decide (a.pa < 2 ^ 51) && !s.keyLoaded a.slot) = false ∧ s.m.poisoned a.pa a.size = false := by
  unfold State.pointFault
  generalize s.spAllocated a.launch (a.pa / 2 ^ 19) (a.pa % 2 ^ 19) a.size = room
  generalize (a.kind.reads && s.m.spPoisoned a.pa a.size) = spoilt
  generalize (decide (a.pa < 2 ^ 51) && !s.keyLoaded a.slot) = keyless
  generalize s.m.poisoned a.pa a.size = poisoned
  cases a.sp with
  | true => cases room <;> cases spoilt <;> simp
  | false =>
    cases keyless with
    | true => simp
    | false =>
      cases poisoned with
      | true =>
        simp only [Bool.false_eq_true, if_false, if_true, reduceCtorEq, and_false, iff_false]
        repeat' split
        all_goals nofun
      | false => simp

section

variable {a : Acc} {s t : State}

theorem State.still.pointFault (h : State.still s t) (hfault : s.pointFault a = none) : t.pointFault a = none := by
  obtain ⟨⟨-, -, -, hpkg, hteams, -, -⟩, -, -, -, hpoison, hspPoison⟩ := h
  rw [State.pointFault_none_iff] at hfault ⊢
  simpa only [State.spAllocated, State.keyLoaded, MemSys.spPoisoned, MemSys.poisoned, hpkg, hteams, hpoison, hspPoison] using hfault

/-- What the statement assumes of an access and the state it is performed in. -/
def Performs (s : State) (a : Acc) : Prop :=
  (a.kind = .load ∨ a.kind = .store ∨ ∃ opx ty ret, a.kind = .atomic opx ty ret) ∧ s.pointFault a = none ∧ a.slot < 2 ^ 16 - 1 ∧
  s.unwatched a ∧ s.m.clean a

theorem Performs.after_still (h : Performs s a) (hst : State.still s t) : State.moves a s (t.perform a) := by
  obtain ⟨hkind, hfault, hslot, hclear, hclean⟩ := h
  exact hst.moves.trans (State.perform_moves hkind (hst.pointFault hfault) hslot (State.unwatched_of_rest hst.1 hclear) (hst.clean hclean))

/-- An access that waits for the host or for a promotion. -/
theorem State.still_holds {u : State} (hu : (s.invalHold a <|> s.promoHold a) = some u) : State.still s u := by
  cases hinval : s.invalHold a with
  | some v =>
    rw [hinval] at hu
    cases hu
    exact State.still_invalHold hinval
  | none =>
    rw [hinval] at hu
    exact State.still_promoHold hu

variable {id : Nat} (ha : s.acc? id = some a) (h : Performs s a)

include ha h

theorem scratchpadArrayAccess_moves (hexec : exec (.scratchpadArrayAccess id) s = .next t) : State.moves a s t := by
  change execScratchpadArrayAccess id s = _ at hexec
  unfold execScratchpadArrayAccess at hexec
  rw [ha] at hexec
  dsimp only at hexec
  split at hexec
  · cases hexec
    exact (State.still.refl s).moves
  · split at hexec
    · next u hu =>
      cases hexec
      exact (State.still_promoHold hu).moves
    · cases hexec
      exact h.after_still (State.still.refl s)

theorem kettleAccess_moves (hexec : exec (.kettleAccess id false) s = .next t) : State.moves a s t := by
  change execKettleAccess id false s = _ at hexec
  unfold execKettleAccess at hexec
  rw [ha] at hexec
  simp only [Bool.false_and, Bool.false_eq_true, if_false] at hexec
  split at hexec
  · cases hexec
    exact (State.still.refl s).moves
  · split at hexec
    · cases hexec
      exact (State.still.refl s).moves
    · split at hexec
      · next u hu =>
        cases hexec
        exact (State.still_holds hu).moves
      · cases hexec
        exact h.after_still (State.still.refl s)

theorem l2SectorFill_moves (hexec : exec (.l2SectorFill id) s = .next t) : State.moves a s t := by
  change execL2SectorFill id s = _ at hexec
  unfold execL2SectorFill at hexec
  rw [ha] at hexec
  dsimp only at hexec
  split at hexec
  · cases hexec
    exact (State.still.refl s).moves
  · split at hexec
    · cases hexec
      exact h.after_still (State.still.refl s)
    · split at hexec
      · cases hexec
        exact ((State.still_l2Fill ..).trans (State.still_mapAcc ..)).moves
      · cases hexec
        exact h.after_still (State.still_l2Fill ..)

theorem homeSliceAccess_moves (hexec : exec (.homeSliceAccess id) s = .next t) : State.moves a s t := by
  change execHomeSliceAccess id s = _ at hexec
  unfold execHomeSliceAccess at hexec
  rw [ha] at hexec
  dsimp only at hexec
  split at hexec
  · cases hexec
    exact (State.still.refl s).moves
  split at hexec
  · cases hexec
    exact (State.still_toPeer ..).moves
  split at hexec
  · next u hu =>
    cases hexec
    exact (State.still_invalHold hu).moves
  split at hexec
  · next mode hclean =>
    obtain ⟨hkind | hkind | ⟨_, _, _, hkind⟩, -⟩ := h <;> exact absurd (hclean.symm.trans hkind) nofun
  split at hexec
  · cases hexec
    refine State.still.moves (State.still.trans ?_ (State.still_mapAcc ..))
    split
    · exact State.still_l2Leave ..
    · exact State.still.refl s
  split at hexec
  · cases hexec
    exact ((State.still_l2Leave ..).trans (State.still_mapAcc ..)).moves
  split at hexec
  · next u hu =>
    cases hexec
    exact (State.still_promoHold hu).moves
  have hkey := State.still_l2Rekey s a.slot a.pa
  split at hexec
  · cases hexec
    exact h.after_still (hkey.trans (State.still_l2Hit ..))
  split at hexec
  · cases hexec
    exact h.after_still hkey
  · cases hexec
    exact (hkey.trans (State.still_mapAcc ..)).moves

end

/-- Settles O60. -/
theorem accessFrames : Obligations.AccessFrames := by
  intro id s t a i hi hexec ha hkind hfault hslot hclear hclean
  have hmoves : State.moves a s t := by
    have h : Performs s a := ⟨hkind, hfault, hslot, hclear, hclean⟩
    simp only [List.mem_cons, List.not_mem_nil, or_false] at hi
    rcases hi with rfl | rfl | rfl | rfl
    · exact homeSliceAccess_moves ha h hexec
    · exact l2SectorFill_moves ha h hexec
    · exact kettleAccess_moves ha h hexec
    · exact scratchpadArrayAccess_moves ha h hexec
  obtain ⟨⟨hregs, hacc, hctxs, hpkg, hteams, hgrids, -⟩, hmem, hsp⟩ := hmoves
  exact ⟨hmem, hsp, hregs, hacc, hctxs, hpkg, hteams, hgrids⟩

end Sys2Proof.Machine

/-! Memory as it stood: the functions of the model that write no byte of it. Each lemma is a `simp` rule, so that a later proof goes
through the function without opening it.

`obtain ⟨f, hf⟩ : ∃ f, f = State.foo := ⟨_, rfl⟩` gives a called function a name of its own: unfolded, its numerals (`2 ^ 51` and the
like) are more than the kernel can compare, and nothing but its own lemma is asked of it. -/

namespace Sys2Proof.Machine

/-! ### Choices, pairs, folds and recursions -/

@[simp] theorem ite_mem {c : Prop} [Decidable c] (s t : State) : (if c then s else t).m.mem = if c then s.m.mem else t.m.mem := by
  split <;> rfl

@[simp] theorem ite_mem_snd {α : Type} {c : Prop} [Decidable c] (p q : α × State) :
    (if c then p else q).2.m.mem = if c then p.2.m.mem else q.2.m.mem := by
  split <;> rfl

@[simp] theorem ite_mem_memSys {c : Prop} [Decidable c] (s t : MemSys) : (if c then s else t).mem = if c then s.mem else t.mem := by
  split <;> rfl

theorem mem_of_pair {α : Type} {p : α × State} {x : α} {s t : State} (h : p = (x, t)) (hp : p.2.m.mem = s.m.mem) : t.m.mem = s.m.mem := by
  rw [← hp, h]

/-- A recursion over a list keeps memory where each of its steps does. It serves a function whose equations the kernel cannot
check: its step `G` stays folded. -/
theorem brecOn_mem {α β : Type} (G : (xs : List α) → List.below (motive := fun _ => State → β × State) xs → State → β × State)
    (hnil : ∀ b s, (G [] b s).2.m.mem = s.m.mem)
    (hcons : ∀ x xs b, (∀ s, (b.1 s).2.m.mem = s.m.mem) → ∀ s, (G (x :: xs) b s).2.m.mem = s.m.mem) (xs : List α) (s : State) :
    (List.brecOn (motive := fun _ => State → β × State) xs G s).2.m.mem = s.m.mem := by
  induction xs generalizing s with
  | nil => exact hnil _ s
  | cons x xs ih => exact hcons x xs _ ih s

theorem ite_mem_of {c : Prop} [Decidable c] {m : Cells 8} (s t : State) (hs : s.m.mem = m) (ht : t.m.mem = m) : (if c then s else t).m.mem = m := by
  split <;> assumption

@[simp] theorem foldl_mem {α : Type} {g : State → α → State} (h : ∀ s x, (g s x).m.mem = s.m.mem) (xs : List α) (s : State) :
    (xs.foldl g s).m.mem = s.m.mem := foldl_keeps (p := fun u => u.m.mem = s.m.mem) (fun u x hu => (h u x).trans hu) xs s rfl

@[simp] theorem foldl_mem_snd {α β : Type} {g : β × State → α → β × State} (h : ∀ s x, (g s x).2.m.mem = s.2.m.mem) (xs : List α)
    (s : β × State) : (xs.foldl g s).2.m.mem = s.2.m.mem :=
  foldl_keeps (p := fun u => u.2.m.mem = s.2.m.mem) (fun u x hu => (h u x).trans hu) xs s rfl

/-! ### Slices -/

@[simp] theorem MemSys.writeBack_mem (m : MemSys) (leave : L2Line → BitVec 4) : (m.writeBack leave).mem = m.mem := by rfl

@[simp] theorem MemSys.l2Drop_mem (m : MemSys) (pa : Nat) : (m.l2Drop pa).mem = m.mem := by rfl

@[simp] theorem State.l2Leave_mem (s : State) (pa : Nat) : (s.l2Leave pa).m.mem = s.m.mem := by rfl

@[simp] theorem MemSys.l2Lose_mem (m : MemSys) (pa : Nat) : (m.l2Lose pa).mem = m.mem := by rfl

@[simp] theorem State.l2Fill_mem (s : State) (pa slot : Nat) (tenant : Bool) (hint : Nat) : (s.l2Fill pa slot tenant hint).m.mem = s.m.mem := by
  unfold State.l2Fill
  dsimp only
  repeat' split
  all_goals simp_all

@[simp] theorem MemSys.l2Hit_mem (m : MemSys) (pa hint : Nat) (write : Bool) : (m.l2Hit pa hint write).mem = m.mem := by rfl

@[simp] theorem MemSys.badRead_mem (m : MemSys) (pa n : Nat) : (m.badRead pa n).mem = m.mem := by
  simp [MemSys.badRead]

@[simp] theorem MemSys.l2Dirty_mem (m : MemSys) (pa : Nat) : (m.l2Dirty pa).mem = m.mem := by rfl

@[simp] theorem MemSys.l2Clean_mem (m : MemSys) (mode pa slot : Nat) : (m.l2Clean mode pa slot).mem = m.mem := by
  unfold MemSys.l2Clean
  repeat' split
  all_goals simp

@[simp] theorem State.l2Clean_mem (s : State) (mode pa slot : Nat) : (s.l2Clean mode pa slot).m.mem = s.m.mem := by
  simp [State.l2Clean]

@[simp] theorem State.l2Rekey_mem (s : State) (slot pa : Nat) : (s.l2Rekey slot pa).m.mem = s.m.mem := by
  unfold State.l2Rekey
  repeat' split
  all_goals simp

@[simp] theorem State.passSlice_mem (s : State) (cls slot : Nat) (tenant : Bool) (hint : Nat) (write whole : Bool) (pa : Nat) :
    (s.passSlice cls slot tenant hint write whole pa).m.mem = s.m.mem := by
  simp [State.passSlice]

@[simp] theorem State.passSlices_mem (s : State) (cls slot : Nat) (tenant : Bool) (hint : Nat) (write : Bool) (pa n : Nat) :
    (s.passSlices cls slot tenant hint write pa n).m.mem = s.m.mem := by
  simp [State.passSlices]

@[simp] theorem State.sysPass_mem (s : State) (pa n : Nat) : (s.sysPass pa n).m.mem = s.m.mem := by
  unfold State.sysPass
  split
  · exact foldl_mem (fun u x => State.l2Leave_mem u x) ..
  · rfl

/-! ### Waves, operations and traps -/

@[simp] theorem State.mapWave_mem (s : State) (uid : Nat) (f : Wave → Wave) : (s.mapWave uid f).m.mem = s.m.mem := by
  simp [State.mapWave]

@[simp] theorem State.mapWaves_mem (s : State) (f : Wave → Wave) : (s.mapWaves f).m.mem = s.m.mem := by rfl

@[simp] theorem State.select_mem (s : State) (uid : Nat) : (s.select uid).m.mem = s.m.mem := by
  unfold State.select
  repeat' split
  all_goals simp

@[simp] theorem State.mapCtx_mem (s : State) (n : Nat) (f : Ctx → Ctx) : (s.mapCtx n f).m.mem = s.m.mem := by rfl

@[simp] theorem State.mapLaunch_mem (s : State) (k : LKey) (f : Launch → Launch) : (s.mapLaunch k f).m.mem = s.m.mem := by rfl

@[simp] theorem State.holdWrite_mem (s : State) (h : HostWrite) : (s.holdWrite h).2.m.mem = s.m.mem := by rfl

@[simp] theorem State.errPendSet_mem (s : State) : s.errPendSet.m.mem = s.m.mem := by
  simp [State.errPendSet]

@[simp] theorem State.send_mem (s : State) (chip : Nat) (msg : Msg) : (s.send chip msg).m.mem = s.m.mem := by
  simp [State.send]

@[simp] theorem State.leaveSets_mem (s : State) (uid : Nat) : (s.leaveSets uid).m.mem = s.m.mem := by
  unfold State.leaveSets
  repeat' split
  all_goals simp

@[simp] theorem State.excludeSets_mem (s : State) (uid : Nat) : (s.excludeSets uid).m.mem = s.m.mem := by
  unfold State.excludeSets
  repeat' split
  all_goals simp

@[simp] theorem State.mapAnyWave_mem (s : State) (uid : Nat) (f : Wave → Wave) : (s.mapAnyWave uid f).m.mem = s.m.mem := by
  simp [State.mapAnyWave]

@[simp] theorem State.finishOp_mem (s : State) (wave op : Nat) (wrs : List Wr) (nstat : Word) (err : Option FErr) :
    (s.finishOp wave op wrs nstat err).m.mem = s.m.mem := by
  simp [State.finishOp]

@[simp] theorem State.finishOps_mem (s : State) (ops : List (Nat × Nat)) (err : Option FErr) : (s.finishOps ops err).m.mem = s.m.mem := by
  simp [State.finishOps]

@[simp] theorem State.freeHits_mem (s : State) (hits : List (Nat × Nat)) : (s.freeHits hits).m.mem = s.m.mem := by
  simp [State.freeHits]

@[simp] theorem State.dropQuad_mem (s : State) (core team quad : Nat) (err : Option FErr) : (s.dropQuad core team quad err).m.mem = s.m.mem := by
  unfold State.dropQuad
  repeat' split
  all_goals simp

@[simp] theorem State.unsleep_mem (s : State) (uid : Nat) : (s.unsleep uid).m.mem = s.m.mem := by
  unfold State.unsleep
  repeat' split
  all_goals simp

@[simp] theorem State.startCancel_mem (s : State) (ctx : Nat) (level : Nat) (key : LKey) : (s.startCancel ctx level key).m.mem = s.m.mem := by rfl

@[simp] theorem State.enact_mem (s : State) (ctx : Nat) (key : Option LKey) (action : Nat) : (s.enact ctx key action).m.mem = s.m.mem := by
  unfold State.enact
  repeat' split
  all_goals simp

@[simp] theorem State.noteFatal_mem (s : State) (r : Record) (seqNo : Word) : (s.noteFatal r seqNo).m.mem = s.m.mem := by
  simp [State.noteFatal]

@[simp] theorem State.enterHandler_mem (s : State) (r : Record) (seqNo : Word) : (s.enterHandler r seqNo).m.mem = s.m.mem := by rfl

@[simp] theorem State.waits_mem (s : State) : s.waits.m.mem = s.m.mem := by rfl

@[simp] theorem State.dropFaults_mem (s : State) (uid : Nat) : (s.dropFaults uid).m.mem = s.m.mem := by rfl

@[simp] theorem State.startOp_mem (s : State) (f : Fields) (acq load : Bool) : (s.startOp f acq load).2.m.mem = s.m.mem := by
  unfold State.startOp
  dsimp only
  repeat' split
  all_goals simp_all

@[simp] theorem State.issued_mem (s : State) (slot : Nat) : (s.issued slot).m.mem = s.m.mem := by rfl

@[simp] theorem State.maskHeld_mem (s : State) (held : List Nat) : (s.maskHeld held).m.mem = s.m.mem := by rfl

@[simp] theorem State.noteEarly_mem (s : State) (w : Wave) (ws : List Wr) : (s.noteEarly w ws).m.mem = s.m.mem := by
  unfold State.noteEarly
  repeat' split
  all_goals simp

@[simp] theorem State.touchHeld_mem (s : State) (w : Wave) (ws : List Wr) : (s.touchHeld w ws).m.mem = s.m.mem := by
  unfold State.touchHeld
  dsimp only
  repeat' split
  all_goals simp_all

@[simp] theorem State.atIssue_mem (s : State) (f : Fields) : (s.atIssue f).m.mem = s.m.mem := by
  simp [State.atIssue]

/-! ### Translation -/

@[simp] theorem State.walk_mem (s : State) (die ctx va : Nat) : (s.walk die ctx va).2.m.mem = s.m.mem := by
  simp [State.walk]

@[simp] theorem State.addTlb_mem (s : State) (es : List TlbEnt) : (s.addTlb es).m.mem = s.m.mem := by rfl

@[simp] theorem State.joinWalk_mem (s : State) (page : Nat) : (s.joinWalk page).m.mem = s.m.mem := by
  simp [State.joinWalk]

@[simp] theorem State.endWalk_mem (s : State) (x : Walk) : (s.endWalk x).2.m.mem = s.m.mem := by
  unfold State.endWalk
  dsimp only
  repeat' split
  all_goals simp_all

@[simp] theorem State.engWalk_mem (s : State) (die ctx va : Nat) : (s.engWalk die ctx va).2.m.mem = s.m.mem := by
  unfold State.engWalk
  dsimp only
  repeat' split
  all_goals simp_all

@[simp] theorem State.engXlate_mem (s : State) (die ctx : Nat) (va : DWord) : (s.engXlate die ctx va).2.m.mem = s.m.mem := by
  unfold State.engXlate
  dsimp only
  repeat' split
  all_goals simp_all

@[simp] theorem State.invBegin_mem (s : State) (x : Inv) : (s.invBegin x).m.mem = s.m.mem := by rfl

@[simp] theorem State.addInv_mem (s : State) (ctx : Option Nat) (va : Option DWord) (pre : List Nat) (op : Option (Nat × Nat)) :
    (s.addInv ctx va pre op).m.mem = s.m.mem := by
  rfl

/-! ### The L1, promotions and accesses -/

@[simp] theorem MemSys.l1Clear_mem (m : MemSys) (core : Nat) : (m.l1Clear core).mem = m.mem := by rfl

@[simp] theorem MemSys.l1Drop_mem (m : MemSys) (core pa : Nat) : (m.l1Drop core pa).mem = m.mem := by rfl

@[simp] theorem MemSys.l1Store_mem (m : MemSys) (core pa : Nat) (bs : List Byte) : (m.l1Store core pa bs).mem = m.mem := by rfl

@[simp] theorem MemSys.l1Touch_mem (m : MemSys) (core pa hint : Nat) : (m.l1Touch core pa hint).mem = m.mem := by
  simp [MemSys.l1Touch]

@[simp] theorem MemSys.l1Fill_mem (m : MemSys) (core slot pa hint : Nat) (bs : List Byte) : (m.l1Fill core slot pa hint bs).mem = m.mem := by
  simp [MemSys.l1Fill]

@[simp] theorem State.mapAcc_mem (s : State) (id : Nat) (f : Acc → Acc) : (s.mapAcc id f).m.mem = s.m.mem := by rfl

@[simp] theorem State.askPromo_mem (s : State) (p : Promo) (acc : Option Nat) : (s.askPromo p acc).m.mem = s.m.mem := by rfl

@[simp] theorem State.addPromo_mem (s : State) (p : Promo) : (s.addPromo p).m.mem = s.m.mem := by
  unfold State.addPromo
  dsimp only
  repeat' split
  all_goals simp_all

@[simp] theorem MemSys.dropPromos_mem (m : MemSys) (core : Option Nat) (sp : Bool) (pa n : Nat) : (m.dropPromos core sp pa n).mem = m.mem := by rfl

@[simp] theorem State.freePeers_mem (s : State) (q : PromoReq) : (s.freePeers q).m.mem = s.m.mem := by rfl

@[simp] theorem State.fenceDone_mem (s : State) (x : Fence) : (s.fenceDone x).m.mem = s.m.mem := by
  simp [State.fenceDone]

@[simp] theorem State.settleFences_mem (s : State) : s.settleFences.m.mem = s.m.mem := by
  simp [State.settleFences]

@[simp] theorem State.holdFail_mem (s : State) (w : Wave) (r : Record) : (s.holdFail w r).m.mem = s.m.mem := by
  simp [State.holdFail]

@[simp] theorem State.watch_mem (s : State) (pa n : Nat) : (s.watch pa n).m.mem = s.m.mem := by rfl

@[simp] theorem MemSys.spWrite_mem (m : MemSys) (pa : Nat) (bs : List Byte) : (m.spWrite pa bs).mem = m.mem := by rfl

@[simp] theorem State.promoAfter_mem (s : State) (a : Acc) : (s.promoAfter a).m.mem = s.m.mem := by
  simp [State.promoAfter]

@[simp] theorem State.noteSeen_mem (s : State) (a : Acc) : (s.noteSeen a).m.mem = s.m.mem := by
  unfold State.noteSeen
  repeat' split
  all_goals simp

@[simp] theorem State.l1Bring_mem (s : State) (a : Acc) (bs : List Byte) : (s.l1Bring a bs).m.mem = s.m.mem := by
  unfold State.l1Bring
  repeat' split
  all_goals simp

@[simp] theorem State.objPut_mem (s : State) (pa w0 tx : Nat) : (s.objPut pa w0 tx).m.mem = s.m.mem := by rfl

@[simp] theorem State.toPeer_mem (s : State) (a : Acc) (chip : Nat) : (s.toPeer a chip).m.mem = s.m.mem := by
  simp [State.toPeer]

@[simp] theorem MemSys.poisonSector_mem (m : MemSys) (pa : Nat) : (m.poisonSector pa).mem = m.mem := by
  simp [MemSys.poisonSector]

@[simp] theorem State.peerSend_mem (s : State) (whose : Option PeerFor) (chip : Nat) (r : PeerReq) : (s.peerSend whose chip r).m.mem = s.m.mem := by
  unfold State.peerSend
  dsimp only
  repeat' split
  all_goals simp_all

@[simp] theorem State.peerFence_mem (s : State) (r : PeerReq) : (s.peerFence r).m.mem = s.m.mem := by rfl

@[simp] theorem State.peerHold_mem (s : State) (r : PeerReq) : (s.peerHold r).m.mem = s.m.mem := by rfl

/-! ### What instructions enter -/

@[simp] theorem State.join_mem (s : State) (fall taken : Arm) : (s.join fall taken).m.mem = s.m.mem := by rfl

@[simp] theorem State.leaderGone_mem (s : State) (w : Wave) : (s.leaderGone w).m.mem = s.m.mem := by
  simp [State.leaderGone]

@[simp] theorem State.longDone_mem (s : State) (f : Fields) (wrs : List Wr) (nstat : Word) : (s.longDone f wrs nstat).m.mem = s.m.mem := by
  simp [State.longDone]

@[simp] theorem State.pushAcc_mem (s : State) (a : Acc) : (s.pushAcc a).m.mem = s.m.mem := by rfl

@[simp] theorem State.closeOp_mem (s : State) (op : Nat) : (s.closeOp op).m.mem = s.m.mem := by
  simp [State.closeOp]

@[simp] theorem State.loadPiece_mem (s : State) (f : Fields) (sp : Bool) (op : Nat) (wide : Bool) (l : Loc) (p : Nat × Nat × Nat) :
    (s.loadPiece f sp op wide l p).m.mem = s.m.mem := by
  unfold State.loadPiece
  dsimp only
  repeat' split
  all_goals simp_all

@[simp] theorem State.issueStore_mem (s : State) (a : Acc) : (s.issueStore a).m.mem = s.m.mem := by
  simp [State.issueStore]

@[simp] theorem State.issueAtomics_mem (s : State) (f : Fields) (sp : Bool) (op : Nat) (ret : Nat) (acq rel : Bool) (ls : List Loc) :
    (s.issueAtomics f sp op ret acq rel ls).m.mem = s.m.mem := by
  simp [State.issueAtomics]

@[simp] theorem State.prefetch_mem (s : State) (f : Fields) (lane : Nat) (va : DWord) : (s.prefetch f lane va).m.mem = s.m.mem := by
  rw [State.prefetch]
  generalize accessFault = check
  generalize State.locate = loc
  generalize State.reachable = rch
  cases s.xlate va with
  | hit h => 
    refine ite_mem_of _ _ rfl ?_
    cases (loc s lane va h).peer with
    | some chip => exact foldl_mem (fun _ _ => State.peerSend_mem ..) _ _
    | none =>
      refine ite_mem_of _ _ ?_ ?_
      · exact foldl_mem (fun _ _ => State.passSlice_mem ..) _ _
      · exact (State.l1Bring_mem ..).trans (foldl_mem (fun _ _ => State.passSlice_mem ..) _ _)
  | miss => rfl
  | fail l c => rfl

@[simp] theorem State.pushClean_mem (s : State) (op mode : Nat) (l : Loc) : (s.pushClean op mode l).m.mem = s.m.mem := by rfl

/-! ### Membership sets -/

@[simp] theorem State.putHome_mem (s : State) (h : SetHome) : (s.putHome h).m.mem = s.m.mem := by rfl

@[simp] theorem State.resolveSet_mem (n : Nat) (s : State) (r : SetRef) : (State.resolveSet n s r).m.mem = s.m.mem := by
  induction n generalizing s with
  | zero => rfl
  | succ n ih =>
    unfold State.resolveSet
    dsimp only
    split
    · rfl
    · rw [ih]; simp

@[simp] theorem State.settleSet_mem (s : State) (r : SetRef) : (s.settleSet r).m.mem = s.m.mem := by
  simp [State.settleSet]

@[simp] theorem State.storeOutcome_mem (s : State) (r : SetRef) (inst : Word) (taken err : Bool) :
    (s.storeOutcome r inst taken err).m.mem = s.m.mem := by
  rfl

@[simp] theorem State.joined_mem (s : State) (r : SetRef) (m : Member) (cur : Word) : (s.joined r m cur).m.mem = s.m.mem := by
  unfold State.joined
  repeat' split
  all_goals simp

@[simp] theorem State.left_mem (s : State) (r : SetRef) (m : Member) : (s.left r m).m.mem = s.m.mem := by
  simp [State.left]

@[simp] theorem State.performHeld_mem (s : State) (stores : List (List Acc)) : (s.performHeld stores).m.mem = s.m.mem :=
  foldl_mem (fun s as => by cases as <;> simp) _ _

@[simp] theorem State.abandon_mem (s : State) (uid : Nat) : (s.abandon uid).m.mem = s.m.mem := by
  unfold State.abandon
  repeat' split
  all_goals simp

@[simp] theorem State.runAhead_mem (s : State) (f : Fields) (slot op set : Nat) (k : Word) (voted : Bool) :
    (s.runAhead f slot op set k voted).m.mem = s.m.mem := by
  rfl

@[simp] theorem State.markMemb_mem (s : State) (op set : Nat) (join : Bool) (wrs : List Wr) : (s.markMemb op set join wrs).m.mem = s.m.mem := by rfl

/-! ### Engines that read and copy -/

@[simp] theorem State.pinXlate_mem (s : State) (e : Eng) (va : DWord) : (s.pinXlate e va).2.m.mem = s.m.mem := by
  rw [State.pinXlate]
  have hx := State.engXlate_mem s e.die e.ctx va
  generalize s.engXlate e.die e.ctx va = p at hx ⊢
  obtain ⟨x, u⟩ := p
  split
  · rfl
  · cases x <;> exact hx

@[simp] theorem State.dropPins_mem (s : State) (owner : Nat) (keep : List DWord) : (s.dropPins owner keep).m.mem = s.m.mem := by rfl

@[simp] theorem State.engPieces_mem (s : State) (e : Eng) (write : Bool) (ps : List (DWord × Nat)) :
    (s.engPieces e write ps).2.m.mem = s.m.mem := by
  have hx := State.pinXlate_mem
  delta State.engPieces State.engPieces._f
  obtain ⟨fault, hf⟩ : ∃ f, f = State.engFault := ⟨_, rfl⟩
  obtain ⟨place, hp⟩ : ∃ f, f = State.engPlace := ⟨_, rfl⟩
  obtain ⟨look, hl⟩ : ∃ f, f = State.pinXlate := ⟨_, rfl⟩
  rw [← hf, ← hl, ← hp]
  rw [← hl] at hx
  refine brecOn_mem _ (fun _ _ => rfl) (fun p rest b hb s => ?_) ps s
  dsimp only
  split
  · rename_i hu
    have ht := mem_of_pair hu (hx ..)
    split
    · exact ht
    · split
      · rename_i hu
        exact (mem_of_pair hu (hb _)).trans ht
      · rename_i hu
        exact (mem_of_pair hu (hb _)).trans ht
  · rename_i hl
    exact mem_of_pair hl (hx ..)
  · rename_i hl
    exact mem_of_pair hl (hx ..)

@[simp] theorem State.engResolve_mem (s : State) (e : Eng) (write : Bool) (va : DWord) (n : Nat) :
    (s.engResolve e write va n).2.m.mem = s.m.mem := by
  unfold State.engResolve
  split <;> rename_i h
  · exact mem_of_pair h (State.engPieces_mem ..)
  · refine .trans ?_ (mem_of_pair h (State.engPieces_mem ..))
    split
    · dsimp only
      split <;> simp
    · rfl

@[simp] theorem State.engBytes_mem (s : State) (ctx : Nat) (ls : List EngLoc) (hint : Nat) : (s.engBytes ctx ls hint).2.m.mem = s.m.mem :=
  foldl_mem (fun _ l => by cases l <;> simp) ls s

@[simp] theorem State.peerWrites_mem (s : State) (whose : Option PeerFor) (ctx chip cls k pa : Nat) (bs : List Byte) :
    (s.peerWrites whose ctx chip cls k pa bs).m.mem = s.m.mem := by
  induction k generalizing s pa bs with
  | zero => rfl
  | succ k ih =>
    unfold State.peerWrites
    split
    · rfl
    · simp [ih]

@[simp] theorem State.dpRead_mem (s : State) (ctx : Nat) (va : DWord) (n : Nat) : (s.dpRead ctx va n).2.m.mem = s.m.mem := by
  unfold State.dpRead
  dsimp only
  split <;> rename_i h <;> simpa using mem_of_pair h (State.engResolve_mem ..)

@[simp] theorem State.dpNum_mem (s : State) (ctx : Nat) (va : DWord) (n : Nat) : (s.dpNum ctx va n).2.m.mem = s.m.mem := by
  unfold State.dpNum
  split <;> rename_i h <;> exact mem_of_pair h (State.dpRead_mem ..)

@[simp] theorem State.patternPass_mem (s : State) (ctx n : Nat) : (s.patternPass ctx n).m.mem = s.m.mem := by
  unfold State.patternPass
  repeat' split
  all_goals simp

@[simp] theorem State.putCopy_mem (s : State) (c : Copy) : (s.putCopy c).m.mem = s.m.mem := by rfl

@[simp] theorem State.packetDone_mem (s : State) (queue slot : Nat) (ok : Bool) : (s.packetDone queue slot ok).m.mem = s.m.mem := by
  simp [State.packetDone]

@[simp] theorem State.copySrc_mem (s : State) (c : Copy) (n : Nat) : (s.copySrc c n).2.m.mem = s.m.mem := by
  unfold State.copySrc
  dsimp only
  split
  · split <;> rename_i h <;> simpa using mem_of_pair h (State.engResolve_mem ..)
  · split
    · rfl
    · split <;> rfl
  · rfl

@[simp] theorem State.addCopy_mem (s : State) (c : Copy) : (s.addCopy c).m.mem = s.m.mem := by
  unfold State.addCopy
  repeat' split
  all_goals simp

/-! ### Queues, launches and teams -/

@[simp] theorem State.readNodes_mem (s : State) (ctx : Nat) (va : DWord) (n : Nat) : (s.readNodes ctx va n).2.m.mem = s.m.mem := by
  unfold State.readNodes
  dsimp only
  split <;> rename_i h
  · simpa using mem_of_pair h (State.engResolve_mem ..)
  · split <;> simpa using mem_of_pair h (State.engResolve_mem ..)

@[simp] theorem State.takePacket_mem (s : State) (ctx queue slot : Nat) (ws : List DWord) : (s.takePacket ctx queue slot ws).2.m.mem = s.m.mem := by
  unfold State.takePacket
  dsimp only
  repeat' split
  all_goals simp_all

@[simp] theorem State.widxNow_mem (s : State) (q : Queue) : (s.widxNow q).2.m.mem = s.m.mem := by
  unfold State.widxNow
  repeat' split
  all_goals simp

@[simp] theorem State.stagePacket_mem (s : State) (queue slot stage : Nat) : (s.stagePacket queue slot stage).m.mem = s.m.mem := by rfl

@[simp] theorem State.releaseBlock_mem (s : State) (w : Wave) (op : Nat) : (s.releaseBlock w op).m.mem = s.m.mem := by
  unfold State.releaseBlock
  repeat' split
  all_goals simp

@[simp] theorem State.ripen_mem (s : State) (x : Wave) : (s.ripen x).m.mem = s.m.mem := by
  simp [State.ripen]

@[simp] theorem State.setBudget_mem (s : State) (core v : Nat) : (s.setBudget core v).m.mem = s.m.mem := by
  simp [State.setBudget]

@[simp] theorem State.addLaunch_mem (s : State) (l : Launch) : (s.addLaunch l).m.mem = s.m.mem := by rfl

@[simp] theorem State.startLaunch_mem (s : State) (key : LKey) (seqNo : Word) : (s.startLaunch key seqNo).m.mem = s.m.mem := by
  unfold State.startLaunch
  dsimp only
  repeat' split
  all_goals simp_all

@[simp] theorem State.dropCode_mem (s : State) (core ctx chip : Nat) (ps : List (DWord × Nat)) : (s.dropCode core ctx chip ps).m.mem = s.m.mem := by
  induction ps generalizing s with
  | nil => rfl
  | cons p rest ih =>
    rw [State.dropCode, ih]
    have hx := State.engXlate_mem s (dieOf core) ctx p.1
    obtain ⟨place, hplace⟩ : ∃ f, f = State.placeOf := ⟨_, rfl⟩
    rw [← hplace]
    split <;> rename_i h
    · rename_i u
      exact show u.m.mem = s.m.mem from mem_of_pair h hx
    · exact mem_of_pair h hx

@[simp] theorem State.place_mem (s : State) (l : Launch) (k : Kernel) (t core : Nat) (p : List Nat × Nat × List Nat) :
    (s.place l k t core p).m.mem = s.m.mem := by
  obtain ⟨slots, base, wins⟩ := p
  simp [State.place]

theorem State.admitTo_mem {s t : State} {key : LKey} {core : Nat} (h : s.admitTo key core = some t) : t.m.mem = s.m.mem := by
  unfold State.admitTo at h
  split at h
  · nomatch h
  · split at h
    · nomatch h
    · split at h
      · nomatch h
      · cases h
        simp

theorem State.admitAll_mem {s t : State} {key : LKey} {n : Nat} (h : State.admitAll key n s = some t) : t.m.mem = s.m.mem := by
  induction n generalizing s with
  | zero => cases h; rfl
  | succ n ih =>
    unfold State.admitAll at h
    split at h
    · rename_i u hfound
      obtain ⟨core, -, hcore⟩ := List.exists_of_findSome?_eq_some hfound
      exact (ih h).trans (State.admitTo_mem hcore)
    · nomatch h

@[simp] theorem State.admitSome_mem (s : State) (l : Launch) (core : Nat) : (s.admitSome l core).m.mem = s.m.mem := by
  unfold State.admitSome
  split
  · split
    · exact State.admitTo_mem ‹_›
    · rfl
  · rfl

@[simp] theorem State.dropWave_mem (s : State) (uid : Nat) : (s.dropWave uid).m.mem = s.m.mem := by
  simp [State.dropWave]

@[simp] theorem State.freeTeam_mem (s : State) (t : Team) : (s.freeTeam t).m.mem = s.m.mem := by
  simp [State.freeTeam]

@[simp] theorem State.breakPhase_mem (s : State) (ctx phase : Nat) : (s.breakPhase ctx phase).m.mem = s.m.mem := by rfl

/-! ### Reduction objects -/

@[simp] theorem State.setBuf_mem (s : State) (b : BufRef) (ws : List Waiting) : (s.setBuf b ws).m.mem = s.m.mem := by
  unfold State.setBuf
  repeat' split
  all_goals simp

@[simp] theorem State.objResolve_mem (s : State) (ctx : Nat) (o : RObj) (va : DWord) (n : Nat) : (s.objResolve ctx o va n).2.m.mem = s.m.mem := by
  unfold State.objResolve
  split <;> rename_i h <;> simpa using mem_of_pair h (State.engResolve_mem ..)

@[simp] theorem State.elemSlice_mem (s : State) (ctx : Nat) (o : RObj) (e : Nat) (write : Bool) :
    (s.elemSlice ctx o e write).2.m.mem = s.m.mem := by
  unfold State.elemSlice
  split <;> rename_i h <;> simpa using mem_of_pair h (State.engPieces_mem ..)

@[simp] theorem State.forwardPart_mem (s : State) (b : BufRef) (p : Partial) : (s.forwardPart b p).m.mem = s.m.mem := by
  have hslice : ∀ o, (s.elemSlice p.ctx o p.elem).2.m.mem = s.m.mem := fun o => State.elemSlice_mem ..
  unfold State.forwardPart
  dsimp only
  cases b with
  | core c => 
    cases s.robj? p.ctx p.idx with
    | none => rfl
    | some o => 
      dsimp only
      have hs := hslice o
      generalize s.elemSlice p.ctx o p.elem = q at hs ⊢
      obtain ⟨x | n, u⟩ := q <;> exact hs
  | port _ =>
    dsimp only
    split
    · cases s.robj? p.ctx p.idx with
      | none => rfl
      | some o => 
        dsimp only
        have hs := hslice o
        generalize s.elemSlice p.ctx o p.elem = q at hs ⊢
        obtain ⟨x | n, u⟩ := q <;> exact hs
    · simp

@[simp] theorem State.enterNonhome_mem (b : BufRef) (k : Nat) (s : State) (p : Partial) : (State.enterNonhome b k s p).m.mem = s.m.mem := by
  induction k generalizing s p with
  | zero => exact State.forwardPart_mem ..
  | succ k ih =>
    unfold State.enterNonhome
    dsimp only
    split
    · simp
    · split
      · simp
      · split
        · simp [ih]
        · split <;> simp

@[simp] theorem State.flushBuf_mem (s : State) (b : BufRef) (f : Partial → Bool) : (s.flushBuf b f).m.mem = s.m.mem := by
  simp [State.flushBuf]

@[simp] theorem State.nonhome_mem (s : State) (b : BufRef) (p : Partial) : (s.nonhome b p).m.mem = s.m.mem := by
  unfold State.nonhome
  split <;> simp

theorem State.fromMesh_mem {s t : State} {f : Mesh → Bool} {x : Mesh} (h : s.fromMesh f = some (x, t)) : t.m.mem = s.m.mem := by
  obtain ⟨p, -, hp⟩ := Option.map_eq_some_iff.mp h
  cases hp
  rfl

@[simp] theorem State.setHomeBuf_mem (s : State) (h : HomeBuf) : (s.setHomeBuf h).m.mem = s.m.mem := by
  simp [State.setHomeBuf]

@[simp] theorem State.mapObj_mem (s : State) (ctx idx : Nat) (f : RObj → RObj) : (s.mapObj ctx idx f).m.mem = s.m.mem := by rfl

@[simp] theorem State.discardObj_mem (s : State) (ctx idx : Nat) : (s.discardObj ctx idx).m.mem = s.m.mem := by rfl

@[simp] theorem State.spillAt_mem (s : State) (ctx : Nat) (o : RObj) (slot : Nat) : (s.spillAt ctx o slot).2.m.mem = s.m.mem := by
  have hx := State.engResolve_mem
  delta State.spillAt
  obtain ⟨look, hl⟩ : ∃ f, f = State.engResolve := ⟨_, rfl⟩
  obtain ⟨bad, hb⟩ : ∃ f, f = MemSys.poisoned := ⟨_, rfl⟩
  rw [← hl] at hx ⊢
  rw [← hb]
  dsimp only
  split <;> rename_i h <;> simpa using mem_of_pair h (hx ..)

@[simp] theorem State.spillFind_mem (s : State) (ctx : Nat) (o : RObj) (f : Nat × Nat × Nat × Bool → Bool) (ns : List Nat) :
    (s.spillFind ctx o f ns).2.m.mem = s.m.mem := by
  have hat := State.spillAt_mem
  delta State.spillFind State.spillFind._f
  obtain ⟨look, hl⟩ : ∃ f, f = State.spillAt := ⟨_, rfl⟩
  obtain ⟨read, hr⟩ : ∃ f, f = State.spillRead := ⟨_, rfl⟩
  rw [← hl] at hat ⊢
  rw [← hr]
  refine brecOn_mem _ (fun _ _ => rfl) (fun n ns b hb s => ?_) ns s
  dsimp only
  split <;> rename_i h
  · exact mem_of_pair h (hat ..)
  · refine .trans ?_ (mem_of_pair h (hat ..))
    split
    · rfl
    · exact hb _

@[simp] theorem State.finishAny_mem (s : State) (op : Nat) (err : Option FErr) : (s.finishAny op err).m.mem = s.m.mem := by
  unfold State.finishAny
  repeat' split
  all_goals simp

@[simp] theorem State.closeDone_mem (s : State) (src : Option Nat) (op : Nat) : (s.closeDone src op).m.mem = s.m.mem := by
  unfold State.closeDone
  repeat' split
  all_goals simp

@[simp] theorem State.rangeHome_mem (s : State) (e : Eng) (d : RDesc) : (s.rangeHome e d).2.m.mem = s.m.mem := by
  unfold State.rangeHome
  dsimp only
  split
  · rename_i h
    refine .trans ?_ (mem_of_pair h (State.engPieces_mem ..))
    split
    · rename_i h'
      rw [ite_mem_snd, State.dropPins_mem, ite_self]
      exact mem_of_pair h' (State.engPieces_mem ..)
    · rename_i h'
      simpa using mem_of_pair h' (State.engPieces_mem ..)
  · rename_i h
    simpa using mem_of_pair h (State.engPieces_mem ..)

@[simp] theorem State.noteModes_mem (s : State) (ctx : Nat) (accum sat ftz : Bool) (opr fmt : Nat) :
    (s.noteModes ctx accum sat ftz opr fmt).m.mem = s.m.mem := by
  simp [State.noteModes]

@[simp] theorem State.openEntry_mem (s : State) (idx bind : Nat) (d : RDesc) (home : Option Nat) :
    (s.openEntry idx bind d home).m.mem = s.m.mem := by
  simp [State.openEntry]

/-! ### Collectives -/

@[simp] theorem State.mapColl_mem (s : State) (ctx comm : Nat) (inst : Word) (f : Coll → Coll) : (s.mapColl ctx comm inst f).m.mem = s.m.mem := by
  simp [State.mapColl]

@[simp] theorem State.dropInWatch_mem (s : State) (ctx comm : Nat) (inst : Word) : (s.dropInWatch ctx comm inst).m.mem = s.m.mem := by rfl

@[simp] theorem State.collSpread_mem (s : State) (ctx : Nat) (x : Coll) (d : CDesc) (c : Comm) (rank : Nat) (pick : Nat → Bool)
    (value : Nat → DWord) : (s.collSpread ctx x d c rank pick value).m.mem = s.m.mem := by
  simp [State.collSpread]

@[simp] theorem State.watchInput_mem (s : State) (ctx comm : Nat) (inst : Word) (e : Eng) (va : DWord) (n : Nat) :
    (s.watchInput ctx comm inst e va n).m.mem = s.m.mem := by
  unfold State.watchInput
  split <;> rename_i h <;> simpa using mem_of_pair h (State.engPieces_mem ..)

@[simp] theorem State.takeInst_mem (s : State) (ctx comm : Nat) : (s.takeInst ctx comm).m.mem = s.m.mem := by rfl

@[simp] theorem State.serveColl_mem (s : State) (ctx comm : Nat) : (s.serveColl ctx comm).m.mem = s.m.mem := by
  simp [State.serveColl]

@[simp] theorem State.collData_mem (s : State) (ctx comm : Nat) (inst : Word) (src : Nat) (vals : List (Nat × DWord)) :
    (s.collData ctx comm inst src vals).m.mem = s.m.mem := by
  rfl

/-! ### The matrix engine -/

@[simp] theorem State.putEngine_mem (s : State) (core : Nat) (e : Engine) : (s.putEngine core e).m.mem = s.m.mem := by rfl

@[simp] theorem State.mapQuad_mem (s : State) (w : Wave) (f : QuadSt → QuadSt) : (s.mapQuad w f).m.mem = s.m.mem := by
  simp [State.mapQuad]

@[simp] theorem State.mateOp_mem (s : State) (f : Fields) (uid : Nat) : (s.mateOp f uid).2.m.mem = s.m.mem := by
  unfold State.mateOp
  dsimp only
  repeat' split
  all_goals simp_all

@[simp] theorem State.engineOps_mem (s : State) (f : Fields) (all : Bool) : (s.engineOps f all).2.m.mem = s.m.mem := by
  simp [State.engineOps]

@[simp] theorem State.engineDone_mem (s : State) (core : Nat) : (s.engineDone core).m.mem = s.m.mem := by
  unfold State.engineDone
  dsimp only
  repeat' split
  all_goals simp_all

@[simp] theorem State.runZero_mem (s : State) (core : Nat) (int : Bool) (k f : Nat) : (s.runZero core int k f).m.mem = s.m.mem := by
  simp [State.runZero]

@[simp] theorem State.reloadEngine_mem (s : State) (core : Nat) (saved : Engine) (q : QuadSt) (rest : List QuadSt) :
    (s.reloadEngine core saved q rest).m.mem = s.m.mem := by
  rfl

@[simp] theorem State.engineRelease_mem (s : State) (core : Nat) (rel : Bool) : (s.engineRelease core rel).m.mem = s.m.mem := by
  simp [State.engineRelease]

@[simp] theorem State.drain_mem (s : State) (core : Nat) (q : QuadSt) (ops : List (Nat × Nat)) (ty : Nat) (mode : BitVec 4) (ftz addc rel : Bool)
    (drow crow : Nat) : (s.drain core q ops ty mode ftz addc rel drow crow).m.mem = s.m.mem := by
  unfold State.drain
  extract_lets e roots u win row
  have hu : u.m.mem = s.m.mem := ite_mem_of _ _ rfl rfl
  clear_value u row
  obtain ⟨cells, fl⟩ := (List.range 64).foldl row (u.m.acc, {})
  dsimp only
  rw [State.engineRelease_mem, State.engineDone_mem]
  cases ops with
  | nil => exact hu
  | cons => exact (State.mapWave_mem ..).trans hu

/-! ### The lattice unit -/

@[simp] theorem State.unbind_mem (s : State) (team h : Nat) : (s.unbind team h).m.mem = s.m.mem := by rfl

@[simp] theorem State.addLattice_mem (s : State) (x : Lattice) : (s.addLattice x).m.mem = s.m.mem := by rfl

@[simp] theorem State.latRead_mem (s : State) (x : Lattice) (classes : List Nat) (va : DWord) (n : Nat) :
    (s.latRead x classes va n).2.m.mem = s.m.mem := by
  unfold State.latRead
  dsimp only
  split <;> rename_i h
  · exact mem_of_pair h (State.engPieces_mem ..)
  · refine .trans ?_ (mem_of_pair h (State.engPieces_mem ..))
    split
    · rfl
    · split
      · dsimp only
        split <;> simp
      · simp

@[simp] theorem State.dropLattice_mem (s : State) (x : Lattice) : (s.dropLattice x).m.mem = s.m.mem := by rfl

@[simp] theorem State.addResult_mem (s : State) (wave op : Nat) (wrs : List Wr) (nstat : Word) :
    (s.addResult wave op wrs nstat).m.mem = s.m.mem := by
  simp [State.addResult]

@[simp] theorem State.gldLane_mem (s : State) (x : Lattice) (g : Grid) (l lane : Nat) (got : List (Option (List Byte))) :
    (s.gldLane x g l lane got).m.mem = s.m.mem := by
  simp [State.gldLane]

@[simp] theorem State.latAt_mem (s : State) (x : Lattice) (lane : Nat) (got : List (Option (List Byte))) : (s.latAt x lane got).m.mem = s.m.mem := by
  rfl

@[simp] theorem State.latNext_mem (s : State) (x : Lattice) (g : Grid) : (s.latNext x g).m.mem = s.m.mem := by
  simp [State.latNext]

@[simp] theorem State.fencePeers_mem (s : State) (id : Nat) : (s.fencePeers id).m.mem = s.m.mem := by
  simp [State.fencePeers]

/-! ### Barriers -/

@[simp] theorem State.setBar_mem (s : State) (n : Nat) (b : Bar) : (s.setBar n b).m.mem = s.m.mem := by rfl

@[simp] theorem State.wakeTeam_mem (s : State) (team n : Nat) (mask : BitVec 16) : (s.wakeTeam team n mask).m.mem = s.m.mem := by
  simp [State.wakeTeam]

@[simp] theorem State.arrive_mem (s : State) (n count : Nat) : (s.arrive n count).m.mem = s.m.mem := by
  simp [State.arrive]

@[simp] theorem State.waitBar_mem (s : State) (n op : Nat) (tok : Bool) : (s.waitBar n op tok).m.mem = s.m.mem := by
  simp [State.waitBar]

/-! ### Saving, restoring and cancelling -/

@[simp] theorem State.unseat_mem (s : State) (t : Team) : (s.unseat t).m.mem = s.m.mem := by
  simp only [State.unseat, State.freeTeam_mem]
  exact foldl_mem (fun u (w : Wave) => State.dropFaults_mem u w.uid) ..

@[simp] theorem State.moveServed_mem (s : State) (moves : List (Team × Team)) : (s.moveServed moves).m.mem = s.m.mem := by
  simp [State.moveServed]

@[simp] theorem State.numbered_mem (s : State) (im : Image) : (s.numbered im).2.m.mem = s.m.mem := by
  simp [State.numbered]

@[simp] theorem State.flushCtx_mem (s : State) (ctx : Nat) : (s.flushCtx ctx).m.mem = s.m.mem := by
  simp [State.flushCtx]

@[simp] theorem State.runCtx_mem (s : State) (ctx : Nat) : (s.runCtx ctx).m.mem = s.m.mem := by
  simp [State.runCtx]

@[simp] theorem State.runIfMet_mem (s : State) (ctx : Nat) : (s.runIfMet ctx).m.mem = s.m.mem := by
  unfold State.runIfMet
  repeat' split
  all_goals simp

@[simp] theorem State.discardImage_mem (s : State) (im : Image) : (s.discardImage im).m.mem = s.m.mem := by
  simp [State.discardImage]

@[simp] theorem State.reportJobs_mem (s : State) : s.reportJobs.m.mem = s.m.mem := by
  refine foldl_mem (fun u j => ?_) _ _
  dsimp only
  split <;> split <;> simp

@[simp] theorem State.mbDone_mem (s : State) (status : Nat) (results : List (Nat × Nat)) : (s.mbDone status results).m.mem = s.m.mem := by
  simp [State.mbDone]

/-- The state a read through the instruction cache leaves. -/
def IBlockRead.after : IBlockRead → State
  | .bad _ _ t => t
  | .ok _ t => t

@[simp] theorem State.iblock_mem (s : State) (ctx core cls pa : Nat) (remote : Bool) : (s.iblock ctx core cls pa remote).after.m.mem = s.m.mem := by
  have hpass := State.passSlices_mem
  delta State.iblock
  obtain ⟨loaded, hl⟩ : ∃ f, f = State.keyLoaded := ⟨_, rfl⟩
  obtain ⟨bad, hb⟩ : ∃ f, f = MemSys.poisoned := ⟨_, rfl⟩
  obtain ⟨read, hr⟩ : ∃ f, f = MemSys.bytes := ⟨_, rfl⟩
  rw [← hl, ← hb, ← hr]
  dsimp only
  cases s.m.icache.find? _ with
  | some x => rfl
  | none =>
    dsimp only
    split
    · rfl
    · split
      · rfl
      · split
        · exact MemSys.badRead_mem ..
        · exact hpass ..

@[simp] theorem State.skipAt_mem (s : State) (w : Wave) : (s.skipAt w).2.m.mem = s.m.mem := by
  have hx := State.engXlate_mem s (dieOf w.core) w.ctx w.r.ctl.arm.pc
  have hblock := State.iblock_mem
  delta State.skipAt
  obtain ⟨place, hp⟩ : ∃ f, f = State.placeOf := ⟨_, rfl⟩
  obtain ⟨loc, hl⟩ : ∃ f, f = State.localPa := ⟨_, rfl⟩
  obtain ⟨block, hb⟩ : ∃ f, f = State.iblock := ⟨_, rfl⟩
  rw [← hp, ← hl]
  rw [← hb] at hblock ⊢
  dsimp only
  split <;> rename_i h
  · refine .trans ?_ (mem_of_pair h hx)
    split
    · rfl
    · split <;> rename_i h' <;> exact (congrArg (fun r => r.after.m.mem) h').symm.trans (hblock ..)
  · exact mem_of_pair h hx

/-! ### The mailbox, the window and the links -/

@[simp] theorem State.gainKey_mem (s : State) (slot : Nat) (key : BitVec 512) : (s.gainKey slot key).m.mem = s.m.mem := by
  simp [State.gainKey]

@[simp] theorem State.wordPlace_mem (s : State) (ctx : Nat) (va : DWord) : (s.wordPlace ctx va).2.m.mem = s.m.mem := by
  unfold State.wordPlace
  split <;> rename_i h <;> simpa using mem_of_pair h (State.pinXlate_mem ..)

@[simp] theorem State.putMasks_mem (s : State) (n : Nat) (m1 m0 : BitVec 16) : (s.putMasks n m1 m0).m.mem = s.m.mem := by
  simp [State.putMasks]

@[simp] theorem State.putPairlim_mem (s : State) (n lim : Nat) : (s.putPairlim n lim).m.mem = s.m.mem := by
  simp [State.putPairlim]

@[simp] theorem State.putBypass_mem (s : State) (n : Nat) (b : Bool) : (s.putBypass n b).m.mem = s.m.mem := by
  simp [State.putBypass]

@[simp] theorem State.putPortBypass_mem (s : State) (n : Nat) (b : Bool) : (s.putPortBypass n b).m.mem = s.m.mem := by
  simp [State.putPortBypass]

@[simp] theorem State.clearCause_mem (s : State) (mask : Word) : (s.clearCause mask).m.mem = s.m.mem := by rfl

@[simp] theorem State.clearErrPend_mem (s : State) : s.clearErrPend.m.mem = s.m.mem := by rfl

@[simp] theorem State.putMbctl_mem (s : State) (v : Nat) : (s.putMbctl v).m.mem = s.m.mem := by
  simp [State.putMbctl]

@[simp] theorem State.putMbData_mem (s : State) (off v : Nat) : (s.putMbData off v).m.mem = s.m.mem := by
  simp [State.putMbData]

@[simp] theorem State.remotePromote_mem (s : State) (id core relSeq src : Nat) : (s.remotePromote id core relSeq src).m.mem = s.m.mem := by
  simp [State.remotePromote]

@[simp] theorem State.remotePromoted_mem (s : State) (id : Nat) : (s.remotePromoted id).m.mem = s.m.mem := by
  simp [State.remotePromoted]

@[simp] theorem State.passOn_mem (s : State) (port dst : Nat) (m : Msg) : (s.passOn port dst m).m.mem = s.m.mem := by
  unfold State.passOn
  split <;> simp

@[simp] theorem State.spdmAnswer_mem (s : State) (code : Nat) (words : List (BitVec 256)) (sig : Option (BitVec 3072)) :
    (s.spdmAnswer code words sig).m.mem = s.m.mem := by
  rfl

@[simp] theorem State.spdmError_mem (s : State) (code : Nat) : (s.spdmError code).m.mem = s.m.mem := by rfl

@[simp] theorem State.spdmSigned_mem (s : State) (code : Nat) (nonce : BitVec 256) (words : List (BitVec 256)) :
    (s.spdmSigned code nonce words).m.mem = s.m.mem := by
  simp [State.spdmSigned]

/-! ### Soft errors and the clock -/

@[simp] theorem State.upsetSector_mem (s : State) (sec : Nat) : (s.upsetSector sec).m.mem = s.m.mem := by
  unfold State.upsetSector
  repeat' split
  all_goals simp

@[simp] theorem State.countEcc_mem (s : State) (f : EccCounts → EccCounts) : (s.countEcc f).m.mem = s.m.mem := by rfl

@[simp] theorem State.wake_mem (s : State) : s.wake.m.mem = s.m.mem := by rfl

@[simp] theorem State.tick_mem (s : State) : s.tick.m.mem = s.m.mem := by
  simp [State.tick]

@[simp] theorem State.afterIssue_mem (s : State) : s.afterIssue.m.mem = s.m.mem := by
  simp [State.afterIssue]

end Sys2Proof.Machine

/-! Memory in its canonical form (O56): each function of the model that writes memory keeps the form. All of them write by way of
`MemSys.write` or discard dirty sectors; the rest is which functions they call. -/

namespace Sys2Proof.Machine

/-! ### The form, and choices, pairs and folds of what keeps it -/

/-- Memory in its canonical form. -/
def formed (m : Cells 8) : Prop := Memory.wf m

theorem formed_of_eq {m n : Cells 8} (h : m = n) (hn : formed n) : formed m := h ▸ hn

@[simp] theorem MemSys.write_formed {m : MemSys} {free slot pa : Nat} {bs : List Byte} (h : formed m.mem) : formed (m.write free slot pa bs).mem :=
  MemSys.write_wf h

@[simp] theorem ite_formed {c : Prop} [Decidable c] {m n : Cells 8} (hm : formed m) (hn : formed n) : formed (if c then m else n) := by
  split <;> assumption

theorem formed_ite {c : Prop} [Decidable c] {s t : State} (hs : formed s.m.mem) (ht : formed t.m.mem) : formed (if c then s else t).m.mem := by
  split <;> assumption

theorem formed_ite_snd {α : Type} {c : Prop} [Decidable c] {p q : α × State} (hp : formed p.2.m.mem) (hq : formed q.2.m.mem) :
    formed (if c then p else q).2.m.mem := by
  split <;> assumption

theorem formed_of_fst {α : Type} {p : State × α} {x : α} {t : State} (h : p = (t, x)) (hp : formed p.1.m.mem) : formed t.m.mem := by
  rwa [h] at hp

theorem formed_of_pair {α : Type} {p : α × State} {x : α} {t : State} (h : p = (x, t)) (hp : formed p.2.m.mem) : formed t.m.mem := by
  rwa [h] at hp

theorem formed_of_pair_mem {α : Type} {p : α × State} {x : α} {s t : State} (h : p = (x, t)) (hp : p.2.m.mem = s.m.mem) (hs : formed s.m.mem) :
    formed t.m.mem := formed_of_eq (mem_of_pair h hp) hs

@[simp] theorem foldl_formed {α : Type} {g : State → α → State} (hg : ∀ s x, formed s.m.mem → formed (g s x).m.mem) {xs : List α}
    {s : State} (h : formed s.m.mem) : formed (xs.foldl g s).m.mem := foldl_keeps (p := fun u : State => formed u.m.mem) hg xs s h

/-! ### Words the package writes, and records -/

@[simp] theorem State.sysPut_formed {s : State} {late : Bool} {pa : Nat} {bs : List Byte} (h : formed s.m.mem) :
    formed (s.sysPut late pa bs).m.mem := by
  unfold State.sysPut
  split
  · simpa using h
  · exact MemSys.write_formed (by simpa using h)

@[simp] theorem State.sysStores_formed {s : State} {pa n : Nat} {bs : List Byte} (h : formed s.m.mem) : formed (s.sysStores pa n bs).m.mem := by
  induction n generalizing s pa bs with
  | zero => exact h
  | succ n ih =>
    unfold State.sysStores
    split
    · exact h
    · exact ih (State.sysPut_formed h)

@[simp] theorem State.sysStore_formed {s : State} {pa : Nat} {bs : List Byte} (h : formed s.m.mem) : formed (s.sysStore pa bs).m.mem :=
  State.sysStores_formed h

@[simp] theorem ringWrite_formed {s : State} {base : Nat} {ws : List DWord} (h : formed s.m.mem) : formed (ringWrite s base ws).1.m.mem := by
  have hput := @State.sysPut_formed
  have hpass : formed (s.sysPass base 0x40).m.mem := by simpa using h
  delta ringWrite
  obtain ⟨peek, hp⟩ : ∃ f, f = State.peekPa := ⟨_, rfl⟩
  obtain ⟨put, hq⟩ : ∃ f, f = State.sysPut := ⟨_, rfl⟩
  obtain ⟨keeps, hk⟩ : ∃ f, f = State.hostKeeps := ⟨_, rfl⟩
  rw [← hq] at hput
  rw [← hp, ← hq, ← hk]
  generalize s.sysPass base 0x40 = t at hpass
  dsimp only
  split
  · exact hput hpass
  · exact hput (hput hpass)

@[simp] theorem State.packageRecord_formed {s : State} {r : Record} {seqNo : Word} (h : formed s.m.mem) :
    formed (s.packageRecord r seqNo).m.mem := by
  unfold State.packageRecord
  split
  · split
    rename_i hring
    have ht := formed_of_fst hring (ringWrite_formed h)
    dsimp only
    split <;> simpa using ht
  · split <;> exact h

@[simp] theorem State.contextRecord_formed {s : State} {r : Record} {seqNo : Word} (h : formed s.m.mem) :
    formed (s.contextRecord r seqNo).m.mem := by
  unfold State.contextRecord
  split
  · exact h
  · split
    rename_i hring
    simpa using formed_of_fst hring (ringWrite_formed h)

@[simp] theorem State.record_formed {s : State} {r : Record} (h : formed s.m.mem) : formed (s.record r).2.m.mem :=
  State.contextRecord_formed (State.packageRecord_formed h)

/-! ### Failures and traps -/

@[simp] theorem State.killWave_formed {s : State} {uid : Nat} (h : formed s.m.mem) : formed (s.killWave uid).m.mem := by
  unfold State.killWave
  split <;> simp [h]

@[simp] theorem State.failNoWave_formed {s : State} {r : Record} {key : Option LKey} (h : formed s.m.mem) : formed (s.failNoWave r key).m.mem := by
  simp [State.failNoWave, h]

@[simp] theorem State.failAsync_formed {s : State} {w : Wave} {engine : Nat} {code : BitVec 16} {addr detail : DWord} (h : formed s.m.mem) :
    formed (s.failAsync w engine code addr detail).m.mem := by
  simp [State.failAsync, h]

@[simp] theorem State.applyAction_formed {s : State} {action : Nat} {code : BitVec 16} (h : formed s.m.mem) :
    formed (s.applyAction action code).m.mem := by
  unfold State.applyAction
  split <;> simp [h]

@[simp] theorem State.takeTrap_formed {s : State} {code : BitVec 16} {addr detail : DWord} {action : Nat} (h : formed s.m.mem) :
    formed (s.takeTrap code addr detail action).m.mem := by
  unfold State.takeTrap
  dsimp only
  repeat' split
  all_goals simp_all

@[simp] theorem State.trapAt_formed {s : State} {code : BitVec 16} {addr detail : DWord} {action : Nat} (h : formed s.m.mem) :
    formed (s.trapAt code addr detail action).m.mem := by
  unfold State.trapAt
  dsimp only
  repeat' split
  all_goals simp_all

@[simp] theorem State.trapBy_formed {s : State} {code : BitVec 16} {addr detail : DWord} (h : formed s.m.mem) :
    formed (s.trapBy code addr detail).m.mem := by
  simp [State.trapBy, h]

@[simp] theorem State.trapFlag_formed {s : State} {flag : Nat} {e : FErr} (h : formed s.m.mem) : formed (s.trapFlag flag e).m.mem := by
  simp [State.trapFlag, h]

/-! ### Issue -/

/-- The states an instruction's effect leaves have memory in its form. -/
def Try.formed : Try → Prop
  | .trap _ _ _ => True
  | .trapIn t _ _ _ => Machine.formed t.m.mem
  | .stall t => Machine.formed t.m.mem
  | .ok t _ => Machine.formed t.m.mem
  | .moved t => Machine.formed t.m.mem

@[simp] theorem Try.formed_trap (code : BitVec 16) (addr detail : DWord) : (Try.trap code addr detail).formed := trivial

@[simp] theorem Try.formed_stall (t : State) : (Try.stall t).formed ↔ Machine.formed t.m.mem := Iff.rfl

@[simp] theorem Try.formed_ok (t : State) (dest : Option DWord) : (Try.ok t dest).formed ↔ Machine.formed t.m.mem := Iff.rfl

@[simp] theorem Try.formed_moved (t : State) : (Try.moved t).formed ↔ Machine.formed t.m.mem := Iff.rfl

@[simp] theorem Try.formed_ite {c : Prop} [Decidable c] {x y : Try} (hx : x.formed) (hy : y.formed) : (if c then x else y).formed := by
  split <;> assumption

/-- An effect keeps memory in its form. -/
def Formed (eff : Nat → State → Try) : Prop := ∀ slot s, formed s.m.mem → (eff slot s).formed

theorem withHeld_formed {eff : Nat → State → Try} {slot : Nat} {s : State} (heff : Formed eff) (h : formed s.m.mem) :
    (withHeld eff slot s).formed := by
  unfold withHeld
  dsimp only
  split
  · exact heff _ _ h
  · have hmask := heff slot _ (formed_of_eq (State.maskHeld_mem s (s.heldRegs s.w)) h)
    split <;> rename_i heq <;> rw [heq] at hmask <;> exact hmask

theorem State.goOnMoved_mem (s t : State) (long : Bool) (f : Fields) (slot : Nat) : (s.goOnMoved t long f slot).m.mem = t.m.mem := by
  unfold State.goOnMoved State.countBothNew
  rw [State.issued_mem]
  split
  · rfl
  · split <;> simp

theorem issue_formed {sp : Spec} {always : Bool} {i : Instr} {f : Fields} {eff : Nat → State → Try} {s : State} (heff : Formed eff)
    (h : formed s.m.mem) : formed (issue sp always i f eff s).m.mem := by
  unfold issue
  split
  · simpa using h
  · split
    · simpa using State.trapAt_formed h
    · split
      · simpa using h
      · split
        · simpa using h
        · split
          · exact State.trapFlag_formed h
          · split
            · simpa using h
            · split
              · simpa using h
              · have hat : formed (s.atIssue f).m.mem := by simpa using h
                dsimp only
                split
                · exact State.trapAt_formed hat
                · split
                  · have heff := withHeld_formed (slot := issueSlot s f) heff hat
                    split <;> rename_i heq <;> rw [heq] at heff
                    · exact State.trapBy_formed hat
                    · exact State.trapBy_formed heff
                    · simpa using heff
                    · exact formed_of_eq (State.goOnMoved_mem ..) heff
                    · simpa using heff
                  · simpa using hat

/-! ### Accesses at their points -/

@[simp] theorem State.opFails_formed {s : State} {each : Bool} {wave op : Nat} {x : Failure} (h : formed s.m.mem) :
    formed (s.opFails each wave op x).m.mem := by
  unfold State.opFails
  repeat' split
  all_goals simp [*]

@[simp] theorem State.opFail_formed {s : State} {wave op : Nat} {x : Failure} (h : formed s.m.mem) : formed (s.opFail wave op x).m.mem := by
  simp [State.opFail, h]

@[simp] theorem State.leafFail_formed {s : State} {wave op : Nat} {x : Failure} (h : formed s.m.mem) : formed (s.leafFail wave op x).m.mem := by
  simp [State.leafFail, h]

@[simp] theorem State.accDone_formed {s : State} {a : Acc} {wrs : List Wr} {fail : Option Failure} (h : formed s.m.mem) :
    formed (s.accDone a wrs fail).m.mem := by
  have hport : formed (s.withM fun m => { m with port := m.port.filter fun b => b.id != a.id }).m.mem := h
  unfold State.accDone
  cases fail with
  | none => simp [h]
  | some x =>
    have hfail := State.opFail_formed (wave := a.wave) (op := a.op) (x := x) hport
    simp [hfail]

@[simp] theorem State.pointWrite_formed {s : State} {a : Acc} {bs : List Byte} (h : formed s.m.mem) : formed (s.pointWrite a bs).m.mem := by
  simp [State.pointWrite, h]

@[simp] theorem State.barrierSeen_formed {s : State} {a : Acc} {n : Nat} {waits : Bool} {old : Nat} {engine : Nat} (h : formed s.m.mem) :
    formed (s.barrierSeen a n waits old engine).m.mem := by
  unfold State.barrierSeen
  split <;> simp [h]

@[simp] theorem State.pointBarrier_formed {s : State} {a : Acc} {n : Nat} {waits : Bool} (h : formed s.m.mem) :
    formed (s.pointBarrier a n waits).m.mem := by
  unfold State.pointBarrier
  dsimp only
  repeat' split
  all_goals simp_all

@[simp] theorem State.waitDone_formed {s : State} {c : CWait} {scope w0 : Nat} (h : formed s.m.mem) : formed (s.waitDone c scope w0).m.mem := by
  simp [State.waitDone, h]

@[simp] theorem State.objWake_formed {s : State} {ctx pa w0 : Nat} (h : formed s.m.mem) : formed (s.objWake ctx pa w0).m.mem := by
  simp +contextual [State.objWake, h]

@[simp] theorem State.spWake_formed {s : State} {ctx pa n : Nat} (h : formed s.m.mem) : formed (s.spWake ctx pa n).m.mem := by
  simp +contextual [State.spWake, h]

@[simp] theorem State.objEval_formed {s : State} {ctx pa w0 tx : Nat} (h : formed s.m.mem) : formed (s.objEval ctx pa w0 tx).m.mem := by
  simp [State.objEval, h]

@[simp] theorem State.objMoved_formed {s : State} {ctx pa n : Nat} {err : Bool} (h : formed s.m.mem) : formed (s.objMoved ctx pa n err).m.mem := by
  simp [State.objMoved, h]

@[simp] theorem State.pointObj_formed {s : State} {a : Acc} {opn b : Nat} (h : formed s.m.mem) : formed (s.pointObj a opn b).m.mem := by
  unfold State.pointObj
  dsimp only
  split
  · simp [h]
  · split <;> simp [h]
  · simp [h]
  · simp [h]
  · have hport : formed (s.withM fun m => { m with port := m.port.filter fun x => x.id != a.id }).m.mem := h
    split
    · exact formed_of_eq (State.settleFences_mem _) (State.waitDone_formed hport)
    · simp [h]

@[simp] theorem State.perform_formed {s : State} {a : Acc} (h : formed s.m.mem) : formed (s.perform a).m.mem := by
  unfold State.perform
  dsimp only
  split
  · exact State.accDone_formed (by split <;> simp [h])
  · cases a.kind with
    | load => simp [h]
    | store =>
      have hput : formed (a.parts.foldl (fun s p => s.pointWrite a (natBytes a.size p.data.toNat)) s).m.mem :=
        foldl_formed (fun _ _ hu => State.pointWrite_formed hu) h
      refine State.accDone_formed (formed_of_eq (State.promoAfter_mem ..) ?_)
      split
      · exact State.spWake_formed hput
      · exact hput
    | atomic opx ty ret =>
      have hput (bs : List Byte) : formed (((s.noteSeen a).pointWrite a bs).promoAfter a).m.mem :=
        formed_of_eq (State.promoAfter_mem ..) (State.pointWrite_formed (formed_of_eq (State.noteSeen_mem ..) h))
      refine State.accDone_formed ?_
      split
      · exact State.spWake_formed (hput _)
      · exact hput _
    | barrier n waits => simp [h]
    | clean n => simp [h]
    | obj opn b => simp [h]

/-! ### Writes of engines, the host and peers -/

@[simp] theorem State.engPut_formed {s : State} {slot cls pa : Nat} {bs : List Byte} {tenant : Bool} {hint : Nat} {atomic : Bool}
    (h : formed s.m.mem) : formed (s.engPut slot cls pa bs tenant hint atomic).m.mem := by
  simp [State.engPut, h]

@[simp] theorem State.engWrite_formed {s : State} {slot cls pa : Nat} {bs : List Byte} {tenant : Bool} {hint : Nat} {whose : Option PeerFor}
    {add behind : Bool} (h : formed s.m.mem) : formed (s.engWrite slot cls pa bs tenant hint whose add behind).m.mem := by
  have hput := @State.engPut_formed
  delta State.engWrite
  obtain ⟨put, hp⟩ : ∃ f, f = State.engPut := ⟨_, rfl⟩
  obtain ⟨keeps, hk⟩ : ∃ f, f = State.hostKeeps := ⟨_, rfl⟩
  obtain ⟨read, hr⟩ : ∃ f, f = State.readPa := ⟨_, rfl⟩
  rw [← hp] at hput ⊢
  rw [← hk, ← hr]
  split
  · exact h
  · split
    · refine foldl_formed (fun u x hu => ?_) h
      dsimp only
      cases whose <;> simpa using hu
    · exact hput h

@[simp] theorem State.runHostWrite_formed {s : State} {w : HostWrite} (h : formed s.m.mem) : formed (s.runHostWrite w).m.mem := by
  have hput := @State.engPut_formed
  delta State.runHostWrite
  obtain ⟨put, hp⟩ : ∃ f, f = State.engPut := ⟨_, rfl⟩
  obtain ⟨read, hr⟩ : ∃ f, f = State.readPa := ⟨_, rfl⟩
  rw [← hp] at hput ⊢
  rw [← hr]
  dsimp only [State.withM_m]
  split
  · exact h
  · exact hput h

@[simp] theorem State.runHostWrites_formed {n : Nat} {s : State} (h : formed s.m.mem) : formed (State.runHostWrites n s).m.mem := by
  induction n generalizing s with
  | zero => exact h
  | succ n ih =>
    unfold State.runHostWrites
    dsimp only
    split
    · exact h
    · exact ih (State.runHostWrite_formed h)

@[simp] theorem State.hostFreed_formed {s : State} {line : Nat} (h : formed s.m.mem) : formed (s.hostFreed line).m.mem :=
  State.runHostWrites_formed h

@[simp] theorem State.peerServe_formed {s : State} {r : PeerReq} (h : formed s.m.mem) : formed (s.peerServe r).2.2.m.mem := by
  have hput := @State.engPut_formed
  have hbad : formed (s.m.badRead r.addr r.size).mem := by simpa using h
  have hpass := State.passSlices_mem
  rw [State.peerServe]
  obtain ⟨put, hp⟩ : ∃ f, f = State.engPut := ⟨_, rfl⟩
  obtain ⟨read, hr⟩ : ∃ f, f = State.readPa := ⟨_, rfl⟩
  obtain ⟨loaded, hl⟩ : ∃ f, f = State.keyLoaded := ⟨_, rfl⟩
  obtain ⟨bad, hb⟩ : ∃ f, f = MemSys.poisoned := ⟨_, rfl⟩
  obtain ⟨pass, hs⟩ : ∃ f, f = State.passSlices := ⟨_, rfl⟩
  rw [← hp] at hput ⊢
  rw [← hs] at hpass ⊢
  rw [← hr, ← hl, ← hb]
  have hget : ∀ (a b : Nat) (c : Bool) (d e g : Nat), formed (pass s a b c d false e g).m.mem := fun a b c d e g => formed_of_eq (hpass ..) h
  dsimp only
  split
  · exact h
  · split
    · exact h
    · split
      · exact hbad
      · split
        · exact hput h
        · split
          · split <;>
            · split
              · exact hget ..
              · split
                · exact hget ..
                · exact hput h
          · exact hput h
        · exact hget ..

@[simp] theorem State.peerAnswer_formed {s : State} {id : Nat} {data : List QWord} {code : Nat} (h : formed s.m.mem) :
    formed (s.peerAnswer id data code).m.mem := by
  unfold State.peerAnswer
  split
  · exact h
  · split
    · exact h
    · extract_lets whole old lane fail _ wrs t u v
      have ht : formed t.m.mem := h
      have hu : formed u.m.mem := formed_of_eq (ite_mem_of _ _ (State.l1Bring_mem ..) rfl) ht
      have hv : formed v.m.mem := formed_of_eq (ite_mem_of _ _ (State.mapWave_mem ..) rfl) hu
      split
      · split
        · exact State.barrierSeen_formed hv
        · exact State.accDone_formed (formed_of_eq (State.mapWave_mem ..) hv)
      · exact State.accDone_formed hv

/-! ### Membership sets -/

@[simp] theorem State.setFail_formed {s : State} {op : Nat} {engine : Nat} {code : BitVec 16} {set : Nat} {inst : Word} (h : formed s.m.mem) :
    formed (s.setFail op engine code set inst).m.mem := by
  simp [State.setFail, h]

@[simp] theorem State.resolve_formed {s : State} {taken : Bool} (h : formed s.m.mem) : formed (s.resolve taken).m.mem := by
  unfold State.resolve
  split
  · exact h
  · split
    · rw [State.performHeld_mem]
      exact foldl_formed (fun _ _ hu => State.record_formed hu) h
    · simpa using h

@[simp] theorem State.endCbr_formed {s : State} {op set : Nat} {inst : Word} {err : Bool} (h : formed s.m.mem) :
    formed (s.endCbr op set inst err).m.mem := by
  simp [State.endCbr, h]

@[simp] theorem State.loseSet_formed {s : State} {uid : Nat} {r : SetRef} (h : formed s.m.mem) : formed (s.loseSet uid r).m.mem := by
  have hselect : formed (s.select uid).m.mem := formed_of_eq (State.select_mem ..) h
  rw [State.loseSet]
  generalize s.select uid = t at hselect ⊢
  extract_lets waits u
  have hu : formed u.m.mem := foldl_formed (fun _ _ hu => State.setFail_formed hu) hselect
  clear_value u
  split
  · exact h
  · split
    · exact hu
    · split
      · exact State.setFail_formed (State.resolve_formed hu)
      · exact hu

/-! ### Stores of engines, and copies -/

@[simp] theorem State.engStore_formed {s : State} {ctx : Nat} {chips : List Nat} {ls : List EngLoc} {bs : List Byte} {hint : Nat}
    {whose : Option PeerFor} (h : formed s.m.mem) : formed (s.engStore ctx chips ls bs hint whose).m.mem := by
  induction ls generalizing s bs with
  | nil => exact h
  | cons l rest ih =>
    cases l with
    | here pa cls n =>
      rw [State.engStore]
      exact ih (State.engWrite_formed h)
    | peer c pa cls n =>
      rw [State.engStore]
      exact ih (formed_of_eq (State.peerWrites_mem ..) h)

@[simp] theorem State.dpWrite_formed {s : State} {ctx : Nat} {va : DWord} {bs : List Byte} (h : formed s.m.mem) :
    formed (s.dpWrite ctx va bs).2.m.mem := by
  unfold State.dpWrite
  dsimp only
  split <;> rename_i heq <;> have ht := formed_of_pair_mem heq (State.engResolve_mem ..) h
  · simpa using ht
  · simpa using State.engStore_formed ht

@[simp] theorem State.deviceWrite_formed {s : State} {ctx engine : Nat} {key : Option LKey} {va : DWord} {add : Bool} {v : Nat}
    (h : formed s.m.mem) : formed (s.deviceWrite ctx engine key va add v).2.m.mem := by
  have hpieces := State.engPieces_mem
  have hresolve := State.engResolve_mem
  rw [State.deviceWrite]
  obtain ⟨pieces, hp⟩ : ∃ f, f = State.engPieces := ⟨_, rfl⟩
  obtain ⟨locs, hr⟩ : ∃ f, f = State.engResolve := ⟨_, rfl⟩
  rw [← hp] at hpieces ⊢
  rw [← hr] at hresolve ⊢
  dsimp only
  split <;> rename_i heq <;> have ht := formed_of_pair_mem heq (hpieces ..) h
  · simp [ht]
  · split
    · simp [ht]
    · split <;> rename_i heq' <;> have hu := formed_of_pair_mem heq' (hresolve ..) ht
      · simp [hu]
      · split
        · simp [hu]
        · simp [hu]
        · exact State.engStore_formed (by simpa using hu)

@[simp] theorem State.deviceWord_formed {s : State} {ctx engine : Nat} {key : Option LKey} {va : DWord} {add : Bool} {v : Nat} (h : formed s.m.mem) :
    formed (s.deviceWord ctx engine key va add v).m.mem := by
  simp [State.deviceWord, h]

@[simp] theorem State.bump_formed {s : State} {ctx engine : Nat} {key : Option LKey} {va : DWord} (h : formed s.m.mem) :
    formed (s.bump ctx engine key va).m.mem := by
  simp [State.bump, h]

@[simp] theorem State.copyMoved_formed {s : State} {c : Copy} {n : Nat} {err : Bool} (h : formed s.m.mem) : formed (s.copyMoved c n err).m.mem := by
  refine foldl_formed (fun u p hu => ?_) h
  dsimp only
  split
  · cases c.wave <;> simp [hu]
  · split
    · cases c.wave <;> simp [hu]
    · exact State.objMoved_formed hu

@[simp] theorem State.copyEnd_formed {s : State} {c : Copy} {fail : Option Failure} (h : formed s.m.mem) : formed (s.copyEnd c fail).m.mem := by
  unfold State.copyEnd
  repeat' split
  all_goals simp [*]

@[simp] theorem State.copyFail_formed {s : State} {c : Copy} {code : BitVec 16} {addr detail : DWord} (h : formed s.m.mem) :
    formed (s.copyFail c code addr detail).m.mem := by
  simp [State.copyFail, h]

@[simp] theorem State.spPut_formed {s : State} {ctx pa : Nat} {bs : List Byte} (h : formed s.m.mem) : formed (s.spPut ctx pa bs).m.mem := by
  simp [State.spPut, h]

@[simp] theorem State.copyDst_formed {s : State} {c : Copy} {bs : List Byte} (h : formed s.m.mem) : formed (s.copyDst c bs).2.m.mem := by
  unfold State.copyDst
  split
  · split <;> rename_i heq <;> have ht := formed_of_pair_mem heq (State.engResolve_mem ..) h
    · exact ht
    · exact State.engStore_formed ht
  · dsimp only
    split
    · exact h
    · exact foldl_formed (fun _ _ hu => State.spPut_formed hu) h
  · exact h

@[simp] theorem State.copyLand_formed {s : State} {c : Copy} {n : Nat} (h : formed s.m.mem) : formed (s.copyLand c n).m.mem := by
  simp [State.copyLand, h]

@[simp] theorem State.copySent_formed {s : State} {c : Copy} {n : Nat} (h : formed s.m.mem) : formed (s.copySent c n).m.mem := by
  simp [State.copySent, h]

@[simp] theorem State.copyElem_formed {s : State} {c : Copy} {pat esize : Nat} {counts : List Nat} {strides : List Int} (h : formed s.m.mem) :
    formed (s.copyElem c pat esize counts strides).m.mem := by
  have hresolve := State.engResolve_mem
  have hdst := @State.copyDst_formed
  rw [State.copyElem]
  obtain ⟨locs, hr⟩ : ∃ f, f = State.engResolve := ⟨_, rfl⟩
  obtain ⟨land, hl⟩ : ∃ f, f = State.copyDst := ⟨_, rfl⟩
  rw [← hr] at hresolve ⊢
  rw [← hl] at hdst ⊢
  dsimp only
  split
  · split
    · exact State.copyFail_formed h
    · split <;> rename_i heq <;> have ht := formed_of_pair_mem heq (hresolve ..) h
      · split <;> exact State.copyFail_formed ht
      · split
        · exact State.copyFail_formed ht
        · split <;> rename_i heq' <;> have hu := formed_of_pair heq' (hdst (formed_of_eq (State.engBytes_mem ..) ht))
          · exact State.copyFail_formed hu
          · exact State.copySent_formed hu
  · exact h

@[simp] theorem State.copyGroup_formed {s : State} {c : Copy} (h : formed s.m.mem) : formed (s.copyGroup c).m.mem := by
  unfold State.copyGroup
  dsimp only
  split <;> rename_i heq <;> have ht := formed_of_pair_mem heq (State.copySrc_mem ..) h
  · exact State.copyFail_formed ht
  · split <;> rename_i heq' <;> have hu := formed_of_pair heq' (State.copyDst_formed ht)
    · exact State.copyFail_formed hu
    · exact State.copySent_formed hu

@[simp] theorem State.copyStep_formed {s : State} {c : Copy} (h : formed s.m.mem) : formed (s.copyStep c).m.mem := by
  unfold State.copyStep
  repeat' split
  all_goals simp [*]

/-! ### Queues and packets -/

@[simp] theorem State.packetRecord_formed {s : State} {ctx : Nat} {code : BitVec 16} {addr : DWord} {detail : Nat} (h : formed s.m.mem) :
    formed (s.packetRecord ctx code addr detail).m.mem := by
  simp [State.packetRecord, h]

@[simp] theorem State.queueFault_formed {s : State} {q : Queue} {j : Nat} {code : BitVec 16} {addr : DWord} (h : formed s.m.mem) :
    formed (s.queueFault q j code addr).m.mem := by
  simp [State.queueFault, h]

@[simp] theorem State.writeRidx_formed {s : State} {q : Queue} {j : Nat} (h : formed s.m.mem) : formed (s.writeRidx q j).m.mem := by
  unfold State.writeRidx
  split <;> rename_i heq <;> have ht := formed_of_pair heq (State.dpWrite_formed h)
  · simpa using ht
  · exact State.queueFault_formed ht

theorem State.slotRead_formed {s : State} {q : Queue} {ws : List DWord} {k : Nat} (h : formed s.m.mem) : formed (s.slotRead q ws k).m.mem := by
  unfold State.slotRead State.slotServed State.slotTaken
  split
  · split
    · exact State.writeRidx_formed (State.packetRecord_formed (by simpa using h))
    · exact State.writeRidx_formed (by simpa using h)
  · exact State.failNoWave_formed (by simpa using h)
  · simpa using h

@[simp] theorem State.readSlot_formed {s : State} {q : Queue} (h : formed s.m.mem) : formed (s.readSlot q).m.mem := by
  rcases hw : s.widxNow q with ⟨⟨c, a⟩ | w, v⟩ <;> have hv := formed_of_pair_mem hw (State.widxNow_mem ..) h
  · rw [readSlot_widxFault hw]
    exact State.queueFault_formed hv
  · rcases Nat.lt_or_ge q.next w with hlt | hle
    · rcases hread : v.dpRead q.ctx (q.slotVa q.next) 64 with ⟨⟨c, a⟩ | bs, u⟩ <;>
        have hu := formed_of_pair_mem hread (State.dpRead_mem ..) hv
      · rw [readSlot_slotFault hw hlt hread]
        exact State.queueFault_formed hu
      · rw [readSlot_read hw hlt hread]
        exact State.slotRead_formed hu
    · rw [readSlot_empty hw hle]
      simpa using hv

@[simp] theorem State.waitRead_formed {s : State} {q : Queue} {p : Packet} (h : formed s.m.mem) : formed (s.waitRead q p).m.mem := by
  unfold State.waitRead
  dsimp only
  split <;> rename_i heq <;> have ht := formed_of_pair_mem heq (State.engResolve_mem ..) h
  · rw [State.packetDone_mem]
    exact State.failNoWave_formed (by simpa using ht)
  · split
    · split <;> simpa using ht
    · split <;> simpa using ht

/-! ### Translations, instruction words and handlers -/

@[simp] theorem State.trapWord_formed {s : State} {code : BitVec 16} {word : DWord} (h : formed s.m.mem) : formed (s.trapWord code word).m.mem := by
  simp [State.trapWord, h]

/-- A translation that waits leaves memory in its form. -/
def Xlated.formed : Xlated → Prop
  | .wait t => Machine.formed t.m.mem
  | _ => True

theorem xlateLanes_formed {s : State} {kind : Kind} {align : Nat} {vas : List (Nat × DWord)} (h : formed s.m.mem) :
    (xlateLanes s kind align vas).formed := by
  have hwait : ∀ ps : List Nat, formed (ps.foldl State.joinWalk s).m.mem := fun ps =>
    formed_of_eq (foldl_mem (fun u p => State.joinWalk_mem u p) ps s) h
  rw [xlateLanes]
  obtain ⟨look, hl⟩ : ∃ f, f = State.xlate := ⟨_, rfl⟩
  obtain ⟨worst, hw⟩ : ∃ f, f = worstFault := ⟨_, rfl⟩
  rw [← hl, ← hw]
  dsimp only
  split
  · trivial
  · split
    · exact hwait _
    · split <;> trivial

/-- The states a read of the instruction cache leaves have memory in its form. -/
def IRead.formed : IRead → Prop
  | .fault _ _ _ => True
  | .bad _ _ t => Machine.formed t.m.mem
  | .wait t => Machine.formed t.m.mem
  | .ok _ t => Machine.formed t.m.mem

theorem IRead.formed_ite {c : Prop} [Decidable c] {x y : IRead} (hx : x.formed) (hy : y.formed) : (if c then x else y).formed := by
  split <;> assumption

theorem State.iread_formed {s : State} {va : DWord} (h : formed s.m.mem) : (s.iread va).formed := by
  have hx := xlateLanes_formed (kind := .fetch) (align := 1) (vas := [(0, va)]) h
  have hblock := State.iblock_mem
  rw [State.iread]
  obtain ⟨lanes, hl⟩ : ∃ f, f = xlateLanes := ⟨_, rfl⟩
  obtain ⟨block, hb⟩ : ∃ f, f = State.iblock := ⟨_, rfl⟩
  obtain ⟨place, hp⟩ : ∃ f, f = State.placeOf := ⟨_, rfl⟩
  obtain ⟨loc, hc⟩ : ∃ f, f = State.localPa := ⟨_, rfl⟩
  rw [← hl] at hx ⊢
  rw [← hb] at hblock ⊢
  rw [← hp, ← hc]
  dsimp only
  split <;> rename_i heq
  · trivial
  · rw [heq] at hx
    exact hx
  · refine IRead.formed_ite h ?_
    split <;> rename_i heq' <;> exact formed_of_eq ((congrArg (fun r => r.after.m.mem) heq').symm.trans (hblock ..)) h
  · exact h

/-- The states that reading a length leaves have memory in its form. -/
def SkipLen.formed : SkipLen → Prop
  | .refused => True
  | .wait t => Machine.formed t.m.mem
  | .ok _ t => Machine.formed t.m.mem

theorem State.skipLen_formed {s : State} {va : DWord} (h : formed s.m.mem) : (s.skipLen va).formed := by
  have hread := State.iread_formed (va := va) h
  unfold State.skipLen
  generalize s.iread va = r at hread ⊢
  cases r with
  | fault c a d => trivial
  | bad c a t => trivial
  | wait t => exact hread
  | ok bs t =>
    dsimp only
    split
    · trivial
    · exact hread

theorem rteEff_formed {i : Instr} {skip : Bool} {dest : State → Option DWord} : Formed (rteEff i skip dest) := by
  intro slot s h
  unfold rteEff
  split
  · trivial
  · rename_i fr _
    split
    · exact State.killWave_formed h
    · split
      · split
        · trivial
        · simpa using h
      · split
        · have hlen := State.skipLen_formed (va := fr.xpc) h
          generalize s.skipLen fr.xpc = r at hlen ⊢
          cases r with
          | refused => trivial
          | wait t => exact hlen
          | ok n t => exact hlen
        · simpa using h

@[simp] theorem State.takeCancel_formed {s : State} {r : Record} {seqNo : Word} (h : formed s.m.mem) : formed (s.takeCancel r seqNo).m.mem := by
  unfold State.takeCancel
  dsimp only
  repeat' split
  all_goals simp_all

/-! ### Launches -/

@[simp] theorem State.nodeRetired_formed {s : State} {key : LKey} {ok : Bool} (h : formed s.m.mem) : formed (s.nodeRetired key ok).m.mem := by
  unfold State.nodeRetired
  dsimp only
  repeat' split
  all_goals simp_all

@[simp] theorem State.launchEnds_formed {s : State} {key : LKey} {ok : Bool} (h : formed s.m.mem) : formed (s.launchEnds key ok).m.mem := by
  unfold State.launchEnds
  split <;> simp [h]

@[simp] theorem State.failRecord_formed {s : State} {key : LKey} {ctx : Nat} {code : BitVec 16} {addr : DWord} {detail : Nat} (h : formed s.m.mem) :
    formed (s.failRecord key ctx code addr detail).m.mem := by
  unfold State.failRecord
  repeat' split
  all_goals simp [*]

@[simp] theorem State.failLaunch_formed {s : State} {key : LKey} {code : BitVec 16} {addr : DWord} {detail finder : Nat} (h : formed s.m.mem) :
    formed (s.failLaunch key code addr detail finder).m.mem := by
  unfold State.failLaunch
  dsimp only
  repeat' split
  all_goals simp_all

@[simp] theorem State.beginLaunch_formed {s : State} {key : LKey} {ctx prio : Nat} {phase : Option Nat} {ws : List DWord} {slotVa : DWord}
    (h : formed s.m.mem) : formed (s.beginLaunch key ctx prio phase ws slotVa).m.mem := by
  unfold State.beginLaunch
  dsimp only
  repeat' split
  all_goals simp_all

@[simp] theorem State.launchCopy_formed {s : State} {key : LKey} {ctx : Nat} {words : List DWord} {gen : Word} (h : formed s.m.mem) :
    formed (s.launchCopy key ctx words gen).m.mem := by
  unfold State.launchCopy
  dsimp only
  repeat' split
  all_goals simp_all

@[simp] theorem State.noteOverweight_formed {s : State} {l : Launch} (h : formed s.m.mem) : formed (s.noteOverweight l).m.mem := by
  unfold State.noteOverweight
  split <;> simp [h]

@[simp] theorem State.settlePhase_formed {s : State} {ctx : Nat} (h : formed s.m.mem) : formed (s.settlePhase ctx).m.mem := by
  unfold State.settlePhase
  split <;> simp [h]

/-! ### Reduction objects -/

@[simp] theorem State.objRecord_formed {s : State} {ctx : Nat} {key : LKey} {code : BitVec 16} {addr detail : DWord} (h : formed s.m.mem) :
    formed (s.objRecord ctx key code addr detail).m.mem := by
  simp [State.objRecord, h]

@[simp] theorem State.writeElem_formed {s : State} {ctx : Nat} {o : RObj} {e v : Nat} (h : formed s.m.mem) :
    formed (s.writeElem ctx o e v).2.m.mem := by
  unfold State.writeElem
  split <;> rename_i heq <;> have ht := formed_of_pair_mem heq (State.objResolve_mem ..) h
  · exact ht
  · exact State.engStore_formed ht

@[simp] theorem State.abortObj_formed {s : State} {ctx idx : Nat} {key : LKey} {code : BitVec 16} {addr detail : DWord} (h : formed s.m.mem) :
    formed (s.abortObj ctx idx key code addr detail).m.mem := by
  unfold State.abortObj
  split
  · exact h
  · split
    · exact h
    · refine State.objRecord_formed (State.deviceWord_formed ?_)
      rw [State.mapObj_mem, State.discardObj_mem]
      refine foldl_formed (fun u e hu => ?_) h
      split
      · exact hu
      · exact State.writeElem_formed hu

@[simp] theorem State.poisonElem_formed {s : State} {ctx idx e : Nat} {key : LKey} (h : formed s.m.mem) :
    formed (s.poisonElem ctx idx e key).m.mem := by
  unfold State.poisonElem
  split <;> simp [h]

@[simp] theorem State.spillWrite_formed {s : State} {pa tag elem val : Nat} {valid : Bool} (h : formed s.m.mem) :
    formed (s.spillWrite pa tag elem val valid).m.mem := by
  simp [State.spillWrite, h]

@[simp] theorem State.spill_formed {s : State} {slice : Nat} {o : RObj} {p : Partial} (h : formed s.m.mem) : formed (s.spill slice o p).m.mem := by
  unfold State.spill
  dsimp only
  split <;> rename_i heq <;> have ht := formed_of_pair_mem heq (State.spillFind_mem ..) h
  · exact State.abortObj_formed ht
  · exact State.abortObj_formed ht
  · have hwrite := State.spillWrite_formed (pa := by assumption) (tag := tagOf p.level p.index) (elem := p.elem) (val := p.val.toNat)
      (valid := true) ht
    (repeat' split) <;> simpa using hwrite

@[simp] theorem State.holdHome_formed {s : State} {slice : Nat} {o : RObj} {p : Partial} (h : formed s.m.mem) :
    formed (s.holdHome slice o p).m.mem := by
  simp [State.holdHome, h]

theorem brecOn_formed {α β : Type} (G : (xs : List α) → List.below (motive := fun _ => State → β × State) xs → State → β × State)
    (hnil : ∀ b s, formed s.m.mem → formed (G [] b s).2.m.mem)
    (hcons : ∀ x xs b, (∀ s, formed s.m.mem → formed (b.1 s).2.m.mem) → ∀ s, formed s.m.mem → formed (G (x :: xs) b s).2.m.mem)
    {xs : List α} {s : State} (h : formed s.m.mem) : formed (List.brecOn (motive := fun _ => State → β × State) xs G s).2.m.mem := by
  induction xs generalizing s with
  | nil => exact hnil _ s h
  | cons x xs ih => exact hcons x xs _ (fun s hs => ih hs) s h

@[simp] theorem State.drainSpill_formed {slice ctx : Nat} {o : RObj} {like : Partial} {ns : List Nat} {s : State} (h : formed s.m.mem) :
    formed (State.drainSpill slice ctx o like ns s).2.m.mem := by
  have hat := State.spillAt_mem
  have hwrite := @State.spillWrite_formed
  delta State.drainSpill State.drainSpill._f
  obtain ⟨look, hl⟩ : ∃ f, f = State.spillAt := ⟨_, rfl⟩
  obtain ⟨read, hr⟩ : ∃ f, f = State.spillRead := ⟨_, rfl⟩
  obtain ⟨put, hp⟩ : ∃ f, f = State.spillWrite := ⟨_, rfl⟩
  obtain ⟨home, hh⟩ : ∃ f, f = @State.elemSlice := ⟨_, rfl⟩
  rw [← hl] at hat ⊢
  rw [← hp] at hwrite ⊢
  rw [← hr, ← hh]
  refine brecOn_formed _ (fun _ _ hs => hs) (fun n ns b hb s hs => ?_) h
  dsimp only
  split <;> rename_i heq <;> have ht := formed_of_pair_mem heq (hat ..) hs
  · exact ht
  · refine formed_ite_snd ?_ (hb _ ht)
    split <;> rename_i heq'
    · exact formed_of_pair heq' (hb _ (hwrite ht))
    · exact hb _ (hwrite ht)

@[simp] theorem State.gather_formed {s : State} {slice ctx : Nat} {o : RObj} (h : formed s.m.mem) : formed (s.gather slice ctx o).2.m.mem := by
  unfold State.gather
  dsimp only
  split
  · split <;> rename_i heq <;> have ht := formed_of_pair heq (State.drainSpill_formed (by simpa using h))
    · exact ht
    · exact State.abortObj_formed ht
  · simpa using h

@[simp] theorem State.completeObj_formed {s : State} {ctx idx : Nat} (h : formed s.m.mem) : formed (s.completeObj ctx idx).m.mem := by
  unfold State.completeObj
  split
  · exact h
  · rename_i o _
    have hall := foldl_keeps (p := fun x : List Partial × State => formed x.2.m.mem)
      (f := fun x n => (x.1 ++ (x.2.gather n ctx o).1, (x.2.gather n ctx o).2)) (fun x n hx => State.gather_formed hx) (List.range 128) ([], s) h
    dsimp only
    split
    · exact hall
    · simp only [State.mapObj_mem]
      exact State.deviceWord_formed (foldl_formed (fun _ _ hu => State.poisonElem_formed hu) hall)

@[simp] theorem State.checkDense_formed {s : State} {ctx idx : Nat} (h : formed s.m.mem) : formed (s.checkDense ctx idx).m.mem := by
  unfold State.checkDense
  split <;> simp [h]

@[simp] theorem State.storeRoot_formed {s : State} {ctx idx e v : Nat} {key : LKey} (h : formed s.m.mem) :
    formed (s.storeRoot ctx idx e v key).m.mem := by
  unfold State.storeRoot
  split
  · exact h
  · split
    · exact h
    · split
      · exact State.poisonElem_formed h
      · dsimp only
        split <;> rename_i heq <;> have ht := formed_of_pair_mem heq (State.objResolve_mem ..) h
        · exact State.abortObj_formed ht
        · rw [State.mapObj_mem]
          exact State.engStore_formed (formed_of_eq (State.engBytes_mem ..) ht)

@[simp] theorem State.enterHome_formed {slice : Nat} {o : RObj} {k : Nat} {s : State} {p : Partial} (h : formed s.m.mem) :
    formed (State.enterHome slice o k s p).m.mem := by
  induction k generalizing s p with
  | zero => exact State.holdHome_formed h
  | succ k ih =>
    have hfind := State.spillFind_mem
    have hwrite := @State.spillWrite_formed
    rw [State.enterHome]
    obtain ⟨find, hf⟩ : ∃ f, f = State.spillFind := ⟨_, rfl⟩
    obtain ⟨read, hr⟩ : ∃ f, f = State.spillRead := ⟨_, rfl⟩
    obtain ⟨put, hp⟩ : ∃ f, f = State.spillWrite := ⟨_, rfl⟩
    rw [← hf] at hfind ⊢
    rw [← hp] at hwrite ⊢
    rw [← hr]
    dsimp only
    split
    · exact State.checkDense_formed (State.poisonElem_formed h)
    · split
      · split
        · exact State.holdHome_formed h
        · exact State.checkDense_formed (State.storeRoot_formed h)
      · split
        · exact ih (by simpa using h)
        · split
          · split <;> rename_i heq <;> have ht := formed_of_pair_mem heq (hfind ..) h
            · exact State.checkDense_formed (State.poisonElem_formed (hwrite ht))
            · split <;> rename_i heq' <;> have hu := formed_of_pair_mem heq' (hfind ..) ht
              · exact State.abortObj_formed hu
              · exact State.holdHome_formed hu
              · exact ih (hwrite hu)
          · exact State.holdHome_formed h

@[simp] theorem State.homeArrive_formed {s : State} {slice : Nat} {p : Partial} (h : formed s.m.mem) : formed (s.homeArrive slice p).m.mem := by
  unfold State.homeArrive
  split
  · exact State.objRecord_formed h
  · split
    · exact State.objRecord_formed h
    · split
      · exact State.objRecord_formed h
      · exact formed_ite (State.abortObj_formed h) (State.enterHome_formed h)

@[simp] theorem State.closeSlice_formed {s : State} {slice ctx idx : Nat} (h : formed s.m.mem) : formed (s.closeSlice slice ctx idx).m.mem := by
  unfold State.closeSlice
  split
  · exact h
  · rename_i o _
    split
    rename_i heq
    have ht := formed_of_pair heq (State.gather_formed h)
    extract_lets u v
    have hu : formed u.m.mem := by
      refine foldl_formed (fun x p hx => ?_) ht
      dsimp only
      split
      · exact hx
      · split
        · exact State.poisonElem_formed hx
        · split
          · exact hx
          · exact State.storeRoot_formed hx
    have hv : formed v.m.mem := formed_of_eq (State.mapObj_mem ..) hu
    split
    · exact formed_ite (State.completeObj_formed hv) hv
    · exact hv

@[simp] theorem State.closeArrive_formed {s : State} {slice ctx idx oseq : Nat} {src : Option Nat} {op : Nat} {key : LKey} (h : formed s.m.mem) :
    formed (s.closeArrive slice ctx idx oseq src op key).m.mem := by
  unfold State.closeArrive
  dsimp only
  repeat' split
  all_goals simp_all

@[simp] theorem State.contribute_formed {s : State} {w op core ctx : Nat} {o : RObj} {e level index v : Nat} (h : formed s.m.mem) :
    formed (s.contribute w op core ctx o e level index v).m.mem := by
  unfold State.contribute
  split <;> rename_i heq <;> have ht := formed_of_pair_mem heq (State.elemSlice_mem ..) h
  · dsimp only
    split
    · exact State.abortObj_formed (State.opFail_formed ht)
    · simpa using State.opFail_formed ht
  · simpa using ht

theorem ctbEff_formed {i : Instr} {f : Fields} {tagged : Bool} : Formed (ctbEff i f tagged) := by
  intro slot s h
  unfold ctbEff
  split
  · trivial
  · dsimp only
    split
    · trivial
    · rw [Try.formed_ok, State.finishOp_mem]
      exact foldl_formed (fun _ _ hu => State.contribute_formed hu) (formed_of_eq (State.startOp_mem ..) h)

theorem State.clearSpill_formed {s t : State} {e : Eng} {d : RDesc} (ht : s.clearSpill e d = some t) (h : formed s.m.mem) : formed t.m.mem := by
  unfold State.clearSpill at ht
  split at ht <;> rename_i heq
  · have hu := formed_of_pair_mem heq (State.engPieces_mem ..) h
    split at ht
    · cases ht
      simpa using State.engStore_formed hu
    · nomatch ht
  · nomatch ht

/-! ### Collectives -/

@[simp] theorem State.collDone_formed {s : State} {ctx : Nat} {x : Coll} {d : CDesc} (h : formed s.m.mem) : formed (s.collDone ctx x d).m.mem := by
  unfold State.collDone
  split <;> simp [h]

@[simp] theorem State.collLoosen_formed {s : State} {ctx : Nat} {x : Coll} {d : CDesc} {c : Comm} (h : formed s.m.mem) :
    formed (s.collLoosen ctx x d c).m.mem := by
  unfold State.collLoosen
  extract_lets rank size hits free u
  have hu : formed u.m.mem := formed_ite h (formed_of_eq (State.collSpread_mem ..) h)
  refine foldl_formed (fun v e hv => ?_) hu
  split <;> rename_i heq <;> have ht := formed_of_pair_mem heq (State.engResolve_mem ..) hv
  · simpa using ht
  · rw [State.dropPins_mem]
    exact State.engStore_formed ht

@[simp] theorem State.collEnd_formed {s : State} {ctx : Nat} {x : Coll} {d : CDesc} {c : Comm} (h : formed s.m.mem) :
    formed (s.collEnd ctx x d c).m.mem := by
  simp [State.collEnd, h]

@[simp] theorem State.abortHere_formed {s : State} {ctx comm : Nat} {inst : Word} {code : Nat} {addr : DWord} {cause : Nat} (h : formed s.m.mem) :
    formed (s.abortHere ctx comm inst code addr cause).m.mem := by
  unfold State.abortHere
  dsimp only
  repeat' split
  all_goals simp_all

@[simp] theorem State.abortColl_formed {s : State} {ctx comm : Nat} {inst : Word} {code : Nat} {addr : DWord} {cause : Nat} (h : formed s.m.mem) :
    formed (s.abortColl ctx comm inst code addr cause).m.mem := by
  unfold State.abortColl
  dsimp only
  repeat' split
  all_goals simp_all

@[simp] theorem State.startColl_formed {s : State} {ctx comm : Nat} {inst : Word} {va : DWord} {e : Eng} {c : Comm} (h : formed s.m.mem) :
    formed (s.startColl ctx comm inst va e c).m.mem := by
  unfold State.startColl
  extract_lets x me fault
  refine formed_ite (State.abortColl_formed (by simpa using h)) ?_
  have hfault : ∀ t code a, formed t.m.mem → formed (fault t code a).m.mem := fun t code a ht => State.abortColl_formed ht
  split <;> rename_i heq <;> have ht := formed_of_pair_mem heq (State.engResolve_mem ..) h
  · exact hfault _ _ _ (by simpa using ht)
  · refine formed_ite (hfault _ _ _ (by simpa using ht)) ?_
    split
    rename_i heq'
    have hu := formed_of_pair_mem heq' (State.engBytes_mem ..) ht
    extract_lets u d g v w y
    have hdrop : formed u.m.mem := by simpa [u] using hu
    have hv : formed v.m.mem := by simpa [v] using hdrop
    have hw : formed w.m.mem := formed_of_eq (foldl_mem (fun t r => State.send_mem t r _) _ _) hv
    have hy : formed y.m.mem := by simpa [y] using hw
    exact formed_ite (State.abortColl_formed hdrop) (formed_ite (State.abortColl_formed hdrop)
      (formed_ite (State.abortColl_formed hv) (formed_ite (State.abortColl_formed hy) hy)))

@[simp] theorem State.collSend_formed {s : State} {ctx : Nat} {x : Coll} {d : CDesc} {c : Comm} (h : formed s.m.mem) :
    formed (s.collSend ctx x d c).m.mem := by
  unfold State.collSend
  extract_lets me rank size n
  split <;> rename_i heq <;> have ht := formed_of_pair_mem heq (State.engResolve_mem ..) h
  · exact State.abortColl_formed (by simpa using ht)
  · extract_lets hits free
    split
    rename_i heq'
    have hu := formed_of_pair_mem heq' (State.engBytes_mem ..) ht
    simpa using hu

@[simp] theorem State.collWrite_formed {s : State} {ctx : Nat} {x : Coll} {d : CDesc} {c : Comm} (h : formed s.m.mem) :
    formed (s.collWrite ctx x d c).m.mem := by
  unfold State.collWrite
  extract_lets rank size at_ n vs
  refine formed_ite ?_ h
  split <;> rename_i heq <;> have ht := formed_of_pair_mem heq (State.engResolve_mem ..) h
  · exact State.abortColl_formed (by simpa using ht)
  · extract_lets hits loose bs seen u
    have hu : formed u.m.mem := formed_of_eq (State.dropPins_mem ..) (State.engStore_formed ht)
    rw [State.mapColl_mem]
    exact hu

/-! ### The matrix engine -/

@[simp] theorem State.inputError_formed {s : State} {core : Nat} {ops : List (Nat × Nat)} {code : BitVec 16} (h : formed s.m.mem) :
    formed (s.inputError core ops code).m.mem := by
  unfold State.inputError
  extract_lets e u
  have hu : formed u.m.mem := h
  cases ops with
  | nil => exact hu
  | cons p rest => exact foldl_formed (fun _ _ hv => formed_of_eq (State.mapWave_mem ..) hv) (State.opFail_formed hu)

@[simp] theorem State.bankLoad_formed {s : State} {core : Nat} {q : QuadSt} {base : Nat} {ops : List (Nat × Nat)} (h : formed s.m.mem) :
    formed (s.bankLoad core q base ops).m.mem := by
  unfold State.bankLoad
  exact formed_ite (State.inputError_formed h) h

@[simp] theorem State.loopStep_formed {s : State} {core team addr j aty : Nat} {ops : List (Nat × Nat)} (h : formed s.m.mem) :
    formed (s.loopStep core team addr j aty ops).m.mem := by
  unfold State.loopStep
  exact formed_ite (State.inputError_formed h) h

@[simp] theorem State.sendNode_formed {s : State} {uid op core ctx : Nat} {o : RObj} {e level index v : Nat} (h : formed s.m.mem) :
    formed (s.sendNode uid op core ctx o e level index v).m.mem := by
  simp [State.sendNode, h]

@[simp] theorem State.drainNodes_formed {s : State} {core : Nat} {q : QuadSt} {ops : List (Nat × Nat)} {ebase : DWord} {stride : Int} {robj : Nat}
    {rel : Bool} (h : formed s.m.mem) : formed (s.drainNodes core q ops ebase stride robj rel).m.mem := by
  unfold State.drainNodes
  extract_lets e free nodes val u v e' errs w x
  have hu : formed u.m.mem := h
  have hv : formed v.m.mem := by
    unfold v
    split
    · split
      · exact hu
      · generalize List.range 4096 = cells
        exact foldl_formed (fun _ _ hs => foldl_formed (fun _ _ ht => State.sendNode_formed ht) hs) hu
    · exact hu
  have hw : formed w.m.mem := hv
  have hx : formed x.m.mem := by
    unfold x
    cases errs with
    | none => exact hw
    | some y => exact formed_of_eq (State.finishOps_mem ..) hw
  rw [State.engineRelease_mem, State.engineDone_mem]
  exact hx

/-! ### The lattice unit -/

@[simp] theorem State.doBind_formed {s : State} {x : Lattice} {n : Nat} {va : DWord} (h : formed s.m.mem) : formed (s.doBind x n va).m.mem := by
  unfold State.doBind
  split
  rename_i heq
  have ht := formed_of_pair_mem heq (State.latRead_mem ..) h
  extract_lets u fail
  have hu : formed u.m.mem := by simpa [u] using ht
  have hfail : ∀ t eng c a d, formed t.m.mem → formed (fail t eng c a d).m.mem := fun t eng c a d ht =>
    formed_of_eq (State.finishOp_mem ..) (State.opFail_formed ht)
  split
  · exact hfail _ _ _ _ _ hu
  · split
    · exact hfail _ _ _ _ _ hu
    · rw [State.finishOp_mem]
      exact hu

@[simp] theorem State.gldRead_formed {s : State} {x : Lattice} {g : Grid} (h : formed s.m.mem) : formed (s.gldRead x g).m.mem := by
  unfold State.gldRead
  split
  · simpa using h
  · rename_i lane _
    split
    extract_lets keep ix n va regs
    have hkeep : ∀ t b, formed t.m.mem → formed (keep t b).m.mem := fun t b ht =>
      formed_ite (formed_of_eq (State.latAt_mem ..) ht) (formed_of_eq (State.latAt_mem ..) (formed_of_eq (State.gldLane_mem ..) ht))
    split <;> rename_i heq <;> have ht := formed_of_pair_mem heq (State.latRead_mem ..) h
    · exact hkeep _ _ ht
    · extract_lets d u
      refine formed_ite (hkeep _ _ (State.opFail_formed ht)) ?_
      have hu : formed u.m.mem := State.opFail_formed ht
      rw [State.finishOp_mem, State.addResult_mem, State.dropLattice_mem]
      exact hu

@[simp] theorem State.gscLane_formed {s : State} {x : Lattice} {g : Grid} {o : RObj} {grads : Cells 32} {l lane : Nat} (h : formed s.m.mem) :
    formed (s.gscLane x g o grads l lane).m.mem := by
  unfold State.gscLane
  split
  extract_lets smp u
  have hu : formed u.m.mem := formed_of_eq (State.addResult_mem ..) h
  refine foldl_formed (fun v y hv => foldl_formed (fun w p hw => ?_) hv) hu
  extract_lets e leaf gv
  split
  extract_lets t
  have ht : formed t.m.mem := formed_of_eq (State.addResult_mem ..) hw
  exact formed_ite (State.leafFail_formed ht) (State.contribute_formed ht)

@[simp] theorem State.latStep_formed {s : State} {x : Lattice} (h : formed s.m.mem) : formed (s.latStep x).m.mem := by
  unfold State.latStep
  split
  · exact State.doBind_formed h
  · simpa using h
  · split
    · exact State.gldRead_formed h
    · split
      · simpa using h
      · rw [State.latNext_mem]
        exact foldl_formed (fun _ _ hu => State.gscLane_formed hu) h

@[simp] theorem State.latFinish_formed {n id : Nat} {s : State} (h : formed s.m.mem) : formed (State.latFinish n id s).m.mem := by
  induction n generalizing s with
  | zero => exact h
  | succ n ih =>
    unfold State.latFinish
    split
    · exact h
    · split
      · exact h
      · exact ih (State.latStep_formed h)

/-! ### Saving, restoring and cancelling -/

@[simp] theorem State.restoreTeam_formed {s : State} {im : Image} {bs : List Byte} {core : Nat} {p : List Nat × Nat × List Nat} {park stay : Bool}
    (h : formed s.m.mem) : formed (s.restoreTeam im bs core p park stay).m.mem := by
  unfold State.restoreTeam
  extract_lets k t ws old here obj e e' mask grids acc u v w
  have hu : formed u.m.mem := h
  have hv : formed v.m.mem := hu
  have hw : formed w.m.mem := formed_ite hv (formed_of_eq (State.mapLaunch_mem ..) hv)
  refine foldl_formed (fun x c hx => ?_) hw
  exact formed_ite (State.waitDone_formed hx) hx

@[simp] theorem State.crestTeam_formed {s : State} {im : Image} {bs : List Byte} {core : Nat} {p : List Nat × Nat × List Nat} {stop : Bool}
    (h : formed s.m.mem) : formed (s.crestTeam im bs core p stop).m.mem := by
  simp [State.crestTeam, h]

@[simp] theorem State.writeImage_formed {s : State} {w : Wave} {op : Nat} {va : DWord} {bs : List Byte} (h : formed s.m.mem) :
    formed (s.writeImage w op va bs).2.m.mem := by
  unfold State.writeImage
  extract_lets fail
  have hfail : ∀ t c a, formed t.m.mem → formed (fail t c a).2.m.mem := fun t c a ht =>
    State.opFail_formed (formed_of_eq (State.dropPins_mem ..) ht)
  split <;> rename_i heq <;> have ht := formed_of_pair_mem heq (State.engResolve_mem ..) h
  · exact hfail _ _ _ ht
  · exact formed_ite_snd (hfail _ _ _ ht) (formed_of_eq (State.dropPins_mem ..) (State.engStore_formed ht))

@[simp] theorem State.stopCtx_formed {s : State} {ctx : Nat} (h : formed s.m.mem) : formed (s.stopCtx ctx).m.mem := by
  simp +contextual [State.stopCtx, h]

@[simp] theorem State.saveTeam_formed {s : State} {t : Team} (h : formed s.m.mem) : formed (s.saveTeam t).m.mem := by
  simp [State.saveTeam, h]

@[simp] theorem State.saveCtx_formed {s : State} {c : Ctx} (h : formed s.m.mem) : formed (s.saveCtx c).m.mem := by
  unfold State.saveCtx
  extract_lets bs u
  have hu : formed u.m.mem := foldl_formed (fun _ _ hv => State.saveTeam_formed hv) h
  exact formed_of_eq (State.mapCtx_mem ..) (State.sysStore_formed hu)

theorem State.reloadAll_formed {ims : List Image} {s t : State} {ms : List (Team × Team)} (ht : State.reloadAll ims s = some (t, ms))
    (h : formed s.m.mem) : formed t.m.mem := by
  induction ims generalizing s t ms with
  | nil =>
    cases ht
    exact h
  | cons im rest ih =>
    unfold State.reloadAll at ht
    split at ht
    · nomatch ht
    · obtain ⟨⟨u, moves⟩, hu, heq⟩ := Option.map_eq_some_iff.mp ht
      cases heq
      exact ih hu (State.restoreTeam_formed (by simpa using h))

@[simp] theorem State.loseImages_formed {s : State} {ctx : Nat} (h : formed s.m.mem) : formed (s.loseImages ctx).m.mem := by
  simp +contextual [State.loseImages, h]

@[simp] theorem State.reloadCtx_formed {s : State} {ctx : Nat} (h : formed s.m.mem) : formed (s.reloadCtx ctx).m.mem := by
  unfold State.reloadCtx
  split
  · exact h
  · extract_lets me u
    have hu : formed u.m.mem := State.loseImages_formed h
    refine formed_ite h ?_
    split
    · exact hu
    · rename_i v moves heq
      have hv := State.reloadAll_formed heq hu
      rw [State.runIfMet_mem]
      exact formed_of_eq (foldl_mem (fun t r => State.send_mem t r _) _ _) hv

@[simp] theorem State.endCtx_formed {s : State} {ctx : Nat} (h : formed s.m.mem) : formed (s.endCtx ctx).m.mem := by
  unfold State.endCtx
  split <;> simp [h]

@[simp] theorem State.jobEnds_formed {s : State} {ctx chip : Nat} (h : formed s.m.mem) : formed (s.jobEnds ctx chip).m.mem := by
  unfold State.jobEnds
  extract_lets u
  have hu : formed u.m.mem := formed_of_eq (State.mapCtx_mem ..) h
  split
  · exact formed_ite (State.endCtx_formed hu) hu
  · exact hu

@[simp] theorem State.dropWork_formed {s : State} {c : CancelOf} {inScope : Nat → LKey → Bool} (h : formed s.m.mem) :
    formed (s.dropWork c inScope).m.mem := by
  unfold State.dropWork
  dsimp only
  repeat' split
  all_goals simp_all

@[simp] theorem State.stopLattice_formed {s : State} {x : Lattice} (h : formed s.m.mem) : formed (s.stopLattice x).m.mem := by
  unfold State.stopLattice
  dsimp only
  repeat' split
  all_goals simp_all

@[simp] theorem State.deliverCancel_formed {s : State} {c : CancelOf} {inScope : Nat → LKey → Bool} (h : formed s.m.mem) :
    formed (s.deliverCancel c inScope).m.mem := by
  unfold State.deliverCancel
  extract_lets key r mine
  split
  rename_i heq
  have ht := formed_of_pair heq (State.record_formed h)
  extract_lets teams u v w x y
  have hu : formed u.m.mem := foldl_formed (fun _ _ hs => State.stopLattice_formed hs) ht
  have hv : formed v.m.mem := formed_of_eq (foldl_mem (fun s t => foldl_mem (fun s q => State.dropQuad_mem s _ _ _ _) _ _) _ _) hu
  have hw : formed w.m.mem := foldl_formed (fun _ _ hs => State.killWave_formed hs) hv
  have hx : formed x.m.mem := formed_of_eq (State.mapWaves_mem ..) hw
  have hy : formed y.m.mem := hx
  exact formed_of_eq (foldl_mem (fun s im => State.discardImage_mem s im) _ _) hy

@[simp] theorem State.abortBound_formed {s : State} {c : CancelOf} {inScope : Nat → LKey → Bool} (h : formed s.m.mem) :
    formed (s.abortBound c inScope).m.mem := by
  unfold State.abortBound
  extract_lets u
  have hu : formed u.m.mem := formed_ite (formed_of_eq (State.flushCtx_mem ..) h) h
  split
  · exact hu
  · extract_lets objs v colls w
    have hv : formed v.m.mem := foldl_formed (fun _ _ hs => State.abortObj_formed hs) hu
    have hw : formed w.m.mem := foldl_formed (fun _ _ hs => State.abortColl_formed hs) hv
    exact formed_of_eq (State.mapCtx_mem ..) hw

@[simp] theorem State.cancelHere_formed {s : State} {c : CancelOf} (h : formed s.m.mem) : formed (s.cancelHere c).2.m.mem := by
  unfold State.cancelHere
  extract_lets me graphs inScope keys packets node u v
  have hu : formed u.m.mem := formed_ite (formed_of_eq (State.mapCtx_mem ..) h) h
  have hv : formed v.m.mem := State.deliverCancel_formed (State.dropWork_formed hu)
  exact formed_ite_snd h (formed_ite_snd (State.abortBound_formed h) (State.abortBound_formed hv))

@[simp] theorem State.applyJob_formed {s : State} {cmd : Nat} {args : List DWord} {origin : Option Nat} (h : formed s.m.mem) :
    formed (s.applyJob cmd args origin).m.mem := by
  unfold State.applyJob
  extract_lets ctx add c c' inScope u
  have hadd : ∀ t keys ends, formed t.m.mem → formed (add t keys ends).m.mem := fun t keys ends ht => ht
  split
  · exact hadd _ _ _ (State.stopCtx_formed h)
  · exact State.reloadCtx_formed (hadd _ _ _ h)
  · split
    rename_i heq
    have ht := formed_of_pair heq (State.cancelHere_formed h)
    exact formed_ite (hadd _ _ _ ht) (hadd _ _ _ ht)
  · exact formed_ite (hadd _ _ _ (State.cancelHere_formed h))
      (hadd _ _ _ (State.abortBound_formed (State.dropWork_formed (formed_of_eq (State.mapCtx_mem ..) h))))

@[simp] theorem State.startJob_formed {s : State} {cmd : Nat} {args : List DWord} (h : formed s.m.mem) : formed (s.startJob cmd args).m.mem := by
  simp [State.startJob, h]

@[simp] theorem State.resumeWave_formed {s : State} {w : Wave} {mode : Nat} (h : formed s.m.mem) : formed (s.resumeWave w mode).2.m.mem := by
  unfold State.resumeWave
  extract_lets go
  have hgo : ∀ t n, formed t.m.mem → formed (go t n).m.mem := fun t n ht => formed_of_eq (State.mapWave_mem ..) ht
  split
  · exact State.killWave_formed h
  · exact State.killWave_formed h
  · exact hgo _ _ h
  · refine formed_ite_snd (hgo _ _ h) ?_
    split <;> rename_i heq <;> have ht := formed_of_pair_mem heq (State.skipAt_mem ..) h
    · exact formed_ite_snd (hgo _ _ ht) ht
    · exact hgo _ _ ht
  · exact h

/-! ### Resets, the window and the links -/

@[simp] theorem State.resetPackage_formed {s : State} {bit : Nat} (h : formed s.m.mem) : formed (s.resetPackage bit).m.mem :=
  foldl_formed (fun t n ht => formed_of_eq (State.loseKey_mem t n) ht) (State.discardLines_wf h)

@[simp] theorem State.destroyCtx_formed {s : State} {ctx : Nat} (h : formed s.m.mem) : formed (s.destroyCtx ctx).m.mem := by
  simp [State.destroyCtx, h]

@[simp] theorem State.putComm_formed {s : State} {ctx entry : Nat} {e : Option Comm} (h : formed s.m.mem) :
    formed (s.putComm ctx entry e).m.mem := by
  simp [State.putComm, h]

@[simp] theorem State.copyRecord_formed {base : Nat} {s : State} {ws : List DWord} (h : formed s.m.mem) :
    formed (State.copyRecord base s ws).m.mem := by
  simp [State.copyRecord, h]

@[simp] theorem State.portLost_formed {s : State} {n : Nat} (h : formed s.m.mem) : formed (s.portLost n).m.mem := by
  simp +contextual [State.portLost, h]

@[simp] theorem State.putEnable_formed {s : State} {n : Nat} {b : Bool} (h : formed s.m.mem) : formed (s.putEnable n b).m.mem := by
  unfold State.putEnable
  split <;> simp [h]

@[simp] theorem State.mmioPut_formed {s : State} {off v : Nat} (h : formed s.m.mem) : formed (s.mmioPut off v).m.mem := by
  have hmasks : ∀ n a b, formed (s.putMasks n a b).m.mem := fun n a b => formed_of_eq (State.putMasks_mem ..) h
  have hlim : ∀ n a, formed (s.putPairlim n a).m.mem := fun n a => formed_of_eq (State.putPairlim_mem ..) h
  have hbypass : ∀ n b, formed (s.putBypass n b).m.mem := fun n b => formed_of_eq (State.putBypass_mem ..) h
  have hport : ∀ n a b, formed ((s.putPortBypass n a).putEnable n b).m.mem := fun n a b =>
    State.putEnable_formed (formed_of_eq (State.putPortBypass_mem ..) h)
  unfold State.mmioPut
  refine formed_ite (formed_of_eq (State.clearCause_mem ..) h) (formed_ite (formed_ite (formed_of_eq (State.clearErrPend_mem ..) h) h)
    (formed_ite (formed_of_eq (State.putMbctl_mem ..) h) (formed_ite (formed_ite (hmasks ..) (formed_ite (hlim ..) h))
    (formed_ite (formed_ite (hport ..) h) (formed_ite (formed_ite (hbypass ..) (formed_ite (formed_of_eq (State.setBudget_mem ..) h) h))
    (formed_ite (formed_of_eq (State.putMbData_mem ..) h) h))))))

@[simp] theorem State.peerReply_formed {s : State} {id : Nat} {data : List QWord} {code : Nat} (h : formed s.m.mem) :
    formed (s.peerReply id data code).m.mem := by
  unfold State.peerReply
  split
  · exact State.peerAnswer_formed h
  · extract_lets u c
    have hu : formed u.m.mem := h
    have hsettle : formed u.settleFences.m.mem := formed_of_eq (State.settleFences_mem _) hu
    split
    · exact formed_ite (formed_of_eq (State.l1Bring_mem ..) hu) hu
    · refine formed_ite hsettle ?_
      split
      · exact hu
      · exact State.failNoWave_formed hu
      · exact State.abortColl_formed hu
      · exact hsettle

end Sys2Proof.Machine

/-! The effects that several instructions share keep memory in its form. -/

namespace Sys2Proof.Machine

theorem xlateLanes_wait_formed {s t : State} {kind : Kind} {align : Nat} {vas : List (Nat × DWord)} (hx : xlateLanes s kind align vas = .wait t)
    (h : formed s.m.mem) : formed t.m.mem := by
  have hw := xlateLanes_formed (kind := kind) (align := align) (vas := vas) h
  rwa [hx] at hw

/-- The state in which a waiting lookup leaves the machine has memory in its form. -/
def Located.formed : Located → Prop
  | .wait t => Machine.formed t.m.mem
  | _ => True

theorem memLocate_formed {s : State} {kind : Kind} {size : Nat} {vas : List (Nat × DWord)} (h : formed s.m.mem) :
    (memLocate s kind size vas).formed := by
  unfold memLocate
  split
  · trivial
  · exact xlateLanes_wait_formed ‹_› h
  · trivial

theorem spLocate_formed (s : State) (kind : Kind) (size : Nat) (low : DWord) (ws : List (Nat × Word)) : (spLocate s kind size low ws).formed := by
  unfold spLocate
  dsimp only
  repeat' split
  all_goals trivial

theorem locateLanes_formed {s : State} {f : Fields} {i : Instr} {sp : Bool} {kind : Kind} {scale : Nat} (h : formed s.m.mem) :
    (locateLanes s f i sp kind scale).formed := by
  unfold locateLanes
  dsimp only
  split
  · exact spLocate_formed ..
  · exact memLocate_formed h

theorem queueAddr_formed {s : State} {i : Instr} {kind : Kind} {va : DWord} {ok : Nat → Bool} (h : formed s.m.mem) :
    (queueAddr s i kind va ok).formed := by
  unfold queueAddr
  split
  · trivial
  · exact xlateLanes_wait_formed ‹_› h
  · split
    · trivial
    · exact memLocate_formed h

theorem tyEff_formed {f : Fields} {lam : Nat} {fn : Nat → Nat → Nat → Nat → Nat} : Formed (tyEff f lam fn) := fun _ _ h => by
  simpa [tyEff] using h

theorem shiftEff_formed {f : Fields} {fn : Nat → Nat → Nat → Nat} : Formed (shiftEff f fn) := fun _ _ h => by simpa [shiftEff] using h

theorem fpShort_formed {f : Fields} {fn : Fmt → RCtl → Nat → Nat → Nat → Nat × FFlags} : Formed (fpShort f fn) := fun _ _ h => by
  simpa [fpShort] using h

theorem fpLong_formed {f : Fields} {fn : Fmt → RCtl → Nat → Nat → Nat → Nat × FFlags} : Formed (fpLong f fn) := fun _ _ h => by
  simpa [fpLong] using h

theorem bcDiverge_formed {s : State} {f : Fields} {slot : Nat} {take fall : Lanes} (h : formed s.m.mem) :
    (bcDiverge s f slot take fall).formed := by
  unfold bcDiverge
  dsimp only
  split
  · exact h
  · split
    · trivial
    · exact h

theorem loadEff_formed {i : Instr} {f : Fields} {sp : Bool} : Formed (loadEff i f sp) := by
  intro slot s h
  unfold loadEff
  split
  · trivial
  · split
    · trivial
    · have hloc := locateLanes_formed (f := f) (i := i) (sp := sp) (kind := .read) (scale := scaleX f) h
      split <;> rename_i heq <;> rw [heq] at hloc
      · trivial
      · exact hloc
      · dsimp only
        rw [Try.formed_ok, State.closeOp_mem]
        refine foldl_formed (fun _ _ hu => foldl_formed (fun _ _ hv => ?_) hu) (formed_of_eq (State.startOp_mem ..) h)
        simpa using hv

theorem State.issueStore_formed {s : State} {a : Acc} (h : formed s.m.mem) : formed (s.issueStore a).m.mem := by simpa using h

theorem storeEff_formed {i : Instr} {f : Fields} {sp : Bool} : Formed (storeEff i f sp) := by
  intro slot s h
  unfold storeEff
  split
  · trivial
  · split
    · trivial
    · have hloc := locateLanes_formed (f := f) (i := i) (sp := sp) (kind := .write) (scale := scaleX f) h
      split <;> rename_i heq <;> rw [heq] at hloc
      · trivial
      · exact hloc
      · split
        · dsimp only
          split
          · exact h
          · simpa using h
        · dsimp only
          rw [Try.formed_ok, State.closeOp_mem]
          exact foldl_formed (fun _ _ => State.issueStore_formed) (formed_of_eq (State.startOp_mem ..) h)

theorem atomEff_formed {i : Instr} {f : Fields} {ret : Nat} : Formed (atomEff i f ret) := by
  intro slot s h
  unfold atomEff
  dsimp only
  split
  · trivial
  · split <;> rename_i heq
    · trivial
    · have hloc := locateLanes_formed (f := f) (i := i) (sp := false) (kind := .atomic)
        (scale := if f.x.getLsbD 11 then tyBits f.ty.toNat / 8 else 1) h
      rwa [heq] at hloc
    · simpa using h

theorem cwbEff_formed {f : Fields} {mode : Nat} : Formed (cwbEff f mode) := by
  intro slot s h
  have hloc := memLocate_formed (kind := .read) (size := 1) (vas := cacheAddrs s f) h
  unfold cwbEff
  split <;> rename_i heq <;> rw [heq] at hloc
  · trivial
  · exact hloc
  · dsimp only
    rw [Try.formed_ok, State.closeOp_mem]
    exact foldl_formed (fun _ _ hu => by simpa using hu) (formed_of_eq (State.startOp_mem ..) h)

theorem objEff_formed {i : Instr} {f : Fields} {opn : Nat} {limit acq rel : Bool} : Formed (objEff i f opn limit acq rel) := by
  intro slot s h
  unfold objEff
  dsimp only
  split
  · trivial
  · split
    · trivial
    · split
      · trivial
      · split
        · trivial
        · simpa using h

theorem accMoveEff_formed {i : Instr} {f : Fields} {load : Bool} : Formed (accMoveEff i f load) := by
  intro slot s h
  unfold accMoveEff
  dsimp only
  split
  · trivial
  · split
    · trivial
    · split
      · trivial
      · split
        · trivial
        · split
          · exact h
          · simpa using h

theorem State.queueEngine_formed {s : State} {f : Fields} {all : Bool} {cmd : MCmd} {upd : List (Nat × Nat) → QuadSt → QuadSt}
    {plan : List (Nat × Nat) → List HeldBlock} (h : formed s.m.mem) : (s.queueEngine f all cmd upd plan).formed := by
  unfold State.queueEngine
  split
  · exact h
  · split
    · exact h
    · simpa using h

theorem gridTake_formed {i : Instr} {f : Fields} {out : Option (BitVec 10)} {eff : Grid → State → Try} {s : State}
    (heff : ∀ g, (eff g s).formed) (h : formed s.m.mem) : (gridTake i f out eff s).formed := by
  unfold gridTake
  split
  · exact h
  · split
    · trivial
    · dsimp only
      exact Try.formed_ite trivial (Try.formed_ite trivial (heff _))

theorem State.barWord_formed {s : State} {f : Fields} {count : Nat} {waits tok : Bool} (h : formed s.m.mem) :
    (s.barWord f count waits tok).formed := by
  unfold State.barWord
  dsimp only
  split
  · trivial
  · exact xlateLanes_wait_formed ‹_› h
  · split
    · exact h
    · rw [Try.formed_ok]
      refine formed_ite ?_ ?_ <;> refine formed_of_eq (State.pushAcc_mem ..) (formed_ite ?_ ?_) <;> simpa using h

theorem arriveEff_formed {i : Instr} {f : Fields} {waits : Bool} : Formed (arriveEff i f waits) := by
  intro slot s h
  unfold arriveEff
  dsimp only
  split
  · trivial
  · split
    · exact State.barWord_formed h
    · split
      · exact h
      · split
        · trivial
        · rw [Try.formed_ok]
          refine formed_ite ?_ ?_ <;> simpa using h

theorem tlbiEff_formed {f : Fields} {ctx : State → Option Nat} {va : State → Option DWord} : Formed (tlbiEff f ctx va) := by
  intro slot s h
  unfold tlbiEff
  dsimp only
  split
  · split <;> simpa using h
  · simpa using h

end Sys2Proof.Machine

/-! Each instruction and event keeps memory in its form. Those whose meaning is one shared effect, or a plain result, stand only in
`exec_formed`. -/

namespace Sys2Proof.Machine

/-! ### Answers -/

/-- The state an answer goes on with has memory in its form. -/
def Ans.formed : Ans → Prop
  | .next t => Machine.formed t.m.mem
  | _ => True

@[simp] theorem Ans.formed_next (t : State) : Ans.formed (.next t) ↔ Machine.formed t.m.mem := Iff.rfl

theorem Ans.formed_ite {c : Prop} [Decidable c] {a b : Ans} (ha : a.formed) (hb : b.formed) : Ans.formed (if c then a else b) := by
  split <;> assumption

theorem run_formed {sp : Spec} {i : Instr} {f : Fields} {eff : Nat → State → Try} {s : State} (heff : Formed eff) (h : formed s.m.mem) :
    (run sp i f eff s).formed := issue_formed heff h

theorem runOnce_formed {sp : Spec} {i : Instr} {f : Fields} {eff : Nat → State → Try} {s : State} (heff : Formed eff) (h : formed s.m.mem) :
    (runOnce sp i f eff s).formed := issue_formed heff h

theorem runCtl_formed {sp : Spec} {i : Instr} {f : Fields} {eff : Nat → State → Try} {s : State} (heff : Formed eff) (h : formed s.m.mem) :
    (runCtl sp i f eff s).formed := issue_formed heff h

/-! ### Translation, promotions and accesses at their points -/

theorem State.invalHold_formed {s t : State} {a : Acc} (ht : s.invalHold a = some t) (h : formed s.m.mem) : formed t.m.mem := by
  unfold State.invalHold at ht
  split at ht <;> cases ht
  simpa using h

theorem State.promoHold_formed {s t : State} {a : Acc} (ht : s.promoHold a = some t) (h : formed s.m.mem) : formed t.m.mem := by
  unfold State.promoHold at ht
  split at ht
  · split at ht <;> cases ht
    simpa using h
  · cases ht

theorem State.hold_formed {s t : State} {a : Acc} (ht : (s.invalHold a <|> s.promoHold a) = some t) (h : formed s.m.mem) : formed t.m.mem := by
  cases hi : s.invalHold a with
  | none =>
    rw [hi] at ht
    exact State.promoHold_formed ht h
  | some u =>
    rw [hi] at ht
    cases ht
    exact State.invalHold_formed hi h

theorem execPageWalk_formed {id : Nat} {s : State} (h : formed s.m.mem) : (execPageWalk id s).formed := by
  unfold execPageWalk
  split <;> simpa using h

theorem execInvalidationComplete_formed {id : Nat} {s : State} (h : formed s.m.mem) : (execInvalidationComplete id s).formed := by
  unfold execInvalidationComplete
  dsimp only
  repeat' split
  all_goals simp [h]

theorem execPromotionRequest_formed {id : Nat} {s : State} (h : formed s.m.mem) : (execPromotionRequest id s).formed := by
  unfold execPromotionRequest
  dsimp only
  repeat' split
  all_goals simp [h]

theorem execPromotionReply_formed {id : Nat} {s : State} (h : formed s.m.mem) : (execPromotionReply id s).formed := by
  unfold execPromotionReply
  dsimp only
  repeat' split
  all_goals simp [h]

theorem execScFenceMessage_formed {id src : Nat} {s : State} (h : formed s.m.mem) : (execScFenceMessage id src s).formed := by
  simpa [execScFenceMessage] using h

theorem execHomeSliceAccess_formed {id : Nat} {s : State} (h : formed s.m.mem) : (execHomeSliceAccess id s).formed := by
  unfold execHomeSliceAccess
  split
  · exact h
  · rename_i a _
    refine Ans.formed_ite h ?_
    split
    · simpa using h
    · split
      · exact State.invalHold_formed ‹_› h
      · split
        · exact State.accDone_formed (by simpa using h)
        · refine Ans.formed_ite ?_ (Ans.formed_ite (by simpa using h) ?_)
          · rw [Ans.formed_next, State.mapAcc_mem]
            exact formed_ite (by simpa using h) h
          · split
            · exact State.promoHold_formed ‹_› h
            · dsimp only
              have hkey : formed (s.l2Rekey a.slot a.pa).m.mem := by simpa using h
              exact Ans.formed_ite (State.perform_formed (by simpa using hkey))
                (Ans.formed_ite (State.perform_formed hkey) (by simpa using hkey))

theorem execL2SectorFill_formed {id : Nat} {s : State} (h : formed s.m.mem) : (execL2SectorFill id s).formed := by
  unfold execL2SectorFill
  split
  · exact h
  · rename_i a _
    have hfill : formed (s.l2Fill a.pa a.slot a.tenant a.hint).m.mem := by simpa using h
    exact Ans.formed_ite h (Ans.formed_ite (State.perform_formed h) (Ans.formed_ite (by simpa using hfill) (State.perform_formed hfill)))

theorem execKettleAccess_formed {id : Nat} {uncorrectable : Bool} {s : State} (h : formed s.m.mem) :
    (execKettleAccess id uncorrectable s).formed := by
  unfold execKettleAccess
  split
  · exact h
  · rename_i a _
    refine Ans.formed_ite h ?_
    dsimp only
    have hbad : formed (if (uncorrectable && (a.stage == .fill || a.stage == .fwd)) = true then s.withM fun m => m.poisonSector a.pa else s).m.mem :=
      formed_ite (by simpa using h) h
    refine Ans.formed_ite hbad ?_
    split
    · exact State.hold_formed ‹_› hbad
    · exact State.perform_formed hbad

theorem execScratchpadArrayAccess_formed {id : Nat} {s : State} (h : formed s.m.mem) : (execScratchpadArrayAccess id s).formed := by
  unfold execScratchpadArrayAccess
  split
  · exact h
  · refine Ans.formed_ite h ?_
    split
    · exact State.promoHold_formed ‹_› h
    · exact State.perform_formed h

theorem execBackInvalidateResponse_formed {id : Nat} {s : State} (h : formed s.m.mem) : (execBackInvalidateResponse id s).formed := by
  unfold execBackInvalidateResponse
  dsimp only
  split
  · exact h
  · exact formed_ite (State.hostFreed_formed h) h

theorem execHostOwnershipGranted_formed {id : Nat} {s : State} (h : formed s.m.mem) : (execHostOwnershipGranted id s).formed := by
  unfold execHostOwnershipGranted
  split
  · exact h
  · refine Ans.formed_ite h (Ans.formed_ite ?_ (by simpa using h))
    split
    · exact State.promoHold_formed ‹_› h
    · exact State.perform_formed h

theorem execHostSnoop_formed {addr : Nat} {write : Option DWord} {s : State} (h : formed s.m.mem) : (execHostSnoop addr write s).formed := by
  unfold execHostSnoop
  refine Ans.formed_ite h ?_
  dsimp only
  split
  · simpa using h
  · exact MemSys.write_formed (by simpa using h)

theorem execCxlMemAccess_formed {decoder addr size : Nat} {write : Option DWord} {s : State} (h : formed s.m.mem) :
    (execCxlMemAccess decoder addr size write s).formed := by
  unfold execCxlMemAccess
  refine Ans.formed_ite h ?_
  split
  · exact State.failNoWave_formed h
  · refine Ans.formed_ite ?_ ?_
    · simpa using State.failNoWave_formed h
    · dsimp only
      split
      · simpa using h
      · rw [Ans.formed_next]
        refine formed_ite ?_ ?_
        · rw [State.watch_mem]
          exact MemSys.write_formed (by simpa using h)
        · exact MemSys.write_formed (by simpa using h)

theorem execPeerRequestArrival_formed {r : PeerReq} {s : State} (h : formed s.m.mem) : (execPeerRequestArrival r s).formed := by
  have hserve := @State.peerServe_formed
  rw [execPeerRequestArrival]
  obtain ⟨keeps, hk⟩ : ∃ f, f = State.hostKeeps := ⟨_, rfl⟩
  obtain ⟨serve, hs⟩ : ∃ f, f = State.peerServe := ⟨_, rfl⟩
  rw [← hs] at hserve
  rw [← hk, ← hs]
  refine Ans.formed_ite (by simpa using h) (Ans.formed_ite (by simpa using h) ?_)
  split
  · simpa using h
  · rw [Ans.formed_next, State.send_mem]
    exact hserve (by simpa using h)

/-! ### Control flow -/

theorem execWaitFlag_formed {f : Fields} {s : State} (h : formed s.m.mem) : (execWaitFlag f s).formed := by
  refine run_formed (fun _ _ hu => ?_) h
  dsimp only
  repeat' split
  all_goals simp [hu]

theorem execYieldExpiry_formed {w : Nat} {s : State} (h : formed s.m.mem) : (execYieldExpiry w s).formed := by
  simpa [execYieldExpiry] using h

theorem execRet_formed {f : Fields} {s : State} (h : formed s.m.mem) : (execRet f s).formed := by
  refine runCtl_formed (fun _ _ hu => ?_) h
  dsimp only
  repeat' split
  all_goals simp [hu]

/-- An effect that reads an instruction word ends in the fault, the trap or the wait of the reading, or goes on with the word. -/
theorem iread_effect_formed {s : State} {va : DWord} {next : List Byte → State → Try} (h : formed s.m.mem)
    (hnext : ∀ bs u, formed u.m.mem → (next bs u).formed) :
    (match s.iread va with
      | .fault c a d => Try.trap c a d
      | .bad c a u => .trapIn u c a u.openDetail
      | .wait u => .stall u
      | .ok bs u => next bs u).formed := by
  have hread := State.iread_formed (va := va) h
  generalize s.iread va = r at hread ⊢
  cases r with
  | fault => trivial
  | bad => exact hread
  | wait => exact hread
  | ok => exact hnext _ _ hread

theorem execJtab_formed {f : Fields} {s : State} (h : formed s.m.mem) : (execJtab f s).formed := by
  refine runCtl_formed (fun _ _ hu => Try.formed_ite hu ?_) h
  dsimp only
  exact Try.formed_ite trivial (iread_effect_formed hu fun _ _ hv => Try.formed_ite trivial hv)

theorem execBc_formed {f : Fields} {s : State} (h : formed s.m.mem) : (execBc f s).formed :=
  runCtl_formed (fun _ _ hu => Try.formed_ite hu (Try.formed_ite hu (bcDiverge_formed hu))) h

theorem execDivergencePop_formed {w : Nat} {s : State} (h : formed s.m.mem) : (execDivergencePop w s).formed := by
  unfold execDivergencePop
  have hsel : formed (s.select w).m.mem := by simpa using h
  dsimp only
  refine Ans.formed_ite hsel ?_
  split
  · exact hsel
  · exact Ans.formed_ite hsel (Ans.formed_ite hsel (Ans.formed_ite (State.trapAt_formed hsel) hsel))

theorem execArmJoin_formed {w : Nat} {s : State} (h : formed s.m.mem) : (execArmJoin w s).formed := by
  unfold execArmJoin
  have hsel : formed (s.select w).m.mem := by simpa using h
  dsimp only
  refine Ans.formed_ite hsel ?_
  split
  · exact hsel
  · have hbad : ∀ (c : Bool) (g : Arm → Arm) (a d : DWord) (n : Nat),
        formed ((((if c = true then s.select w else (s.select w).withCtl Ctl.swap).withArm g).trapAt 0x0114 a d n).m.mem) :=
      fun c g a d n => State.trapAt_formed (formed_ite hsel hsel)
    exact Ans.formed_ite (hbad ..) (Ans.formed_ite (hbad ..) (Ans.formed_ite hsel (Ans.formed_ite (hbad ..) (Ans.formed_ite (hbad ..)
      (by simpa using hsel)))))

theorem execEndWave_formed {f : Fields} {s : State} (h : formed s.m.mem) : (execEndWave f s).formed := by
  refine runCtl_formed (fun _ _ hu => ?_) h
  dsimp only
  repeat' split
  all_goals simp [hu]

theorem execFull_formed {f : Fields} {s : State} (h : formed s.m.mem) : (execFull f s).formed := by
  refine runCtl_formed (fun _ _ hu => ?_) h
  dsimp only
  repeat' split
  all_goals simp [hu]

theorem execEndfull_formed {f : Fields} {s : State} (h : formed s.m.mem) : (execEndfull f s).formed := by
  refine runCtl_formed (fun _ _ hu => ?_) h
  dsimp only
  repeat' split
  all_goals simp [hu]

theorem execLoop_formed {f : Fields} {s : State} (h : formed s.m.mem) : (execLoop f s).formed := by
  refine runCtl_formed (fun _ _ hu => Try.formed_ite trivial (Try.formed_ite hu ?_)) h
  exact iread_effect_formed hu fun _ _ hv => hv

theorem execBrk_formed {f : Fields} {s : State} (h : formed s.m.mem) : (execBrk f s).formed :=
  runCtl_formed (fun _ _ hu => Try.formed_ite trivial (Try.formed_ite hu (iread_effect_formed hu fun _ _ hv => hv))) h

theorem execLoopEndAction_formed {w : Nat} {addr : DWord} {s : State} (h : formed s.m.mem) : (execLoopEndAction w addr s).formed := by
  unfold execLoopEndAction
  have hsel : formed (s.select w).m.mem := by simpa using h
  dsimp only
  refine Ans.formed_ite hsel ?_
  have hfail : ∀ (u : State), formed u.m.mem → ∀ d n,
      formed (((if u.w.ahead.isSome = true then u else u.withArm fun a => { a with done := none }).trapAt 0x0114 addr d n).m.mem) :=
    fun u hu d n => State.trapAt_formed (formed_ite hu hu)
  split
  · exact hfail _ hsel ..
  · exact hsel
  · split
    · exact hfail _ hsel ..
    all_goals exact hsel
  · rename_i a _
    split
    · exact hfail ((s.select w).withArm fun _ => a) hsel ..
    all_goals exact hsel

/-! ### Vector, memory and lane instructions -/

theorem execVopt_formed {f : Fields} {s : State} (h : formed s.m.mem) : (execVopt f s).formed := by
  refine run_formed (fun _ _ hu => ?_) h
  dsimp only
  repeat' split
  all_goals simp [hu]

theorem litReads_formed {t : Nat} {f : Fields} {vas : List (Nat × DWord)} : ∀ {s : State} {wrs : List Wr} {bad : Option (BitVec 16 × DWord)},
    formed s.m.mem → Sum.elim (fun x => formed x.1.m.mem) Try.formed (litReads t f s vas wrs bad) := by
  induction vas with
  | nil => exact fun h => h
  | cons x rest ih =>
    intro s wrs bad h
    have hread := State.iread_formed (va := x.2) h
    rw [litReads]
    generalize s.iread x.2 = r at hread ⊢
    cases r with
    | fault => trivial
    | bad => exact ih hread
    | wait => exact hread
    | ok => exact ih hread

theorem execLdlit_formed {f : Fields} {s : State} (h : formed s.m.mem) : (execLdlit f s).formed := by
  unfold execLdlit
  refine run_formed (fun _ u hu => ?_) h
  dsimp only
  split
  · trivial
  · split
    · trivial
    · exact xlateLanes_wait_formed ‹_› hu
    · split <;> rename_i heq
      · have hlit := heq ▸ litReads_formed hu
        exact hlit
      · have hlit := heq ▸ litReads_formed hu
        rw [Try.formed_ok, State.finishOp_mem]
        split
        · exact formed_of_eq (State.startOp_mem ..) hlit
        · exact State.opFail_formed (formed_of_eq (State.startOp_mem ..) hlit)

theorem execSpatom_formed {f : Fields} {s : State} (h : formed s.m.mem) : (execSpatom f s).formed := by
  refine run_formed (fun _ u hu => Try.formed_ite trivial (Try.formed_ite trivial ?_)) h
  have hloc := locateLanes_formed (f := f) (i := .spatom f) (sp := true) (kind := .atomic) (scale := tyBits f.ty.toNat / 8) hu
  split <;> rename_i heq <;> rw [heq] at hloc
  · trivial
  · exact hloc
  · simpa using hu

theorem execPf_formed {f : Fields} {s : State} (h : formed s.m.mem) : (execPf f s).formed := by
  refine run_formed (fun _ _ hu => ?_) h
  dsimp only
  repeat' split
  all_goals simp [hu]

theorem execCinvSector_formed {f : Fields} {s : State} (h : formed s.m.mem) : (execCinvSector f s).formed := by
  refine run_formed (fun _ u hu => ?_) h
  have hloc := memLocate_formed (kind := .read) (size := 1) (vas := cacheAddrs u f) hu
  split <;> rename_i heq <;> rw [heq] at hloc
  · trivial
  · exact hloc
  · rw [Try.formed_ok, State.longDone_mem]
    exact foldl_formed (fun _ _ hv => by split <;> exact hv) hu

theorem execShfl_formed {f : Fields} {s : State} (h : formed s.m.mem) : (execShfl f s).formed := by
  refine run_formed (fun _ _ hu => ?_) h
  dsimp only
  repeat' split
  all_goals simp [hu]

/-! ### Membership sets -/

theorem execVoteArrival_formed {r : SetRef} {inst : Word} {m : Member} {v : Option Vote} {s : State} (h : formed s.m.mem) :
    (execVoteArrival r inst m v s).formed := by
  simpa [execVoteArrival] using h

theorem execJoinArrival_formed {r : SetRef} {m : Member} {s : State} (h : formed s.m.mem) : (execJoinArrival r m s).formed := by
  simpa [execJoinArrival] using h

theorem execLeaveArrival_formed {r : SetRef} {m : Member} {s : State} (h : formed s.m.mem) : (execLeaveArrival r m s).formed := by
  simpa [execLeaveArrival] using h

theorem execOutcomeArrival_formed {w : Nat} {s : State} (h : formed s.m.mem) : (execOutcomeArrival w s).formed := by
  unfold execOutcomeArrival
  have hsel : formed (s.select w).m.mem := by simpa using h
  refine Ans.formed_ite hsel ?_
  split
  · exact hsel
  · dsimp only
    split
    · exact State.endCbr_formed (State.resolve_formed hsel)
    · exact Ans.formed_ite (State.setFail_formed (State.resolve_formed hsel)) hsel

theorem execSetHomeUnreachable_formed {r : SetRef} {s : State} (h : formed s.m.mem) : (execSetHomeUnreachable r s).formed :=
  formed_of_eq (State.select_mem ..) (foldl_formed (fun _ _ => State.loseSet_formed) h)

theorem State.cbrGo_formed {s : State} {f : Fields} {taken : Bool} (h : formed s.m.mem) : (s.cbrGo f taken).formed := h

theorem execCbr_formed {f : Fields} {s : State} (h : formed s.m.mem) : (execCbr f s).formed := by
  refine runCtl_formed (fun _ u hu => ?_) h
  dsimp only
  split
  · trivial
  · refine Try.formed_ite hu ?_
    have hop : formed (u.startOp f false false).2.m.mem := by simpa using hu
    split
    · exact State.cbrGo_formed (State.endCbr_formed hop)
    · refine Try.formed_ite (Try.formed_ite (State.cbrGo_formed (State.setFail_formed hop)) ?_)
        (Try.formed_ite (State.cbrGo_formed (State.setFail_formed hop)) ?_)
      · simpa using hu
      · simpa using hu

theorem execCmjoin_formed {f : Fields} {s : State} (h : formed s.m.mem) : (execCmjoin f s).formed := by
  refine runCtl_formed (fun _ u hu => ?_) h
  dsimp only
  split
  · trivial
  · exact Try.formed_ite (State.setFail_formed (by simpa using hu)) (by simpa using hu)

theorem execCmleave_formed {f : Fields} {s : State} (h : formed s.m.mem) : (execCmleave f s).formed := by
  refine runCtl_formed (fun _ u hu => ?_) h
  dsimp only
  split
  · trivial
  · exact Try.formed_ite (State.setFail_formed (by simpa using hu)) (by simpa using hu)

/-! ### Copies, queues and packets -/

theorem execCopyProgress_formed {id : Nat} {s : State} (h : formed s.m.mem) : (execCopyProgress id s).formed := by
  unfold execCopyProgress
  split
  · exact h
  · rename_i c _
    refine Ans.formed_ite h ?_
    have hstep := State.copyStep_formed (c := c) h
    dsimp only
    split
    · exact hstep
    · exact Ans.formed_ite hstep (State.copyEnd_formed hstep)

theorem execCpy_formed {f : Fields} {s : State} (h : formed s.m.mem) : (execCpy f s).formed := by
  refine run_formed (fun _ _ hu => ?_) h
  dsimp only
  repeat' split
  all_goals simp [hu]

theorem execCpys_formed {f : Fields} {s : State} (h : formed s.m.mem) : (execCpys f s).formed := by
  refine run_formed (fun _ u hu => ?_) h
  have hpass : formed (u.patternPass u.w.ctx (f.x.extractLsb' 6 5).toNat).m.mem := by simpa using hu
  dsimp only
  generalize u.patternPass u.w.ctx (f.x.extractLsb' 6 5).toNat = v at hpass
  split
  · trivial
  · refine Try.formed_ite hpass (Try.formed_ite (by simpa using hpass) ?_)
    have hop : formed (v.startOp f false false).2.m.mem := by simpa using hpass
    split
    · exact State.copyFail_formed hop
    · exact State.copyFail_formed hop
    · exact Try.formed_ite (State.copyFail_formed hop) (by simpa using hop)

theorem execCpym_formed {f : Fields} {s : State} (h : formed s.m.mem) : (execCpym f s).formed := by
  refine run_formed (fun _ u hu => Try.formed_ite trivial (Try.formed_ite trivial ?_)) h
  dsimp only
  split
  · trivial
  · refine Try.formed_ite hu ?_
    rw [Try.formed_ok]
    exact formed_ite (State.copyEnd_formed (by simpa using hu)) (by simpa using hu)

theorem execQclaim_formed {f : Fields} {s : State} (h : formed s.m.mem) : (execQclaim f s).formed := by
  refine run_formed (fun _ u hu => Try.formed_ite trivial (Try.formed_ite trivial ?_)) h
  have hloc := queueAddr_formed (i := .qclaim f) (kind := .atomic) (va := BitVec.ofNat 64 (srcVal u.w.r f 19 f.a 0)) (ok := (· == 1)) hu
  split <;> rename_i heq <;> rw [heq] at hloc
  · trivial
  · exact hloc
  · dsimp only
    rw [Try.formed_ok, State.closeOp_mem]
    exact foldl_formed (fun _ _ hv => by simpa using hv) (formed_of_eq (State.startOp_mem ..) hu)

theorem execQpost_formed {f : Fields} {s : State} (h : formed s.m.mem) : (execQpost f s).formed := by
  refine run_formed (fun _ u hu => Try.formed_ite trivial (Try.formed_ite trivial ?_)) h
  have hloc := queueAddr_formed (i := .qpost f) (kind := .write) (va := BitVec.ofNat 64 (srcVal u.w.r f 19 f.a 0))
    (ok := fun c => decide (c ≤ 1)) hu
  split <;> rename_i heq <;> rw [heq] at hloc
  · trivial
  · exact hloc
  · dsimp only
    rw [Try.formed_ok, State.closeOp_mem]
    refine foldl_formed (fun _ _ hv => ?_) (formed_of_eq (State.startOp_mem ..) hu)
    exact State.issueStore_formed (foldl_formed (fun _ _ => State.issueStore_formed) hv)

theorem execSlotTake_formed {queue : Nat} {s : State} (h : formed s.m.mem) : (execSlotTake queue s).formed := by
  unfold execSlotTake
  split
  · exact h
  · exact formed_ite (State.readSlot_formed h) h

theorem execSlotReread_formed {queue : Nat} {s : State} (h : formed s.m.mem) : (execSlotReread queue s).formed := by
  unfold execSlotReread
  split
  · exact h
  · exact formed_ite (State.readSlot_formed h) h

theorem execQueueAccessRetry_formed {queue : Nat} {s : State} (h : formed s.m.mem) : (execQueueAccessRetry queue s).formed := by
  unfold execQueueAccessRetry
  split
  · exact h
  · split
    · exact h
    · exact formed_ite (State.writeRidx_formed h) (formed_ite (State.readSlot_formed h) h)

theorem execNopPacket_formed {queue slot : Nat} {s : State} (h : formed s.m.mem) : (execNopPacket queue slot s).formed := by
  unfold execNopPacket
  split <;> simpa using h

theorem execWaitPacket_formed {queue slot : Nat} {s : State} (h : formed s.m.mem) : (execWaitPacket queue slot s).formed := by
  unfold execWaitPacket
  split
  · exact h
  · exact State.waitRead_formed (by simpa using h)

theorem execWaitPacketReread_formed {queue slot : Nat} {s : State} (h : formed s.m.mem) : (execWaitPacketReread queue slot s).formed := by
  unfold execWaitPacketReread
  split
  · exact h
  · exact formed_ite (State.waitRead_formed h) h

theorem execSignalPacket_formed {queue slot : Nat} {s : State} (h : formed s.m.mem) : (execSignalPacket queue slot s).formed := by
  unfold execSignalPacket
  split
  · exact h
  · rw [Ans.formed_next, State.packetDone_mem]
    exact State.deviceWrite_formed h

theorem execCopyPacket_formed {queue slot : Nat} {s : State} (h : formed s.m.mem) : (execCopyPacket queue slot s).formed := by
  unfold execCopyPacket
  split
  · exact h
  · dsimp only
    have hst : formed (s.stagePacket queue slot 1).m.mem := by simpa using h
    refine Ans.formed_ite (Ans.formed_ite (State.copyFail_formed hst) ?_) hst
    split
    · exact State.copyFail_formed (by simpa using h)
    · exact State.copyFail_formed (by simpa using h)
    · exact Ans.formed_ite (State.copyFail_formed (by simpa using h)) (by simpa using h)

/-! ### Traps, handlers and power -/

theorem execAllZeroWord_formed {s : State} (h : formed s.m.mem) : (execAllZeroWord s).formed := State.trapWord_formed h

theorem execReservedOp_formed {word : DWord} {s : State} (h : formed s.m.mem) : (execReservedOp word s).formed := State.trapWord_formed h

theorem execTrapRd_formed {f : Fields} {s : State} (h : formed s.m.mem) : (execTrapRd f s).formed := by
  refine run_formed (fun _ u hu => ?_) h
  split
  · trivial
  · simpa using hu

theorem execRteEnd_formed {f : Fields} {s : State} (h : formed s.m.mem) : (execRteEnd f s).formed := by
  refine run_formed (fun _ u hu => ?_) h
  split
  · trivial
  · exact State.killWave_formed hu

theorem execTrapTake_formed {w : Nat} {code : BitVec 16} {addr detail : DWord} {s : State} (h : formed s.m.mem) :
    (execTrapTake w code addr detail s).formed := by
  unfold execTrapTake
  have hsel : formed (s.select w).m.mem := by simpa using h
  refine Ans.formed_ite hsel (Ans.formed_ite ?_ (State.trapBy_formed hsel))
  split
  · exact hsel
  · exact State.takeCancel_formed hsel

theorem execOperationRetire_formed {w flag : Nat} {s : State} (h : formed s.m.mem) : (execOperationRetire w flag s).formed := by
  unfold execOperationRetire
  dsimp only
  repeat' split
  all_goals simp [h]

theorem execEsig_formed {f : Fields} {s : State} (h : formed s.m.mem) : (execEsig f s).formed :=
  run_formed (fun _ _ hu => Try.formed_ite trivial (formed_of_eq (State.longDone_mem ..) (State.record_formed hu))) h

theorem execPmsetBudget_formed {f : Fields} {s : State} (h : formed s.m.mem) : (execPmsetBudget f s).formed := by
  refine run_formed (fun _ _ hu => ?_) h
  dsimp only
  repeat' split
  all_goals simp [hu]

theorem execPmsetRead_formed {f : Fields} {s : State} (h : formed s.m.mem) : (execPmsetRead f s).formed := by
  refine run_formed (fun _ _ hu => ?_) h
  dsimp only
  repeat' split
  all_goals simp [hu]

theorem execBudgetRaise_formed {core : Nat} {budget : BitVec 8} {s : State} (h : formed s.m.mem) : (execBudgetRaise core budget s).formed := by
  simpa [execBudgetRaise] using h

theorem execBudgetLower_formed {core : Nat} {budget : BitVec 8} {s : State} (h : formed s.m.mem) : (execBudgetLower core budget s).formed :=
  Ans.formed_ite (State.failNoWave_formed (by simpa using h)) h

/-! ### Launches, teams and graphs -/

theorem execLaunchPacket_formed {queue slot : Nat} {s : State} (h : formed s.m.mem) : (execLaunchPacket queue slot s).formed := by
  unfold execLaunchPacket
  split
  · exact h
  · exact Ans.formed_ite h (State.beginLaunch_formed (by simpa using h))

theorem execLaunchAdmit_formed {key : LKey} {s : State} (h : formed s.m.mem) : (execLaunchAdmit key s).formed := by
  unfold execLaunchAdmit
  split
  · exact h
  · refine Ans.formed_ite h ?_
    dsimp only
    split <;> rename_i hread <;> have ht := formed_of_pair_mem hread (State.dpRead_mem ..) h
    · exact State.failLaunch_formed ht
    · split
      · exact State.failLaunch_formed ht
      · exact Ans.formed_ite (State.failLaunch_formed ht) (Ans.formed_ite (State.failLaunch_formed ht) (by simpa using ht))

theorem execStartBarrierArrival_formed {key : LKey} {chip : Nat} {stamp : Word} {s : State} (h : formed s.m.mem) :
    (execStartBarrierArrival key chip stamp s).formed := by
  unfold execStartBarrierArrival
  split
  · exact h
  · refine Ans.formed_ite h (Ans.formed_ite (State.failLaunch_formed h) (Ans.formed_ite (by simpa using h) ?_))
    rw [Ans.formed_next, State.startLaunch_mem]
    exact foldl_formed (fun _ _ hu => by simpa using hu) (by simpa using h)

theorem execBarrierTimeout_formed {key : LKey} {s : State} (h : formed s.m.mem) : (execBarrierTimeout key s).formed := by
  unfold execBarrierTimeout
  split
  · exact h
  · exact Ans.formed_ite (State.failLaunch_formed h) h

theorem execTeamAdmission_formed {key : LKey} {core : Nat} {s : State} (h : formed s.m.mem) : (execTeamAdmission key core s).formed := by
  unfold execTeamAdmission
  split
  · exact h
  · refine Ans.formed_ite (formed_ite (by simpa using h) h) (Ans.formed_ite h ?_)
    split
    · exact formed_of_eq (State.admitTo_mem ‹_›) h
    · exact State.noteOverweight_formed h

theorem execCoresidentAdmission_formed {key : LKey} {s : State} (h : formed s.m.mem) : (execCoresidentAdmission key s).formed := by
  unfold execCoresidentAdmission
  split
  · exact h
  · refine Ans.formed_ite h ?_
    split
    · exact formed_of_eq (State.admitAll_mem ‹_›) h
    · exact State.noteOverweight_formed h

theorem execAdmissionWaitExpiry_formed {key : LKey} {s : State} (h : formed s.m.mem) : (execAdmissionWaitExpiry key s).formed := by
  unfold execAdmissionWaitExpiry
  split <;> simpa using h

theorem execTeamRelease_formed {team : Nat} {s : State} (h : formed s.m.mem) : (execTeamRelease team s).formed := by
  unfold execTeamRelease
  split
  · exact h
  · exact Ans.formed_ite h (by simpa using h)

theorem execLaunchRetire_formed {key : LKey} {s : State} (h : formed s.m.mem) : (execLaunchRetire key s).formed := by
  unfold execLaunchRetire
  dsimp only
  repeat' split
  all_goals simp [h]

theorem execRetireReport_formed {key : LKey} {chip : Nat} {s : State} (h : formed s.m.mem) : (execRetireReport key chip s).formed := by
  unfold execRetireReport
  split
  · exact h
  · exact Ans.formed_ite h (Ans.formed_ite (by simpa using h) (State.launchEnds_formed (by simpa using h)))

theorem execGraphPacket_formed {queue slot : Nat} {s : State} (h : formed s.m.mem) : (execGraphPacket queue slot s).formed := by
  have hdone : ∀ (u : State) (ctx : Nat) (code : BitVec 16) (a : DWord) (d : Nat), formed u.m.mem →
      formed ((u.packetRecord ctx code a d).packetDone queue slot false).m.mem :=
    fun u ctx code a d hu => formed_of_eq (State.packetDone_mem ..) (State.packetRecord_formed hu)
  unfold execGraphPacket
  split
  · exact h
  · refine Ans.formed_ite h (Ans.formed_ite (hdone _ _ _ _ _ h) ?_)
    dsimp only
    split
    · exact hdone _ _ _ _ _ (by simpa using h)
    · split
      · exact hdone _ _ _ _ _ (by simpa using h)
      · exact foldl_formed (fun _ _ => State.nodeRetired_formed) (by simpa using h)

theorem execGraphNodeStart_formed {graph node : Nat} {s : State} (h : formed s.m.mem) : (execGraphNodeStart graph node s).formed := by
  unfold execGraphNodeStart
  split
  · exact h
  · split
    · exact h
    · exact Ans.formed_ite h (State.beginLaunch_formed h)

theorem execPacketComplete_formed {queue slot : Nat} {s : State} (h : formed s.m.mem) : (execPacketComplete queue slot s).formed := by
  unfold execPacketComplete
  split
  · exact h
  · rename_i q p _
    refine Ans.formed_ite h ?_
    dsimp only
    have hbump : ∀ key, formed (if p.stage = 2 then s.bump q.ctx 8 key p.compl else s).m.mem := fun key => formed_ite (State.bump_formed h) h
    refine formed_ite ?_ (formed_ite (State.settlePhase_formed ?_) (formed_ite ?_ ?_)) <;> exact hbump _

/-! ### Reduction objects -/

theorem State.partArrives_formed {s : State} {f : Mesh → Bool} {arrive : State → State} (ha : ∀ u, formed u.m.mem → formed (arrive u).m.mem)
    (h : formed s.m.mem) : formed (s.partArrives f arrive).m.mem := by
  unfold State.partArrives
  split
  · split
    · exact ha _ (formed_of_eq (State.fromMesh_mem ‹_›) h)
    · exact h
  · exact ha _ h

theorem execNonhomeArrival_formed {buf : BufRef} {p : Partial} {s : State} (h : formed s.m.mem) : (execNonhomeArrival buf p s).formed :=
  State.partArrives_formed (fun _ hu => by simpa using hu) h

theorem execHoldTimeExpiry_formed {buf : BufRef} {p : Partial} {s : State} (h : formed s.m.mem) : (execHoldTimeExpiry buf p s).formed := by
  unfold execHoldTimeExpiry
  split
  · exact h
  · exact Ans.formed_ite h (by simpa using h)

theorem execHomePartialArrival_formed {slice : Nat} {p : Partial} {s : State} (h : formed s.m.mem) : (execHomePartialArrival slice p s).formed :=
  State.partArrives_formed (fun _ => State.homeArrive_formed) h

theorem execCloseArrival_formed {slice ctx idx oseq : Nat} {s : State} (h : formed s.m.mem) : (execCloseArrival slice ctx idx oseq s).formed := by
  unfold execCloseArrival
  dsimp only
  split
  · exact formed_of_eq (State.closeDone_mem ..) (State.closeArrive_formed (formed_of_eq (State.fromMesh_mem ‹_›) h))
  · have ht := formed_of_eq (State.fromMesh_mem ‹_›) h
    simpa using ht
  · exact formed_ite (State.closeArrive_formed h) h

theorem execRclose_formed {f : Fields} {s : State} (h : formed s.m.mem) : (execRclose f s).formed := by
  refine run_formed (fun _ _ hu => ?_) h
  dsimp only
  repeat' split
  all_goals simp [hu]

theorem execRopen_formed {f : Fields} {s : State} (h : formed s.m.mem) : (execRopen f s).formed := by
  have hresolve := State.engResolve_mem
  have hrange := State.rangeHome_mem
  have hclear := @State.clearSpill_formed
  have hfail : ∀ (v : State) (w op : Nat) (x : Failure), formed v.m.mem → formed ((v.opFail w op x).finishOp w op [] 0 none).m.mem :=
    fun v w op x hv => formed_of_eq (State.finishOp_mem ..) (State.opFail_formed hv)
  rw [execRopen]
  obtain ⟨resolve, h1⟩ : ∃ f, f = State.engResolve := ⟨_, rfl⟩
  obtain ⟨range, h2⟩ : ∃ f, f = State.rangeHome := ⟨_, rfl⟩
  obtain ⟨clear, h3⟩ : ∃ f, f = State.clearSpill := ⟨_, rfl⟩
  obtain ⟨bad, h4⟩ : ∃ f, f = RDesc.bad := ⟨_, rfl⟩
  rw [← h1] at hresolve ⊢
  rw [← h2] at hrange ⊢
  rw [← h3] at hclear ⊢
  rw [← h4]
  refine run_formed (fun _ u hu => ?_) h
  refine Try.formed_ite trivial (Try.formed_ite trivial (Try.formed_ite trivial (Try.formed_ite hu ?_)))
  have hop : formed (u.startOp f false false).2.m.mem := by simpa using hu
  dsimp only
  generalize (u.startOp f false false).2 = v at hop
  split <;> rename_i hres <;> have ht := formed_of_pair_mem hres (hresolve ..) hop
  · exact hfail _ _ _ _ (by simpa using ht)
  · split
    · exact hfail _ _ _ _ (by simpa using ht)
    · split <;> rename_i hhome <;> have hh := formed_of_pair_mem hhome (hrange ..) (by simpa using ht)
      · exact hfail _ _ _ _ hh
      · refine Try.formed_ite ?_ (by simpa using hh)
        split
        · exact hfail _ _ _ _ hh
        · have hc := hclear ‹_› hh
          simpa using hc

/-! ### Collectives -/

theorem execCollAbort_formed {ctx comm : Nat} {inst : Word} {code : Nat} {s : State} (h : formed s.m.mem) :
    (execCollAbort ctx comm inst code s).formed := State.abortHere_formed h

theorem execCollStartMessage_formed {ctx comm : Nat} {inst : Word} {src : Nat} {g : CollDigest} {s : State} (h : formed s.m.mem) :
    (execCollStartMessage ctx comm inst src g s).formed := by
  unfold execCollStartMessage
  have hmap : ∀ k, formed (s.mapColl ctx comm inst k).m.mem := fun k => by simpa using h
  dsimp only
  split
  · exact hmap _
  · exact Ans.formed_ite (State.abortColl_formed (hmap _)) (hmap _)

theorem execNimbusChunk_formed {ctx comm : Nat} {inst : Word} {s : State} (h : formed s.m.mem) : (execNimbusChunk ctx comm inst s).formed := by
  have hserve : formed (s.serveColl ctx comm).m.mem := by simpa using h
  unfold execNimbusChunk
  split
  · split
    · exact h
    · split
      · exact h
      · exact State.collEnd_formed hserve
      · exact State.collSend_formed hserve
      · exact State.collWrite_formed hserve
  · exact h

theorem execColl_formed {f : Fields} {s : State} (h : formed s.m.mem) : (execColl f s).formed := by
  refine run_formed (fun _ u hu => ?_) h
  dsimp only
  split
  · trivial
  · exact Try.formed_ite trivial (Try.formed_ite trivial (Try.formed_ite hu (State.startColl_formed (by simpa using hu))))

theorem execCollx_formed {f : Fields} {s : State} (h : formed s.m.mem) : (execCollx f s).formed := by
  refine run_formed (fun _ u hu => ?_) h
  have hdone : ∀ (v : State) (n : Nat), formed v.m.mem → formed (v.longDone f (dstWr 18 f.d 0 n) 0).m.mem := fun v n hv => by simpa using hv
  dsimp only
  split
  · trivial
  · refine Try.formed_ite (hdone _ _ (by simpa using hu)) (Try.formed_ite (hdone _ _ hu) ?_)
    split
    · exact hdone _ _ hu
    · split
      · exact hdone _ _ (State.abortColl_formed hu)
      · exact hdone _ _ hu
      · exact hdone _ _ hu

theorem execCollPacket_formed {queue slot : Nat} {s : State} (h : formed s.m.mem) : (execCollPacket queue slot s).formed := by
  unfold execCollPacket
  split
  · exact h
  · have hst : formed (s.stagePacket queue slot 1).m.mem := by simpa using h
    have hfail : ∀ r, formed (((s.stagePacket queue slot 1).failNoWave r none).packetDone queue slot false).m.mem :=
      fun r => formed_of_eq (State.packetDone_mem ..) (State.failNoWave_formed hst)
    dsimp only
    split
    · exact hfail _
    · exact Ans.formed_ite (hfail _) (Ans.formed_ite (hfail _) (State.startColl_formed (by simpa using hst)))

/-! ### The matrix engine -/

theorem execMzero_formed {f : Fields} {s : State} (h : formed s.m.mem) : (execMzero f s).formed := by
  refine run_formed (fun _ u hu => ?_) h
  dsimp only
  split
  · trivial
  · refine Try.formed_ite trivial (Try.formed_ite hu (State.queueEngine_formed (formed_ite hu ?_)))
    simpa using hu

theorem execMfmt_formed {f : Fields} {s : State} (h : formed s.m.mem) : (execMfmt f s).formed := by
  refine run_formed (fun _ u hu => ?_) h
  split
  · trivial
  · exact State.queueEngine_formed hu

theorem execMrdy_formed {f : Fields} {s : State} (h : formed s.m.mem) : (execMrdy f s).formed := by
  refine run_formed (fun _ _ hu => ?_) h
  dsimp only
  repeat' split
  all_goals simp [hu]

theorem execMbank_formed {f : Fields} {s : State} (h : formed s.m.mem) : (execMbank f s).formed := by
  refine run_formed (fun _ u hu => ?_) h
  dsimp only
  split
  · trivial
  · exact hu
  · exact Try.formed_ite trivial (Try.formed_ite trivial (State.queueEngine_formed hu))

theorem execMloop_formed {f : Fields} {s : State} (h : formed s.m.mem) : (execMloop f s).formed := by
  refine run_formed (fun _ u hu => Try.formed_ite trivial ?_) h
  split
  · trivial
  · exact hu
  · refine Try.formed_ite trivial (Try.formed_ite trivial (Try.formed_ite trivial (Try.formed_ite trivial (Try.formed_ite trivial
      (Try.formed_ite trivial (Try.formed_ite (Try.formed_ite hu ?_) (State.queueEngine_formed hu)))))))
    simpa using hu

theorem execMdrn_formed {f : Fields} {s : State} (h : formed s.m.mem) : (execMdrn f s).formed := by
  refine run_formed (fun _ u hu => ?_) h
  dsimp only
  split
  · trivial
  · exact hu
  · exact Try.formed_ite trivial (Try.formed_ite trivial (State.queueEngine_formed hu))

theorem execMdrnn_formed {f : Fields} {s : State} (h : formed s.m.mem) : (execMdrnn f s).formed := by
  refine run_formed (fun _ u hu => ?_) h
  dsimp only
  split
  · trivial
  · exact hu
  · exact Try.formed_ite trivial (State.queueEngine_formed hu)

theorem execClaimGrant_formed {core : Nat} {s : State} (h : formed s.m.mem) : (execClaimGrant core s).formed := by
  unfold execClaimGrant
  dsimp only
  repeat' split
  all_goals simp [h]

theorem execMloopStep_formed {core : Nat} {s : State} (h : formed s.m.mem) : (execMloopStep core s).formed := by
  unfold execMloopStep
  dsimp only
  refine Ans.formed_ite h ?_
  split
  · exact h
  · split
    · exact h
    · split
      · simpa using h
      · simpa using h
      · rw [Ans.formed_next, State.engineDone_mem, State.putEngine_mem]
        exact State.bankLoad_formed h
      · have hstep : ∀ (u : State), formed u.m.mem → ∀ team row col aty ops, formed (u.loopStep core team row col aty ops).m.mem :=
          fun u hu _ _ _ _ _ => State.loopStep_formed hu
        refine Ans.formed_ite ?_ ?_
        · rw [Ans.formed_next, State.engineDone_mem]
          exact hstep _ (formed_ite (by simpa using h) (State.bankLoad_formed h)) ..
        · rw [Ans.formed_next, State.putEngine_mem]
          exact hstep _ (formed_ite (by simpa using h) (State.bankLoad_formed h)) ..
      · simpa using h
      · exact State.drainNodes_formed h

theorem execAread_formed {f : Fields} {s : State} (h : formed s.m.mem) : (execAread f s).formed := by
  refine run_formed (fun _ _ hu => ?_) h
  dsimp only
  repeat' split
  all_goals simp [hu]

theorem execAwrite_formed {f : Fields} {s : State} (h : formed s.m.mem) : (execAwrite f s).formed := by
  refine run_formed (fun _ _ hu => ?_) h
  dsimp only
  repeat' split
  all_goals simp [hu]

theorem execGbind_formed {f : Fields} {s : State} (h : formed s.m.mem) : (execGbind f s).formed := by
  refine run_formed (fun _ _ hu => ?_) h
  dsimp only
  repeat' split
  all_goals simp [hu]

/-! ### Grids -/

theorem execGbindUnbind_formed {f : Fields} {s : State} (h : formed s.m.mem) : (execGbindUnbind f s).formed :=
  run_formed (fun _ _ hu => Try.formed_ite hu (by simpa using hu)) h

theorem execGld_formed {f : Fields} {s : State} (h : formed s.m.mem) : (execGld f s).formed :=
  run_formed (fun _ _ hu => gridTake_formed (fun _ => by simpa using hu) hu) h

theorem execGsc_formed {f : Fields} {s : State} (h : formed s.m.mem) : (execGsc f s).formed :=
  run_formed (fun _ _ hu => gridTake_formed (fun _ => Try.formed_ite trivial (Try.formed_ite (by simpa using hu) trivial)) hu) h

theorem execGhash_formed {f : Fields} {s : State} (h : formed s.m.mem) : (execGhash f s).formed :=
  run_formed (fun _ _ hu => gridTake_formed (fun _ => formed_of_eq (State.longDone_mem ..) hu) hu) h

theorem execLatticeGroupLevel_formed {id : Nat} {s : State} (h : formed s.m.mem) : (execLatticeGroupLevel id s).formed := by
  unfold execLatticeGroupLevel
  split
  · exact h
  · exact formed_ite h (State.latStep_formed h)

/-! ### Fences and barriers -/

theorem execFence_formed {f : Fields} {s : State} (h : formed s.m.mem) : (execFence f s).formed := by
  refine run_formed (fun _ _ hu => ?_) h
  dsimp only
  repeat' split
  all_goals simp [hu]

theorem execBarw_formed {f : Fields} {s : State} (h : formed s.m.mem) : (execBarw f s).formed := by
  refine run_formed (fun _ u hu => ?_) h
  dsimp only
  split
  · trivial
  · exact Try.formed_ite (State.barWord_formed hu) (by simpa using hu)

theorem execBarrierWordReread_formed {w : Nat} {s : State} (h : formed s.m.mem) : (execBarrierWordReread w s).formed := by
  unfold execBarrierWordReread
  have hsel : formed (s.select w).m.mem := by simpa using h
  obtain ⟨fault, hf⟩ : ∃ f, f = accessFault := ⟨_, rfl⟩
  rw [← hf]
  dsimp only
  refine Ans.formed_ite hsel ?_
  split
  · have hfail : ∀ (u : State) (op : Nat) (x : Failure), formed u.m.mem →
        formed (((u.opFail w op x).finishOp w op [] 0 none).withW fun w => { w with status := .run }).m.mem :=
      fun u op x hu => formed_of_eq (State.finishOp_mem ..) (State.opFail_formed hu)
    refine Ans.formed_ite hsel ?_
    split <;> rename_i heq <;> have ht := formed_of_pair_mem heq (State.engXlate_mem ..) hsel
    · exact ht
    · exact hfail _ _ _ ht
    · split
      · exact hfail _ _ _ ht
      · simpa using ht
  · exact hsel

/-! ### Saving and restoring -/

theorem State.imageAt_wait_formed {s t : State} {kind : Kind} {va : DWord} (hx : s.imageAt kind va = .wait t) (h : formed s.m.mem) :
    formed t.m.mem := by
  unfold State.imageAt at hx
  split at hx
  · split at hx <;> cases hx
  · exact xlateLanes_wait_formed hx h

theorem execCsave_formed {f : Fields} {s : State} (h : formed s.m.mem) : (execCsave f s).formed := by
  have hwrite := @State.writeImage_formed
  rw [execCsave]
  obtain ⟨write, hw⟩ : ∃ f, f = State.writeImage := ⟨_, rfl⟩
  rw [← hw] at hwrite ⊢
  refine run_formed (fun _ u hu => ?_) h
  dsimp only
  split
  · trivial
  · refine Try.formed_ite trivial ?_
    split
    · trivial
    · exact State.imageAt_wait_formed ‹_› hu
    · refine Try.formed_ite hu ?_
      rw [Try.formed_ok, State.finishOp_mem]
      refine formed_ite (formed_of_eq (State.unseat_mem ..) ?_) ?_ <;> exact hwrite (by simpa using hu)

theorem execCrest_formed {f : Fields} {s : State} (h : formed s.m.mem) : (execCrest f s).formed := by
  have hresolve := State.engResolve_mem
  rw [execCrest]
  obtain ⟨resolve, h1⟩ : ∃ f, f = State.engResolve := ⟨_, rfl⟩
  obtain ⟨ok, h2⟩ : ∃ f, f = headerOk := ⟨_, rfl⟩
  rw [← h1] at hresolve ⊢
  rw [← h2]
  refine run_formed (fun _ u hu => Try.formed_ite trivial ?_) h
  split
  · trivial
  · exact State.imageAt_wait_formed ‹_› hu
  · have hop : formed (u.startOp f false false).2.m.mem := by simpa using hu
    have hfail : ∀ (v : State) (op : Nat) (x : Failure), formed v.m.mem →
        formed (((v.dropPins 0 []).opFail u.w.uid op x).finishOp u.w.uid op [] 0 none).m.mem :=
      fun v op x hv => formed_of_eq (State.finishOp_mem ..) (State.opFail_formed (by simpa using hv))
    dsimp only
    generalize (u.startOp f false false).2 = v at hop
    split <;> rename_i hhead <;> have ht := formed_of_pair_mem hhead (hresolve ..) hop
    · exact hfail _ _ _ ht
    · refine Try.formed_ite (hfail _ _ _ (by simpa using ht)) ?_
      split <;> rename_i hbody <;> have hb := formed_of_pair_mem hbody (hresolve ..) (by simpa using ht)
      · exact hfail _ _ _ hb
      · split
        · exact hfail _ _ _ (by simpa using hb)
        · split
          · exact hfail _ _ _ (by simpa using hb)
          · rw [Try.formed_ok, State.finishOp_mem]
            exact State.crestTeam_formed (by simpa using hb)

theorem execSaveMicrocode_formed {ctx : Nat} {s : State} (h : formed s.m.mem) : (execSaveMicrocode ctx s).formed := by
  unfold execSaveMicrocode
  split
  · exact h
  · exact formed_ite (State.saveCtx_formed h) h

theorem execRestoreBarrier_formed {ctx chip : Nat} {stamp : Word} {s : State} (h : formed s.m.mem) :
    (execRestoreBarrier ctx chip stamp s).formed := by
  simpa [execRestoreBarrier] using h

/-! ### The mailbox, resets and the window -/

theorem State.mbRun_formed {s : State} {cmd : Nat} {masks : List Nat} {body : State → State}
    (hb : ∀ u, formed u.m.mem → formed (body u).m.mem) (h : formed s.m.mem) : (s.mbRun cmd masks body).formed :=
  Ans.formed_ite h (Ans.formed_ite h (hb s h))

theorem execCtxCreate_formed {s : State} (h : formed s.m.mem) : (execCtxCreate s).formed := by
  rw [execCtxCreate]
  obtain ⟨read, hr⟩ : ∃ f, f = State.readCtx := ⟨_, rfl⟩
  rw [← hr]
  refine State.mbRun_formed (fun u hu => ?_) h
  split
  · exact hu
  · exact hu

theorem execJobCommandForward_formed {cmd : Nat} {args : List DWord} {s : State} (h : formed s.m.mem) :
    (execJobCommandForward cmd args s).formed := by
  unfold execJobCommandForward
  refine Ans.formed_ite (Ans.formed_ite (by simpa using h) (Ans.formed_ite h ?_)) (State.applyJob_formed h)
  exact State.applyJob_formed (foldl_formed (fun _ _ hu => by simpa using hu) h)

theorem execJobCommandReport_formed {ctx chip : Nat} {s : State} (h : formed s.m.mem) : (execJobCommandReport ctx chip s).formed := by
  unfold execJobCommandReport
  dsimp only
  repeat' split
  all_goals simp [h]

theorem execCtxDestroy_formed {s : State} (h : formed s.m.mem) : (execCtxDestroy s).formed :=
  State.mbRun_formed (fun _ hu => formed_ite hu (State.startJob_formed hu)) h

theorem execPreempt_formed {s : State} (h : formed s.m.mem) : (execPreempt s).formed := by
  refine State.mbRun_formed (fun u hu => ?_) h
  split
  · exact hu
  · exact formed_ite hu (State.startJob_formed hu)

theorem execRestore_formed {s : State} (h : formed s.m.mem) : (execRestore s).formed := by
  refine State.mbRun_formed (fun u hu => ?_) h
  split
  · exact hu
  · exact formed_ite hu (State.startJob_formed hu)

theorem execCancel_formed {s : State} (h : formed s.m.mem) : (execCancel s).formed := by
  refine State.mbRun_formed (fun u hu => formed_ite hu ?_) h
  split
  · exact hu
  · exact hu
  · exact State.startJob_formed hu

theorem execResume_formed {s : State} (h : formed s.m.mem) : (execResume s).formed := by
  refine State.mbRun_formed (fun u hu => ?_) h
  dsimp only
  split
  · exact hu
  · exact formed_ite hu (State.resumeWave_formed hu)

theorem execPowerOnReset_formed {s : State} : (execPowerOnReset s).formed := State.reset_wf

theorem execHotReset_formed {s : State} (h : formed s.m.mem) : (execHotReset s).formed := State.resetPackage_formed h

theorem execWatchdog_formed {s : State} (h : formed s.m.mem) : (execWatchdog s).formed := State.resetPackage_formed h

theorem execManagementReset_formed {s : State} (h : formed s.m.mem) : (execManagementReset s).formed := State.resetPackage_formed h

theorem execThermalTrip_formed {s : State} (h : formed s.m.mem) : (execThermalTrip s).formed :=
  State.resetPackage_formed (State.failNoWave_formed h)

theorem execPowerStageFault_formed {s : State} (h : formed s.m.mem) : (execPowerStageFault s).formed :=
  State.resetPackage_formed (State.failNoWave_formed h)

theorem execFlr_formed {s : State} (h : formed s.m.mem) : (execFlr s).formed := foldl_formed (fun _ _ => State.destroyCtx_formed) h

theorem execHostLinkTraining_formed {lanes rate : Nat} {s : State} (h : formed s.m.mem) : (execHostLinkTraining lanes rate s).formed := by
  simpa [execHostLinkTraining] using h

theorem execQueueReg_formed {s : State} (h : formed s.m.mem) : (execQueueReg s).formed := by
  refine State.mbRun_formed (fun u hu => ?_) h
  dsimp only
  refine formed_ite hu ?_
  split
  · exact hu
  · split
    · refine formed_ite (by simpa using hu) ?_
      split <;> rename_i heq <;> have ht := formed_of_pair_mem heq (State.dpNum_mem ..) (by simpa using hu) <;> exact ht
    · simpa using hu

theorem execQueueUnreg_formed {s : State} (h : formed s.m.mem) : (execQueueUnreg s).formed := by
  refine State.mbRun_formed (fun u hu => ?_) h
  split
  · exact hu
  · dsimp only
    rw [State.mapQueue_m]
    exact foldl_formed (fun v p hv => formed_of_eq (State.breakPhase_mem ..) hv) hu

theorem execQueueUnregComplete_formed {queue : Nat} {s : State} (h : formed s.m.mem) : (execQueueUnregComplete queue s).formed := by
  unfold execQueueUnregComplete
  split
  · exact h
  · exact Ans.formed_ite h h

theorem execKeyLoad_formed {s : State} (h : formed s.m.mem) : (execKeyLoad s).formed :=
  State.mbRun_formed (fun _ hu => formed_ite hu (formed_ite hu (formed_of_eq (State.gainKey_mem ..) hu))) h

theorem execKeyRetire_formed {s : State} (h : formed s.m.mem) : (execKeyRetire s).formed :=
  State.mbRun_formed (fun _ hu => formed_ite hu (formed_ite hu (formed_of_eq (State.loseKey_mem ..) (State.discardLines_wf hu)))) h

theorem execHdmBind_formed {s : State} (h : formed s.m.mem) : (execHdmBind s).formed := State.mbRun_formed (fun _ hu => hu) h

theorem execRouteSet_formed {s : State} (h : formed s.m.mem) : (execRouteSet s).formed :=
  State.mbRun_formed (fun _ hu => formed_ite hu hu) h

theorem execCommSet_formed {s : State} (h : formed s.m.mem) : (execCommSet s).formed := by
  refine State.mbRun_formed (fun u hu => formed_ite hu (formed_ite hu ?_)) h
  dsimp only
  split <;> rename_i heq <;> have ht := formed_of_pair_mem heq (State.dpRead_mem ..) hu
  · exact ht
  · refine formed_ite ht ?_
    rw [State.mbDone_mem]
    exact State.putComm_formed ht

theorem execBartmoSet_formed {s : State} (h : formed s.m.mem) : (execBartmoSet s).formed :=
  State.mbRun_formed (fun _ hu => formed_ite hu hu) h

theorem execRingPlace_formed {s : State} (h : formed s.m.mem) : (execRingPlace s).formed := by
  refine State.mbRun_formed (fun u hu => formed_ite hu ?_) h
  refine formed_ite ?_ (State.sysPut_formed ?_) <;> exact foldl_formed (fun _ _ => State.copyRecord_formed) hu

theorem execDumpRead_formed {s : State} (h : formed s.m.mem) : (execDumpRead s).formed :=
  State.mbRun_formed (fun _ hu => formed_ite hu (formed_of_eq (State.sysPass_mem ..) hu)) h

theorem execFwUpdate_formed {s : State} (h : formed s.m.mem) : (execFwUpdate s).formed :=
  State.mbRun_formed (fun _ hu => formed_ite hu (formed_ite (State.failNoWave_formed hu) (State.resetPackage_formed hu))) h

theorem execManifestSelect_formed {s : State} (h : formed s.m.mem) : (execManifestSelect s).formed :=
  State.mbRun_formed (fun _ hu => formed_ite hu hu) h

theorem execMmioWrite_formed {addr size : Nat} {val : DWord} {s : State} (h : formed s.m.mem) : (execMmioWrite addr size val s).formed :=
  Ans.formed_ite (formed_ite (State.mmioPut_formed (State.mmioPut_formed h)) (State.mmioPut_formed h)) h

theorem execL2tenmaskWrite_formed {slice : Nat} {mask1 mask0 : BitVec 16} {s : State} (h : formed s.m.mem) :
    (execL2tenmaskWrite slice mask1 mask0 s).formed := by
  simpa [execL2tenmaskWrite] using h

theorem execPairlimWrite_formed {slice : Nat} {lim : BitVec 7} {s : State} (h : formed s.m.mem) : (execPairlimWrite slice lim s).formed := by
  simpa [execPairlimWrite] using h

theorem execCpairctlBypassWrite_formed {core : Nat} {bypass : Bool} {s : State} (h : formed s.m.mem) :
    (execCpairctlBypassWrite core bypass s).formed := by
  simpa [execCpairctlBypassWrite] using h

theorem execPortBypassWrite_formed {port : Nat} {bypass : Bool} {s : State} (h : formed s.m.mem) : (execPortBypassWrite port bypass s).formed := by
  simpa [execPortBypassWrite] using h

theorem execPortEnableWrite_formed {port : Nat} {enable : Bool} {s : State} (h : formed s.m.mem) : (execPortEnableWrite port enable s).formed :=
  State.putEnable_formed h

theorem execCpwrctlBudgetWrite_formed {core : Nat} {budget : BitVec 8} {s : State} (h : formed s.m.mem) :
    (execCpwrctlBudgetWrite core budget s).formed := by
  simpa [execCpwrctlBudgetWrite] using h

theorem execI3cAccess_formed {reg : Nat} {write : Option Word} {s : State} (h : formed s.m.mem) : (execI3cAccess reg write s).formed := by
  unfold execI3cAccess
  dsimp only
  repeat' split
  all_goals simp [h]

/-! ### Messages and links -/

theorem Ans.state_formed {s : State} {a : Ans} (ha : a.formed) (h : Machine.formed s.m.mem) : Machine.formed (Ans.state s a).m.mem := by
  cases a with
  | next t => exact ha
  | fault => exact h
  | refused => exact h

theorem State.deliver_formed {s : State} {buf : Option Nat} {m : Msg} (h : formed s.m.mem) : formed (s.deliver buf m).m.mem := by
  unfold State.deliver
  split
  · split <;> simpa using h
  · split <;> simpa using h
  · simpa using h
  · exact State.abortObj_formed h
  · exact Ans.state_formed (execPeerRequestArrival_formed h) h
  · exact State.peerReply_formed h
  · exact Ans.state_formed (execVoteArrival_formed h) h
  · exact Ans.state_formed (execJoinArrival_formed h) h
  · simpa using h
  · exact Ans.state_formed (execLeaveArrival_formed h) h
  · simpa using h
  · simpa using h
  · exact State.launchCopy_formed h
  · exact Ans.state_formed (execStartBarrierArrival_formed h) h
  · simpa using h
  · exact State.failLaunch_formed h
  · exact Ans.state_formed (execRetireReport_formed h) h
  · exact Ans.state_formed (execScFenceMessage_formed h) h
  · split
    · simpa using h
    · exact h
  · simpa using h
  · simpa using h
  · exact Ans.state_formed (execJobCommandForward_formed h) h
  · exact Ans.state_formed (execJobCommandReport_formed h) h
  · exact State.jobEnds_formed h
  · exact Ans.state_formed (execRestoreBarrier_formed h) h
  · exact Ans.state_formed (execCollStartMessage_formed h) h
  · simpa using h
  · exact Ans.state_formed (execCollAbort_formed h) h

theorem execFlitReceive_formed {port lane : Nat} {crcOk : Bool} {dst : Nat} {m : Msg} {s : State} (h : formed s.m.mem) :
    (execFlitReceive port lane crcOk dst m s).formed := by
  unfold execFlitReceive
  split
  · split
    · exact formed_ite (State.deliver_formed h) h
    · exact h
  · exact Ans.formed_ite h (Ans.formed_ite h (formed_ite (State.deliver_formed h) (by simpa using h)))

theorem execPortDown_formed {port : Nat} {s : State} (h : formed s.m.mem) : (execPortDown port s).formed :=
  Ans.formed_ite (State.portLost_formed (State.failNoWave_formed h)) h

theorem execLaneRetrain_formed {port : Nat} {s : State} (h : formed s.m.mem) : (execLaneRetrain port s).formed := by
  unfold execLaneRetrain
  refine Ans.formed_ite h ?_
  split
  · exact h
  · exact Ans.formed_ite (execPortDown_formed h) (State.failNoWave_formed h)

theorem execFedeuxPortUp_formed {port lanes peer : Nat} {s : State} (h : formed s.m.mem) : (execFedeuxPortUp port lanes peer s).formed := by
  unfold execFedeuxPortUp
  split <;> simpa using h

theorem execLsclSet_formed {f : Fields} {s : State} (h : formed s.m.mem) : (execLsclSet f s).formed := by
  refine run_formed (fun _ _ hu => ?_) h
  dsimp only
  repeat' split
  all_goals simp [hu]

theorem execGetCertificate_formed {offset size : Nat} {s : State} (h : formed s.m.mem) : (execGetCertificate offset size s).formed := by
  simpa [execGetCertificate] using h

theorem execGetMeasurements_formed {index : Nat} {nonce : BitVec 256} {s : State} (h : formed s.m.mem) :
    (execGetMeasurements index nonce s).formed := by
  unfold execGetMeasurements
  refine Ans.formed_ite (by simpa using h) (Ans.formed_ite (by simpa using h) ?_)
  split <;> simpa using h

/-! ### All of them -/

/-- Each instruction and event keeps memory in its form. -/
theorem exec_formed {i : Instr} {s : State} (h : formed s.m.mem) : Ans.formed (exec i s) :=
  match i with
  | .nop _ => run_formed (fun _ _ hu => by simpa using hu) h
  | .endWave _ => execEndWave_formed h
  | .br _ => runCtl_formed (fun _ _ hu => by simpa using hu) h
  | .bc _ => execBc_formed h
  | .bu _ => runCtl_formed (fun _ _ hu => by simpa using hu) h
  | .call _ => runCtl_formed (fun _ _ hu => by simpa using hu) h
  | .ret _ => execRet_formed h
  | .jtab _ => execJtab_formed h
  | .loop _ => execLoop_formed h
  | .loopEndAction _ _ => execLoopEndAction_formed h
  | .brk _ => execBrk_formed h
  | .full _ => execFull_formed h
  | .endfull _ => execEndfull_formed h
  | .armJoin _ => execArmJoin_formed h
  | .divergencePop _ => execDivergencePop_formed h
  | .yield _ => run_formed (fun _ _ hu => by simpa using hu) h
  | .yieldExpiry _ => execYieldExpiry_formed h
  | .cbr _ => execCbr_formed h
  | .cmjoin _ => execCmjoin_formed h
  | .cmleave _ => execCmleave_formed h
  | .trap _ => run_formed (fun _ _ _ => trivial) h
  | .trapRd _ => execTrapRd_formed h
  | .rteRetry _ => run_formed rteEff_formed h
  | .rteSkip _ => run_formed rteEff_formed h
  | .rteEnd _ => execRteEnd_formed h
  | .rteTo _ => run_formed rteEff_formed h
  | .bkpt _ => run_formed (fun _ _ _ => trivial) h
  | .halt _ => run_formed (fun _ _ hu => by simpa using hu) h
  | .sget _ => run_formed (fun _ _ hu => by simpa using hu) h
  | .sset _ => run_formed (fun _ _ hu => by simpa using hu) h
  | .waitFlag _ => execWaitFlag_formed h
  | .add _ => run_formed tyEff_formed h
  | .sub _ => run_formed tyEff_formed h
  | .mul _ => run_formed tyEff_formed h
  | .mulhi _ => run_formed tyEff_formed h
  | .mad _ => run_formed tyEff_formed h
  | .min _ => run_formed tyEff_formed h
  | .max _ => run_formed tyEff_formed h
  | .abs _ => run_formed tyEff_formed h
  | .andB _ => run_formed tyEff_formed h
  | .orB _ => run_formed tyEff_formed h
  | .xorB _ => run_formed tyEff_formed h
  | .notB _ => run_formed tyEff_formed h
  | .shl _ => run_formed shiftEff_formed h
  | .shr _ => run_formed shiftEff_formed h
  | .sra _ => run_formed shiftEff_formed h
  | .rot _ => run_formed shiftEff_formed h
  | .clz _ => run_formed tyEff_formed h
  | .popc _ => run_formed tyEff_formed h
  | .brev _ => run_formed tyEff_formed h
  | .bfe _ => run_formed shiftEff_formed h
  | .bfi _ => run_formed (fun _ _ hu => by simpa using hu) h
  | .sel _ => run_formed (fun _ _ hu => by simpa using hu) h
  | .cmp _ => run_formed (fun _ _ hu => by simpa using hu) h
  | .mov _ => run_formed (fun _ _ hu => by simpa using hu) h
  | .movi _ => run_formed (fun _ _ hu => by simpa using hu) h
  | .lea _ => run_formed (fun _ _ hu => by simpa using hu) h
  | .addw _ => run_formed (fun _ _ hu => by simpa using hu) h
  | .fadd _ => run_formed fpShort_formed h
  | .fsub _ => run_formed fpShort_formed h
  | .fmul _ => run_formed fpShort_formed h
  | .ffma _ => run_formed fpShort_formed h
  | .fmin _ => run_formed fpShort_formed h
  | .fmax _ => run_formed fpShort_formed h
  | .fcmp _ => run_formed (fun _ _ hu => by simpa using hu) h
  | .fclass _ => run_formed (fun _ _ hu => by simpa using hu) h
  | .frnd _ => run_formed fpShort_formed h
  | .fdiv _ => run_formed fpLong_formed h
  | .fsqrt _ => run_formed fpLong_formed h
  | .frcp _ => run_formed fpLong_formed h
  | .frsq _ => run_formed fpLong_formed h
  | .fexp2 _ => run_formed fpLong_formed h
  | .flog2 _ => run_formed fpLong_formed h
  | .fsin _ => run_formed fpLong_formed h
  | .fcos _ => run_formed fpLong_formed h
  | .cvt _ => run_formed (fun _ _ hu => by simpa using hu) h
  | .fscl _ => run_formed (fun _ _ hu => by simpa using hu) h
  | .vopt _ => execVopt_formed h
  | .rngDraw _ => run_formed (fun _ _ hu => by simpa using hu) h
  | .rngSetc _ => run_formed (fun _ _ hu => by simpa using hu) h
  | .rngGetc _ => run_formed (fun _ _ hu => by simpa using hu) h
  | .vote _ => runOnce_formed (fun _ _ hu => by simpa using hu) h
  | .shfl _ => execShfl_formed h
  | .wred _ => runOnce_formed (fun _ _ hu => by simpa using hu) h
  | .pset _ => run_formed (fun _ _ hu => by simpa using hu) h
  | .pop _ => run_formed (fun _ _ hu => by simpa using hu) h
  | .lsclStep _ => run_formed (fun _ _ hu => by simpa using hu) h
  | .lsclGet _ => run_formed (fun _ _ hu => by simpa using hu) h
  | .lsclSet _ => execLsclSet_formed h
  | .lsclRdst _ => run_formed (fun _ _ hu => by simpa using hu) h
  | .lsclClrst _ => run_formed (fun _ _ hu => by simpa using hu) h
  | .lsclMode _ => run_formed (fun _ _ hu => by simpa using hu) h
  | .ld _ => run_formed loadEff_formed h
  | .st _ => run_formed storeEff_formed h
  | .ldsp _ => run_formed loadEff_formed h
  | .stsp _ => run_formed storeEff_formed h
  | .ldlit _ => execLdlit_formed h
  | .atom _ => run_formed atomEff_formed h
  | .atomr _ => run_formed atomEff_formed h
  | .red _ => run_formed atomEff_formed h
  | .spatom _ => execSpatom_formed h
  | .pf _ => execPf_formed h
  | .cinv _ => run_formed (fun _ _ hu => by simpa using hu) h
  | .cinvSector _ => execCinvSector_formed h
  | .cwb _ => run_formed cwbEff_formed h
  | .cwbInv _ => run_formed cwbEff_formed h
  | .cwbCtx _ => run_formed (fun _ _ hu => by simpa using hu) h
  | .fence _ => execFence_formed h
  | .bar _ => run_formed arriveEff_formed h
  | .bara _ => run_formed arriveEff_formed h
  | .barw _ => execBarw_formed h
  | .barrierWordReread _ => execBarrierWordReread_formed h
  | .cinit _ => run_formed objEff_formed h
  | .carr _ => run_formed objEff_formed h
  | .cexp _ => run_formed objEff_formed h
  | .cwait _ => run_formed objEff_formed h
  | .ctest _ => run_formed objEff_formed h
  | .cpy _ => execCpy_formed h
  | .cpys _ => execCpys_formed h
  | .cpym _ => execCpym_formed h
  | .copyProgress _ => execCopyProgress_formed h
  | .qclaim _ => execQclaim_formed h
  | .qpost _ => execQpost_formed h
  | .accld _ => run_formed accMoveEff_formed h
  | .accst _ => run_formed accMoveEff_formed h
  | .aread _ => execAread_formed h
  | .awrite _ => execAwrite_formed h
  | .mzero _ => execMzero_formed h
  | .claimGrant _ => execClaimGrant_formed h
  | .mfmt _ => execMfmt_formed h
  | .mrdy _ => execMrdy_formed h
  | .mbank _ => execMbank_formed h
  | .mloop _ => execMloop_formed h
  | .mloopStep _ => execMloopStep_formed h
  | .mdrn _ => execMdrn_formed h
  | .mdrnn _ => execMdrnn_formed h
  | .mstat _ => run_formed (fun _ _ hu => by simpa using hu) h
  | .gbind _ => execGbind_formed h
  | .gbindUnbind _ => execGbindUnbind_formed h
  | .gld _ => execGld_formed h
  | .gsc _ => execGsc_formed h
  | .ghash _ => execGhash_formed h
  | .latticeGroupLevel _ => execLatticeGroupLevel_formed h
  | .ctb _ => run_formed ctbEff_formed h
  | .ctbn _ => run_formed ctbEff_formed h
  | .ropen _ => execRopen_formed h
  | .rclose _ => execRclose_formed h
  | .rstat _ => run_formed (fun _ _ hu => by simpa using hu) h
  | .coll _ => execColl_formed h
  | .collx _ => execCollx_formed h
  | .csave _ => execCsave_formed h
  | .crest _ => execCrest_formed h
  | .tlbiVa _ => run_formed tlbiEff_formed h
  | .tlbiCtx _ => run_formed tlbiEff_formed h
  | .tlbiAll _ => run_formed tlbiEff_formed h
  | .invalidationComplete _ => execInvalidationComplete_formed h
  | .pmsetBudget _ => execPmsetBudget_formed h
  | .pmsetRead _ => execPmsetRead_formed h
  | .esig _ => execEsig_formed h
  | .allZeroWord => execAllZeroWord_formed h
  | .reservedOp _ => execReservedOp_formed h
  | .operationRetire _ _ => execOperationRetire_formed h
  | .pageWalk _ => execPageWalk_formed h
  | .homeSliceAccess _ => execHomeSliceAccess_formed h
  | .l2SectorFill _ => execL2SectorFill_formed h
  | .kettleAccess _ _ => execKettleAccess_formed h
  | .watchSignal _ => h
  | .scratchpadArrayAccess _ => execScratchpadArrayAccess_formed h
  | .peerRequestArrival _ => execPeerRequestArrival_formed h
  | .promotionRequest _ => execPromotionRequest_formed h
  | .promotionReply _ => execPromotionReply_formed h
  | .scFenceMessage _ _ => execScFenceMessage_formed h
  | .cxlMemAccess _ _ _ _ => execCxlMemAccess_formed h
  | .backInvalidateResponse _ => execBackInvalidateResponse_formed h
  | .hostSnoop _ _ => execHostSnoop_formed h
  | .hostOwnershipGranted _ => execHostOwnershipGranted_formed h
  | .nonhomeArrival _ _ => execNonhomeArrival_formed h
  | .holdTimeExpiry _ _ => execHoldTimeExpiry_formed h
  | .homePartialArrival _ _ => execHomePartialArrival_formed h
  | .closeArrival _ _ _ _ => execCloseArrival_formed h
  | .flitReceive _ _ _ _ _ => execFlitReceive_formed h
  | .laneRetrain _ => execLaneRetrain_formed h
  | .portDown _ => execPortDown_formed h
  | .collStartMessage _ _ _ _ _ => execCollStartMessage_formed h
  | .nimbusChunk _ _ _ => execNimbusChunk_formed h
  | .collAbort _ _ _ _ => execCollAbort_formed h
  | .voteArrival _ _ _ _ => execVoteArrival_formed h
  | .joinArrival _ _ => execJoinArrival_formed h
  | .leaveArrival _ _ => execLeaveArrival_formed h
  | .outcomeArrival _ => execOutcomeArrival_formed h
  | .setHomeUnreachable _ => execSetHomeUnreachable_formed h
  | .slotTake _ => execSlotTake_formed h
  | .slotReread _ => execSlotReread_formed h
  | .queueAccessRetry _ => execQueueAccessRetry_formed h
  | .nopPacket _ _ => execNopPacket_formed h
  | .launchPacket _ _ => execLaunchPacket_formed h
  | .launchAdmit _ => execLaunchAdmit_formed h
  | .startBarrierArrival _ _ _ => execStartBarrierArrival_formed h
  | .barrierTimeout _ => execBarrierTimeout_formed h
  | .copyPacket _ _ => execCopyPacket_formed h
  | .graphPacket _ _ => execGraphPacket_formed h
  | .waitPacket _ _ => execWaitPacket_formed h
  | .waitPacketReread _ _ => execWaitPacketReread_formed h
  | .signalPacket _ _ => execSignalPacket_formed h
  | .collPacket _ _ => execCollPacket_formed h
  | .packetComplete _ _ => execPacketComplete_formed h
  | .teamAdmission _ _ => execTeamAdmission_formed h
  | .coresidentAdmission _ => execCoresidentAdmission_formed h
  | .admissionWaitExpiry _ => execAdmissionWaitExpiry_formed h
  | .teamRelease _ => execTeamRelease_formed h
  | .launchRetire _ => execLaunchRetire_formed h
  | .retireReport _ _ => execRetireReport_formed h
  | .graphNodeStart _ _ => execGraphNodeStart_formed h
  | .trapTake _ _ _ _ => execTrapTake_formed h
  | .saveMicrocode _ => execSaveMicrocode_formed h
  | .restoreBarrier _ _ _ => execRestoreBarrier_formed h
  | .budgetLower _ _ => execBudgetLower_formed h
  | .budgetRaise _ _ => execBudgetRaise_formed h
  | .thermalTrip => execThermalTrip_formed h
  | .powerStageFault => execPowerStageFault_formed h
  | .powerOnReset => execPowerOnReset_formed
  | .hotReset => execHotReset_formed h
  | .flr => execFlr_formed h
  | .watchdog => execWatchdog_formed h
  | .mmioWrite _ _ _ => execMmioWrite_formed h
  | .l2tenmaskWrite _ _ _ => execL2tenmaskWrite_formed h
  | .pairlimWrite _ _ => execPairlimWrite_formed h
  | .cpairctlBypassWrite _ _ => execCpairctlBypassWrite_formed h
  | .portBypassWrite _ _ => execPortBypassWrite_formed h
  | .portEnableWrite _ _ => execPortEnableWrite_formed h
  | .cpwrctlBudgetWrite _ _ => execCpwrctlBudgetWrite_formed h
  | .resetcauseClear _ => h
  | .errpendClear => h
  | .ctxCreate => execCtxCreate_formed h
  | .ctxDestroy => execCtxDestroy_formed h
  | .queueReg => execQueueReg_formed h
  | .queueUnreg => execQueueUnreg_formed h
  | .queueUnregComplete _ => execQueueUnregComplete_formed h
  | .keyLoad => execKeyLoad_formed h
  | .keyRetire => execKeyRetire_formed h
  | .hdmBind => execHdmBind_formed h
  | .preempt => execPreempt_formed h
  | .restore => execRestore_formed h
  | .cancel => execCancel_formed h
  | .resume => execResume_formed h
  | .routeSet => execRouteSet_formed h
  | .commSet => execCommSet_formed h
  | .bartmoSet => execBartmoSet_formed h
  | .ringPlace => execRingPlace_formed h
  | .dumpRead => execDumpRead_formed h
  | .fwUpdate => execFwUpdate_formed h
  | .manifestSelect => execManifestSelect_formed h
  | .jobCommandForward _ _ => execJobCommandForward_formed h
  | .getVersion => h
  | .getCapabilities => h
  | .negotiateAlgorithms => h
  | .getDigests => h
  | .getCertificate _ _ => execGetCertificate_formed h
  | .challenge _ => h
  | .getMeasurements _ _ => execGetMeasurements_formed h
  | .spdmUnsupportedRequest _ => h
  | .i3cAccess _ _ => execI3cAccess_formed h
  | .managementReset => execManagementReset_formed h
  | .hostTlbInvalidation _ _ => h
  | .hostLinkTraining _ _ => execHostLinkTraining_formed h
  | .hostLinkDown => h
  | .fedeuxPortUp _ _ _ => execFedeuxPortUp_formed h
  | .jobCommandReport _ _ => execJobCommandReport_formed h

end Sys2Proof.Machine

/-! Each step keeps memory in its form. -/

namespace Sys2Proof.Machine

theorem State.putDump_formed {s : State} {d : Dump} (h : formed s.m.mem) : formed (s.putDump d).m.mem := by
  unfold State.putDump
  exact State.sysStore_formed h

theorem State.chooseArm_mem (s : State) : s.chooseArm.m.mem = s.m.mem := by
  unfold State.chooseArm
  split <;> rfl

theorem State.upsetEntry_formed {s : State} {slice n : Nat} (h : formed s.m.mem) : formed (s.upsetEntry slice n).m.mem := by
  unfold State.upsetEntry
  split
  · exact h
  · split
    · exact h
    · exact State.abortObj_formed h

theorem State.upset_formed {s : State} {u : Upset} (h : formed s.m.mem) : formed (s.upset u).m.mem := by
  unfold State.upset
  split
  · exact formed_ite (by simpa using h) h
  · exact formed_ite (by simpa using h) h
  · simpa using h
  · simp only [State.withM_m]
    split <;> exact h
  · simpa using h
  · simpa using h
  · exact State.upsetEntry_formed h
  · exact formed_of_eq (State.noteFatal_mem ..) (State.record_formed h)

theorem State.fatalStep_formed {s t : State} (ht : s.fatalStep = some t) (h : formed s.m.mem) : formed t.m.mem := by
  unfold State.fatalStep at ht
  split at ht
  · cases ht
  · split at ht
    · cases ht
      exact foldl_formed (fun _ _ => State.stopCtx_formed) h
    · split at ht
      · split at ht <;> cases ht
        exact State.putDump_formed h
      · split at ht <;> cases ht
        · exact State.putDump_formed (State.sysStore_formed h)
        · exact State.resetPackage_formed h

theorem State.raiseSpoilt_formed {s : State} (h : formed s.m.mem) : formed s.raiseSpoilt.m.mem := by
  have hfail := @State.failNoWave_formed
  unfold State.raiseSpoilt
  refine foldl_formed (fun u x hu => ?_) h
  dsimp only
  split <;> exact hfail hu

theorem State.aside_formed {s t : State} (ht : s.aside = some t) (h : formed s.m.mem) : formed t.m.mem := by
  unfold State.aside at ht
  split at ht
  · cases ht
    exact formed_of_eq (State.wake_mem _) (State.upset_formed h)
  · split at ht
    · cases ht
      exact formed_of_eq (State.wake_mem _) (State.fatalStep_formed ‹_› h)
    · split at ht
      · cases ht
        exact formed_of_eq (State.wake_mem _) (State.raiseSpoilt_formed h)
      · split at ht
        · cases ht
          simpa using h
        · split at ht
          · cases ht
            exact formed_of_eq (State.wake_mem _) (State.reloadCtx_formed h)
          · split at ht <;> cases ht
            exact h

theorem State.event_formed {s : State} {i : Instr} (h : formed s.m.mem) : Ans.formed (s.event i) := by
  unfold State.event
  refine Ans.formed_ite h ?_
  obtain ⟨t, ht⟩ := exec_next i s
  have hexec := exec_formed (i := i) h
  rw [ht] at hexec ⊢
  exact formed_of_eq (State.wake_mem t) hexec

theorem State.fetch_formed {s : State} (h : formed s.m.mem) : Sum.elim (fun t => formed t.m.mem) (fun x => formed x.2.m.mem) s.fetch := by
  have hread := State.iread_formed (va := s.pc) h
  unfold State.fetch
  generalize s.iread s.pc = r at hread ⊢
  cases r with
  | fault => exact State.trapAt_formed h
  | bad => exact State.trapAt_formed hread
  | wait => exact formed_of_eq (State.waits_mem _) hread
  | ok bs u =>
    dsimp only
    split
    · exact State.trapAt_formed hread
    · exact hread

theorem State.issueNext_formed {s : State} (h : formed s.m.mem) : Ans.formed s.issueNext := by
  have hfetch := State.fetch_formed h
  unfold State.issueNext
  generalize s.fetch = r at hfetch ⊢
  cases r with
  | inl t => exact formed_of_eq (State.afterIssue_mem t) hfetch
  | inr x =>
    obtain ⟨i, t⟩ := x
    obtain ⟨u, hu⟩ := exec_next i t
    have hexec := exec_formed (i := i) hfetch
    dsimp only
    rw [hu] at hexec ⊢
    exact formed_of_eq (State.afterIssue_mem u) hexec

theorem State.advance_formed {s : State} (h : formed s.m.mem) : Ans.formed s.advance := by
  unfold State.advance
  split
  · exact State.event_formed h
  · split
    · exact State.aside_formed ‹_› h
    · split
      · exact State.event_formed h
      · split
        · exact State.issueNext_formed (formed_of_eq (State.chooseArm_mem _) (formed_of_eq (State.select_mem ..) h))
        · exact formed_of_eq (State.tick_mem s) h

/-- Settles O56: every function of the model that writes memory keeps its form, by way of the writes of `MemSys.write` and the discarding of
dirty sectors, and no other function changes memory. -/
theorem stepKeepsMemoryForm : Obligations.StepKeepsMemoryForm := by
  intro s t h ht
  have hnext := State.advance_formed h
  rwa [show s.advance = .next t from ht] at hnext

end Sys2Proof.Machine
